-- ==== Sys2Proof/Word.lean ====
section
/-! DEFINITION. The word types of the device and their plainest arithmetic (R7: bit 0 is the least
significant bit of any field; multi-byte values are little-endian). -/

namespace Sys2Proof

/-- A byte of memory. -/
abbrev Byte := BitVec 8

/-- A register of a control core, or a 64-bit device register (R301, R491). -/
abbrev Word := BitVec 64

/-- A status code of R378: a 16-bit value. -/
abbrev Status := BitVec 16

end Sys2Proof
end

