-- ==== Sys2Proof/Syntax.lean ====
section
/-! DEFINITION. The commands the block takes: one constructor of `Instr` per row of the table of operations
and events, in the table's order, with the row's operands. What a command does is in `Machine`. -/

namespace Sys2Proof

/-- A control core: its logical core and which of the two it is, `false` for control core 0 (R303). -/
structure Hart where
  core : Nat
  cc   : Bool
  deriving DecidableEq, Repr

/-- The unit of a core that holds a command queue (R312, R314). -/
inductive EngineUnit where
  | dma | spin | dense | vector
  deriving DecidableEq, Repr

/-- The condition of WAIT_VALUE and of a WAIT descriptor (R310, R349). -/
inductive WaitTest where
  | ge | eq | masked
  deriving DecidableEq, Repr

/-- A RUN is named by its context, its ring and the number of its descriptor (R340, R366). -/
structure RunKey where
  ctx  : Nat
  ring : Nat
  slot : Nat
  deriving DecidableEq, Repr

/-- A parcel of a cut: its core and its bounds x0 ≤ x < x1, y0 ≤ y < y1 (R123). -/
structure Parcel where
  core : Nat
  x0   : Nat
  x1   : Nat
  y0   : Nat
  y1   : Nat
  deriving DecidableEq, Repr

/-- Which bits an easement message carries: those held at the start of a command, the new bits of a step,
or the decisions of a SYNC decide pass (R138, R146, R238). -/
inductive EasementKind where
  | start | bits | decisions
  deriving DecidableEq, Repr

/-- What the identification of a link brings from the partner (R225): `byAlias` says whether its chain ends with an alias
certificate, not at the I/O die's (R475). -/
structure IdentifyInfo where
  chip     : Nat
  link     : Nat
  grade    : Nat
  arithRev : Nat
  cert     : Nat
  nonce    : List Byte
  chainOk  : Bool
  sigOk    : Bool
  byAlias  : Bool := true
  deriving DecidableEq, Repr

/-- One link of a link-state record: partner identifier, width code, UP (R227, R228). -/
structure LinkRec where
  partner : Nat
  width   : Nat
  up      : Bool
  deriving DecidableEq, Repr

/-- A link-state record as it is flooded (R227). -/
structure LinkState where
  chip     : Nat
  seq      : Nat
  grade    : Nat
  arithRev : Nat
  cert     : Nat
  links    : List LinkRec
  deriving DecidableEq, Repr

/-- What a JOIN tells the lead of the member's group entry (R230, R232). -/
structure JoinInfo where
  chip     : Nat
  groupId  : Nat
  kind     : Nat
  relax    : Nat
  lead     : Nat
  lsEvery  : Nat
  arithRev : Nat
  members  : List Nat
  deriving DecidableEq, Repr

/-- A control message of a group (R232, R233, R236, R237, R247). Run-start data, a cut, a readiness, a go and a refusal
carry the number of the spin command of the group that they are for (log entry 26); `ask` is a member's wish for a hold at
the next boundary (R411). -/
inductive GroupMsg where
  | active
  | failed (status : Status)
  | plan (area : List Byte)
  | cut (command : Nat) (parcels : List Parcel)
  | runStart (betas : List (BitVec 32)) (tallies : List (List Byte)) (runBlock : List Byte) (digest : Nat)
      (command : Nat := 0)
  | ready (command chip : Nat)
  | go (command : Nat)
  | refusal (command : Nat) (status : Status) (ends : Bool)
  | hold (step : Nat)
  | ask
  /-- the wall time has passed on the lowest chip (R178, R179): where a member stands in the command, the boundary that ends
  the latest traverse of which one of its cores has issued a strip -/
  | wall (command chip stand : Nat)
  /-- on an overflow: the first step that a member issues no strip of (R157, R239) -/
  | stopStep (chip step : Nat)
  deriving DecidableEq, Repr

/-- The header of a fabric easement message (R238). -/
structure FabEasement where
  groupId  : Nat
  dir      : Nat
  replica  : Nat
  decision : Bool
  step     : Nat
  count    : Nat
  payload  : List Byte
  deriving DecidableEq, Repr

/-- The modules of a DDR5 channel: their number, capacity in GB and ranks, and whether they keep to the table of
supported populations, a mixed pair or a module of another kind does not (R417). -/
structure Dimm where
  chan  : Nat
  count : Nat
  gb    : Nat
  ranks : Nat
  ok    : Bool
  deriving DecidableEq, Repr

/-- What bring-up finds: the physical units that fail BIST, the dies whose PLL does not lock or whose signature
fails, the channels that fail training, the modules that are fitted, the fuse check code and which reference clocks run:
REFCLK_SYS, REFCLK_AON, LINK_REFCLK0 and 1, FP_REFCLK (R417, R441, R473, R517). -/
structure BringUp where
  badCores : List Nat
  badBanks : List Nat
  badChans : List Nat
  badDdr   : List Nat
  badLinks : List Nat
  badPorts : List Nat
  noPll    : List Nat
  noSign   : List Nat
  noTrain  : List Nat
  noTrainDdr : List Nat
  dimms    : List Dimm
  fuseOk   : Bool
  sysClock : Bool
  aonClock : Bool := true
  linkClock0 : Bool := true
  linkClock1 : Bool := true
  fpClock  : Bool := true
  deriving DecidableEq, Repr

/-- What a scrub or an access finds in a 64-byte line (R412, R413). -/
inductive ScrubFind where
  | clean | corrected | uncorrectable
  deriving DecidableEq, Repr

/-- A level of memory with addresses (R394, R414). -/
inductive Level where
  | near | far | host | coreStore
  deriving DecidableEq, Repr

/-- An LLDPDU as received: source address, chassis and port identity, and the Ouvson TLV (R422, R423). -/
structure Lldpdu where
  mac        : Nat
  chassis    : Nat
  portId     : Nat
  hasTlv     : Bool
  role       : Nat
  intervalMs : Nat
  fcsOk      : Bool := true
  deriving DecidableEq, Repr

/-- A received frame: its addresses, its EtherType, which is 0x88B5 for a service frame, the bytes after it, and whether an
802.1Q tag stands before it (R418, R419, R424). -/
structure RxFrame where
  src    : Nat
  dst    : Nat
  fcsOk  : Bool
  bytes  : List Byte
  etherType : Nat := 0x88B5
  tagged : Bool := false
  deriving DecidableEq, Repr

/-- A transport of SPDM (R476, R478). -/
inductive SpdmPort where
  | doe | mctp
  deriving DecidableEq, Repr

/-- A PLDM request of Type 0 (base) or Type 2 (platform monitoring and control) on the sideband (R481); no row of the table
names one (log entry 111). -/
inductive PldmAsk where
  | setTid (tid : Nat)
  | getTid
  | types
  | version (type : Nat)
  | commands (type : Nat)
  | sensor (id : Nat)
  | stateSensor (id : Nat)
  deriving DecidableEq, Repr

/-- The commands of the block (spec/opcode_table.json). An operand with a default says what comes from outside and need not
come: corrected errors that a strip's reads met, parity errors of banks, whether a frame's FCS is good, the lanes that a
retrain found, a flit's place in the order of sending, what an SPDM request holds that the device does not act on, a request
of the sideband or of SPDM that no row names (log entry 111), a placement the sender proposes, the member that a STOP names
as lost. -/
inductive Instr where
  | add (h : Hart) (rd rs1 rs2 : BitVec 5)
  | sub (h : Hart) (rd rs1 rs2 : BitVec 5)
  | and (h : Hart) (rd rs1 rs2 : BitVec 5)
  | or (h : Hart) (rd rs1 rs2 : BitVec 5)
  | xor (h : Hart) (rd rs1 rs2 : BitVec 5)
  | shl (h : Hart) (rd rs1 rs2 : BitVec 5)
  | shr (h : Hart) (rd rs1 rs2 : BitVec 5)
  | sar (h : Hart) (rd rs1 rs2 : BitVec 5)
  | slt (h : Hart) (rd rs1 rs2 : BitVec 5)
  | sltu (h : Hart) (rd rs1 rs2 : BitVec 5)
  | mul (h : Hart) (rd rs1 rs2 : BitVec 5)
  | mulh (h : Hart) (rd rs1 rs2 : BitVec 5)
  | mulhu (h : Hart) (rd rs1 rs2 : BitVec 5)
  | divu (h : Hart) (rd rs1 rs2 : BitVec 5)
  | remu (h : Hart) (rd rs1 rs2 : BitVec 5)
  | minu (h : Hart) (rd rs1 rs2 : BitVec 5)
  | maxu (h : Hart) (rd rs1 rs2 : BitVec 5)
  | popc (h : Hart) (rd rs1 : BitVec 5)
  | clz (h : Hart) (rd rs1 : BitVec 5)
  | addi (h : Hart) (rd rs1 : BitVec 5) (imm : BitVec 16)
  | andi (h : Hart) (rd rs1 : BitVec 5) (imm : BitVec 16)
  | ori (h : Hart) (rd rs1 : BitVec 5) (imm : BitVec 16)
  | xori (h : Hart) (rd rs1 : BitVec 5) (imm : BitVec 16)
  | shli (h : Hart) (rd rs1 : BitVec 5) (sh : BitVec 6)
  | shri (h : Hart) (rd rs1 : BitVec 5) (sh : BitVec 6)
  | sari (h : Hart) (rd rs1 : BitVec 5) (sh : BitVec 6)
  | slti (h : Hart) (rd rs1 : BitVec 5) (imm : BitVec 16)
  | sltiu (h : Hart) (rd rs1 : BitVec 5) (imm : BitVec 16)
  | ldk (h : Hart) (rd : BitVec 5) (imm : BitVec 21)
  | apk (h : Hart) (rd : BitVec 5) (imm : BitVec 16)
  | ldb (h : Hart) (rd rs1 : BitVec 5) (imm : BitVec 16)
  | ldh (h : Hart) (rd rs1 : BitVec 5) (imm : BitVec 16)
  | ldw (h : Hart) (rd rs1 : BitVec 5) (imm : BitVec 16)
  | ldws (h : Hart) (rd rs1 : BitVec 5) (imm : BitVec 16)
  | ldd (h : Hart) (rd rs1 : BitVec 5) (imm : BitVec 16)
  | stb (h : Hart) (rd rs1 : BitVec 5) (imm : BitVec 16)
  | sth (h : Hart) (rd rs1 : BitVec 5) (imm : BitVec 16)
  | stw (h : Hart) (rd rs1 : BitVec 5) (imm : BitVec 16)
  | std (h : Hart) (rd rs1 : BitVec 5) (imm : BitVec 16)
  | amoadd (h : Hart) (rd rs1 rs2 : BitVec 5)
  | beq (h : Hart) (rs1 rs2 : BitVec 5) (off : BitVec 16)
  | bne (h : Hart) (rs1 rs2 : BitVec 5) (off : BitVec 16)
  | blt (h : Hart) (rs1 rs2 : BitVec 5) (off : BitVec 16)
  | bge (h : Hart) (rs1 rs2 : BitVec 5) (off : BitVec 16)
  | bltu (h : Hart) (rs1 rs2 : BitVec 5) (off : BitVec 16)
  | bgeu (h : Hart) (rs1 rs2 : BitVec 5) (off : BitVec 16)
  | jal (h : Hart) (rd : BitVec 5) (off : BitVec 21)
  | jalr (h : Hart) (rd rs1 : BitVec 5) (imm : BitVec 16)
  | undefinedInstruction (h : Hart)
  | issue (h : Hart) (rd rs1 : BitVec 5)
  | dma (h : Hart) (rd rs1 : BitVec 5)
  | ewait (h : Hart) (rd rs1 : BitVec 5)
  | epoll (h : Hart) (rd rs1 : BitVec 5)
  | edrain (h : Hart) (rd : BitVec 5)
  | fence (h : Hart)
  | waitValue (h : Hart) (rd rs1 rs2 : BitVec 5) (test : WaitTest)
  | signal (h : Hart) (rd rs1 rs2 : BitVec 5) (add : Bool)
  | cbarrier (h : Hart)
  | rbarrier (h : Hart)
  | enqueue (h : Hart) (rd rs1 : BitVec 5) (imm : BitVec 16)
  | waitQueue (h : Hart) (rd rs1 rs2 : BitVec 5)
  | qpost (h : Hart) (rd rs1 rs2 : BitVec 5)
  | seed (h : Hart) (rd : BitVec 5)
  | readTime (h : Hart) (rd : BitVec 5) (arg : BitVec 8)
  | rdid (h : Hart) (rd : BitVec 5) (arg : BitVec 8)
  | benchmark (h : Hart) (rd rs1 : BitVec 5) (arg : BitVec 8)
  | yieldSlice (h : Hart)
  | trap (h : Hart) (rs1 : BitVec 5) (arg : BitVec 8)
  | endProgram (h : Hart) (rs1 : BitVec 5)
  | spinTraverse (core : Nat) (cut : List Parcel)
  | tableLoad (core : Nat)
  | spinSchedule (core : Nat) (cut : List Parcel)
  | exchTableLoad (core : Nat)
  | stripIssue (core replica step strip : Nat) (resolve : Bool) (corrected : Nat := 0)
  | easementMessage (dst src step replica : Nat) (kind : EasementKind)
  | traverseBoundary (run : RunKey) (wallReached : Bool)
  | denseMatmul (core : Nat) (parity : List (Nat × Bool))
  | denseAnneal (core : Nat) (parity : List (Nat × Nat × Bool) := [])
  | denseConvert (core : Nat)
  | combine (core : Nat)
  | convert (core : Nat)
  | rotate (core : Nat)
  | readout (core : Nat)
  | energy (core : Nat) (parity : List (Nat × Bool) := [])
  | exchange (core : Nat)
  | axpy (core : Nat)
  | dmaCommand (core : Nat)
  | commandComplete (core : Nat) (unit : EngineUnit)
  | waitValuePoll
  | tailDoorbell (ctx ring : Nat) (value : Word)
  | cqHeadDoorbell (ctx ring : Nat) (value : Word)
  | descriptorFetch (ctx ring : Nat)
  | nop (ctx ring : Nat)
  | run (ctx ring : Nat)
  | runDispatch (run : RunKey)
  | runComplete (run : RunKey)
  | wait (ctx ring : Nat)
  | signalDescriptor (ctx ring : Nat)
  | copy (ctx ring : Nat)
  | fenceDescriptor (ctx ring : Nat)
  | descriptorComplete (ctx ring slot : Nat)
  | priResponse (ctx page : Nat) (ok : Bool)
  | priTimeout (ctx page : Nat)
  | start (ctx ring : Nat)
  | stop (ctx ring : Nat)
  | retryCompletions (ctx ring : Nat)
  | ringHeadWrite (ctx ring : Nat) (head : BitVec 32)
  | runTimeout (run : RunKey)
  | drainWindowExpiry (run : RunKey) (stuck : List (Nat × EngineUnit))
  | timeSliceEnd (plot : Nat)
  | enable (ctx : Nat) (bit : Bool)
  | plotValid (ctx : Nat) (bit : Bool) (plot : Nat)
  | reset (ctx : Nat)
  | abortFault (ctx : Nat)
  | resume (ctx : Nat)
  | ctxInvalPages (ctx page count : Nat)
  | ctxInvalAll (ctx : Nat)
  | invalidationComplete (ctx : Nat)
  | atsInvalidation (ctx page : Nat) (state : Nat)
  | snapshotRequest (ctx : Nat)
  | patrolScrub (level : Level) (line : Nat) (find : ScrubFind)
  | postPackageRepair (channel row : Nat) (spareLeft : Bool)
  | configure (plot : Nat)
  | release (plot : Nat)
  | reconfigure (plot : Nat)
  | bar4Access (write : Bool) (off : Nat) (len : Nat) (data : List Byte)
  | registerWrite (off size : Nat) (value : Word)
  | linkSignalDetect (link : Nat)
  | linkDownRetry (link : Nat) (signal : Bool)
  | linkTrainingComplete (link : Nat) (lanes : BitVec 8)
  | linkTrainingTimeout (link : Nat)
  | identifyExchange (link : Nat) (info : IdentifyInfo)
  | lossOfSignal (link : Nat)
  | laneLoss (link lane : Nat)
  | retrain (link : Nat)
  | retrainComplete (link : Nat) (samePartner : Bool) (lanes : BitVec 8 := 0xFF)
  | flitReceive (link : Nat) (flit : List Byte) (corrected : Nat) (number : Nat := 0)
  | flitNak (link : Nat) (failed : Nat)
  | linkStateRecord (rec : LinkState)
  | linkStateRefresh
  | topologyRecordExpiry (chip : Nat)
  | partnerLost (link : Nat)
  | memberLost (group chip : Nat)
  | arm (group : Nat)
  | join (group : Nat) (info : JoinInfo)
  | plan (group : Nat) (proposed : List Nat := [])
  | disband (group : Nat)
  | fabricEasement (group : Nat) (msg : FabEasement)
  | tallyPartial (group step replica cell : Nat) (image : List Byte)
  | fabricStop (group : Nat) (status : Status) (lost : Option Nat := none)
  | lockstepDigest (group step : Nat) (digest : Nat) (parcels : List Nat)
  | entropySample (source : Nat) (bit : Bool)
  | estimateWindow (source : Nat)
  | conditionerBlock
  | rngSettlingEnd
  | drbgReseedDue
  | reseed
  | rawTapEnter
  | rawTapExit
  | tapSrc (source : Nat)
  | rngData
  | rngRaw
  | rngRequestTimeout
  | coldReset (found : BringUp)
  | bootDone
  | perstRelease
  | warmReset (found : BringUp)
  | flr
  | coreReset (core : Nat)
  | engineReset (core : Nat) (units : BitVec 4)
  | quiesceEnd (core : Nat)
  | capW (watts : Nat)
  | deepIdle (bit : Bool)
  | d3hot
  | d0
  | coreRetain (core : Nat)
  | coreOff (core : Nat)
  | chipIdle
  | chipWake
  | creditPeriod
  | thermalSensorRead (dies : List Nat)
  | throttleStep (die : Nat)
  | railFailure
  | surveyRound
  | surveyTestComplete (core : Nat) (pass : Bool)
  | lldpTransmit (port : Nat)
  | lldpduReceive (port : Nat) (pdu : Lldpdu)
  | lldpPartnerLoss (port : Nat)
  | portLinkDown (port : Nat)
  | syncReceive (port : Nat) (offsetNs : Int) (timeNs : Nat) (fcsOk : Bool := true)
  | syncTimeout (port : Nat)
  | holdoverExpiry (port : Nat)
  | measurement (port : Nat) (frame : RxFrame)
  | serviceInstant (svc : Nat)
  | decisionRead (svc : Nat)
  | decisionTransmit (svc : Nat)
  | svcStart (svc : Nat) (timeNs : Nat)
  | svcStop (svc : Nat)
  | svcResume (svc : Nat)
  | getVersion (port : SpdmPort) (code : Nat := 0x84)
  | getCapabilities (port : SpdmPort) (rest : List Byte := [])
  | negotiateAlgorithms (port : SpdmPort) (rest : List Byte := [])
  | getDigests (port : SpdmPort)
  | getCertificate (port : SpdmPort) (slot offset length : Nat)
  | challenge (port : SpdmPort) (slot : Nat) (nonce : List Byte)
  | getMeasurements (port : SpdmPort) (index : Nat) (signed : Bool) (nonce : List Byte)
  | setEndpointId (eid : Nat) (type : Nat := 0)
  | sensorRefresh (temps : List Nat) (stackTemps : List Nat) (powerW : Nat) (ask : Option PldmAsk := none)
  | getEventLog (first count : Nat)
  | getRetirementTable (first count : Nat)
  | setRawTap (rawTap : Bool) (source : Nat)
  | readRawSamples (reads : Nat)
  | getMap
  | setPowerCap (watts : Nat)
  | getBootStatus
  | requestUpdate (component : Nat)
  | firmwareTransfer (offset : Nat) (data : List Byte)
  | verifyComplete
  | activateFirmware
  | recOpen (component : Nat)
  | recWrite (length : Nat)
  | recVerify
  | recAbort
  | portLinkUp (port : Nat)
  | fabChipId (valid : Bool) (chip : Nat)
  | aonRstNAssert
  | d3cold
  | contextResetEnd (ctx : Nat)
  | groupMessage (group : Nat) (msg : GroupMsg)
  | tallyBroadcast (group step : Nat) (tallies : List (List Byte))
  | dynamicAddress (address : Nat)
  | updateAbort
  deriving DecidableEq, Repr

end Sys2Proof
end

