-- ==== Sys2Proof/Decode.lean ====
section
/-! DEFINITION. The command that a word of the table's bits spells. No row of the table gives bits: the commands reach the
block as register writes, doorbells, messages and events, not as words. -/

namespace Sys2Proof

/-- The command of a word: the table gives no row any bits, so that no word spells one. -/
def decodeTableWord (_nbits _w : Nat) : Option Instr := none

end Sys2Proof
end

