-- ==== Sys2Proof/Config.lean ====
section
/-! DEFINITION. What the spec leaves open: free values, constants without a body, so that no proof can see what
they are. A draw is named by a number: the counter `fresh` of the state, which a step that draws advances (log
entry 2), or by the operands the value depends on. -/

namespace Sys2Proof.Config

/-- The device time in nanoseconds at a draw: the spec gives no count of it to a command (R310, R366; log entry 2). -/
opaque timeNs : Nat → BitVec 64

/-- An open 64-bit value by draw (log entry 2). -/
opaque word : Nat → BitVec 64

/-- A byte of an open string of bytes, by draw and place: a signature, a certificate, the contents of overlapping
copies (log entry 2). -/
opaque byte : Nat → Nat → BitVec 8

/-- The UE4M3 scale of a weight group whose greatest magnitude is infinite, by column and group: no UE4M3 value is
at or above an infinity (R95; log entry 20). -/
opaque groupScale : Nat → Nat → BitVec 7

/-- The code written for a weight whose rounded quotient under GIVEN lies outside the code format, by that quotient
(R95; log entry 21). It is written within the format's range (R74). -/
opaque wideCode : Int → BitVec 8

/-- The table index of an argument that is a NaN, by its encoding: β = 0 with a field that rounds to an infinity
(R132, R168; log entry 70). -/
opaque nanIndex : Nat → BitVec 13

/-- A part of a certificate that the spec does not give, by its number and the subject public key: 0 serial number,
1 notBefore, 2 notAfter of an alias certificate, 3 object identifier of its extension, 4 subject name (R472, R474; log
entry 80). -/
opaque certPart : Nat → List (BitVec 8) → List (BitVec 8)

/-- A part of a firmware image, by its number and the image's bytes; the spec gives no layout of the image: 0 length,
1 the digest that it carries, 2 its signer's public key, 3 the signature of the digest, 4 the firmware CA's public key,
5 that CA's signature of the signer's key, 6 security version, 7 ARITH_REV, 8 BUILD (R436; log entry 59). -/
opaque imagePart : Nat → List (Nat × BitVec 8) → Nat

/-- How far a link's partner has received at a draw: the number of the first flit that it has not accepted. The spec names
no acknowledgement of a flit, and what the device knows of it is its own (R219; log entry 26). -/
opaque arrived : Nat → Nat

/-- Payload bytes of a group's control message; the spec gives no layout of it (R385; log entry 27). -/
opaque groupBytes : GroupMsg → Nat

/-- Payload bytes of a group's other control messages, by kind: 0 JOIN, 1 stop, 2 digest (R385; log entry 27). -/
opaque controlBytes : Nat → Nat

/-- Whether a bad line of the device pool lies in the share that the pool gives an owner there: the spec gives a share no
address (R402, R413; log entry 25). The owner is a save area (context, core, 0) or a placement (context, core, 1). -/
opaque poolHolds : Nat × Nat × Nat → Nat → Bool

end Sys2Proof.Config
end

