-- ==== Sys2Proof/Machine/State.lean ====
section
/-! DEFINITION. The state of the block as plain data: every register, queue, table, counter and memory the
spec gives the Etmihan, its reset values, and the reasons for which a command can stop. A docstring of a field
names what it is; its width; the rule and file of spec/; its reset value. Model's own fields say so. -/

namespace Sys2Proof.Machine

/-- A sparse table by number; an entry that is not listed holds the table's default. -/
abbrev Tab (α : Type) := List (Nat × α)

/-- Bytes by address, addresses rising, no listed byte zero: an address that is not listed reads as zero. -/
abbrev Memory := List Host.Cell

/-- Nothing ends in a fault: every row of the table has an effect on every operand (NOTES.md, Stops). No command
raises one, so the type has no constructor (safe: no run can end here). -/
inductive Fault where
  deriving DecidableEq, Repr

/-- Why a command has no meaning. -/
inductive Refusal where
  /-- Raised by an arm of `exec` whose command has no meaning yet, with its mnemonic; safe (the model stops where
  the device goes on). No arm raises it. -/
  | notModelled (mnemonic : String)
  deriving DecidableEq, Repr

/-- What a control core is doing (R336): IDLE, RUNNING, WAITING, ENDED. -/
inductive CcMode where
  | idle | running | waiting | ended
  deriving DecidableEq, Repr

/-- What a waiting control core waits for (R314, R318 to R320, R325). -/
inductive CcWait where
  | none | drain | release | seed | cbarrier | rbarrier | benchmark
  | stall (unit : EngineUnit)
  | ticket (t : Word)
  | value (va threshold mask : Word) (test : WaitTest)
  | queue (va : Word)
  deriving DecidableEq, Repr

/-- A control core (11). -/
structure CCore where
  /-- started at dispatch; 1; R304, R307 (11); reset 0 -/
  started : Bool := false
  /-- DRABEL_STATE CCn_MODE; 2; R336 (11); reset IDLE -/
  mode : CcMode := .idle
  /-- what it waits for; enumeration; R314 to R325 (11); reset none -/
  wait : CcWait := .none
  /-- general registers g1 to g31, sparse, g0 hard-wired to zero; 64 each; R301, R307 (11); reset 0 (DESIGN CHOICE 0, log
  entry 5: the spec gives a value at dispatch only) -/
  regs : Tab Word := []
  /-- program counter, a byte offset into the code; 64 kept, 16 shown in PC0/PC1; R301, R336 (11); reset 0 -/
  pc : Word := 0
  /-- status given to END; 16; R332 (11); reset DONE -/
  endStatus : Status := 0
  /-- has executed YIELD_SLICE in this slice; 1; R334 (11); reset 0 -/
  yielded : Bool := false
  /-- CBARRIERs reached in the RUN; count; R320 (11); reset 0 -/
  cbars : Nat := 0
  deriving DecidableEq, Repr

/-- A command in a unit's queue (R313). -/
structure Cmd where
  /-- ordinal within the RUN, from 1; 60; R314 (11) -/
  ordinal : Nat
  /-- the 64 bytes copied at issue; R313 (11) -/
  bytes : List Byte
  deriving DecidableEq, Repr

/-- A unit's command queue for its core (R313, R314). -/
structure UnitQ where
  /-- commands issued in the RUN; 60; R314 (11); reset 0 -/
  issued : Nat := 0
  /-- queue of up to 16 commands, the head first; R313 (11); reset empty -/
  queue : List Cmd := []
  /-- the head has been taken up by the unit; 1; R313, R131 (11, 05); reset 0 -/
  running : Bool := false
  /-- status of the head once its work is done and until it completes; 16; R313 (11); reset none -/
  result : Option Status := none
  /-- bytes the head has moved before a translation fault; count; R404 (13); reset 0 -/
  moved : Nat := 0
  /-- credits paid towards what the command at work costs, in `creditUnit`s; R464, R465 (15); reset 0 -/
  paid : Nat := 0
  /-- completed commands, newest first, ordinal and status, at most 64; R314 (11); reset empty -/
  done : List (Nat × Status) := []
  deriving DecidableEq, Repr

/-- What one RUN holds in one core: the part that a change of slice saves and restores (R333, R391). -/
structure Work where
  /-- the RUN that holds the core; R355, R361 (12); reset none -/
  run : Option RunKey := none
  /-- core store, 8 MiB, byte addressed; R20, R22 (01); reset 0 (zeroed by R454; DESIGN CHOICE 0 at power-on, log entry 3) -/
  store : Memory := []
  /-- control core 0; R303 (11) -/
  cc0 : CCore := {}
  /-- control core 1; R303 (11) -/
  cc1 : CCore := {}
  /-- DMA queue; R313 (11) -/
  dmaU : UnitQ := {}
  /-- spin unit queue; R313 (11) -/
  spinU : UnitQ := {}
  /-- dense unit queue; R313 (11) -/
  denseU : UnitQ := {}
  /-- vector unit queue; R313 (11) -/
  vecU : UnitQ := {}
  /-- commands issued since the last EDRAIN, oldest first, with their status once completed; R310 (11); reset empty -/
  since : List (EngineUnit × Nat × Option Status) := []
  /-- RBARRIERs reached; count; R320 (11); reset 0 -/
  rbars : Nat := 0
  /-- WAIT_QUEUEs completed, by queue address; count; R325 (11); reset 0 -/
  wqs : Tab Nat := []
  /-- SEEDs completed; count; R328 (11); reset 0 -/
  seeds : Nat := 0
  /-- BENCHMARKs completed; count; R329 (11); reset 0 -/
  benches : Nat := 0
  /-- an engine or DMA command has been issued; 1; R328 (11); reset 0 -/
  issuedAny : Bool := false
  /-- SPIN_STATE.MODE of the RUN's spin command; 2; R159 (05); reset 0 -/
  spinMode : Nat := 0
  /-- strips the core has issued in the spin command; count; R524 (05); reset 0 -/
  strips : Nat := 0
  deriving DecidableEq, Repr

/-- A core, under its logical number (R19, R20, R503). -/
structure Core where
  /-- CORE_ID.PHYS; 8; R503 (17); reset from the runtime map -/
  phys : Nat := 0
  /-- CORE_POWER.STATE: 0 ACTIVE, 1 CORE_RETAIN, 2 CORE_OFF; 3; R460, R503 (15, 17); reset 0 -/
  power : Nat := 0
  /-- CORE_POWER.GEN, tag generation; 8; R458 (15); reset 0 -/
  gen : BitVec 8 := 0
  /-- CORE_POWER.QUIESCE with what is being reset: 0 none, 1 the core, 2 units; R457 (15); reset 0 -/
  quiesce : Nat := 0
  /-- units named by the engine reset in progress: bit 0 DMA, 1 SPIN, 2 DENSE, 3 VECTOR; 4; R453 (15); reset 0 -/
  quiesceUnits : BitVec 4 := 0
  /-- CORE_ID.PENDING; 1; R450 (15); reset 0 -/
  pendingRetire : Bool := false
  /-- CORE_ID.IN_PLOT and PLOT; 1 + 6; R503 (17); reset none -/
  plot : Option Nat := none
  /-- instruction store, 64 KiB, shared by both control cores, as words; 32 each; R20, R301 (01, 11); reset empty (invalid) -/
  code : List (BitVec 32) := []
  /-- image the instruction store holds: context, address, CODE_CRC; R306 (11); reset none -/
  image : Option (Nat × Nat × Nat) := none
  /-- the RUN's part -/
  work : Work := {}
  /-- SPIN_STATE.BUSY: engines that have taken strips since the core last waited, came to a boundary or ended a command; 8;
  R159, R524 (05); reset 0 -/
  spinBusy : BitVec 8 := 0
  /-- SPIN_STATE.HEAD_PHASE; 6; R159 (05); reset 0 -/
  headPhase : Nat := 0
  /-- SPIN_STATE.LAST_STATUS; 16; R159 (05); reset DONE -/
  spinLast : Status := 0
  /-- SPIN_STEP.HEAD_STEP; 48; R160 (05); reset 0 -/
  headStep : Nat := 0
  /-- SITE_UPDATES; 64; R161 (05); reset 0 -/
  siteUpdates : Word := 0
  /-- FLIPS; 64; R161 (05); reset 0 -/
  flips : Word := 0
  /-- COLLISIONS; 64; R161 (05); reset 0 -/
  collisions : Word := 0
  /-- YIELDED; 64; R161 (05); reset 0 -/
  yieldedFlips : Word := 0
  /-- FLAG_WAIT_CLK; 64; R161 (05); reset 0 -/
  flagWaitClk : Word := 0
  /-- STREAM_STALL_CLK; 64; R161 (05); reset 0 -/
  streamStallClk : Word := 0
  /-- CS_CORRECTED; 64; R161 (05); reset 0 -/
  csCorrected : Word := 0
  /-- DENSE_STATE.BANK_GOOD; 12; R216 (07); reset 0xFFF -/
  bankGood : BitVec 12 := 0xFFF
  /-- DENSE_STATE.VMODE; 2; R216 (07); reset 0 -/
  vecMode : Nat := 0
  /-- DENSE_STATE.LAST_STATUS; 16; R216 (07); reset DONE -/
  denseLast : Status := 0
  /-- DENSE_STATE.LAST_VSTATUS; 16; R216 (07); reset DONE -/
  vecLast : Status := 0
  /-- MACS; 64; R217 (07); reset 0 -/
  macs : Word := 0
  /-- LOW_ROUND; 64; R54, R217 (02, 07); reset 0 -/
  lowRound : Word := 0
  /-- NONFINITE; 64; R71, R217 (02, 07); reset 0 -/
  nonfinite : Word := 0
  /-- PARITY_ERR; 64; R58, R217 (02, 07); reset 0 -/
  parityErr : Word := 0
  /-- DENSE_FLIPS; 64; R217 (07); reset 0 -/
  denseFlips : Word := 0
  /-- VEC_EXCH_ATTEMPTS; 64; R217 (07); reset 0 -/
  exchAttempts : Word := 0
  /-- VEC_EXCH_SWAPS; 64; R217 (07); reset 0 -/
  exchSwaps : Word := 0
  /-- VEC_EXCH_NAN; 64; R503 (17); reset 0 -/
  exchNan : Word := 0
  /-- DRABEL_TRAP0; 64; R337 (11); reset 0 -/
  trap0 : Word := 0
  /-- DRABEL_TRAP1; 64; R337 (11); reset 0 -/
  trap1 : Word := 0
  /-- RETIRED; 64; R338 (11); reset 0 -/
  retired : Word := 0
  /-- WAIT_CC; 64; R338 (11); reset 0 -/
  waitCc : Word := 0
  /-- ISSUE_STALL_CC; 64; R338 (11); reset 0 -/
  stallCc : Word := 0
  deriving DecidableEq, Repr

/-- A part of the device pool: the stacks of a compute die, or far memory (R16, R391, R402). -/
inductive Place where
  | near (die : Nat)
  | far
  deriving DecidableEq, Repr

/-- A descriptor that the front end has fetched (R340, R345). -/
structure Desc where
  /-- free-running number; 32; R340 (12) -/
  slot : Nat
  /-- its 64 bytes; R345 (12) -/
  bytes : List Byte
  /-- it could not be read, so that its record has TYPE 0xFF; R406 (13) -/
  unread : Bool := false
  /-- bytes a COPY has moved before a translation fault; R404 (13) -/
  moved : Nat := 0
  deriving DecidableEq, Repr

/-- A descriptor that has completed and whose record is not yet written (R366). -/
structure Finished where
  desc   : Desc
  status : Status
  /-- DETAIL of the record; 32; R366 (12) -/
  detail : Nat
  deriving DecidableEq, Repr

/-- A completion record that waits in the held area (R368, R370). -/
structure HeldRec where
  /-- STATUS, TYPE, CONTEXT, SLOT, DETAIL, USER_TAG and END_NS; PHASE is formed at the write; R366, R367 (12) -/
  fin   : Finished
  endNs : Nat
  /-- held by a failed translation, not only by a full queue; R369, R371 (12) -/
  fault : Bool
  deriving DecidableEq, Repr

/-- A ring of a context (12). -/
structure Ring where
  /-- RING_BASE; 64, bits [47:12]; R376 (12); reset 0 -/
  base : Word := 0
  /-- RING_CFG; 64; CQ_VECTOR, TIMEOUT_MS, SIZE_LOG2; R376 (12); reset 0 -/
  cfg : Word := 0
  /-- CQ_BASE; 64, bits [63:12]; R376 (12); reset 0 -/
  cqBase : Word := 0
  /-- CQ_CFG; 64; CQ_SIZE_LOG2; R376 (12); reset 0 -/
  cqCfg : Word := 0
  /-- tail count; 32; R340, R341 (12); reset 0 -/
  tail : Nat := 0
  /-- head count, RING_STATUS.HEAD; 32; R340, R377 (12); reset 0 -/
  head : Nat := 0
  /-- RING_CQ.CQ_TAIL; 32; R365, R377 (12); reset 0 -/
  cqTail : Nat := 0
  /-- RING_CQ.CQ_HEAD; 32; R365, R377 (12); reset 0 -/
  cqHead : Nat := 0
  /-- RING_STATUS.STOP_CAUSE; 4; R377 (12); reset 0 -/
  stopCause : Nat := 0
  /-- RING_STATUS.DB_BAD; 1; R342 (12); reset 0 -/
  dbBad : Bool := false
  /-- RING_STATUS.DB_PENDING; 1; R357 (12); reset 0 -/
  dbPending : Bool := false
  /-- configured: from an accepted START until STOPPED; 1; R339 (12); reset 0 -/
  configured : Bool := false
  /-- a STOP waits for the descriptors in flight; 1; R374 (12); reset 0 -/
  stopping : Bool := false
  /-- fetching stopped at HELD_FULL; 1; R370 (12); reset 0 -/
  full : Bool := false
  /-- last tail accepted before a host STOP that no reset or fault has followed; 1; R374 (12); reset 0 -/
  keepsTail : Bool := false
  /-- descriptors fetched and checked and not started, oldest first; R354, R374 (12); reset empty -/
  fetched : List Desc := []
  /-- how many of them a STOP has kept, which start before any further fetch; count; R374 (12); reset 0 -/
  kept : Nat := 0
  /-- the WAIT at the front of them has started; 1; R350, R404 (12, 13); reset 0 -/
  waitOn : Bool := false
  /-- where the ring's 2 KiB held area lies; R370, R402 (12, 13); reset none -/
  area : Option Place := none
  /-- descriptors in flight, INFLIGHT at most 16; R354, R377 (12); reset empty -/
  inflight : List Desc := []
  /-- descriptors whose record is due, oldest first; R366, R368 (12); reset empty -/
  finished : List Finished := []
  /-- held area, at most 64 records; R370 (12); reset empty -/
  held : List HeldRec := []
  deriving DecidableEq, Repr

/-- Who holds a faulted access (R404 to R406). -/
inductive Holder where
  | engine (core : Nat) (unit : EngineUnit)
  | hart (h : Hart)
  | desc (ring slot : Nat)
  | fetch (ring slot : Nat)
  | sequencer (run : RunKey)
  deriving DecidableEq, Repr

/-- A recorded translation fault: CTX_FAULT and CTX_FAULT_ADDR (R405). -/
structure FaultRec where
  kind  : Nat
  write : Bool
  unit  : Nat
  core  : Nat
  ring  : Nat
  slot  : Nat
  va    : Nat
  deriving DecidableEq, Repr

/-- A context (13). -/
structure Ctx where
  /-- CTX_CTRL.ENABLE; 1; R381 (13); reset 0 -/
  enable : Bool := false
  /-- CTX_CTRL.PLOT_VALID; 1; R381 (13); reset 0 -/
  plotValid : Bool := false
  /-- CTX_CTRL.PLOT; 6; R381 (13); reset 0 -/
  plot : Nat := 0
  /-- CTX_CTRL.FAULT_VECTOR; 11; R381 (13); reset 0 -/
  faultVector : Nat := 0
  /-- CTX_STATUS.STATE: 0 DISABLED, 1 ACTIVE, 2 FAULT_PENDING, 3 FAULTED, 4 RESETTING; 3; R380, R384 (13); reset 0 -/
  st : Nat := 0
  /-- CTX_STATUS.ATTACH_REFUSED; 1; R384, R390 (13); reset 0 -/
  attachRefused : Bool := false
  /-- CTX_STATUS.QUOTA_ENGINE; 1; R384, R386 (13); reset 0 -/
  quotaEngineHit : Bool := false
  /-- CTX_STATUS.QUOTA_MEM; 1; R384, R386 (13); reset 0 -/
  quotaMemHit : Bool := false
  /-- CTX_STATUS.QUOTA_LINK; 1; R384, R386 (13); reset 0 -/
  quotaLinkHit : Bool := false
  /-- CTX_PT_ROOT; 64; R397 (13); reset 0 -/
  ptRoot : Word := 0
  /-- CTX_INVAL.BUSY with the pages being invalidated (first page, count); R399 (13); reset none -/
  inval : Option (Nat × Nat) := none
  /-- cached leaf entries, by 64 KiB page number; 64 each; R399 (13); reset empty -/
  tlb : Tab Word := []
  /-- pages whose leaf entries are locked; R393 (13); reset empty -/
  locked : List Nat := []
  /-- CTX_FAULT and CTX_FAULT_ADDR; R405 (13); reset none (VALID 0) -/
  fault : Option FaultRec := none
  /-- CTX_FAULT.MORE; 8; R405 (13); reset 0 -/
  faultMore : Nat := 0
  /-- work that holds a faulted access, with the fault's kind; R404, R406 (13); reset empty -/
  holders : List (Holder × Nat) := []
  /-- CTX_UE; 64; R414 (13); reset 0 -/
  ue : Word := 0
  /-- CTX_SNAPSHOT.STATUS; 16; R411 (13); reset DONE -/
  snapStatus : Status := 0
  /-- CTX_SNAPSHOT.BUSY with the RUN held; R411 (13); reset none -/
  snapRun : Option RunKey := none
  /-- CTX_SNAP_ADDR; 48; R411, R504 (13, 17); reset 0 -/
  snapAddr : Nat := 0
  /-- CTX_SNAP_BYTES; 64; R411 (13); reset 0 -/
  snapBytes : Nat := 0
  /-- CTX_SUBMIT.DRAIN_US; 16; R375 (12); reset 0 -/
  drainUs : Nat := 0
  /-- CTX_SUBMIT.PRI_TIMEOUT_US; 16; R375 (12); reset 0 -/
  priTimeoutUs : Nat := 0
  /-- CTX_SUBMIT.ERR_VECTOR; 11; R375 (12); reset 0 -/
  errVector : Nat := 0
  /-- rings 0 to 3; R339 (12); reset all default -/
  rings : Tab Ring := []
  /-- ring served last by the fetcher; 2; R356 (12); reset 3, so that ring 0 comes first (DESIGN CHOICE 3, log entry 5) -/
  lastRing : Nat := 3
  /-- QUOTA_ENGINE; 64; R387 (13); reset 0 -/
  quotaEngine : Word := 0
  /-- QUOTA_MEM; 64; R387 (13); reset 0 -/
  quotaMem : Word := 0
  /-- QUOTA_LINK; 64; R387 (13); reset 0 -/
  quotaLink : Word := 0
  /-- QUOTA_POOL; 64; R387 (13); reset 0 -/
  quotaPool : Word := 0
  /-- ACCT_ENGINE; 64; R385, R387 (13); reset 0 -/
  acctEngine : Word := 0
  /-- ACCT_MEM; 64; R385, R387 (13); reset 0 -/
  acctMem : Word := 0
  /-- ACCT_LINK; 64; R385, R387 (13); reset 0 -/
  acctLink : Word := 0
  /-- SCALE_CLAMP; 64; R42, R387 (02, 13); reset 0 -/
  scaleClamp : Word := 0
  /-- acceptance table T, 8,192 entries of 32 bits, as bytes; R133 (05); reset 0 -/
  accTable : Memory := []
  /-- exchange table X, 8,192 entries of 32 bits, as bytes; R174 (06); reset 0 -/
  exchTable : Memory := []
  /-- what its save areas hold, by logical core; R391 (13); reset empty -/
  saves : Tab Work := []
  /-- save areas allotted from the device pool, 8 MiB each: logical core and place; R391 (13); reset empty -/
  areas : List (Nat × Place) := []
  deriving DecidableEq, Repr

/-- A plot entry (13). -/
structure Plot where
  /-- PLOT_MASK0 and PLOT_MASK1 as one mask of logical cores; 128; R388 (13); reset 0 -/
  mask : Nat := 0
  /-- PLOT_CFG.TIMED; 1; R388 (13); reset 0 -/
  timed : Bool := false
  /-- PLOT_CFG.KIND: EXCLUSIVE; 1; R388 (13); reset 0 -/
  exclusive : Bool := false
  /-- PLOT_CFG.SLICE_US; 17; R388 (13); reset 0 -/
  sliceUs : Nat := 0
  /-- PLOT_ADMIT; 48; R388 (13); reset 0 -/
  admitVa : Nat := 0
  /-- PLOT_STATUS.STATE: 0 FREE, 1 CONFIGURED, 2 TIMED; 4; R388 (13); reset 0 -/
  st : Nat := 0
  /-- PLOT_STATUS.REASON; 16; R388 (13); reset DONE -/
  reason : Status := 0
  /-- the holder of the plot; R361 (12); reset none -/
  holder : Option Nat := none
  /-- power reserved by admission, mW; R298, R299 (10); reset 0 -/
  reservedMw : Nat := 0
  /-- WCET_CLK of the admission; R296 (10); reset 0 -/
  wcet : Nat := 0
  /-- the admitted declaration: opcode, class, count, amount of each entry; R295 (10); reset empty -/
  declared : List (Nat × Nat × Nat × Nat) := []
  /-- causes for which TIMING_BROKEN has been raised in the RUN; R286 (10); reset empty -/
  broken : List Nat := []
  deriving DecidableEq, Repr

/-- The header fields of a plat that a run keeps (R108), with the slab it stands for (R235). -/
structure PlatInfo where
  va        : Nat
  codeWidth : Nat
  order     : Nat
  dimX      : Nat
  dimY      : Nat
  dimZ      : Nat
  replicas  : Nat
  spinInit  : Bool
  chains    : Nat
  chainSites : Nat
  bytes     : Nat
  lscaleOff : Nat
  zscaleOff : Nat
  couplOff  : Nat
  biasOff   : Nat
  spinOff   : Nat
  chainDir  : Nat
  chainList : Nat
  datum     : List Byte
  /-- origin of the plat in global coordinates; R234, R235 (08) -/
  orgX      : Nat
  orgY      : Nat
  /-- global dimensions; R233 (08) -/
  gDimX     : Nat
  gDimY     : Nat
  /-- the slab in global coordinates; the whole lattice on one chip; R233 (08) -/
  slabX0    : Nat
  slabX1    : Nat
  slabY0    : Nat
  slabY1    : Nat
  deriving DecidableEq, Repr

/-- An entry of a schedule table (R167). -/
structure SchedEntry where
  beta      : BitVec 32
  traverses : Nat
  mode      : Nat
  policy    : Nat
  deriving DecidableEq, Repr

/-- The inputs of a run block (R166). -/
structure RunBlock where
  entries   : List SchedEntry
  stopFlags : Nat
  exch      : Nat
  ladder    : List (BitVec 32)
  bestAddr  : Nat
  recAddr   : Nat
  benchAddr : Nat
  benchEvery : Nat
  benchSlots : Nat
  benchSlotBytes : Nat
  budget    : Nat
  targetEvery : Nat
  wallUs    : Nat
  target    : List Byte
  deriving DecidableEq, Repr

/-- A spin command of a run: its fields and how far it has come (R152, R164). -/
structure SpinCmd where
  /-- SPIN_SCHEDULE, else SPIN_TRAVERSE -/
  schedule : Bool
  /-- the 64 bytes; R154 (05) -/
  bytes : List Byte
  rule   : Nat
  policy : Nat
  mask   : Nat
  seed   : Word
  stream : Nat
  /-- step of the first traverse; 48 -/
  firstStep : Nat
  /-- traverses still to run under SPIN_TRAVERSE -/
  remaining : Nat
  tallyOff : Nat
  /-- address of the run block; R164 (06) -/
  blockVa : Nat
  block  : Option RunBlock
  /-- β of every replica for the present traverse; R134, R169 (05, 06) -/
  betas  : List (BitVec 32)
  /-- ladder positions; R166 (06) -/
  pos    : List Nat
  entry  : Nat
  entryDone : Nat
  benchNext : Nat
  /-- cores that have issued it and whose digest has been compared; R154 (05) -/
  joined : List Nat
  compared : List Nat
  /-- step of the present traverse's first phase; 48; R162 (06) -/
  step   : Nat
  /-- sites decided in the present traverse, a bit mask by site for each replica; R136 (05) -/
  decided : List Nat
  /-- SYNC: decisions to flip, a bit mask for each replica; R138 (05) -/
  flipping : List Nat
  /-- SYNC: sites resolved, a bit mask for each replica; R138 (05) -/
  resolved : List Nat
  /-- bits before the traverse; R138, R157 (05) -/
  before : List Nat
  /-- sites that strips of the next traverse have decided, a bit mask by site for each replica; R137 (05) -/
  ahead : List Nat
  /-- their bits after the present traverse, which its shadow plane keeps; R137, R184 (05, 06) -/
  aheadOld : List Nat
  /-- energy change by step from the traverse's first (phase · 64 + replica), in units of 2^-200; R145 (05) -/
  deltas : Tab Int
  /-- steps of the traverse already added into the tallies; R145 (05) -/
  tallied : Nat
  /-- steps of the traverse whose bands have gone to the neighbours of a SLAB group; R238 (08) -/
  banded : Nat
  /-- exact tallies; 64 LACC images; R143 (05) -/
  tallies : List (List Byte)
  /-- easement flags: destination, source, step, replica, kind (0 start, 1 bits, 2 decisions); R146 (05) -/
  flags : List (Nat × Nat × Nat × Nat × Nat)
  /-- easement messages sent between cores and not arrived, oldest first: the fields of the flag and the bits, a mask by site;
  R25, R146 (01, 05) -/
  mail : List ((Nat × Nat × Nat × Nat × Nat) × Nat)
  /-- traverse boundary at which the wall time stops the command; R178, R179 (06) -/
  wallAt : Option Nat
  /-- first step that may issue no strip, while a stop or a hold is due; R157 (05) -/
  limit : Option Nat
  /-- the tallies are those before this step runs; R239, R287 (08, 10) -/
  tallyStep : Nat
  /-- guarded registers since that step: step, replica, image; R239, R289 (08, 10) -/
  sent : List (Nat × Nat × List Byte)
  /-- counts of the command for the run record; R186 (06) -/
  traversesRun : Nat
  targetStep : Nat
  targetReplica : Nat
  exchAttempts : Nat
  exchSwaps : Nat
  exchNan : Nat
  benchLastStep : Nat
  benchLastSlot : Nat
  benchCount : Nat
  stopReason : Nat
  /-- its run block names a finished schedule: ENTRY equal to ENTRY_COUNT; 1; R171 (06) -/
  fin : Bool
  /-- steps run: not for a command without a traverse or with a non-finite starting tally; R145, R152, R171 (05, 06) -/
  started : Bool
  /-- the completion status once the work is to end; R145, R157, R180, R181 (05, 06) -/
  result : Option Status
  deriving DecidableEq, Repr

/-- A configured spin run (R122). -/
structure SpinRun where
  plat : PlatInfo
  /-- layer scales: coupling and bias; R110 (04) -/
  lscale : List (BitVec 32 × BitVec 32)
  /-- zone scales: coupling and bias codes; R111 (04) -/
  zscale : List (Nat × Nat)
  /-- parcel cut; R123 (05) -/
  cut : List Parcel
  /-- spins of every replica, a bit mask by site; R125, R185 (05, 06) -/
  spins : List Nat
  /-- easement of each core for each replica, a bit mask by site, at core · 64 + replica under CHROMATIC and at
  ((step mod 2 + 1) · 1024 + core) · 64 + replica under SYNC; R125, R146, R238 (05, 08) -/
  easement : Tab Nat
  /-- decisions that other chips sent for a step: their bits at 2 · step · 64 + replica, the sites they are for at
  (2 · step + 1) · 64 + replica; R138, R238 (05, 08) -/
  decEasement : Tab Nat
  /-- the command in flight -/
  cmd : Option SpinCmd
  /-- the last command completed, for BENCHMARK; R329 (11) -/
  last : Option SpinCmd
  /-- group entry of a fabric run; R236 (08) -/
  group : Option Nat
  /-- bits received from other chips: direction, step, replica, mask of sites, their bits; R238 (08) -/
  remote : List (Nat × Nat × Nat × Nat × Nat)
  /-- a schedule of the run captures, so that the placement holds the shadow planes; 1; R184 (06) -/
  shadow : Bool
  /-- shadow planes 0 and 1: the bits written in even and in odd traverses, a bit mask by site for each replica; R184 (06) -/
  shadows : List (List Nat)
  /-- no resident placement holds the plat, so that it is streamed; R149 (05) -/
  streamed : Bool
  /-- parts of the device pool that the placement holds: core, place, bytes; R27, R28, R402 (01, 13) -/
  places : List (Nat × Place × Nat)
  deriving DecidableEq, Repr

/-- How far a RUN has come (R354, R358, R361). -/
inductive RunPhase where
  | waiting | ready | dispatched | preempted | stopping
  deriving DecidableEq, Repr

/-- The program header of a RUN (R304). -/
structure ProgHdr where
  flags      : Nat
  codeBytes  : Nat
  crc        : Nat
  entry0     : Nat
  entry1     : Nat
  dataBytes  : Nat
  paramOff   : Nat
  paramBytes : Nat
  deriving DecidableEq, Repr

/-- A RUN descriptor in flight (12). -/
structure Run where
  key     : RunKey
  /-- PERSIST: a stake; R322 (11) -/
  persist : Bool
  /-- named logical cores in rank order; R307 (11) -/
  cores   : List Nat
  /-- address of the program image; R304 (11) -/
  program : Nat
  /-- PARAM, passed in g1; R347 (12) -/
  param   : Nat
  hdr     : ProgHdr
  phase   : RunPhase
  /-- first status that ends the RUN; R315, R331, R332 (11) -/
  status  : Option Status
  /-- DETAIL of a RUN that a trap ended; R366 (12) -/
  detail  : Nat
  /-- its timeout has expired; R363 (12) -/
  timedOut : Bool
  /-- entries taken by WAIT_QUEUE: queue address and entry; R325 (11) -/
  taken   : List (Nat × List Byte)
  /-- seeds drawn; R328 (11) -/
  seeds   : List Word
  /-- a seed draw is waiting; R265 (09) -/
  seedWait : Bool
  /-- the configured spin run; R122 (05) -/
  spin    : Option SpinRun
  /-- statuses of BENCHMARKs taken, by ordinal; R329 (11) -/
  benches : List Status
  /-- engine and DMA commands issued in the RUN or the turn of the stake, as core, opcode, class and amount, oldest first;
  R286, R295, R326 (10, 11) -/
  issuedOps : List (Nat × Nat × Nat × Nat)
  /-- a BENCHMARK that waits for its boundary: slot address, size, traverse boundary; R329 (11) -/
  benchWait : Option (Nat × Nat × Bool)
  /-- a SPIN_SCHEDULE that is being started and its run block as read, with ladder and table once its checks have passed;
  R165, R186, R187 (06) -/
  block   : Option (List Byte × List Byte)
  /-- the run that R154 has ended, whose state a BENCHMARK records until the next has one; R154, R329 (05, 11) -/
  ended   : Option SpinRun
  deriving DecidableEq, Repr

/-- A page of the host's address space that an access finds absent or denied; present otherwise (R369, R400). -/
inductive HostPage where
  | present | absent | denied
  deriving DecidableEq, Repr

/-- A PRI page request in progress (R369, R400). -/
structure PriReq where
  ctx  : Nat
  page : Nat
  /-- the ring whose record waits, or none for an access of the context's work -/
  ring : Option Nat
  deriving DecidableEq, Repr

/-- An entropy source with its health tests and estimates (09). -/
structure Source where
  /-- SRC_LATCHED; 1; R263, R275 (09); reset 0 -/
  latched : Bool := false
  /-- SRC_RETEST; 1; R262, R275 (09); reset 0 -/
  retest : Bool := false
  /-- start-up test passed; 1; R261 (09); reset 0 -/
  passed : Bool := false
  /-- samples of the start-up test or retest taken; 11; R261, R262 (09); reset 0 -/
  testCount : Nat := 0
  /-- last sample and length of the run of identical samples; R255 (09); reset none, 0 -/
  rctBit : Option Bool := none
  rctRun : Nat := 0
  /-- adaptive proportion window: first sample, samples, matches; R255 (09); reset none -/
  aptBit : Bool := false
  aptCount : Nat := 0
  aptMatch : Nat := 0
  /-- RNG_SRC_EST1.CONSEC; 2; R263, R278 (09); reset 0 -/
  consec : Nat := 0
  /-- samples of continuous testing passed since the last test or failure; R263 (09); reset 0 -/
  clean : Nat := 0
  /-- RCT_FAILS; 16; R278 (09); reset 0 -/
  rctFails : BitVec 16 := 0
  /-- APT_FAILS; 16; R278 (09); reset 0 -/
  aptFails : BitVec 16 := 0
  /-- the last four samples, newest first; R256 (09); reset empty -/
  recent : List Bool := []
  /-- samples and ones in the open window; R256 (09); reset 0 -/
  winCount : Nat := 0
  winOnes : Nat := 0
  /-- agreements at lags 1 to 4 in the open window; R256 (09); reset 0 -/
  winAgree : List Nat := [0, 0, 0, 0]
  /-- BIAS, LAG1 to LAG4 of the last closed window; 16 each; R256, R278 (09); reset 0 -/
  est : List (BitVec 16) := [0, 0, 0, 0, 0]
  deriving DecidableEq, Repr

/-- Who waits for the DRBG (R264). -/
inductive NoiseFor where
  | seed (run : RunKey)
  | nonce (link : Nat)
  | linkSign (link : Nat)
  | security (port : SpdmPort)
  | sign (port : SpdmPort)
  deriving DecidableEq, Repr

/-- The RNG block (09). -/
structure Rng where
  /-- RNG_STATUS.STATE: 0 OFF, 1 STARTUP, 2 READY, 3 FAULT, 4 RAW_TAP, 5 FAILED; 4; R260, R275 (09); reset 1 -/
  st : Nat := 1
  /-- the sources have settled; 1; R261 (09); reset 0 -/
  settled : Bool := false
  /-- sources 0 to 7; R253 (09) -/
  sources : List Source := List.replicate 8 {}
  /-- RNG_CTRL.TAP_SRC; 3; R276 (09); reset 0 -/
  tapSrc : Nat := 0
  /-- RNG_CTRL.RAW_TAP; 1; R276 (09); reset 0 -/
  rawTap : Bool := false
  /-- RNG_TIMEOUT.TIMEOUT_MS; 16; R276 (09); reset 0 -/
  timeoutMs : Nat := 0
  /-- samples for the conditioner by source, oldest first; R257 (09); reset empty -/
  feeds : List (List Bool) := List.replicate 8 []
  /-- partly filled conditioner block, bits oldest first, at most 512; R257 (09); reset empty -/
  block : List Bool := []
  /-- source that gives the next bit; 3; R257 (09); reset 0 -/
  turn : Nat := 0
  /-- conditioner blocks made and not yet used; 128 each; R257, R258 (09); reset empty -/
  blocks : List Nat := []
  /-- DRBG working state: key, V and generate calls since the seed; 256 + 128 + 17; R258 (09); reset none -/
  drbg : Option (Nat × Nat × Nat) := none
  /-- a reseed is due and waits for three fresh blocks; 1; R258, R259 (09); reset 0 -/
  reseeding : Bool := false
  /-- RAW_TAP FIFO, oldest first, 4,096 samples; R269 (09); reset empty -/
  fifo : List Bool := []
  /-- RNG_RAW.OVERRUN; 1; R269, R277 (09); reset 0 -/
  overrun : Bool := false
  /-- waiting requests in order of arrival, at most 4,096; R265 (09); reset empty -/
  waiting : List NoiseFor := []
  deriving DecidableEq, Repr

/-- A health-log record (R447) before its CRC is formed. -/
structure HRec where
  type   : Nat
  kind   : Nat
  unit   : Nat
  boot   : Nat
  timeNs : Nat
  detail : Nat
  deriving DecidableEq, Repr

/-- What the device reads of the firmware image (R436, R294). -/
structure Image where
  /-- 0 accepted, 1 NO_IMAGE, 2 DIGEST, 3 SIGNATURE; R436, R469 (15) -/
  cause    : Nat := 0
  secver   : Nat := 0
  arithRev : Nat := 0
  build    : Nat := 0
  digest   : Nat := 0
  deriving DecidableEq, Repr

/-- The configuration flash (15). -/
structure Flash where
  /-- image region's directory entry is valid; 1; R484 (16); reset 1 (DESIGN CHOICE, log entry 8) -/
  imageValid : Bool := true
  /-- configuration block's directory entry is valid; 1; R484 (16); reset 1 (DESIGN CHOICE, log entry 8) -/
  cfgValid : Bool := true
  /-- what the image holds; R436 (15); reset: accepted, every number 0 (DESIGN CHOICE, log entry 8) -/
  image : Image := {}
  /-- image region, bytes written since its last erase; R434 (15); reset empty (DESIGN CHOICE, log entry 8) -/
  imageBytes : Memory := []
  /-- configuration block, 60 KiB region; R434, R437 (15); reset all zero (DESIGN CHOICE, log entry 8) -/
  cfg : Memory := []
  /-- retirement table, 4,096 records, oldest first; R434, R447 (15); reset empty -/
  retire : List HRec := []
  /-- event log, 131,072 records, newest first; R434, R447 (15); reset empty -/
  events : List HRec := []
  /-- event records since manufacture, HLOG_COUNT; 64; R469 (15); reset 0 -/
  eventCount : Nat := 0
  deriving DecidableEq, Repr

/-- An X.509 v3 certificate: what the spec says it holds (R472, R474). -/
structure Cert where
  /-- subject public key, x and y of a P-384 point, most significant byte first; R472 (16) -/
  subjectKey : List Byte := []
  /-- notAfter, ASCII; R472 (16) -/
  notAfter : List Byte := []
  /-- name of the issuer, ASCII; R472 (16) -/
  issuer : List Byte := []
  /-- subject serialNumber of the alias certificate, ASCII; R474 (16) -/
  serial : List Byte := []
  /-- contents of the alias certificate's extension; R474 (16) -/
  extension : List Byte := []
  /-- the issuer's signature, r and s, most significant byte first; R472, R474 (16) -/
  signature : List Byte := []
  deriving DecidableEq, Repr

/-- notAfter of the die certificates, 99991231235959Z in ASCII (R472). -/
def neverExpires : List Byte :=
  [0x39, 0x39, 0x39, 0x39, 0x31, 0x32, 0x33, 0x31, 0x32, 0x33, 0x35, 0x39, 0x35, 0x39, 0x5A]

/-- The name of the Ouvson device CA in ASCII (R472). -/
def deviceCaName : List Byte :=
  [0x4F, 0x75, 0x76, 0x73, 0x6F, 0x6E, 0x20, 0x64, 0x65, 0x76, 0x69, 0x63, 0x65, 0x20, 0x43, 0x41]

/-- A certificate that the device CA issues for the point x · 2^384 + y (R472). The value of its signature is the model's
(DESIGN CHOICE 0, log entry 8). -/
def Cert.ofDie (point : Nat) : Cert :=
  { subjectKey := (List.range 96).map (fun i => BitVec.ofNat 8 (point / 2 ^ (8 * (95 - i)))), notAfter := neverExpires
    issuer := deviceCaName, signature := List.replicate 96 0 }

/-- The certificates of the five dies, the I/O die's last, then the device CA's (R472). The keys are those of the
private keys 1 to 5, the CA's is zero (DESIGN CHOICE, log entry 8). -/
def factoryCerts : List Cert :=
  ([0xaa87ca22be8b05378eb1c71ef320ad746e1d3b628ba79b9859f741e082542a385502f25dbf55296c3a545e3872760ab73617de4a96262c6f5d9e98bf9292dc29f8f41dbd289a147ce9da3113b5f0b8c00a60b1ce1d7e819d7a431d7c90ea0e5f,
    0x08d999057ba3d2d969260045c55b97f089025959a6f434d651d207d19fb96e9e4fe0e86ebe0e64f85b96a9c75295df618e80f1fa5b1b3cedb7bfe8dffd6dba74b275d875bc6cc43e904e505f256ab4255ffd43e94d39e22d61501e700a940e80,
    0x077a41d4606ffa1464793c7e5fdc7d98cb9d3910202dcd06bea4f240d3566da6b408bbae5026580d02d7e5c70500c831c995f7ca0b0c42837d0bbe9602a9fc998520b41c85115aa5f7684c0edc111eacc24abd6be4b5d298b65f28600a2f1df1,
    0x138251cd52ac9298c1c8aad977321deb97e709bd0b4ca0aca55dc8ad51dcfc9d1589a1597e3a5120e1efd631c63e1835cacae29869a62e1631e8a28181ab56616dc45d918abc09f3ab0e63cf792aa4dced7387be37bba569549f1c02b270ed67,
    0x11de24a2c251c777573cac5ea025e467f208e51dbff98fc54f6661cbe56583b037882f4a1ca297e60abcdbc3836d84bc8fa696c77440f92d0f5837e90a00e7c5284b447754d5dee88c986533b6901aeb3177686d0ae8fb33184414abe6c1713a] : List Nat).map
    Cert.ofDie ++ [{ issuer := deviceCaName }]

/-- The fuses (R442), and what the dies hold since manufacture (R471, R472). -/
structure Fuses where
  /-- grade: 0 ZL96-A, 1 ZL96-B, 2 ZL96-C; 2; R2, R442 (00, 15); DESIGN CHOICE 0 (log entry 8) -/
  grade : Nat := 0
  /-- disabled physical cores, banks 12p + j, channels 32k + c, DDR5 channels, links, ports; R442 (15); DESIGN CHOICE none
  (log entry 8) -/
  cores : List Nat := []
  banks : List Nat := []
  chans : List Nat := []
  ddr   : List Nat := []
  links : List Nat := []
  ports : List Nat := []
  /-- minimum security version; 32; R442 (15); DESIGN CHOICE 0 (log entry 8) -/
  secMin : Nat := 0
  /-- package serial number; 128; R442 (15); DESIGN CHOICE 0 (log entry 8) -/
  serial : Nat := 0
  /-- key hashes of the Ouvson device CA and firmware CA; 384 each; R442 (15); DESIGN CHOICE 0 (log entry 8) -/
  deviceCa : Nat := 0
  firmwareCa : Nat := 0
  /-- private keys of the compute dies 0 to 3 and of the I/O die, in their one-time-programmable storage, which no command
  reads; 384 each; R471 (16); DESIGN CHOICE 1 to 5 (log entry 8) -/
  dieKeys : List Nat := [1, 2, 3, 4, 5]
  /-- read-only store of the I/O die: the certificates of the five dies and of the device CA; R472 (16); DESIGN CHOICE (log
  entry 8) -/
  certs : List Cert := factoryCerts
  deriving DecidableEq, Repr

/-- Reset lines, bring-up and the runtime map (15). -/
structure Boot where
  /-- the always-on rails are good; 1; R512 (18); reset 1 -/
  aonPower : Bool := true
  /-- the main rails are in range; 1; R512, R513 (18); reset 1 -/
  rails : Bool := true
  /-- level of AON_RST_N; 1; R514 (18); reset 0 (held in reset) -/
  aonRst : Bool := false
  /-- level of PERST_N; 1; R514 (18); reset 0 -/
  perst : Bool := false
  /-- level of BOOT_DONE; 1; R440, R514 (15, 18); reset 0 -/
  bootDone : Bool := false
  /-- THERMTRIP_N is asserted; 1; R468, R514 (15, 18); reset 0 -/
  thermtrip : Bool := false
  /-- the fast clocks and PLLs run; 1; R463 (15); reset 0 -/
  clocks : Bool := false
  /-- the PCIe link is up; 1; R440 (15); reset 0 -/
  link : Bool := false
  /-- PMCSR is D3hot; 1; R460 (15); reset 0 -/
  d3hot : Bool := false
  /-- BOOT_STATUS.MODE; 4; R469 (15); reset 0 -/
  mode : Nat := 0
  /-- BOOT_STATUS.STEP; 4; R469 (15); reset 0 -/
  step : Nat := 0
  /-- BOOT_STATUS.CAUSE; 8; R469 (15); reset 0 -/
  cause : Nat := 0
  /-- BOOT_STATUS.BOOTS; 32; R469 (15); reset from the log, 0 -/
  boots : Nat := 0
  /-- the fuse check code was wrong; 1; R441 (15); reset 0 -/
  fuseFault : Bool := false
  /-- FW_ID, SECVER.IMAGE and FW_DIGEST as read at the last reset; R294, R495 (10, 17); reset 0 before the image is read -/
  fw : Image := {}
  /-- configuration block as read at the last reset, 4,096 bytes; R435, R477 (15, 16); reset empty -/
  cfg : Memory := []
  /-- units out of service by BIST or retirement or fuse: cores, banks, channels, DDR5 channels, links, ports; R292, R443
  (10, 15); reset empty -/
  outCores : List Nat := []
  outBanks : List Nat := []
  outChans : List Nat := []
  outDdr   : List Nat := []
  outLinks : List Nat := []
  outPorts : List Nat := []
  /-- enabled cores, physical numbers in order of logical number, 144 where a logical number has lost its core; R19, R444,
  R451 (01, 15); reset empty -/
  enabled : List Nat := []
  /-- spare cores, physical numbers; R444 (15); reset empty -/
  spares : List Nat := []
  /-- channels each stack is laid out over, 32 less those retired at the last reset; R416 (13); reset 32 each -/
  stackChans : List Nat := List.replicate 8 32
  /-- channels retired since the last reset; R415, R416 (13); reset empty -/
  lostChans : List Nat := []
  /-- DIMMs per channel and capacity in GB of the in-service population; R417 (13); reset 0 -/
  dimms : Nat := 0
  dimmGb : Nat := 0
  /-- units pending retirement: kind and unit; R450 (15); reset empty -/
  pending : List (Nat × Nat) := []
  /-- draw of the values that are open in the alias certificate of this boot (model's own); reset 0 (DESIGN CHOICE, log
  entry 2) -/
  aliasDraw : Nat := 0
  /-- compute dies whose signature failed at the last reset, so that they are not bound; R473, R474 (16); reset empty -/
  unbound : List Nat := []
  /-- MAP_STATUS.DISAGREE; 16; R469 (15); reset 0 -/
  disagree : BitVec 16 := 0
  /-- MAP_STATUS.DEGRADED; 1; R445 (15); reset 0 -/
  degraded : Bool := false
  /-- MAP_STATUS.RETAINED; 1; R469 (15); reset 0 -/
  retained : Bool := false
  /-- a runtime map is retained and its CRC holds; 1; R446 (15); reset 0 -/
  mapGood : Bool := false
  /-- REFCLK_AON runs; 1; R517 (18); reset 1 -/
  aonClock : Bool := true
  /-- LINK_REFCLK0 and LINK_REFCLK1 run; 1 each; R517 (18); reset 1 -/
  linkClock0 : Bool := true
  linkClock1 : Bool := true
  /-- FP_REFCLK runs; 1; R517 (18); reset 1 -/
  fpClock : Bool := true
  deriving DecidableEq, Repr

/-- Power, thermal state, unit resets and events (15). -/
structure Power where
  /-- cap written or loaded, W; 10; R466, R469 (15); reset 1,000 before the flash is read -/
  capW : Nat := 1000
  /-- cap that holds in the present credit period, W; R466 (15); reset 1,000 -/
  capNow : Nat := 1000
  /-- PWR_CTRL.EVENT_VECTOR; 11; R469 (15); reset 0 -/
  eventVector : Nat := 0
  /-- PWR_CTRL.DEEP_IDLE; 1; R469 (15); reset 0 -/
  deepIdle : Bool := false
  /-- PWR_CTRL.OFF_MS; 16; R469 (15); reset 0 -/
  offMs : Nat := 0
  /-- PWR_CTRL.RETAIN_US; 16; R469 (15); reset 0 -/
  retainUs : Nat := 0
  /-- PWR_STATUS.POWER_W; 16; R469 (15); reset 0 -/
  powerW : Nat := 0
  /-- hottest sensor of dies 0 to 3 and of the I/O die as the governor read it last, °C, PWR_STATUS.TJ_C their greatest; 8
  each; R467, R469 (15); reset 0 -/
  dieTemp : List Nat := [0, 0, 0, 0, 0]
  /-- TELEM_DIE: what the health block shows of them; 8 each; R502 (17); reset 0 -/
  telemDie : List Nat := [0, 0, 0, 0, 0]
  /-- TELEM_HBM, stack temperatures, °C; 8 each; R502 (17); reset 0 -/
  hbmTemp : List Nat := [0, 0, 0, 0, 0, 0, 0, 0]
  /-- PWR_STATUS.CREDIT_THR; 5; R467, R469 (15); reset 0 -/
  creditThr : List Bool := [false, false, false, false, false]
  /-- PWR_STATUS.CLOCK_THR; 5; R467, R469 (15); reset 0 -/
  clockThr : List Bool := [false, false, false, false, false]
  /-- halvings of each die's unreserved budget, 0 to 4; R467 (15); reset 0 -/
  halvings : List Nat := [0, 0, 0, 0, 0]
  /-- sensor reads in a row at or above 100 °C with the budget at 1/16, by die; R467 (15); reset 0 -/
  hotReads : List Nat := [0, 0, 0, 0, 0]
  /-- sensor reads in a row below 95 °C, by die; R467 (15); reset 0 -/
  coolReads : List Nat := [0, 0, 0, 0, 0]
  /-- PWR_STATUS.CHIP_STATE: 0 ACTIVE, 1 CHIP_IDLE, 2 DEEP_IDLE, 3 D3hot; 3; R469 (15); reset 0 -/
  chip : Nat := 0
  /-- credits left to each core in the period, in units in which every share is whole (`creditUnit`); R464, R465 (15); reset
  empty -/
  credits : Tab Nat := []
  /-- charge that the command at work has run up within the step, in 1/40 pJ; R464 (15); reset 0 -/
  charge : Nat := 0
  /-- RST_STATUS.BUSY with the core being reset; R469 (15); reset none -/
  rstBusy : Option Nat := none
  /-- RST_STATUS.REASON; 16; R469 (15); reset DONE -/
  rstReason : Status := 0
  /-- SURVEY_CFG.PERIOD_H; 8; R469 (15); reset from flash -/
  surveyH : Nat := 0
  /-- physical cores of the survey round still to be tested, the one under test first; R449 (15); reset empty -/
  survey : List Nat := []
  /-- power state that the core under test goes back to; 3; R460 (15); reset 0 -/
  surveyWas : Nat := 0
  /-- SURVEY_STATUS.TESTS; 32; R469 (15); reset 0 -/
  surveyTests : BitVec 32 := 0
  /-- EVENTS.PENDING; 6; R469 (15); reset 0 -/
  events : BitVec 6 := 0
  /-- EVT_TIMING: count, cause, plot, context; R470 (15); reset 0 -/
  evtTimingCount : BitVec 16 := 0
  evtTimingCause : Nat := 0
  evtTimingPlot : Nat := 0
  evtTimingCtx : Nat := 0
  /-- EVT_SCALE: count and context; R470 (15); reset 0 -/
  evtScaleCount : BitVec 16 := 0
  evtScaleCtx : Nat := 0
  deriving DecidableEq, Repr

/-- A message of the fabric (R220, R227, R232, R238, R239, R244, R249). -/
inductive FabMsg where
  | linkState (rec : LinkState)
  | joinMsg (info : JoinInfo)
  | group (msg : GroupMsg)
  | easement (msg : FabEasement)
  | tally (step replica : Nat) (image : List Byte)
  | broadcast (step : Nat) (tallies : List (List Byte))
  | stopMsg (status : Status) (lost : Option Nat)
  | digest (step digest : Nat) (parcels : List Nat)
  deriving DecidableEq, Repr

/-- A boundary link (08). -/
structure Link where
  /-- FAB_LINK_STATUS.STATE: 0 DOWN, 1 TRAINING, 2 IDENTIFY, 3 UP, 4 RETRAIN, 5 UNTRUSTED, 6 ID_CONFLICT, 7 DISABLED; 4;
  R222, R251 (08); reset 0, 7 for disabled links -/
  st : Nat := 0
  /-- FAB_LINK_STATUS.PARTNER_ID; 10; R251 (08); reset 0 -/
  partner : Nat := 0
  /-- FAB_LINK_STATUS.PARTNER_LINK; 3; R251 (08); reset 0 -/
  partnerLink : Nat := 0
  /-- certificate of the partner, as a number; R226 (08); reset 0 -/
  cert : Nat := 0
  /-- FAB_LINK_STATUS.WIDTH: 0 none, 1 x2, 2 x4, 3 x8; 2; R221, R251 (08); reset 0 -/
  width : Nat := 0
  /-- lanes that the width may use until host software asks for a retrain; 8; R221 (08); reset all -/
  lanes : BitVec 8 := 0xFF
  /-- FAB_LINK_STATUS.RETRAINS; 32; R251 (08); reset 0 -/
  retrains : BitVec 32 := 0
  /-- CRC_ERRORS; 64; R251 (08); reset 0 -/
  crcErrors : Word := 0
  /-- REPLAYS; 64; R251 (08); reset 0 -/
  replays : Word := 0
  /-- FEC_CORRECTED; 64; R251 (08); reset 0 -/
  fecCorrected : Word := 0
  /-- replay buffer: number and bytes of the flits sent last and not known good, at most 512; R219 (08); reset empty -/
  replayBuf : List (Nat × List Byte) := []
  /-- messages whose flits the replay buffer holds: number of the last flit, chip, message; R219, R243 (08); reset empty -/
  sending : List (Nat × Nat × FabMsg) := []
  /-- flits sent since the link last left IDENTIFY: the number of the next; R219 (08); reset 0 -/
  sent : Nat := 0
  /-- number of the flit that is accepted next; R219 (08); reset 0 -/
  expected : Nat := 0
  /-- own nonce of the identification, once it is drawn; 32 bytes; R225 (08); reset empty -/
  nonce : List Byte := []
  /-- flit last replayed and its consecutive replays; R222 (08); reset 0 -/
  lastReplay : Nat := 0
  replayRun : Nat := 0
  /-- payloads accepted, newest first; R219 (08); reset empty -/
  accepted : List (List Byte) := []
  /-- there is no partner to lose: never UP, or PARTNER_LOST raised since the link was last UP; R223 (08); reset 1 -/
  lost : Bool := true
  /-- identification waits for the nonce; R225 (08); reset 0 -/
  identifying : Bool := false
  /-- what the own signature covers, once the partner's part has come; R225 (08); reset empty -/
  signs : List Byte := []
  deriving DecidableEq, Repr

/-- A fabric group entry (08). -/
structure Group where
  /-- GRP_CTRL; 64; R230 (08); reset 0 -/
  ctrl : Word := 0
  /-- GRP_LIST; 64; R230, R500 (08, 17); reset 0 -/
  list : Word := 0
  /-- GRP_PLAN; 48; R230, R500 (08, 17); reset 0 -/
  plan : Nat := 0
  /-- GRP_STOPBENCH; 48; R230, R500 (08, 17); reset 0 -/
  stopBench : Nat := 0
  /-- GRP_STATUS.STATE: 0 IDLE, 1 FORMING, 2 ACTIVE, 3 RUNNING, 4 FAILED; 4; R231 (08); reset 0 -/
  st : Nat := 0
  /-- GRP_STATUS.REASON; 16; R231 (08); reset DONE -/
  reason : Status := 0
  /-- JOINs that came before this chip's own ARM; R232 (08); reset empty -/
  early : List JoinInfo := []
  /-- members that have joined, JOINED their count; 11; R231 (08); reset empty -/
  joined : List Nat := []
  /-- member list as read at ARM; R230 (08); reset empty -/
  members : List Nat := []
  /-- chips by grid cell of the plan; R234 (08); reset empty -/
  cells : List Nat := []
  /-- GX and GY of the plan; 16 each; R233 (08); reset 0 -/
  gx : Nat := 0
  gy : Nat := 0
  /-- PLAN_GEN; 32; R233 (08); reset 0 -/
  planGen : BitVec 32 := 0
  /-- partial tallies received: step (`startKey` for starting energies), replica, cell, value in units of 2^-200; R116, R239
  (04, 08); reset empty -/
  partials : List (Nat × Nat × Nat × Int) := []
  /-- easement messages received, newest first; R238 (08); reset empty -/
  easements : List FabEasement := []
  /-- tallies broadcast by the lead and not used yet: step and images; R239 (08); reset empty -/
  broadcast : List (Nat × List (List Byte)) := []
  /-- members whose run stops on an overflow, with the first step that each issues no strip of; R157, R239 (05, 08); reset
  empty -/
  stops : List (Nat × Nat) := []
  /-- run-start data from the lead, and which spin command of the group it starts; R236, R237 (08); reset none -/
  runStart : Option (List (BitVec 32) × List (List Byte) × List Byte × Nat × Nat) := none
  /-- cuts from the lower chip of a lock-step pair, by spin command of the group; R247 (08); reset empty -/
  cuts : List (Nat × List Parcel) := []
  /-- a member has sent its partial energies of the initial draw up the tree; 1; R116 (04); reset 0 -/
  sentStart : Bool := false
  /-- spin commands of the group that have completed on this chip; R236 (08); reset 0 -/
  cmds : Nat := 0
  /-- members whose checks of a spin command of the group have passed, by command; R236 (08); reset empty -/
  readied : List (Nat × Nat) := []
  /-- the command that the lead has let start: every member's checks have passed; R236 (08); reset none -/
  go : Option Nat := none
  /-- other members' refusals: which command, status, whether it ends the run; R154, R236 (05, 08); reset empty -/
  refusals : List (Nat × Status × Bool) := []
  /-- traverse boundary that the lead has chosen for a benchmark or a snapshot; R329, R411 (11, 13); reset none -/
  holdStep : Option Nat := none
  /-- where members stand as the wall time's request reaches them: command, chip, the boundary that ends the latest traverse
  of which it has issued a strip; R178 (06); reset empty -/
  walls : List (Nat × Nat × Nat) := []
  /-- another member asks the lead for a hold at the next boundary; 1; R411 (13); reset 0 -/
  asked : Bool := false
  /-- one past the highest step whose digest has come from the other chip; R249 (08); reset 0 -/
  peerUpto : Nat := 0
  /-- own digests not yet matched, and the partner's: step, digest, digests of the parcels; R248, R249 (08); reset empty -/
  digests : List (Nat × Nat × List Nat) := []
  peerDigests : List (Nat × Nat × List Nat) := []
  deriving DecidableEq, Repr

/-- The fabric block (08). -/
structure Fabric where
  /-- FAB_CHIP_ID.VALID; 1; R224, R251 (08); reset from flash -/
  valid : Bool := false
  /-- FAB_CHIP_ID.CHIP_ID; 10; R224, R251 (08); reset from flash -/
  chip : Nat := 0
  /-- FAB_LOST_WINDOW.LOST_MS; 10; R223, R251 (08); reset 0 -/
  lostMs : Nat := 0
  /-- FAB_MAP_GEN.GEN; 32; R227, R251 (08); reset 0 -/
  mapGen : BitVec 32 := 0
  /-- sequence number of the chip's own record; 16; R227 (08); reset 0 -/
  seq : BitVec 16 := 0
  /-- links 0 to 7; R218 (08) -/
  links : List Link := List.replicate 8 {}
  /-- topology map: the newest record of each chip; R227, R228 (08); reset empty -/
  topo : List LinkState := []
  /-- conflicted identifiers; R226 (08); reset empty -/
  conflicts : List Nat := []
  /-- messages that no UP link carries yet, by the chip they are for; R220, R222, R243 (08); reset empty -/
  waiting : List (Nat × FabMsg) := []
  /-- group entries 0 to 15; R229 (08) -/
  groups : List Group := List.replicate 16 {}
  deriving DecidableEq, Repr

/-- A field port (14). -/
structure Port where
  /-- FP_PORT_CFG.FEC, 0 to 2, a 3 being taken as 2; 2; R418, R433 (14); reset 2 -/
  fec : Nat := 2
  /-- FP_PORT_CFG.LLDP_MS; 14; R422, R433 (14); reset 0 -/
  lldpMs : Nat := 0
  /-- FP_PORT_STATUS.TIME: 0 NO_TIME, 1 LOCKED, 2 HOLDOVER; 4; R420, R433 (14); reset 0 -/
  time : Nat := 0
  /-- FP_PORT_STATUS.LINK; 1; R433 (14); reset 0 -/
  link : Bool := false
  /-- FP_PORT_STATUS.PARTNER and PARTNER_MAC, with its chassis and port identity and interval; R423, R433 (14); reset none -/
  partner : Option Lldpdu := none
  /-- FP_PORT_MAC; 48; R433, R501 (14, 17); reset from flash -/
  mac : Nat := 0
  /-- RX_DROPPED; 64; R419, R433 (14); reset 0 -/
  rxDropped : Word := 0
  /-- LLDP_OTHER; 64; R423, R433 (14); reset 0 -/
  lldpOther : Word := 0
  /-- consecutive Sync intervals with the servo's offset below 50 ns; R420 (14); reset 0 -/
  goodSyncs : Nat := 0
  /-- 802.1AS time of the last Sync, ns; 64; R420 (14); reset 0 -/
  timeNs : Nat := 0
  deriving DecidableEq, Repr

/-- A decision frame that waits for its decision instant (R424, R429): its TYPE, CAUSE, the period k and the time s_k of
the instant, the misses counted, SOURCE_PERIOD, the payload. -/
structure DueFrame where
  kind    : Nat
  cause   : Nat
  k       : Nat
  time    : Nat
  misses  : Nat
  source  : Nat
  payload : List Byte
  deriving DecidableEq, Repr

/-- A service entry (14). -/
structure Service where
  /-- SVC_BLOCK.CONTEXT; 12; R433 (14); reset 0 -/
  ctx : Nat := 0
  /-- SVC_BLOCK.ADDR; 48; R433 (14); reset 0 -/
  addr : Nat := 0
  /-- SVC_STATUS.STATE: 0 IDLE, 1 WAIT_PARTNER, 2 RUNNING, 3 SAFE_LATCHED, 4 PARTNER_LOST, 5 TIME_LOST; 4; R431 (14); reset
  0 -/
  st : Nat := 0
  /-- SVC_STATUS.REASON; 16; R433 (14); reset DONE -/
  reason : Status := 0
  /-- the service block as read at START, 128 bytes; R425 (14); reset empty -/
  block : List Byte := []
  /-- SAFE payload and last decision, with its period; R426, R429 (14); reset empty -/
  safe : List Byte := []
  decision : List Byte := []
  decisionPeriod : Option Nat := none
  /-- value V_0 at DONE_ADDR at START; 64; R426 (14); reset 0 -/
  v0 : Nat := 0
  /-- entries posted since START, m; R428 (14); reset 0 -/
  posted : Nat := 0
  /-- next instant k; R426, R428 (14); reset 0 -/
  k : Nat := 0
  /-- instant k of the last service instant, and whether it was posted; R428 (14); reset 0 -/
  lastK : Nat := 0
  lastPosted : Bool := false
  /-- miss count c, MISS_RUN its saturated value; R429, R433 (14); reset 0 -/
  misses : Nat := 0
  /-- instant lastK still waits for its decision; 1; R429 (14); reset 0 -/
  awaiting : Bool := false
  /-- frame due at the decision instant; R429 (14); reset none -/
  due : Option DueFrame := none
  /-- no SAFE frame has gone out since the service entered PARTNER_LOST; 1; R432 (14); reset 0 -/
  firstSafe : Bool := false
  /-- receive buffer; 23,488 bytes; R427 (14); reset 0 -/
  buffer : Memory := []
  /-- last accepted frame: period and TIME; R427, R428 (14); reset none -/
  measPeriod : Option Nat := none
  measTime : Nat := 0
  /-- frames accepted since the previous post; 32; R428 (14); reset 0 -/
  fresh : Nat := 0
  /-- fragments present; 16; R428 (14); reset 0 -/
  fragMask : Nat := 0
  /-- a SAFE frame with CAUSE CONTEXT is due at the next decision instant; R432 (14); reset 0 -/
  contextLost : Bool := false
  /-- power reserved by admission, mW; R299 (10); reset 0 -/
  reservedMw : Nat := 0
  /-- admitted declaration of a started service: opcode, class, count, amount; R286, R295, R426 (10, 14); reset empty -/
  declared : List (Nat × Nat × Nat × Nat) := []
  /-- entries posted whose solve had not finished at its read and has not finished since; R429 (14); reset 0 -/
  lateDue : Nat := 0
  /-- MISSES; 64; R433 (14); reset 0 -/
  missCount : Word := 0
  /-- HOLDS; 64; R433 (14); reset 0 -/
  holds : Word := 0
  /-- SAFES; 64; R433 (14); reset 0 -/
  safes : Word := 0
  /-- LATE; 64; R429, R433 (14); reset 0 -/
  late : Word := 0
  /-- MEAS_DROPPED; 64; R427, R433 (14); reset 0 -/
  measDropped : Word := 0
  deriving DecidableEq, Repr

/-- The open flash update (16). -/
structure Update where
  /-- REC_STATUS.STATE: 0 IDLE, 1 OPEN, 2 VERIFIED, 3 FAILED; 3; R485 (16); reset 0 -/
  st : Nat := 0
  /-- REC_STATUS.OWNER: 0 none, 1 host, 2 sideband; 2; R485 (16); reset 0 -/
  owner : Nat := 0
  /-- component being updated: 1 image, 2 configuration block; R483 (16); reset 0 -/
  component : Nat := 0
  /-- REC_STATUS.REASON; 16; R485 (16); reset DONE -/
  reason : Status := 0
  /-- REC_STATUS.WRITTEN; 32; R485 (16); reset 0 -/
  written : Nat := 0
  /-- REC_OFFSET.OFFSET; 26; R485 (16); reset 0 -/
  offset : Nat := 0
  /-- sectors of the component erased in this update; R484 (16); reset empty -/
  erased : List Nat := []
  /-- write buffer, 4 KiB; R485 (16); reset 0 (DESIGN CHOICE, log entry 5) -/
  buffer : Memory := []
  deriving DecidableEq, Repr

/-- One connection of the SPDM responder (R476, R478). -/
structure Spdm where
  /-- GET_VERSION, GET_CAPABILITIES and NEGOTIATE_ALGORITHMS answered; 2; R476, R478 (16); reset 0 -/
  stage : Nat := 0
  /-- a signed response waits for its nonce: 0 none, 1 CHALLENGE, 2 GET_MEASUREMENTS; R478 (16); reset 0 -/
  busy : Nat := 0
  /-- what the waiting response holds before its signature; R477, R478 (16); reset empty -/
  body : List Byte := []
  /-- what the waiting response's signature covers of the messages before the response; R476 (16); reset empty -/
  asked : List Byte := []
  /-- messages of the connection's first phase, of its certificate requests since the last signature, and of its measurement
  requests since then, all in order: what signatures cover (DSP0274); R476 (16); reset empty -/
  vca   : List Byte := []
  certs : List Byte := []
  meas  : List Byte := []
  deriving DecidableEq, Repr

/-- Sideband and attestation (16). -/
structure Mgmt where
  /-- MCTP endpoint ID; 8; R479 (16); reset 0 -/
  eid : Nat := 0
  /-- I3C dynamic address, none while an SMBus target at 0x4C; 7; R479 (16); reset none -/
  dynAddr : Option Nat := none
  /-- PLDM terminus identifier; 8; R481 (16); reset 0 (PRESUMED, DMTF's DSP0240, log entry 10) -/
  tid : Nat := 0
  /-- numeric sensors 1 to 16 as last refreshed, none for one that is not present; R481 (16); reset 0 -/
  sensors : List (Option Nat) := List.replicate 16 (some 0)
  /-- the open update; R483, R485 (16) -/
  update : Update := {}
  /-- connection over DOE and over MCTP; R478 (16) -/
  doe : Spdm := {}
  mctp : Spdm := {}
  deriving DecidableEq, Repr

/-- What the block gives to the outside (model's own trace of its outputs; newest last). -/
inductive Out where
  | msix (vector : Nat)
  | value (v : Word)
  | bytes (data : List Byte)
  | pri (ctx page : Nat)
  | flit (link : Nat) (flit : List Byte)
  | nak (link failed : Nat)
  | identify (link chip grade arithRev : Nat) (nonce chain : List Byte)
  | identifySign (link : Nat) (signature : List Byte)
  | fabric (link channel chip : Nat) (msg : FabMsg)
  | frame (port : Nat) (bytes : List Byte)
  /-- an SPDM response; over MCTP with the address and the endpoint ID that send it (R476, R479) -/
  | spdm (port : SpdmPort) (sender : Option (Nat × Nat)) (code : Nat) (data : List Byte)
  /-- a PLDM response, with the address and the endpoint ID that send it (R479, R481) -/
  | pldm (sender : Nat × Nat) (code : Nat) (data : List Byte)
  /-- an event message of state sensor 100, with the address and the endpoint ID that send it (R479, R481) -/
  | pldmEvent (sender : Nat × Nat) (bit : Nat)
  | partnerLostEvent (port : Bool) (n : Nat)
  deriving DecidableEq, Repr

/-- The whole block. -/
structure State where
  /-- commands waiting, first in, first out (model's own; the queue every block of this kind has); reset empty -/
  pending : List Instr := []
  /-- draws made from the free values (model's own counter, DESIGN CHOICE 0, log entry 2); reset 0 -/
  fresh : Nat := 0
  /-- what the block has given to the outside (model's own trace); reset empty -/
  out : List Out := []
  /-- near memory, byte offsets; R26, R395 (01, 13); reset 0 everywhere (DESIGN CHOICE, log entry 3) -/
  near : Memory := []
  /-- far memory, byte offsets; R26, R396 (01, 13); reset 0 everywhere (DESIGN CHOICE, log entry 3) -/
  far : Memory := []
  /-- host memory by PASID: address c · 2^64 + a; R26, R379 (01, 13); reset 0 everywhere (DESIGN CHOICE, log entry 3) -/
  host : Memory := []
  /-- presence of host pages, by c · 2^52 + page of 4 KiB; R369, R400 (12, 13); reset all present (DESIGN CHOICE, log entry
  9) -/
  hostPages : Tab HostPage := []
  /-- ATS is enabled in the function's ATS capability; 1; R400 (13); reset 1 (DESIGN CHOICE 1, log entry 76) -/
  ats : Bool := true
  /-- PRI page requests in progress; R369, R400 (12, 13); reset empty -/
  pris : List PriReq := []
  /-- what holds an uncorrectable error: level and line, for the core store words of 64 bits, core · 2^20 + word; R22, R412,
  R413 (01, 13); reset empty -/
  badLines : List (Level × Nat) := []
  /-- corrected errors of near rows within the scrub pass, 3 once repair is due: channel · 2^32 + row; R415 (13); reset 0 -/
  rowErrors : Tab Nat := []
  /-- context served last by the fetcher; 12; R356 (12); reset 4,095, so that context 0 comes first (DESIGN CHOICE 4095, log
  entry 5) -/
  lastCtx : Nat := 4095
  /-- contexts 0 to 4,095; R379 (13); reset all default -/
  ctxs : Tab Ctx := []
  /-- plots 0 to 63; R388 (13); reset all default -/
  plots : Tab Plot := []
  /-- cores by logical number; R19, R503 (01, 17); reset all default -/
  cores : Tab Core := []
  /-- RUN descriptors in flight; R354 (12); reset empty -/
  runs : List Run := []
  /-- RNG block; R260 (09) -/
  rng : Rng := {}
  /-- reset lines, bring-up, runtime map; R439 (15) -/
  boot : Boot := {}
  /-- power and reset block; R469 (15) -/
  power : Power := {}
  /-- fabric block; R251 (08) -/
  fab : Fabric := {}
  /-- field ports 0 and 1; R418 (14) -/
  ports : List Port := [{}, {}]
  /-- service entries 0 to 7; R425 (14) -/
  services : List Service := List.replicate 8 {}
  /-- sideband and attestation; R479 (16) -/
  mgmt : Mgmt := {}
  /-- configuration flash; R434 (15) -/
  flash : Flash := {}
  /-- fuses; R442 (15) -/
  fuses : Fuses := {}
  /-- FE_STATUS.BAD_ACCESS; 1; R491, R496 (17); reset 0 -/
  badAccess : Bool := false
  /-- FE_STATUS.BAD_OFFSET; 26; R496 (17); reset 0 -/
  badOffset : Nat := 0
  /-- FE_POOL_NEAR.UNITS; 32; R402, R496 (13, 17); reset 0 -/
  poolNear : Nat := 0
  /-- FE_POOL_FAR.UNITS; 32; R402, R496 (13, 17); reset 0 -/
  poolFar : Nat := 0
  /-- FE_BAR4_NEAR_BASE.BASE; 32; R496 (17); reset 0 -/
  bar4Near : Nat := 0
  /-- FE_BAR4_FAR_BASE.BASE; 32; R496 (17); reset 0 -/
  bar4Far : Nat := 0
  /-- log2 of the BAR4 size; R490 (17); reset 36 (64 GiB) -/
  bar4Log2 : Nat := 36
  /-- MSI-X table, 2,048 entries of 16 B, held exclusive-ored with its reset image; R498 (17); reset image: every entry
  masked, all else 0 (PRESUMED, the PCI Express specification's, log entry 6) -/
  msixTable : Memory := []
  /-- MSI-X pending bits; 2,048; R372, R498 (12, 17); reset 0 -/
  msixPending : List Nat := []
  deriving DecidableEq, Repr

/-- The block as AON_RST_N holds it in reset with the rails good (R514): every register at its table's reset value,
every memory without a listed byte, every queue empty. -/
def State.reset : State := {}

end Sys2Proof.Machine
end

