-- ==== Sys2Proof/Machine/Ops.lean ====
section
/-! DEFINITION. The named operations over tables, bytes, memories and the parts of the state, which the meanings
share. The block has no exception entry of a processor's kind: the nearest thing, a trap of a control core, is
`trapHart` in Machine/Operands.lean. -/

namespace Sys2Proof.Machine

/-! ### Sparse tables -/

/-- The entry of a table at `k`, or the table's default. -/
def tabGet {α : Type} (d : α) (t : Tab α) (k : Nat) : α :=
  match t with
  | [] => d
  | (j, v) :: r => if j = k then v else tabGet d r k

/-- The table with `v` at `k`, numbers rising. -/
def tabSet {α : Type} (t : Tab α) (k : Nat) (v : α) : Tab α :=
  match t with
  | [] => [(k, v)]
  | (j, w) :: r => if j = k then (k, v) :: r else if k < j then (k, v) :: (j, w) :: r else (j, w) :: tabSet r k v

/-- The table without an entry at `k`. -/
def tabDel {α : Type} (t : Tab α) (k : Nat) : Tab α := t.filter (fun p => p.1 != k)

/-- The entry at `k` of a table in which an absent entry is no entry. -/
def tabFind {α : Type} (t : Tab α) (k : Nat) : Option α :=
  match t with
  | [] => none
  | (j, v) :: r => if j = k then some v else tabFind r k

/-- Replaces position `i` of a list by `f` of it. -/
def listUpd {α : Type} (l : List α) (i : Nat) (f : α → α) : List α :=
  match l, i with
  | [], _ => []
  | x :: r, 0 => f x :: r
  | x :: r, n + 1 => x :: listUpd r n f

/-! ### Bytes and words (R7: little-endian) -/

/-- The number that bytes spell, the least significant first. -/
def leNat (bs : List Byte) : Nat :=
  match bs with
  | [] => 0
  | b :: r => b.toNat + 256 * leNat r

/-- The low `n` bytes of a number, the least significant first. -/
def natLe (n : Nat) (v : Nat) : List Byte :=
  match n with
  | 0 => []
  | k + 1 => BitVec.ofNat 8 v :: natLe k (v / 256)

/-- Bits [hi:lo] of a number (R7). -/
def bitsOf (v hi lo : Nat) : Nat := (v / 2 ^ lo) % 2 ^ (hi + 1 - lo)

/-- Bit `i` of a number. -/
def bitOf (v i : Nat) : Bool := v.testBit i

/-- The two's-complement reading of a number of `w` bits. -/
def signedOf (w v : Nat) : Int := if v < 2 ^ (w - 1) then (v : Int) else (v : Int) - 2 ^ w

/-- Bytes `off` to `off + n - 1` of a structure, as a number. -/
def fieldOf (bs : List Byte) (off n : Nat) : Nat := leNat ((bs.drop off).take n)

/-- 1 for true (R7). -/
def bitNat (b : Bool) : Nat := if b then 1 else 0

/-- `n` zero bytes. -/
def zeros (n : Nat) : List Byte := List.replicate n 0

/-! ### Memories -/

/-- The byte at an address: an address that is not listed reads as zero. -/
def memRead (m : Memory) (a : Nat) : Byte :=
  match m with
  | [] => 0
  | (k, b) :: r => if k = a then b else memRead r a

/-- Writes one byte and keeps the canonical form. -/
def memWrite (m : Memory) (a : Nat) (v : Byte) : Memory :=
  match m with
  | [] => if v = 0 then [] else [(a, v)]
  | (k, b) :: r =>
    if k = a then (if v = 0 then r else (a, v) :: r)
    else if a < k then (if v = 0 then (k, b) :: r else (a, v) :: (k, b) :: r)
    else (k, b) :: memWrite r a v

/-- `n` bytes from an address. -/
def memReadN (m : Memory) (a n : Nat) : List Byte :=
  match n with
  | 0 => []
  | k + 1 => memRead m a :: memReadN m (a + 1) k

/-- Writes bytes at rising addresses. -/
def memWriteN (m : Memory) (a : Nat) (bs : List Byte) : Memory :=
  match bs with
  | [] => m
  | b :: r => memWriteN (memWrite m a b) (a + 1) r

/-- A number of `n` bytes at an address. -/
def memLoad (m : Memory) (a n : Nat) : Nat := leNat (memReadN m a n)

/-- Stores a number of `n` bytes. -/
def memStore (m : Memory) (a n v : Nat) : Memory := memWriteN m a (natLe n v)

/-- The canonical form: addresses rise from `lo`, no listed byte is zero. -/
def memWfFrom (lo : Nat) (m : Memory) : Bool :=
  match m with
  | [] => true
  | (k, b) :: r => decide (lo ≤ k) && decide (b ≠ 0) && memWfFrom (k + 1) r

/-- The canonical form of a memory. -/
def memWf (m : Memory) : Bool := memWfFrom 0 m

/-- Drops every listed byte of a range. -/
def memClear (m : Memory) (a n : Nat) : Memory := m.filter (fun c => decide (c.1 < a ∨ a + n ≤ c.1))

/-! ### Parts of the state -/

/-- The core with a logical number. -/
def State.coreAt (s : State) (n : Nat) : Core := tabGet {} s.cores n

/-- Replaces a core. -/
def State.setCore (s : State) (n : Nat) (c : Core) : State := { s with cores := tabSet s.cores n c }

/-- Changes a core. -/
def State.updCore (s : State) (n : Nat) (f : Core → Core) : State := s.setCore n (f (s.coreAt n))

/-- The context with a number. -/
def State.ctxAt (s : State) (n : Nat) : Ctx := tabGet {} s.ctxs n

/-- Replaces a context. -/
def State.setCtx (s : State) (n : Nat) (c : Ctx) : State := { s with ctxs := tabSet s.ctxs n c }

/-- Changes a context. -/
def State.updCtx (s : State) (n : Nat) (f : Ctx → Ctx) : State := s.setCtx n (f (s.ctxAt n))

/-- The plot with a number. -/
def State.plotAt (s : State) (n : Nat) : Plot := tabGet {} s.plots n

/-- Replaces a plot. -/
def State.setPlot (s : State) (n : Nat) (p : Plot) : State := { s with plots := tabSet s.plots n p }

/-- Changes a plot. -/
def State.updPlot (s : State) (n : Nat) (f : Plot → Plot) : State := s.setPlot n (f (s.plotAt n))

/-- A ring of a context. -/
def Ctx.ringAt (c : Ctx) (r : Nat) : Ring := tabGet {} c.rings r

/-- Replaces a ring of a context. -/
def Ctx.setRing (c : Ctx) (r : Nat) (q : Ring) : Ctx := { c with rings := tabSet c.rings r q }

/-- A ring, named by its context and its number. -/
def State.ringAt (s : State) (c r : Nat) : Ring := (s.ctxAt c).ringAt r

/-- Changes a ring. -/
def State.updRing (s : State) (c r : Nat) (f : Ring → Ring) : State :=
  s.updCtx c (fun x => x.setRing r (f (x.ringAt r)))

/-- The work a core holds. -/
def State.workAt (s : State) (n : Nat) : Work := (s.coreAt n).work

/-- Whether a logical number names an enabled core (R19, R451). -/
def State.coreEnabled (s : State) (n : Nat) : Bool := decide (s.boot.enabled.getD n 144 < 144)

/-- The number of enabled cores. -/
def State.coreCount (s : State) : Nat := (s.boot.enabled.filter (fun p => decide (p < 144))).length

/-- Changes the work of a core. -/
def State.updWork (s : State) (n : Nat) (f : Work → Work) : State :=
  s.updCore n (fun c => { c with work := f c.work })

/-- A RUN in flight. -/
def State.findRun (s : State) (k : RunKey) : Option Run := s.runs.find? (fun r => r.key == k)

/-- Replaces a RUN in flight. -/
def State.setRun (s : State) (r : Run) : State :=
  { s with runs := s.runs.map (fun q => if q.key = r.key then r else q) }

/-- Changes a RUN in flight. -/
def State.updRun (s : State) (k : RunKey) (f : Run → Run) : State :=
  { s with runs := s.runs.map (fun q => if q.key = k then f q else q) }

/-- The RUN that a core holds. -/
def State.runOf (s : State) (core : Nat) : Option Run :=
  match (s.workAt core).run with
  | none => none
  | some k => s.findRun k

/-- A queue of a core's work, by its unit. -/
def Work.unitQ (w : Work) (u : EngineUnit) : UnitQ :=
  match u with
  | .dma => w.dmaU
  | .spin => w.spinU
  | .dense => w.denseU
  | .vector => w.vecU

/-- Replaces a queue of a core's work. -/
def Work.setUnitQ (w : Work) (u : EngineUnit) (q : UnitQ) : Work :=
  match u with
  | .dma => { w with dmaU := q }
  | .spin => { w with spinU := q }
  | .dense => { w with denseU := q }
  | .vector => { w with vecU := q }

/-- A control core of a core's work. -/
def Work.cc (w : Work) (b : Bool) : CCore := if b then w.cc1 else w.cc0

/-- Replaces a control core of a core's work. -/
def Work.setCc (w : Work) (b : Bool) (c : CCore) : Work := if b then { w with cc1 := c } else { w with cc0 := c }

/-- A control core. -/
def State.hart (s : State) (h : Hart) : CCore := (s.workAt h.core).cc h.cc

/-- Replaces a control core. -/
def State.setHart (s : State) (h : Hart) (c : CCore) : State := s.updWork h.core (fun w => w.setCc h.cc c)

/-- Changes a control core. -/
def State.updHart (s : State) (h : Hart) (f : CCore → CCore) : State := s.setHart h (f (s.hart h))

/-- A boundary link. -/
def State.linkAt (s : State) (n : Nat) : Link := s.fab.links.getD n {}

/-- Changes a boundary link. -/
def State.updLink (s : State) (n : Nat) (f : Link → Link) : State :=
  { s with fab := { s.fab with links := listUpd s.fab.links n f } }

/-- A group entry. -/
def State.groupAt (s : State) (n : Nat) : Group := s.fab.groups.getD n {}

/-- Changes a group entry. -/
def State.updGroup (s : State) (n : Nat) (f : Group → Group) : State :=
  { s with fab := { s.fab with groups := listUpd s.fab.groups n f } }

/-- A field port. -/
def State.portAt (s : State) (n : Nat) : Port := s.ports.getD n {}

/-- Changes a field port. -/
def State.updPort (s : State) (n : Nat) (f : Port → Port) : State := { s with ports := listUpd s.ports n f }

/-- A service entry. -/
def State.svcAt (s : State) (n : Nat) : Service := s.services.getD n {}

/-- Changes a service entry. -/
def State.updSvc (s : State) (n : Nat) (f : Service → Service) : State :=
  { s with services := listUpd s.services n f }

/-- Gives something to the outside. -/
def State.emit (s : State) (o : Out) : State := { s with out := s.out ++ [o] }

/-- Counts one draw from the free values. -/
def State.tick (s : State) : State := { s with fresh := s.fresh + 1 }

/-! ### Ways into the package -/

/-- Whether the host reaches the operating BAR space: the PCIe link is up, the function is in D0 and the device
is not in recovery (R438, R440, R460). -/
def hostUp (s : State) : Bool := s.boot.link && s.boot.rails && !s.boot.d3hot && decide (s.boot.mode = 1)

/-- The host reaches the identity block: in normal and in recovery mode (R485, R493). -/
def recUp (s : State) : Bool := s.boot.link && s.boot.rails && !s.boot.d3hot && decide (s.boot.mode = 1 ∨ s.boot.mode = 2)

end Sys2Proof.Machine
end

