-- ==== Sys2Proof/Machine/Crypto.lean ====
section
/-! DEFINITION. The counter generator (R270 to R272), the check codes and the standard digests, and the block
cipher, conditioner and DRBG that the spec names: CRC-32C of RFC 3720 (R109), CRC-64 of ECMA-182 (R219), SHA-256
and SHA-384 of FIPS 180-4 (R293, R477), AES-256 of FIPS 197, the CBC-MAC conditioner of SP 800-90B (R257) and
CTR_DRBG of SP 800-90A (R258). The standards' own texts are PRESUMED (log entry 10). -/

namespace Sys2Proof.Machine

/-! ### The counter generator -/

/-- The four words of a counter, with the two keys. -/
structure Ctr where
  x0 : BitVec 32
  x1 : BitVec 32
  x2 : BitVec 32
  x3 : BitVec 32
  k0 : BitVec 32
  k1 : BitVec 32
  deriving DecidableEq, Repr

/-- The high word of a 64-bit product (R270). -/
def mulHi (a b : BitVec 32) : BitVec 32 := BitVec.ofNat 32 (a.toNat * b.toNat / 2 ^ 32)

/-- One round (R270): every new word is formed from the words and keys at the round's start. -/
def ctrRound (c : Ctr) : Ctr :=
  let m0 : BitVec 32 := 0xA3B1_95D5
  let m1 : BitVec 32 := 0xC8E1_F267
  { x0 := mulHi c.x2 m1 ^^^ c.x1 ^^^ c.k0
    x1 := (c.x2 * m1).rotateLeft 11
    x2 := mulHi c.x0 m0 ^^^ c.x3 ^^^ c.k1
    x3 := (c.x0 * m0).rotateLeft 11
    k0 := c.k0 + 0x7F4A_7C15
    k1 := c.k1 + 0x5851_F42D }

/-- `n` rounds. -/
def ctrRounds (n : Nat) (c : Ctr) : Ctr :=
  match n with
  | 0 => c
  | k + 1 => ctrRounds k (ctrRound c)

/-- The counter at coordinates (R271). -/
def ctrOf (seed stream site step replica purpose : Nat) : Ctr :=
  { x0 := BitVec.ofNat 32 step
    x1 := BitVec.ofNat 32 (purpose % 16 * 2 ^ 28 + replica % 2 ^ 12 * 2 ^ 16 + step / 2 ^ 32 % 2 ^ 16)
    x2 := BitVec.ofNat 32 site
    x3 := BitVec.ofNat 32 (stream % 2 ^ 16 * 2 ^ 16 + site / 2 ^ 32 % 2 ^ 16)
    k0 := BitVec.ofNat 32 seed
    k1 := BitVec.ofNat 32 (seed / 2 ^ 32) }

/-- The four output words at coordinates (R270, R271). -/
def ctrWords (seed stream site step replica purpose : Nat) : Ctr :=
  ctrRounds 12 (ctrOf seed stream site step replica purpose)

/-- Word 0 at coordinates (R271). -/
def ctrWord (seed stream site step replica purpose : Nat) : Nat :=
  (ctrWords seed stream site step replica purpose).x0.toNat

/-! ### Check codes -/

/-- Eight steps of a reflected CRC-32C. -/
def crc32Step (n : Nat) (c : Nat) : Nat :=
  match n with
  | 0 => c
  | k + 1 => crc32Step k (if c % 2 = 1 then (c / 2) ^^^ 0x82F6_3B78 else c / 2)

/-- CRC-32C (R109). -/
def crc32c (bs : List Byte) : Nat :=
  (bs.foldl (fun c b => crc32Step 8 (c ^^^ b.toNat)) 0xFFFF_FFFF) ^^^ 0xFFFF_FFFF

/-- Eight steps of CRC-64. -/
def crc64Step (n : Nat) (c : Nat) : Nat :=
  match n with
  | 0 => c
  | k + 1 => crc64Step k (if 2 ^ 63 ≤ c then (c * 2 % 2 ^ 64) ^^^ 0x42F0_E1EB_A9EA_3693 else c * 2)

/-- CRC-64 with the polynomial of ECMA-182, most significant bit first, initial value zero (R219; the initial value,
the bit order and the byte order are PRESUMED from ECMA-182, log entry 10). -/
def crc64 (bs : List Byte) : Nat := bs.foldl (fun c b => crc64Step 8 (c ^^^ (b.toNat * 2 ^ 56))) 0

/-! ### SHA-2 -/

/-- The number that bytes spell, the most significant first. -/
def beNat (bs : List Byte) : Nat := bs.foldl (fun n b => n * 256 + b.toNat) 0

/-- The low `n` bytes of a number, the most significant first. -/
def natBe (n v : Nat) : List Byte := (natLe n v).reverse

/-- The constants of SHA-512; those of SHA-256 are the high halves of the first 64. -/
def shaK : List Nat :=
  [0x428a2f98d728ae22, 0x7137449123ef65cd, 0xb5c0fbcfec4d3b2f, 0xe9b5dba58189dbbc] ++
  [0x3956c25bf348b538, 0x59f111f1b605d019, 0x923f82a4af194f9b, 0xab1c5ed5da6d8118] ++
  [0xd807aa98a3030242, 0x12835b0145706fbe, 0x243185be4ee4b28c, 0x550c7dc3d5ffb4e2] ++
  [0x72be5d74f27b896f, 0x80deb1fe3b1696b1, 0x9bdc06a725c71235, 0xc19bf174cf692694] ++
  [0xe49b69c19ef14ad2, 0xefbe4786384f25e3, 0x0fc19dc68b8cd5b5, 0x240ca1cc77ac9c65] ++
  [0x2de92c6f592b0275, 0x4a7484aa6ea6e483, 0x5cb0a9dcbd41fbd4, 0x76f988da831153b5] ++
  [0x983e5152ee66dfab, 0xa831c66d2db43210, 0xb00327c898fb213f, 0xbf597fc7beef0ee4] ++
  [0xc6e00bf33da88fc2, 0xd5a79147930aa725, 0x06ca6351e003826f, 0x142929670a0e6e70] ++
  [0x27b70a8546d22ffc, 0x2e1b21385c26c926, 0x4d2c6dfc5ac42aed, 0x53380d139d95b3df] ++
  [0x650a73548baf63de, 0x766a0abb3c77b2a8, 0x81c2c92e47edaee6, 0x92722c851482353b] ++
  [0xa2bfe8a14cf10364, 0xa81a664bbc423001, 0xc24b8b70d0f89791, 0xc76c51a30654be30] ++
  [0xd192e819d6ef5218, 0xd69906245565a910, 0xf40e35855771202a, 0x106aa07032bbd1b8] ++
  [0x19a4c116b8d2d0c8, 0x1e376c085141ab53, 0x2748774cdf8eeb99, 0x34b0bcb5e19b48a8] ++
  [0x391c0cb3c5c95a63, 0x4ed8aa4ae3418acb, 0x5b9cca4f7763e373, 0x682e6ff3d6b2b8a3] ++
  [0x748f82ee5defb2fc, 0x78a5636f43172f60, 0x84c87814a1f0ab72, 0x8cc702081a6439ec] ++
  [0x90befffa23631e28, 0xa4506cebde82bde9, 0xbef9a3f7b2c67915, 0xc67178f2e372532b] ++
  [0xca273eceea26619c, 0xd186b8c721c0c207, 0xeada7dd6cde0eb1e, 0xf57d4f7fee6ed178] ++
  [0x06f067aa72176fba, 0x0a637dc5a2c898a6, 0x113f9804bef90dae, 0x1b710b35131c471b] ++
  [0x28db77f523047d84, 0x32caab7b40c72493, 0x3c9ebe0a15c9bebc, 0x431d67c49c100d4c] ++
  [0x4cc5d4becb3e42b6, 0x597f299cfc657e2a, 0x5fcb6fab3ad6faec, 0x6c44198c4a475817]

/-- The word size of a digest with its rotation amounts. -/
structure ShaSize where
  w    : Nat
  big0 : List Nat
  big1 : List Nat
  sm0  : List Nat
  sm1  : List Nat
  rounds : Nat
  deriving DecidableEq, Repr

/-- SHA-256. -/
def sha256Size : ShaSize := ⟨32, [2, 13, 22], [6, 11, 25], [7, 18, 3], [17, 19, 10], 64⟩
/-- SHA-512 and SHA-384. -/
def sha512Size : ShaSize := ⟨64, [28, 34, 39], [14, 18, 41], [1, 8, 7], [19, 61, 6], 80⟩

/-- Rotates right within `w` bits. -/
def rotr (w x n : Nat) : Nat := (x / 2 ^ n) ||| (x * 2 ^ (w - n) % 2 ^ w)

/-- Exclusive-or of three rotations. -/
def shaBig (w : Nat) (r : List Nat) (x : Nat) : Nat :=
  rotr w x (r.getD 0 0) ^^^ rotr w x (r.getD 1 0) ^^^ rotr w x (r.getD 2 0)

/-- Exclusive-or of two rotations and a shift. -/
def shaSmall (w : Nat) (r : List Nat) (x : Nat) : Nat :=
  rotr w x (r.getD 0 0) ^^^ rotr w x (r.getD 1 0) ^^^ (x / 2 ^ r.getD 2 0)

/-- One round over the eight working variables and the window of 16 schedule words. -/
def shaRound (z : ShaSize) (st : List Nat × List Nat) (i : Nat) : List Nat × List Nat :=
  let m := 2 ^ z.w
  let v := st.1
  let ws := st.2
  let g (n : Nat) := v.getD n 0
  let w0 := ws.getD 0 0
  let k := if z.w = 32 then shaK.getD i 0 / 2 ^ 32 else shaK.getD i 0
  let ch := (g 4 &&& g 5) ^^^ ((m - 1 - g 4) &&& g 6)
  let t1 := (g 7 + shaBig z.w z.big1 (g 4) + ch + k + w0) % m
  let maj := (g 0 &&& g 1) ^^^ (g 0 &&& g 2) ^^^ (g 1 &&& g 2)
  let t2 := (shaBig z.w z.big0 (g 0) + maj) % m
  let nw := (shaSmall z.w z.sm1 (ws.getD 14 0) + ws.getD 9 0 + shaSmall z.w z.sm0 (ws.getD 1 0) + w0) % m
  ([(t1 + t2) % m, g 0, g 1, g 2, (g 3 + t1) % m, g 4, g 5, g 6], ws.drop 1 ++ [nw])

/-- One block. -/
def shaBlock (z : ShaSize) (h : List Nat) (block : List Byte) : List Nat :=
  let nb := z.w / 8
  let ws := (List.range 16).map (fun i => beNat ((block.drop (i * nb)).take nb))
  let r := (List.range z.rounds).foldl (shaRound z) (h, ws)
  (h.zip r.1).map (fun p => (p.1 + p.2) % 2 ^ z.w)

/-- Splits bytes into blocks of `n`; the count bounds the recursion. -/
def byteBlocks (n k : Nat) (l : List Byte) : List (List Byte) :=
  match k with
  | 0 => []
  | j + 1 => l.take n :: byteBlocks n j (l.drop n)

/-- The digest words of a message from an initial value. -/
def shaWords (z : ShaSize) (iv : List Nat) (msg : List Byte) : List Nat :=
  let bl := z.w * 2
  let lenBytes := z.w / 4
  let padLen := (bl - (msg.length + 1 + lenBytes) % bl) % bl
  let padded := msg ++ [0x80] ++ zeros padLen ++ natBe lenBytes (msg.length * 8)
  (byteBlocks bl (padded.length / bl) padded).foldl (shaBlock z) iv

/-- SHA-256: 32 bytes. -/
def sha256 (msg : List Byte) : List Byte :=
  (shaWords sha256Size [0x6a09e667, 0xbb67ae85, 0x3c6ef372, 0xa54ff53a, 0x510e527f, 0x9b05688c, 0x1f83d9ab, 0x5be0cd19] msg).flatMap (natBe 4)

/-- SHA-384: 48 bytes. -/
def sha384 (msg : List Byte) : List Byte :=
  ((shaWords sha512Size ([0xcbbb9d5dc1059ed8, 0x629a292a367cd507, 0x9159015a3070dd17, 0x152fecd8f70e5939] ++ [0x67332667ffc00b31, 0x8eb44a8768581511, 0xdb0c2e0d64f98fa7, 0x47b5481dbefa4fa4]) msg).take 6).flatMap (natBe 8)

/-! ### AES-256, conditioner and DRBG -/

/-- Multiplication by x in GF(2^8). -/
def gfDouble (a : Nat) : Nat := if a < 128 then a * 2 else (a * 2 - 256) ^^^ 0x1B

/-- Product in GF(2^8), over the low `n` bits of `b`. -/
def gfMul (n a b : Nat) : Nat :=
  match n with
  | 0 => 0
  | k + 1 => (if b % 2 = 1 then a else 0) ^^^ gfMul k (gfDouble a) (b / 2)

/-- The inverse in GF(2^8), as the 254th power. -/
def gfInv (a : Nat) : Nat :=
  let m := gfMul 8
  let a2 := m a a
  let a3 := m a2 a
  let a6 := m a3 a3
  let a12 := m a6 a6
  let a15 := m a12 a3
  let a30 := m a15 a15
  let a60 := m a30 a30
  let a120 := m a60 a60
  let a126 := m a120 a6
  let a127 := m a126 a
  m a127 a127

/-- The substitution of FIPS 197. -/
def aesSub (a : Nat) : Nat :=
  let b := gfInv a
  let r (n : Nat) := (b * 2 ^ n) % 256 ||| (b / 2 ^ (8 - n))
  b ^^^ r 1 ^^^ r 2 ^^^ r 3 ^^^ r 4 ^^^ 0x63

/-- The substitution as a table, so that it is formed once for each use. -/
def aesTable : List Nat := (List.range 256).map aesSub

/-- Exclusive-or of two lists. -/
def xorList (a b : List Nat) : List Nat := (a.zip b).map (fun p => p.1 ^^^ p.2)

/-- The 60 words of the key schedule, newest first. -/
def aesExpand (sb : List Nat) (n : Nat) (ws : List (List Nat)) (rcon : Nat) : List (List Nat) :=
  match n with
  | 0 => ws
  | k + 1 =>
    let i := ws.length
    let prev := ws.getD 0 []
    let sub (l : List Nat) := l.map (fun x => sb.getD x 0)
    let t := if i % 8 = 0 then xorList (sub (prev.drop 1 ++ prev.take 1)) [rcon, 0, 0, 0]
             else if i % 8 = 4 then sub prev else prev
    aesExpand sb k (xorList (ws.getD 7 []) t :: ws) (if i % 8 = 0 then gfDouble rcon else rcon)

/-- The round keys in order. -/
def aesKeys (sb key : List Nat) : List (List Nat) :=
  let first := (List.range 8).map (fun i => (key.drop (4 * i)).take 4)
  let ws := (aesExpand sb 52 first.reverse 1).reverse
  (List.range 15).map (fun i => ((ws.drop (4 * i)).take 4).flatten)

/-- Rows shifted, column-major. -/
def aesShift (s : List Nat) : List Nat :=
  (List.range 16).map (fun i => s.getD ((i + 4 * (i % 4)) % 16) 0)

/-- Columns mixed. -/
def aesMix (s : List Nat) : List Nat :=
  (List.range 16).map (fun i =>
    let c := i / 4 * 4
    let g (k : Nat) := s.getD (c + (i + k) % 4) 0
    gfDouble (g 0) ^^^ (gfDouble (g 1) ^^^ g 1) ^^^ g 2 ^^^ g 3)

/-- AES-256 of one block under expanded keys. -/
def aesBlock (sb : List Nat) (keys : List (List Nat)) (b : List Nat) : List Nat :=
  let sub (l : List Nat) := l.map (fun x => sb.getD x 0)
  let mid := ((keys.drop 1).take 13).foldl (fun s k => xorList (aesMix (aesShift (sub s))) k)
    (xorList b (keys.getD 0 []))
  xorList (aesShift (sub mid)) (keys.getD 14 [])

/-- CBC-MAC over whole blocks. -/
def aesMac (sb : List Nat) (keys : List (List Nat)) (bs : List (List Nat)) : List Nat :=
  bs.foldl (fun c b => aesBlock sb keys (xorList c b)) (List.replicate 16 0)

/-- The fixed key 0x00, 0x01, … 0x1F (R257). -/
def fixedKey : List Nat := List.range 32

/-- Splits a list of numbers into blocks of 16. -/
def blocks16 (k : Nat) (l : List Nat) : List (List Nat) :=
  match k with
  | 0 => []
  | j + 1 => l.take 16 :: blocks16 j (l.drop 16)

/-- Numbers of bits, the bit of least weight first (R257). -/
def bitsByte (l : List Bool) : Nat :=
  match l with
  | [] => 0
  | b :: r => bitNat b + 2 * bitsByte r

/-- The conditioner's output for 512 bits (R257): 128 bits as 16 bytes, byte 0 first. -/
def condition (bits : List Bool) : List Nat :=
  let bytes := (List.range 64).map (fun i => bitsByte ((bits.drop (8 * i)).take 8))
  aesMac aesTable (aesKeys aesTable fixedKey) (blocks16 4 bytes)

/-- The bytes of a number, the most significant first, as numbers. -/
def beBytes (n v : Nat) : List Nat := (natBe n v).map BitVec.toNat

/-- The number that byte values spell, the most significant first. -/
def beVal (l : List Nat) : Nat := l.foldl (fun n b => n * 256 + b) 0

/-- The derivation function of SP 800-90A for 48 bytes. -/
def drbgDf (input : List Nat) : List Nat :=
  let s0 := beBytes 4 input.length ++ beBytes 4 48 ++ input ++ [0x80]
  let s := s0 ++ List.replicate ((16 - s0.length % 16) % 16) 0
  let keys := aesKeys aesTable fixedKey
  let temp := (List.range 3).flatMap (fun i =>
    let m := beBytes 4 i ++ List.replicate 12 0 ++ s
    aesMac aesTable keys (blocks16 (m.length / 16) m))
  let k2 := aesKeys aesTable (temp.take 32)
  let x1 := aesBlock aesTable k2 (temp.drop 32)
  let x2 := aesBlock aesTable k2 x1
  let x3 := aesBlock aesTable k2 x2
  x1 ++ x2 ++ x3

/-- `n` blocks of output from a key and V, with the V after them. -/
def drbgBlocks (n key v : Nat) : List Nat × Nat :=
  let ks := aesKeys aesTable (beBytes 32 key)
  ((List.range n).flatMap (fun i => aesBlock aesTable ks (beBytes 16 (v + 1 + i))), (v + n) % 2 ^ 128)

/-- The update function of CTR_DRBG: key and V. -/
def drbgUpdate (data : List Nat) (kv : Nat × Nat) : Nat × Nat :=
  let t := xorList (drbgBlocks 3 kv.1 kv.2).1 data
  (beVal (t.take 32), beVal (t.drop 32))

/-- Instantiation from entropy, nonce and personalisation (R258). -/
def drbgInstantiate (seed : List Nat) : Nat × Nat := drbgUpdate (drbgDf seed) (0, 0)

/-- Reseeding from fresh entropy (R258). -/
def drbgReseed (seed : List Nat) (kv : Nat × Nat) : Nat × Nat := drbgUpdate (drbgDf seed) kv

/-- One generate call of at most 64 bytes (R258): the bytes and the key and V after it. -/
def drbgGenerate (n : Nat) (kv : Nat × Nat) : List Nat × (Nat × Nat) :=
  let p := drbgBlocks ((n + 15) / 16) kv.1 kv.2
  (p.1.take n, drbgUpdate (List.replicate 48 0) (kv.1, p.2))

end Sys2Proof.Machine
end

