-- ==== Sys2Proof/Machine/Num.lean ====
section
/-! DEFINITION. Number formats (chapter 02): exact dyadic numbers, the floating-point formats and their single
rounding (R10, R46), the long accumulator and its image (R37 to R49), the PAIR format (R59 to R62), the SR32
format (R65) and the output step (R47, R69, R70). -/

namespace Sys2Proof.Machine

/-! ### Exact numbers -/

/-- The exact number m · 2^e. -/
structure Dy where
  m : Int
  e : Int
  deriving DecidableEq, Repr

/-- The significand of `a` at the exponent `e`, which is at most that of `a`. -/
def dyAt (a : Dy) (e : Int) : Int := a.m * 2 ^ (a.e - e).toNat

/-- Exact sum. -/
def dyAdd (a b : Dy) : Dy :=
  let e := min a.e b.e
  ⟨dyAt a e + dyAt b e, e⟩

/-- Exact negation. -/
def dyNeg (a : Dy) : Dy := ⟨-a.m, a.e⟩

/-- Exact difference. -/
def dySub (a b : Dy) : Dy := dyAdd a (dyNeg b)

/-- Exact product. -/
def dyMul (a b : Dy) : Dy := ⟨a.m * b.m, a.e + b.e⟩

/-- a ≤ b. -/
def dyLe (a b : Dy) : Bool :=
  let e := min a.e b.e
  decide (dyAt a e ≤ dyAt b e)

/-- a < b. -/
def dyLt (a b : Dy) : Bool := !dyLe b a

/-- An integer as an exact number. -/
def dyInt (n : Int) : Dy := ⟨n, 0⟩

/-- Nearest integer to n / d, ties to even (R10). -/
def divRne (n : Nat) (d : Nat) : Nat :=
  let q := n / d
  let r := n % d
  if 2 * r < d then q else if d < 2 * r then q + 1 else if q % 2 = 0 then q else q + 1

/-- Nearest integer to n · 2^-k, ties to even. -/
def shrRne (n k : Nat) : Nat := divRne n (2 ^ k)

/-- RNI of a dyadic number (R70). -/
def dyRni (a : Dy) : Int :=
  if 0 ≤ a.e then a.m * 2 ^ a.e.toNat
  else if a.m < 0 then -(shrRne a.m.natAbs (-a.e).toNat : Int) else (shrRne a.m.natAbs (-a.e).toNat : Int)

/-- RNI of a / b for b > 0. -/
def dyRniDiv (a b : Dy) : Int :=
  let e := min a.e b.e
  let n := dyAt a e
  let d := dyAt b e
  if n < 0 then -(divRne n.natAbs d.natAbs : Int) else (divRne n.natAbs d.natAbs : Int)

/-- An exact number, an infinity or a NaN. -/
inductive Num where
  | fin (d : Dy)
  | inf (neg : Bool)
  | nan
  deriving DecidableEq, Repr

/-- Product under R47: zero times a finite value is zero, an infinity times zero is NaN. -/
def numMul (a b : Num) : Num :=
  match a, b with
  | .nan, _ => .nan
  | _, .nan => .nan
  | .fin x, .fin y => .fin (dyMul x y)
  | .inf n, .fin y => if y.m = 0 then .nan else .inf (n != decide (y.m < 0))
  | .fin x, .inf n => if x.m = 0 then .nan else .inf (n != decide (x.m < 0))
  | .inf m, .inf n => .inf (m != n)

/-- Sum of two values that may be infinite (IEEE 754, R45). -/
def numAdd (a b : Num) : Num :=
  match a, b with
  | .nan, _ => .nan
  | _, .nan => .nan
  | .fin x, .fin y => .fin (dyAdd x y)
  | .inf n, .fin _ => .inf n
  | .fin _, .inf n => .inf n
  | .inf m, .inf n => if m = n then .inf m else .nan

/-! ### Floating-point formats -/

/-- A binary format: exponent bits, fraction bits. -/
structure Fmt where
  eb : Nat
  mb : Nat
  deriving DecidableEq, Repr

/-- FP32. -/
def fmt32 : Fmt := ⟨8, 23⟩
/-- BF16. -/
def fmtBf : Fmt := ⟨8, 7⟩
/-- FP16. -/
def fmt16 : Fmt := ⟨5, 10⟩

/-- The exponent of the format's least subnormal: its smallest positive value is 2 to this. -/
def Fmt.low (f : Fmt) : Int := 2 - 2 ^ (f.eb - 1) - f.mb

/-- The bits of the format's positive infinity. -/
def Fmt.infBits (f : Fmt) : Nat := (2 ^ f.eb - 1) * 2 ^ f.mb

/-- The canonical quiet NaN (R46). -/
def Fmt.nanBits (f : Fmt) : Nat := f.infBits + 2 ^ (f.mb - 1)

/-- The sign bit. -/
def Fmt.signBit (f : Fmt) : Nat := 2 ^ (f.eb + f.mb)

/-- Whether the encoding's sign bit is set. -/
def fpNeg (f : Fmt) (b : Nat) : Bool := b.testBit (f.eb + f.mb)

/-- The value that an encoding stands for; both zeros are zero (R40). -/
def fpVal (f : Fmt) (b : Nat) : Num :=
  let mag := b % f.signBit
  let ex := mag / 2 ^ f.mb
  let fr := mag % 2 ^ f.mb
  let sgn : Int := if fpNeg f b then -1 else 1
  if ex = 2 ^ f.eb - 1 then (if fr = 0 then .inf (fpNeg f b) else .nan)
  else if ex = 0 then .fin ⟨sgn * fr, f.low⟩
  else .fin ⟨sgn * (fr + 2 ^ f.mb : Nat), f.low + (ex - 1 : Nat)⟩

/-- The magnitude bits nearest to a positive number, ties to even, infinity past the largest finite value (R46). -/
def fpRoundMag (f : Fmt) (m : Nat) (e : Int) : Nat :=
  if m = 0 then 0
  else
    let q : Int := max ((Nat.log2 m : Int) + e - f.mb) f.low
    let n : Nat := if q ≤ e then m * 2 ^ (e - q).toNat else shrRne m (q - e).toNat
    min ((q - f.low).toNat * 2 ^ f.mb + n) f.infBits

/-- Rounds an exact number once; an exact zero gives +0 (R46). -/
def fpRound (f : Fmt) (d : Dy) : Nat :=
  fpRoundMag f d.m.natAbs d.e + (if d.m < 0 then f.signBit else 0)

/-- Rounds a value that may be non-finite (R46). -/
def numRound (f : Fmt) (x : Num) : Nat :=
  match x with
  | .nan => f.nanBits
  | .inf n => f.infBits + (if n then f.signBit else 0)
  | .fin d => fpRound f d

/-- FP32 addition as IEEE 754 gives it: an exact zero sum is +0 unless both operands are −0. -/
def fpAdd (a b : Nat) : Nat :=
  match numAdd (fpVal fmt32 a) (fpVal fmt32 b) with
  | .fin d =>
    if d.m = 0 then (if a = fmt32.signBit ∧ b = fmt32.signBit then fmt32.signBit else 0)
    else fpRound fmt32 d
  | x => numRound fmt32 x

/-- FP32 negation of the sign bit. -/
def fpNegate (a : Nat) : Nat := if fpNeg fmt32 a then a - fmt32.signBit else a + fmt32.signBit

/-- FP32 subtraction. -/
def fpSub (a b : Nat) : Nat := fpAdd a (fpNegate b)

/-- FP32 multiplication. -/
def fpMul (a b : Nat) : Nat :=
  match numMul (fpVal fmt32 a) (fpVal fmt32 b) with
  | .fin d =>
    if d.m = 0 then (if fpNeg fmt32 a != fpNeg fmt32 b then fmt32.signBit else 0)
    else fpRound fmt32 d
  | x => numRound fmt32 x

/-- Whether an FP32 encoding is finite. -/
def fpFinite (a : Nat) : Bool := decide ((a % fmt32.signBit) / 2 ^ 23 ≠ 255)

/-- Whether an FP32 encoding is a NaN. -/
def fpNan (a : Nat) : Bool := decide (fmt32.infBits < a % fmt32.signBit)

/-! ### The long accumulator -/

/-- An LACC register: a finite value in units of 2^-200, or its flags (R37, R39). -/
inductive Lacc where
  | fin (v : Int)
  | pinf
  | ninf
  | nan
  deriving DecidableEq, Repr

/-- The register after an exact sum: a flag outside the range of R38 (R44). -/
def laccOf (v : Int) : Lacc :=
  if (2 : Int) ^ 383 - 1 < v then .pinf else if v < -(2 : Int) ^ 383 + 4 then .ninf else .fin v

/-- LACC addition (R44, R45). -/
def laccAdd (a b : Lacc) : Lacc :=
  match a, b with
  | .fin x, .fin y => laccOf (x + y)
  | .nan, _ => .nan
  | _, .nan => .nan
  | .pinf, .ninf => .nan
  | .ninf, .pinf => .nan
  | .pinf, _ => .pinf
  | _, .pinf => .pinf
  | .ninf, _ => .ninf
  | _, .ninf => .ninf

/-- The negative of a value, exact. The three finite values above 2^183 − 2^−198 have a negative below the range of R38,
of which the spec says nothing: it is kept as it is (DESIGN CHOICE, log entry 71). -/
def laccNeg (a : Lacc) : Lacc :=
  match a with
  | .fin x => .fin (-x)
  | .pinf => .ninf
  | .ninf => .pinf
  | .nan => .nan

/-- The LACC value as a number. -/
def laccNum (a : Lacc) : Num :=
  match a with
  | .fin v => .fin ⟨v, -200⟩
  | .pinf => .inf false
  | .ninf => .inf true
  | .nan => .nan

/-- Whether both flags are clear. -/
def laccFinite (a : Lacc) : Bool :=
  match a with
  | .fin _ => true
  | _ => false

/-- A dyadic number as a count of 2^-200, rounded to nearest, ties to even, and whether it was inexact (R54). -/
def dyUnits (d : Dy) : Int × Bool :=
  let e := d.e + 200
  if 0 ≤ e then (d.m * 2 ^ e.toNat, false)
  else (dyRni ⟨d.m, e⟩, decide (d.m.natAbs % 2 ^ (-e).toNat ≠ 0))

/-- A floating-point value as an LACC value (R40, R54). -/
def numLacc (x : Num) : Lacc :=
  match x with
  | .fin d => laccOf (dyUnits d).1
  | .inf n => if n then .ninf else .pinf
  | .nan => .nan

/-- The 384 bits of an LACC image (R49). -/
def laccBits (a : Lacc) : Nat :=
  match a with
  | .fin v => (v % (2 : Int) ^ 384).toNat
  | .pinf => 2 ^ 383 + 1
  | .ninf => 2 ^ 383 + 2
  | .nan => 2 ^ 383 + 3

/-- The value that an image stands for (R49). -/
def laccOfBits (n : Nat) : Lacc :=
  if n < 2 ^ 383 then .fin n
  else
    let r := n - 2 ^ 383
    if r = 1 then .pinf else if r = 2 then .ninf else if r = 3 ∨ r = 0 then .nan
    else .fin ((n : Int) - 2 ^ 384)

/-- The 48 bytes of an image. -/
def laccImage (a : Lacc) : List Byte := natLe 48 (laccBits a)

/-- The value of 48 bytes. -/
def laccOfImage (bs : List Byte) : Lacc := laccOfBits (leNat bs)

/-! ### The PAIR format -/

/-- A PAIR value: v and c as FP32 encodings (R50). -/
structure Pair where
  v : Nat
  c : Nat
  deriving DecidableEq, Repr

/-- Exact sum of two FP32 values with its error, each operation rounded (R61): s, e and the intermediates. -/
def twoSum (a b : Nat) : List Nat :=
  let s := fpAdd a b
  let bb := fpSub s a
  let x := fpSub s bb
  let y := fpSub a x
  let z := fpSub b bb
  let e := fpAdd y z
  [s, e, bb, x, y, z]

/-- The faster form for |a| ≥ |b| (R61): s, e and the intermediate. -/
def fastTwoSum (a b : Nat) : List Nat :=
  let s := fpAdd a b
  let z := fpSub s a
  [s, fpSub b z, z]

/-- PAIR addition (R61), with (v, +0) where any part is non-finite (R62). -/
def pairAdd (x y : Pair) : Pair :=
  let t1 := twoSum x.v y.v
  let t2 := twoSum x.c y.c
  let c := fpAdd (t1.getD 1 0) (t2.getD 0 0)
  let f1 := fastTwoSum (t1.getD 0 0) c
  let w := fpAdd (t2.getD 1 0) (f1.getD 1 0)
  let f2 := fastTwoSum (f1.getD 0 0) w
  if ([x.v, x.c, y.v, y.c, c, w] ++ t1 ++ t2 ++ f1 ++ f2).all fpFinite then ⟨f2.getD 0 0, f2.getD 1 0⟩
  else ⟨fpAdd x.v y.v, 0⟩

/-- A term's entry into the PAIR path (R60). -/
def pairOfTerm (t : Dy) : Pair :=
  let hi := fpRound fmt32 t
  match fpVal fmt32 hi with
  | .fin h => ⟨hi, fpRound fmt32 (dySub t h)⟩
  | _ => ⟨hi, 0⟩

/-- The real value v + c (R69). -/
def pairNum (p : Pair) : Num := numAdd (fpVal fmt32 p.v) (fpVal fmt32 p.c)

/-! ### The SR32 format -/

/-- The random rounding above the largest finite value: q is that value, d an infinity, the spacing 2^104 (R65). -/
def srTop (m : Nat) (e : Int) (sgn r : Nat) : Nat :=
  let rest := dySub ⟨m, e⟩ ⟨2 ^ 24 - 1, 104⟩
  let f := (dyAt rest (min rest.e 72) / 2 ^ (72 - min rest.e 72).toNat).toNat
  if r < f then fmt32.infBits + sgn else fmt32.infBits - 1 + sgn

/-- SR32 addition of a term, with the random word of R66 (R65). -/
def srAdd (v : Nat) (t : Dy) (r : Nat) : Nat :=
  match fpVal fmt32 v with
  | .fin x =>
    let a := dyAdd x t
    let m := a.m.natAbs
    let sgn := if a.m < 0 then fmt32.signBit else 0
    let q : Int := max ((Nat.log2 m : Int) + a.e - 23) fmt32.low
    let k := (q - a.e).toNat
    let n := m * 2 ^ (a.e - q).toNat / 2 ^ k
    let mag := (q - fmt32.low).toNat * 2 ^ 23 + n
    if m = 0 then 0
    else if fmt32.infBits ≤ mag then srTop m a.e sgn r
    else if m % 2 ^ k = 0 then mag + sgn
    else if r < (m % 2 ^ k) * 2 ^ 32 / 2 ^ k then mag + 1 + sgn
    else mag + sgn
  | x => numRound fmt32 x

/-! ### The output step -/

/-- An output format: a floating-point format, an LACC image, or an integer code with its limits (R69, R77). -/
inductive OutFmt where
  | fp (f : Fmt) (bytes : Nat)
  | image
  | code (width : Nat) (lo hi : Int)
  deriving DecidableEq, Repr

/-- Clamps an integer. -/
def clampInt (x lo hi : Int) : Int := if x < lo then lo else if hi < x then hi else x

/-- Requantisation (R70): the code and whether it is clipped. An infinity gives the end of the range under a multiplier of
zero too: R70's words, where R192 says that every code then equals the zero point (DESIGN CHOICE, log entry 106). -/
def requant (x : Num) (mult : Nat) (z lo hi : Int) : Int × Bool :=
  match x with
  | .nan => (clampInt z lo hi, true)
  | .inf n => (if n then lo else hi, true)
  | .fin d =>
    match fpVal fmt32 mult with
    | .fin m =>
      let t := dyRni (dyMul d m) + z
      (clampInt t lo hi, clampInt t lo hi != t)
    | y =>
      match numMul (.fin d) y with
      | .inf n => (if n then lo else hi, true)
      | _ => (clampInt z lo hi, true)

/-- The value an accumulator gives after its factor (R47, R69). -/
def withFactor (x : Num) (factor : Option Nat) : Num :=
  match factor with
  | none => x
  | some f => numMul x (fpVal fmt32 f)

end Sys2Proof.Machine
end

