-- ==== Sys2Proof/Machine/Scales.lean ====
section
/-! DEFINITION. Codes, scales and conversion (chapter 03): code formats and packing (R73 to R77), UE4M3 and RS32
(R78, R79), scale products (R82), rotation (R88, R89), the conversion of rows and of weight columns (R93 to R95)
and the scale history (R97, R98). -/

namespace Sys2Proof.Machine

/-! ### Codes -/

/-- The packed code of `w` bits at position `i` (R75). -/
def codeAt (w : Nat) (bs : List Byte) (i : Nat) : Nat :=
  bitsOf (bs.getD (i * w / 8) 0).toNat (i * w % 8 + w - 1) (i * w % 8)

/-- Reads a symmetric code of 1, 2, 4 or 8 bits; the most negative pattern reads as −q_max (R73, R74). -/
def symCode (w v : Nat) : Int :=
  if w = 1 then (if v = 1 then 1 else -1)
  else if signedOf w v = -(2 : Int) ^ (w - 1) then 1 - (2 : Int) ^ (w - 1) else signedOf w v

/-- Packs codes of `w` bits (R75). -/
def packCodes (w : Nat) (cs : List Int) : List Byte :=
  natLe ((cs.length * w + 7) / 8)
    ((cs.zipIdx.map (fun p => (p.1 % (2 : Int) ^ w).toNat * 2 ^ (p.2 * w))).foldl (· + ·) 0)

/-- Width, q_min and q_max of FORMAT of a quantisation block: 2 SYM2, 3 SYM4, 4 SYM8, 5 ASY4, 6 ASY8, 7 SPIN
(R73, R77, R91). -/
def fmtWidth (f : Nat) : Nat := if f = 2 then 2 else if f = 3 ∨ f = 5 then 4 else if f = 7 then 1 else 8

/-- q_min of a format. -/
def fmtMin (f : Nat) : Int := if f = 2 then -1 else if f = 3 then -7 else if f = 4 then -127 else 0

/-- q_max of a format. -/
def fmtMax (f : Nat) : Int :=
  if f = 2 then 1 else if f = 3 then 7 else if f = 4 then 127 else if f = 5 then 15 else if f = 6 then 255 else 1

/-- Whether a format is symmetric. -/
def fmtSym (f : Nat) : Bool := decide (f = 2 ∨ f = 3 ∨ f = 4)

/-! ### Scales -/

/-- The value of a UE4M3 scale; bit 7 is not read (R78). -/
def ue4m3 (b : Nat) : Dy := ⟨8 + (b % 8 : Nat), ((b / 8 % 16 : Nat) : Int) - 10⟩

/-- The exponent of an RS32 (R79). -/
def rs32Exp (b : Nat) : Int := signedOf 16 (b % 2 ^ 16)

/-- The value of an RS32 (R79). -/
def rs32 (b : Nat) : Dy := ⟨2 ^ 16 + (b / 2 ^ 16 % 2 ^ 16 : Nat), rs32Exp b - 16⟩

/-- Whether an RS32 is valid (R79). -/
def rs32Valid (b : Nat) : Bool := decide (-173 ≤ rs32Exp b ∧ rs32Exp b ≤ 150)

/-- RS_MIN (R79). -/
def rsMin : Nat := 0x0000_FF53
/-- RS_MAX (R79). -/
def rsMax : Nat := 0xFFFF_0096

/-- Encodes a significand in [2^16, 2^17) and an exponent. -/
def rs32Enc (sig : Nat) (e : Int) : Nat := (sig - 2 ^ 16) % 2 ^ 16 * 2 ^ 16 + (e % 2 ^ 16).toNat

/-- Whether a plat's layer scale is zero, negative, infinite or NaN (R81). -/
def layerRange (b : Nat) : Bool := decide (b % fmt32.signBit = 0) || fpNeg fmt32 b || !fpFinite b

/-- Whether a positive finite layer scale is subnormal or has any of bits [6:0] set (R81). -/
def layerField (b : Nat) : Bool := decide (b < 2 ^ 23 ∨ b % 128 ≠ 0)

/-- Whether a second-level scale is refused: zero, negative, infinite or NaN (R80). -/
def secondRange (b : Nat) : Bool := layerRange b

/-- The value of a finite FP32 encoding. -/
def fpDy (b : Nat) : Dy :=
  match fpVal fmt32 b with
  | .fin d => d
  | _ => ⟨0, 0⟩

/-- The term g · s1 · s2 of a group sum (R41, R82, R83). -/
def scaledTerm (g : Int) (s1 s2 : Dy) : Dy := dyMul (dyInt g) (dyMul s1 s2)

/-! ### Rotation -/

/-- One pass of R88 at bit `k`. -/
def rotatePass (v : List Nat) (k : Nat) : List Nat :=
  v.zipIdx.map (fun p =>
    if p.2.testBit k then fpSub (v.getD (p.2 - 2 ^ k) 0) p.1 else fpAdd p.1 (v.getD (p.2 + 2 ^ k) 0))

/-- Rotates one block of 128 (R88). -/
def rotateBlock (v : List Nat) : List Nat := (List.range 7).foldl rotatePass v

/-- Splits into blocks of `n`; the count bounds the recursion. -/
def chunks {α : Type} (n : Nat) (k : Nat) (l : List α) : List (List α) :=
  match k with
  | 0 => []
  | j + 1 => l.take n :: chunks n j (l.drop n)

/-- Rotates a row of FP32 values in blocks of 128 (R88). -/
def rotateRow (v : List Nat) : List Nat := (chunks 128 (v.length / 128) v).flatMap rotateBlock

/-! ### Ranges -/

/-- The greater of two values, neither a NaN. -/
def numMax (a b : Num) : Num :=
  match a, b with
  | .fin x, .fin y => if dyLe x y then b else a
  | .inf true, _ => b
  | _, .inf true => a
  | .inf false, _ => a
  | _, _ => b

/-- The lesser of two values, neither a NaN. -/
def numMin (a b : Num) : Num :=
  match a, b with
  | .fin x, .fin y => if dyLe x y then a else b
  | .inf false, _ => b
  | _, .inf false => a
  | .inf true, _ => a
  | _, _ => b

/-- Whether a value is a NaN. -/
def numNan (x : Num) : Bool :=
  match x with
  | .nan => true
  | _ => false

/-- hi and lo of values, zero included, NaN left out (R94). -/
def rangeOf (xs : List Num) : Num × Num :=
  let ys := xs.filter (fun x => !numNan x)
  (ys.foldl numMax (.fin ⟨0, 0⟩), ys.foldl numMin (.fin ⟨0, 0⟩))

/-- |x|. -/
def numAbs (x : Num) : Num :=
  match x with
  | .fin d => .fin ⟨d.m.natAbs, d.e⟩
  | .inf _ => .inf false
  | .nan => .nan

/-! ### Conversion -/

/-- Least significand and exponent with sig · 2^(e − 16) · span ≥ w, for w > 0 and span > 0 (R93). -/
def leastScale (w : Dy) (span : Nat) : Nat × Int :=
  let e0 : Int := (Nat.log2 w.m.natAbs : Int) + w.e - Nat.log2 span - 2
  let fits (e : Int) : Bool := dyLe w (dyMul ⟨2 ^ 17 - 1, e - 16⟩ (dyInt span))
  let e := if fits e0 then e0 else if fits (e0 + 1) then e0 + 1 else if fits (e0 + 2) then e0 + 2 else e0 + 3
  let lo := min w.e (e - 16)
  let need := (dyAt w lo).toNat
  let unit := span * 2 ^ (e - 16 - lo).toNat
  (max (2 ^ 16) ((need + unit - 1) / unit), e)

/-- What a conversion of one row writes (R93). -/
structure RowCodes where
  scale   : Nat
  zp      : Nat
  codes   : List Int
  clipped : Nat
  clamps  : Nat
  deriving DecidableEq, Repr

/-- Scale and zero point of a row from its range, with the number of scale clamps (R93). -/
def rowScale (fmt : Nat) (hi lo : Num) : Nat × Nat × Nat :=
  let span := (fmtMax fmt - fmtMin fmt).toNat
  let zeroPt (s : Nat) : Nat :=
    match lo with
    | .fin l => min (dyRniDiv (dyNeg l) (rs32 s)).toNat span
    | _ => span
  match hi, lo with
  | .fin h, .fin l =>
    let w := dySub h l
    if w.m = 0 then (0, 0, 0)
    else
      let p := leastScale w span
      if p.2 < -173 then (rsMin, zeroPt rsMin, 1)
      else if 150 < p.2 then (rsMax, zeroPt rsMax, 1)
      else (rs32Enc p.1 p.2, zeroPt (rs32Enc p.1 p.2), 0)
  | _, _ => (rsMax, zeroPt rsMax, 1)

/-- The code of one element and whether it is clipped (R93). -/
def rowCode (fmt scale zp : Nat) (x : Num) : Int × Bool :=
  match x with
  | .nan => (zp, true)
  | .inf n => (if n then fmtMin fmt else fmtMax fmt, true)
  | .fin d =>
    let t := dyRniDiv d (rs32 scale) + zp
    (clampInt t (fmtMin fmt) (fmtMax fmt), clampInt t (fmtMin fmt) (fmtMax fmt) != t)

/-- Counts the marked. -/
def countTrue (l : List Bool) : Nat := (l.filter id).length

/-- Codes of a row under a given scale and zero point (R93, GIVEN). -/
def convertGiven (fmt scale zp : Nat) (xs : List Num) (clamps : Nat) : RowCodes :=
  let cs := xs.map (rowCode fmt scale zp)
  ⟨scale, zp, cs.map Prod.fst, countTrue (cs.map Prod.snd), clamps⟩

/-- Conversion of a row over a range (R93). -/
def convertRow (fmt : Nat) (xs : List Num) (hi lo : Num) : RowCodes :=
  let p := rowScale fmt hi lo
  convertGiven fmt p.1 p.2.1 xs p.2.2

/-- The least FP32 encoding at or above x > 0 over an integer divisor (R95). -/
def leastFp32Div (x : Dy) (d : Nat) : Nat :=
  let q : Int := max ((Nat.log2 x.m.natAbs : Int) + x.e - Nat.log2 d - 25) fmt32.low
  let lo := min x.e q
  let need := (dyAt x lo).toNat
  let unit := d * 2 ^ (q - lo).toNat
  let n := (need + unit - 1) / unit
  -- n · 2^q is at or above x / d with at least 24 significant bits, or q is the least exponent
  let k := if n < 2 ^ 24 then 0 else Nat.log2 n - 23
  fpRoundMag fmt32 ((n + 2 ^ k - 1) / 2 ^ k) (q + k)

/-- The least UE4M3 code at or above a / (q_max · S2), for a finite magnitude (R95). -/
def leastUe (a : Dy) (qmax : Nat) (s2 : Nat) : Nat :=
  match (List.range 128).find? (fun c => dyLe a (dyMul (ue4m3 c) (dyMul (dyInt qmax) (fpDy s2)))) with
  | some c => c
  | none => 127

/-- What a conversion of one weight column writes (R95). -/
structure ColCodes where
  s2      : Nat
  scales  : List Nat
  codes   : List Int
  clipped : Nat
  clamps  : Nat
  deriving DecidableEq, Repr

/-- The code of one weight (R95). -/
def weightCode (fmt : Nat) (s : Nat) (s2 : Nat) (w : Num) : Int × Bool :=
  match w with
  | .nan => (0, true)
  | .inf n => (if n then fmtMin fmt else fmtMax fmt, true)
  | .fin d =>
    let q := dyRniDiv d (dyMul (ue4m3 s) (fpDy s2))
    (if fmtMin fmt ≤ q ∧ q ≤ fmtMax fmt then q else clampInt (Config.wideCode q).toInt (fmtMin fmt) (fmtMax fmt), false)

/-- Codes of a weight column under given scales (R95, GIVEN). -/
def weightsGiven (fmt g : Nat) (ws : List Num) (s2 : Nat) (scales : List Nat) (clamps : Nat) : ColCodes :=
  let cs := ws.zipIdx.map (fun p => weightCode fmt (scales.getD (p.2 / g) 0) s2 p.1)
  ⟨s2, scales, cs.map Prod.fst, countTrue (cs.map Prod.snd), clamps⟩

/-- Conversion of a weight column `col` with groups of `g` (R95). -/
def convertColumn (fmt g col : Nat) (ws : List Num) : ColCodes :=
  let groups := chunks g ((ws.length + g - 1) / g) ws
  let as := groups.map (fun x => (rangeOf (x.map numAbs)).1)
  let qmax := (fmtMax fmt).toNat
  let top := as.foldl numMax (.fin ⟨0, 0⟩)
  let s2 := match top with
    | .fin d => if d.m = 0 then 0x3F80_0000 else leastFp32Div d (qmax * 480)
    | _ => 0x7F7F_FFFF
  let scales := as.zipIdx.map (fun p =>
    match p.1 with
    | .fin d => leastUe d qmax s2
    | _ => (Config.groupScale col p.2).toNat)
  weightsGiven fmt g ws s2 scales (match top with | .fin _ => 0 | _ => 1)

/-! ### Scale history -/

/-- Rounds a value toward +∞ (`up`) or −∞ to FP32, overflowing to an infinity (R98). -/
def roundDir (up : Bool) (x : Num) : Nat :=
  match x with
  | .fin d =>
    let m := d.m.natAbs
    let away := up != decide (d.m < 0)
    let q : Int := max ((Nat.log2 m : Int) + d.e - 23) fmt32.low
    let k := (q - d.e).toNat
    let base := m * 2 ^ (d.e - q).toNat
    let n := if away then (base + 2 ^ k - 1) / 2 ^ k else base / 2 ^ k
    let mag := (q - fmt32.low).toNat * 2 ^ 23 + n
    let lim := if away then fmt32.infBits else fmt32.infBits - 1
    if m = 0 then 0 else min mag lim + (if d.m < 0 then fmt32.signBit else 0)
  | y => numRound fmt32 y

/-- The pair (hi, lo) that a scale-history record gives: twice to the boost times the extremes of its N entries
(R98 step 1). R98 does not give the extreme of entries that hold a NaN: here a NaN that another entry follows is passed over,
and one in the last place stands (DESIGN CHOICE, log entry 93). -/
def histRange (rec : List Byte) : Num × Num :=
  let n := fieldOf rec 1 1
  let b := fieldOf rec 3 1
  let entry (i off : Nat) : Num := fpVal fmt32 (fieldOf rec (16 + 8 * i + off) 4)
  let up (x : Num) : Num := numMul (.fin ⟨1, b⟩) x
  let his := (List.range n).map (fun i => entry i 0)
  let los := (List.range n).map (fun i => entry i 4)
  (up (match his with | [] => .fin ⟨0, 0⟩ | x :: r => r.foldl numMax x),
   up (match los with | [] => .fin ⟨0, 0⟩ | x :: r => r.foldl numMin x))

/-- The record after a step with range (hi_t, lo_t), `c` clipped of `n` values (R98 steps 3 and 4). CLEAN_RUN past 65,535
wraps to 0, before the test against DECAY (DESIGN CHOICE, log entry 72). -/
def histAfter (rec : List Byte) (hi lo : Num) (c n : Nat) : List Byte :=
  let hLen := fieldOf rec 0 1
  let next := fieldOf rec 2 1
  let boost := fieldOf rec 3 1
  let theta := fieldOf rec 4 2
  let decay := fieldOf rec 6 2
  let clean := fieldOf rec 8 2
  let m0 : Memory := memWriteN [] 0 rec
  let m1 := memStore m0 (16 + 8 * next) 4 (roundDir true hi)
  let m2 := memStore m1 (20 + 8 * next) 4 (roundDir false lo)
  let m3 := memStore m2 2 1 ((next + 1) % hLen)
  let m4 := memStore m3 1 1 (min (fieldOf rec 1 1 + 1) hLen)
  let clean1 := (clean + 1) % 65536
  let bc := if theta * n < c * 65536 then (min (boost + 1) 15, 0)
            else if c = 0 then
              (if decay ≠ 0 ∧ decay ≤ clean1 ∧ 0 < boost then (boost - 1, 0) else (boost, clean1))
            else (boost, 0)
  let m5 := memStore (memStore m4 3 1 bc.1) 8 2 bc.2
  memReadN (memStore (memStore m5 80 8 c) 88 8 n) 0 128

end Sys2Proof.Machine
end

