-- ==== Sys2Proof/Machine/Routes.lean ====
section
/-! DEFINITION. How messages leave the chip: the virtual channels and their order (R220), flits and the replay buffer
(R219), and the way to a chip through the fabric (R227, R243). -/

namespace Sys2Proof.Machine

/-- `n` open bytes of draw `d`: a signature, a certificate, a form that the spec does not give. -/
def openBytes (d n : Nat) : List Byte := (List.range n).map (Config.byte d)

/-! ### The way through the fabric -/

/-- Whether two chips are joined by an UP link, as the topology map has it (R227, R234). -/
def chipsJoined (s : State) (a b : Nat) : Bool :=
  let half (x y : Nat) : Bool := s.fab.topo.any (fun r => decide (r.chip = x) && r.links.any (fun l => l.up && decide (l.partner = y)))
  half a b || half b a

/-- The chips of the topology map within `n` hops of a chip (R227). -/
def chipsWithin (s : State) (dest : Nat) (n : Nat) : List Nat :=
  match n with
  | 0 => [dest]
  | k + 1 =>
    let l := chipsWithin s dest k
    l ++ ((s.fab.topo.map LinkState.chip).filter (fun a => decide (a ∉ l ∧ a ≠ s.fab.chip) && l.any (chipsJoined s a)))

/-- Hops from a chip to another without coming back here, none where no way is known. -/
def hopsTo (s : State) (a dest : Nat) : Option Nat :=
  (List.range (s.fab.topo.length + 1)).find? (fun n => decide (a ∈ chipsWithin s dest n))

/-- The link on which a message for a chip leaves: the shortest way in hops, on a tie the lowest link; only a link in UP
carries messages (R222, R227, R243). -/
def routeTo (s : State) (dest : Nat) : Option Nat :=
  let ways : List (Nat × Nat) := (List.range 8).filterMap (fun n =>
    let l := s.linkAt n
    if l.st = 3 then (hopsTo s l.partner dest).map (fun h => (n, h)) else none)
  (ways.find? (fun w => ways.all (fun v => decide (w.2 ≤ v.2)))).map Prod.fst

/-! ### Channels and flits -/

/-- The virtual channel of a message: 0 EASEMENT, 1 TALLY, 2 CONTROL (R220). -/
def fabChannel (m : FabMsg) : Nat :=
  match m with
  | .easement _ => 0
  | .tally _ _ _ => 1
  | .broadcast _ _ => 1
  | .linkState _ => 2
  | .joinMsg _ => 2
  | .group _ => 2
  | .stopMsg _ _ => 2
  | .digest _ _ _ => 2

/-- An easement message: its header of 16 bytes and its bits (R238). -/
def easementBytes (m : FabEasement) : List Byte :=
  natLe 2 m.groupId ++ natLe 1 m.dir ++ natLe 1 (m.replica + 128 * bitNat m.decision) ++ natLe 6 m.step ++ zeros 2 ++
    natLe 4 m.count ++ m.payload

/-- The bytes of a message: the spec gives them for easement messages and tally images; every other form is open, one
flit of free bytes (R238, R239; log entry 26). -/
def fabBytes (d : Nat) (m : FabMsg) : List Byte :=
  match m with
  | .easement e => easementBytes e
  | .tally _ _ image => image
  | _ => openBytes d 240

/-- A flit of a payload: an open header, the payload with the rest open, the CRC-64 of the first 248 bytes (R219; log
entry 26). -/
def flitOf (d : Nat) (payload : List Byte) : List Byte :=
  let b := (openBytes d 8 ++ payload ++ openBytes (d + 1) 240).take 248
  b ++ natLe 8 (crc64 b)

/-- Sends one flit on a link: it goes out and into the replay buffer, which keeps the last 512 (R219). -/
def sendFlit (n : Nat) (s : State) (payload : List Byte) : State :=
  let f := flitOf s.fresh payload
  let s1 := s.updLink n (fun l =>
    let buf := l.replayBuf ++ [(l.sent, f)]
    { l with replayBuf := buf.drop (buf.length - 512), sent := l.sent + 1 })
  s1.tick.tick

/-- The messages of a link whose last flit the replay buffer still holds (R219). -/
def Link.keepSending (l : Link) : Link :=
  { l with sending := l.sending.filter (fun e => l.replayBuf.any (fun f => decide (f.1 = e.1))) }

/-- Sends a message for a chip on a link. -/
def transmit (s : State) (n chip : Nat) (m : FabMsg) : State :=
  let b := fabBytes s.fresh m
  let s1 := (chunks 240 ((b.length + 239) / 240) b).foldl (sendFlit n) (s.tick.emit (.fabric n (fabChannel m) chip m))
  s1.updLink n (fun l => Link.keepSending { l with sending := l.sending ++ [(l.sent - 1, chip, m)] })

/-- Sends a message to a chip, or keeps it until a link in UP leads there (R222, R227, R243). -/
def sendFab (s : State) (chip : Nat) (m : FabMsg) : State :=
  match routeTo s chip with
  | some n => transmit s n chip m
  | none => { s with fab := { s.fab with waiting := s.fab.waiting ++ [(chip, m)] } }

/-- Sends a message to chips in turn. -/
def sendFabs (s : State) (chips : List Nat) (m : FabMsg) : State := chips.foldl (fun t c => sendFab t c m) s

/-- Sends what waits for a link, in strict priority of the channels and in order within one (R219, R220). -/
def drainFab (s : State) : State :=
  let w := s.fab.waiting
  let s0 := { s with fab := { s.fab with waiting := [] } }
  ([0, 1, 2].flatMap (fun c => w.filter (fun e => decide (fabChannel e.2 = c)))).foldl (fun t e => sendFab t e.1 e.2) s0

/-- What a link has sent and its partner has not received moves to another way when the link is lost, before what waits and
in the priority of the channels: a message that has arrived is not sent again, so that each is delivered once. How far the
partner has received is open (R219, R220, R243; log entry 26). -/
def moveSending (s : State) (n : Nat) : State :=
  let l := ((s.linkAt n).sending.filter (fun e => decide (Config.arrived s.fresh ≤ e.1))).map (fun e => (e.2.1, e.2.2))
  let s1 := (s.updLink n (fun l => { l with sending := [], replayBuf := [] })).tick
  drainFab { s1 with fab := { s1.fab with waiting := l ++ s1.fab.waiting } }

/-- The other members of a group. -/
def otherMembers (s : State) (g : Group) : List Nat := g.members.filter (fun n => decide (n ≠ s.fab.chip))

end Sys2Proof.Machine
end

