-- ==== Sys2Proof/Machine/Identity.lean ====
section
/-! DEFINITION. Keys and signatures of the package: ECDSA P-384 with SHA-384 (R225, R476), the die keys and their
certificates (R471, R472), the alias key and the package's certificate chain (R474, R475). -/

namespace Sys2Proof.Machine

/-! ### P-384 -/

/-- The field's prime (NIST P-384). -/
def p384P : Nat := 2 ^ 384 - 2 ^ 128 - 2 ^ 96 + 2 ^ 32 - 1

/-- The group order n (R474). -/
def p384N : Nat :=
  0xFFFFFFFFFFFFFFFFFFFFFFFFFFFFFFFFFFFFFFFFFFFFFFFFC7634D81F4372DDF581A0DB248B0A77AECEC196ACCC52973

/-- A point of the curve in Jacobian coordinates: x = X/Z², y = Y/Z³; Z = 0 is the point at infinity. -/
structure EcPoint where
  x : Nat
  y : Nat
  z : Nat
  deriving DecidableEq, Repr

/-- The base point. -/
def p384G : EcPoint :=
  ⟨0xAA87CA22BE8B05378EB1C71EF320AD746E1D3B628BA79B9859F741E082542A385502F25DBF55296C3A545E3872760AB7,
   0x3617DE4A96262C6F5D9E98BF9292DC29F8F41DBD289A147CE9DA3113B5F0B8C00A60B1CE1D7E819D7A431D7C90EA0E5F, 1⟩

/-- b^e modulo m, for e below 2^fuel. -/
def modPow (fuel b e m : Nat) : Nat :=
  match fuel with
  | 0 => 1 % m
  | k + 1 => if e % 2 = 1 then b * modPow k (b * b % m) (e / 2) m % m else modPow k (b * b % m) (e / 2) m

/-- The inverse modulo a prime of 384 bits. -/
def modInv (a m : Nat) : Nat := modPow 384 (a % m) (m - 2) m

/-- a − b modulo m. -/
def modSub (a b m : Nat) : Nat := (a + (m - b % m)) % m

/-- Twice a point. -/
def ecDouble (a : EcPoint) : EcPoint :=
  let yy := a.y * a.y % p384P
  let zz := a.z * a.z % p384P
  let s := 4 * a.x * yy % p384P
  let m := 3 * modSub a.x zz p384P * (a.x + zz) % p384P
  let x := modSub (m * m) (2 * s) p384P
  ⟨x, modSub (m * modSub s x p384P) (8 * yy * yy) p384P, 2 * a.y * a.z % p384P⟩

/-- The sum of two points. -/
def ecAdd (a b : EcPoint) : EcPoint :=
  if a.z = 0 then b
  else if b.z = 0 then a
  else
    let za := a.z * a.z % p384P
    let zb := b.z * b.z % p384P
    let u := a.x * zb % p384P
    let v := a.y * zb * b.z % p384P
    let h := modSub (b.x * za) u p384P
    let r := modSub (b.y * za * a.z) v p384P
    if h = 0 then (if r = 0 then ecDouble a else ⟨1, 1, 0⟩)
    else
      let uhh := u * h * h % p384P
      let hhh := h * h * h % p384P
      let x := modSub (r * r) (hhh + 2 * uhh) p384P
      ⟨x, modSub (r * modSub uhh x p384P) (v * hhh) p384P, h * a.z * b.z % p384P⟩

/-- k times a point, for k below 2^fuel. -/
def ecMul (fuel k : Nat) (a : EcPoint) : EcPoint :=
  match fuel with
  | 0 => ⟨1, 1, 0⟩
  | n + 1 => let r := ecMul n (k / 2) (ecDouble a); if k % 2 = 1 then ecAdd a r else r

/-- x and y of a point; 0 and 0 at infinity. -/
def ecAffine (a : EcPoint) : Nat × Nat :=
  let i := modInv a.z p384P
  (a.x * i * i % p384P, a.y * i * i * i % p384P)

/-- The public key of a private scalar: x and y, most significant byte first. -/
def publicKey (d : Nat) : List Byte :=
  let q := ecAffine (ecMul 384 d p384G)
  natBe 48 q.1 ++ natBe 48 q.2

/-- ECDSA over P-384 with SHA-384: r and s, most significant byte first. The per-signature number is formed from the
64 bytes that the DRBG gives (R264), modulo n − 1, plus 1 (PRESUMED, FIPS 186-5; log entry 80). -/
def ecdsaSign (d : Nat) (text noise : List Byte) : List Byte :=
  let k := beNat noise % (p384N - 1) + 1
  let r := (ecAffine (ecMul 384 k p384G)).1 % p384N
  let s := modInv k p384N * ((beNat (sha384 text) + r * d) % p384N) % p384N
  natBe 48 r ++ natBe 48 s

/-- Whether r and s, most significant byte first, are an ECDSA signature of a text under a public key (R436, R473). -/
def ecdsaVerify (key text sig : List Byte) : Bool :=
  let r := beNat (sig.take 48)
  let s := beNat (sig.drop 48)
  let w := modInv s p384N
  let q := ecAdd (ecMul 384 (beNat (sha384 text) * w % p384N) p384G)
    (ecMul 384 (r * w % p384N) ⟨beNat (key.take 48), beNat (key.drop 48), 1⟩)
  decide (0 < r ∧ r < p384N ∧ 0 < s ∧ s < p384N ∧ q.z ≠ 0 ∧ (ecAffine q).1 % p384N = r)

/-- HMAC-SHA-384 with a key of at most 128 bytes. -/
def hmac384 (key text : List Byte) : List Byte :=
  let k := key ++ zeros (128 - key.length)
  let pad (b : Byte) : List Byte := k.map (fun x => x ^^^ b)
  sha384 (pad 0x5C ++ sha384 (pad 0x36 ++ text))

/-! ### Keys and certificates -/

/-- The length octets of DER (ITU-T X.690). -/
def derLen (n : Nat) : List Byte :=
  if n < 128 then [BitVec.ofNat 8 n] else if n < 256 then [0x81, BitVec.ofNat 8 n]
  else if n < 65536 then 0x82 :: natBe 2 n else 0x83 :: natBe 3 n

/-- A DER element: tag, length, contents. -/
def derTlv (tag : Byte) (c : List Byte) : List Byte := tag :: (derLen c.length ++ c)

/-- A DER SEQUENCE. -/
def derSeq (c : List Byte) : List Byte := derTlv 0x30 c

/-- A DER INTEGER of a number that is not negative. -/
def derInt (be : List Byte) : List Byte :=
  let m := be.dropWhile (fun b => decide (b = 0))
  derTlv 2 (if (m.headD 0x80).toNat < 128 then m else 0 :: m)

/-- An attribute of a name: its object identifier below 2.5.4 and its text. -/
def derAttr (oid : Byte) (text : List Byte) : List Byte :=
  derTlv 0x31 (derSeq (derTlv 6 [0x55, 0x04, oid] ++ derTlv 0x0C text))

/-- The algorithm identifier of ECDSA with SHA-384. -/
def derAlgorithm : List Byte := derSeq (derTlv 6 [0x2A, 0x86, 0x48, 0xCE, 0x3D, 0x04, 0x03, 0x03])

/-- A part of a certificate that the spec leaves open, of at most 64 bytes (log entry 80). -/
def certOpen (c : Cert) (n : Nat) : List Byte := (Config.certPart n c.subjectKey).take 64

/-- What the issuer of an X.509 v3 certificate signs (R472, R474): version, serial number, algorithm, issuer, validity,
subject, subject public key, extension. -/
def Cert.tbs (c : Cert) : List Byte :=
  let key := derSeq (derTlv 6 [0x2A, 0x86, 0x48, 0xCE, 0x3D, 0x02, 0x01] ++ derTlv 6 [0x2B, 0x81, 0x04, 0x00, 0x22])
  let after := if c.notAfter = [] then certOpen c 2 else c.notAfter
  derSeq (derTlv 0xA0 (derTlv 2 [2]) ++ derTlv 2 (certOpen c 0) ++ derAlgorithm ++ derSeq (derAttr 3 c.issuer) ++
    derSeq (derTlv 0x18 (certOpen c 1) ++ derTlv 0x18 after) ++
    derSeq (derAttr 3 (certOpen c 4) ++ (if c.serial = [] then [] else derAttr 5 c.serial)) ++
    derSeq (key ++ derTlv 3 (0x00 :: 0x04 :: c.subjectKey)) ++
    (if c.extension = [] then []
     else derTlv 0xA3 (derSeq (derSeq (derTlv 6 (certOpen c 3) ++ derTlv 4 c.extension)))))

/-- An X.509 v3 certificate in DER form (R472; the encoding PRESUMED, RFC 5280, log entry 80). -/
def Cert.der (c : Cert) : List Byte :=
  derSeq (c.tbs ++ derAlgorithm ++
    derTlv 3 (0x00 :: derSeq (derInt (c.signature.take 48) ++ derInt (c.signature.drop 48))))

/-- The private key of a die, 4 the I/O die's (R471). -/
def dieKey (s : State) (d : Nat) : Nat := s.fuses.dieKeys.getD d 0

/-- The alias private key (R474): integers stand most significant byte first (PRESUMED, log entry 80). -/
def aliasKey (s : State) : Nat :=
  let text := [0x5A, 0x4C, 0x41, 0x4C, 0x49, 0x41, 0x53] ++ natLe 48 s.boot.fw.digest ++ natLe 4 s.boot.fw.secver
  beNat (hmac384 (natBe 48 (dieKey s 4)) text) % (p384N - 1) + 1

/-- Whether no alias key exists: recovery mode (R475). -/
def noAlias (s : State) : Bool := decide (s.boot.mode = 2)

/-- The key that signs for the package: the alias key, in recovery the I/O die's (R475). -/
def signingKey (s : State) : Nat := if noAlias s then dieKey s 4 else aliasKey s

/-- The certificate of a die, the device CA's at 5 (R472). -/
def storedCert (s : State) (d : Nat) : Cert := s.fuses.certs.getD d {}

/-- The 32 hexadecimal characters of the package serial number (R474). -/
def serialText (s : State) : List Byte :=
  (natBe 16 s.fuses.serial).flatMap (fun b =>
    [b.toNat / 16, b.toNat % 16].map (fun h => BitVec.ofNat 8 (if h < 10 then 48 + h else 55 + h)))

/-- The alias certificate (R474): the serial number, the extension with the firmware digest, the security version,
ARITH_REV, BUILD and the digest of each bound compute die's certificate, and the I/O die's signature, made once in a boot
from open noise. -/
def aliasCert (s : State) : Cert :=
  let c : Cert :=
    { subjectKey := publicKey (aliasKey s), notAfter := [], issuer := certOpen (storedCert s 4) 4, serial := serialText s
      extension := natLe 48 s.boot.fw.digest ++ natLe 4 s.boot.fw.secver ++ natLe 4 s.boot.fw.arithRev ++
        natLe 4 s.boot.fw.build ++
        ((List.range 4).filter (fun d => decide (d ∉ s.boot.unbound))).flatMap (fun d => sha384 (storedCert s d).der) }
  { c with signature := ecdsaSign (dieKey s 4) c.tbs (openBytes s.boot.aliasDraw 64) }

/-- The challenge that the I/O die sends to a compute die: the firmware digest and the BOOT count, 52 bytes (R473). -/
def bindText (digest boots : Nat) : List Byte := natLe 48 digest ++ natLe 4 boots

/-- A compute die's signature of a challenge, in its own signing engine (R471, R473). No source of noise is the die's: its
per-signature number is formed from its key and the challenge (DESIGN CHOICE, log entry 80); no register shows the
signature. -/
def bindSign (s : State) (d : Nat) (text : List Byte) : List Byte :=
  ecdsaSign (dieKey s d) text (hmac384 (natBe 48 (dieKey s d)) text)

/-- Whether the I/O die finds a compute die's signature of a challenge good, under that die's certificate (R473). -/
def dieBinds (s : State) (text : List Byte) (d : Nat) : Bool :=
  ecdsaVerify (storedCert s d).subjectKey text (bindSign s d text)

/-- The certificate chain of slot 0: the device CA's, the I/O die's, the alias certificate where an alias key exists
(R475). -/
def chainBytes (s : State) : List Byte :=
  (storedCert s 5).der ++ (storedCert s 4).der ++ (if noAlias s then [] else (aliasCert s).der)

/-- An SPDM message: its version, code and two parameters, then its data (DSP0274; PRESUMED, log entry 10). -/
def spdmMsg (version code p1 p2 : Nat) (data : List Byte) : List Byte :=
  natLe 1 version ++ natLe 1 code ++ natLe 1 p1 ++ natLe 1 p2 ++ data

/-- What precedes the hash in the text that SPDM 1.2 signs: four times "dmtf-spdm-v1.2.*", zeros up to 36 bytes with the
context's name, and that: "responder-challenge_auth signing" for kind 1, "responder-measurements signing" for kind 2
(DSP0274; PRESUMED, log entry 10). -/
def spdmContext (kind : Nat) : List Byte :=
  let version : List Byte := [0x64, 0x6D, 0x74, 0x66, 0x2D, 0x73, 0x70, 0x64, 0x6D, 0x2D, 0x76, 0x31, 0x2E, 0x32, 0x2E, 0x2A]
  let name : List Byte := if kind = 1 then
      [0x72, 0x65, 0x73, 0x70, 0x6F, 0x6E, 0x64, 0x65, 0x72, 0x2D, 0x63, 0x68, 0x61, 0x6C, 0x6C, 0x65, 0x6E,
       0x67, 0x65, 0x5F, 0x61, 0x75, 0x74, 0x68, 0x20, 0x73, 0x69, 0x67, 0x6E, 0x69, 0x6E, 0x67]
    else
      [0x72, 0x65, 0x73, 0x70, 0x6F, 0x6E, 0x64, 0x65, 0x72, 0x2D, 0x6D, 0x65, 0x61, 0x73, 0x75, 0x72,
       0x65, 0x6D, 0x65, 0x6E, 0x74, 0x73, 0x20, 0x73, 0x69, 0x67, 0x6E, 0x69, 0x6E, 0x67]
  (List.replicate 4 version).flatten ++ zeros (36 - name.length) ++ name

/-- The text that an SPDM signature of a kind is made over, for the messages that it covers (R476; log entry 10). -/
def spdmText (kind : Nat) (messages : List Byte) : List Byte := spdmContext kind ++ sha384 messages

/-- What a chip signs to identify itself on a link: both nonces, both identifiers, both link numbers, its own first
(R225; order and widths PRESUMED, log entry 80). -/
def identifyText (own partner : List Byte) (chip other link otherLink : Nat) : List Byte :=
  own ++ partner ++ natLe 2 chip ++ natLe 2 other ++ natLe 1 link ++ natLe 1 otherLink

end Sys2Proof.Machine
end

