-- ==== Sys2Proof/Machine/Flags.lean ====
section
/-! DEFINITION. The status codes (R378), the event flags of the power and reset block (R469, R470) and the raising
of MSI-X vectors (R372, R498). -/

namespace Sys2Proof.Machine

/-! ### Status codes (R378) -/

/-- Completed as specified. -/
def stDone : Status := 0x0000
/-- A count, length or size that must be nonzero is zero. -/
def stLenZero : Status := 0x0101
/-- Unknown descriptor type, command opcode or instruction. -/
def stBadOpcode : Status := 0x0102
/-- A field outside its range, misaligned, or reserved and not zero. -/
def stBadField : Status := 0x0103
/-- A scale outside its range. -/
def stScaleRange : Status := 0x0104
/-- A dimension or site outside the lattice limits. -/
def stLatticeRange : Status := 0x0105
/-- Translation failed and was not resolved. -/
def stXlateFault : Status := 0x0201
/-- An access or core outside what the context may use. -/
def stPermFault : Status := 0x0202
/-- Uncorrectable memory error. -/
def stMemUe : Status := 0x0203
/-- The RUN timed out and its units stopped within the drain window. -/
def stTimeoutDrained : Status := 0x0301
/-- The RUN timed out and a unit had to be reset. -/
def stTimeoutKilled : Status := 0x0302
/-- A unit that the work used was reset during it. -/
def stUnitReset : Status := 0x0401
/-- A fabric partner was lost during the run. -/
def stLinkLost : Status := 0x0402
/-- The lock-step digests differed. -/
def stDiverged : Status := 0x0403
/-- The RNG is in FAULT or FAILED. -/
def stNoiseFault : Status := 0x0501
/-- The RNG did not reach READY in time. -/
def stNoiseNotReady : Status := 0x0502
/-- Admission cannot meet the deadline. -/
def stDeadlineRefused : Status := 0x0601
/-- Admission cannot meet the power plan. -/
def stPowerRefused : Status := 0x0602
/-- No placement, plot or unit can hold the work. -/
def stCapacityRefused : Status := 0x0603
/-- A field or tally left the LACC range. -/
def stFieldOverflow : Status := 0x0701
/-- The work was ended because its context became faulted. -/
def stCtxFaulted : Status := 0x0702

/-- Statuses that end a RUN when an engine command completes with one of them (R315). -/
def endsRun (st : Status) : Bool :=
  decide (st = stMemUe ∨ st = stTimeoutDrained ∨ st = stTimeoutKilled ∨ st = stCtxFaulted)

/-! ### Interrupt vectors -/

/-- A byte of the MSI-X table. The table is held exclusive-ored with its reset image, in which bit 0 of each entry's
vector control is set (PRESUMED, log entry 6). -/
def msixByte (s : State) (off : Nat) : Byte :=
  memRead s.msixTable off ^^^ (if off % 16 = 12 then 1 else 0)

/-- Whether a vector is masked: bit 0 of its vector control (R498). -/
def msixMasked (s : State) (v : Nat) : Bool := (msixByte s (16 * v + 12)).toNat.testBit 0

/-- Raises a vector: its message, or its pending bit while it is masked (R372). -/
def raiseVector (s : State) (v : Nat) : State :=
  if msixMasked s v then
    (if v ∈ s.msixPending then s else { s with msixPending := s.msixPending ++ [v] })
  else s.emit (.msix v)

/-- Sends the messages of pending vectors that are no longer masked (R372). -/
def flushVectors (s : State) : State :=
  let ready := s.msixPending.filter (fun v => !msixMasked s v)
  { s with
    msixPending := s.msixPending.filter (fun v => msixMasked s v)
    out := s.out ++ ready.map Out.msix }

/-- Writes bytes into the MSI-X table. -/
def msixWrite (s : State) (off : Nat) (bs : List Byte) : State :=
  flushVectors { s with msixTable :=
    (bs.zipIdx.foldl (fun m p =>
      memWrite m (off + p.2) (p.1 ^^^ (if (off + p.2) % 16 = 12 then 1 else 0))) s.msixTable) }

/-! ### Events -/

/-- Who sends on the sideband: the I3C dynamic address once there is one, else the SMBus address 0x4C, and the endpoint ID
(R479). -/
def State.sender (s : State) : Nat × Nat := (s.mgmt.dynAddr.getD 0x4C, s.mgmt.eid)

/-- Sets a bit of EVENTS.PENDING and raises its vector (R469); a bit that sets is reported on the sideband (R481). -/
def raiseEvent (s : State) (bit : Nat) : State :=
  let s1 := { s with power := { s.power with events := s.power.events ||| (1#6 <<< bit) } }
  raiseVector (if s.power.events.getLsbD bit then s1 else s1.emit (.pldmEvent s.sender bit)) s.power.eventVector

/-- MAP_DISAGREE. -/
def evMapDisagree : Nat := 0
/-- THERMAL_THROTTLE. -/
def evThermal : Nat := 1
/-- TIMING_BROKEN. -/
def evTiming : Nat := 2
/-- PARTNER_LOST. -/
def evPartnerLost : Nat := 3
/-- SAFE_SENT. -/
def evSafeSent : Nat := 4
/-- SCALE_CLAMP. -/
def evScaleClamp : Nat := 5

/-- Counts one scale clamp of a context and raises the event for it (R42, R470). -/
def scaleClamp (s : State) (ctx : Nat) : State :=
  raiseEvent
    { (s.updCtx ctx (fun c => { c with scaleClamp := c.scaleClamp + 1 })) with
      power := { s.power with evtScaleCount := s.power.evtScaleCount + 1, evtScaleCtx := ctx } } evScaleClamp

/-- `n` scale clamps of a context, one after another (R100). -/
def scaleClamps (s : State) (ctx n : Nat) : State :=
  match n with
  | 0 => s
  | k + 1 => scaleClamps (scaleClamp s ctx) ctx k

/-- The context of a timed plot: its holder, else the context that is attached to it (R286, R388). -/
def plotCtx (s : State) (plot : Nat) : Nat :=
  ((s.plotAt plot).holder.or
    ((s.ctxs.find? (fun (q : Nat × Ctx) => q.2.plotValid && decide (q.2.plot = plot))).map Prod.fst)).getD 0

/-- Raises TIMING_BROKEN with a cause on a plot, once for each cause in a RUN (R286, R470). -/
def timingBroken (s : State) (plot cause : Nat) : State :=
  let p := s.plotAt plot
  if p.timed ∧ p.st = 2 ∧ cause ∉ p.broken then
    raiseEvent
      { (s.setPlot plot { p with broken := cause :: p.broken }) with
        power := { s.power with
          evtTimingCount := s.power.evtTimingCount + 1
          evtTimingCause := cause
          evtTimingPlot := plot
          evtTimingCtx := plotCtx s plot } } evTiming
  else s

end Sys2Proof.Machine
end

