-- ==== Sys2Proof/Machine/Lattice.lean ====
section
/-! DEFINITION. The native lattice and the plat (chapter 04): sites, directions, colours, zones and the colour-split
layout (R101 to R106, R112), the header and its checks (R107 to R118), fields, energies and their exact units
(R14, R106, R120, R128, R144), chain readout (R121). Exact energies and fields are integers in units of 2^-200:
no sum on the spin path leaves the LACC range (R129), so the order of R128 does not change a value. -/

namespace Sys2Proof.Machine

/-! ### Sites -/

/-- The global index (R101). -/
def siteIndex (x y z : Nat) : Nat := z * 2 ^ 40 + y * 2 ^ 20 + x

/-- The colour (R104). -/
def siteColour (x y z : Nat) : Nat := x % 3 + 3 * (y % 3) + 9 * (z % 2)

/-- The sixteen directions of the couplings a site owns (R103). -/
def directions : List (Int × Int × Int) :=
  [(1, 0, 0), (2, 0, 0), (-2, 1, 0), (-1, 1, 0), (0, 1, 0), (1, 1, 0), (2, 1, 0), (-2, 2, 0)] ++
  [(-1, 2, 0), (0, 2, 0), (1, 2, 0), (2, 2, 0), (0, 0, 1), (1, 0, 1), (0, 1, 1), (1, 1, 1)]

/-- A site by its coordinates. -/
structure Site where
  x : Nat
  y : Nat
  z : Nat
  deriving DecidableEq, Repr

/-- Offsets a coordinate within a bound, none outside the lattice: it does not wrap (R102). -/
def shiftIn (a : Nat) (d : Int) (bound : Nat) : Option Nat :=
  let v := (a : Int) + d
  if 0 ≤ v ∧ v < bound then some v.toNat else none

/-- The site at an offset, in global coordinates (R102). -/
def siteShift (p : PlatInfo) (s : Site) (d : Int × Int × Int) (sgn : Int) : Option Site :=
  match shiftIn s.x (sgn * d.1) p.gDimX, shiftIn s.y (sgn * d.2.1) p.gDimY, shiftIn s.z (sgn * d.2.2) p.dimZ with
  | some x, some y, some z => some ⟨x, y, z⟩
  | _, _, _ => none

/-- A present coupling of a site: its partner, its owner and its direction from the owner (R102, R103). -/
structure Bond where
  partner : Site
  owner   : Site
  dir     : Nat
  deriving DecidableEq, Repr

/-- The present couplings of a site (R102, R103). -/
def bondsOf (p : PlatInfo) (s : Site) : List Bond :=
  (directions.zipIdx.filterMap (fun q => (siteShift p s q.1 1).map (fun t => ⟨t, s, q.2⟩))) ++
  (directions.zipIdx.filterMap (fun q => (siteShift p s q.1 (-1)).map (fun t => ⟨t, t, q.2⟩)))

/-- The couplings a site owns (R103). -/
def ownedBonds (p : PlatInfo) (s : Site) : List Bond :=
  directions.zipIdx.filterMap (fun q => (siteShift p s q.1 1).map (fun t => ⟨t, s, q.2⟩))

/-- The model's number of a site: its place in row order over the global lattice. Bit masks of spins use it. -/
def siteLin (p : PlatInfo) (s : Site) : Nat := (s.z * p.gDimY + s.y) * p.gDimX + s.x

/-- Sites of the lattice in rising global index. -/
def allSites (p : PlatInfo) : List Site :=
  (List.range p.dimZ).flatMap (fun z => (List.range p.gDimY).flatMap (fun y =>
    (List.range p.gDimX).map (fun x => ⟨x, y, z⟩)))

/-- Whether a site lies in this chip's slab: always, unless the run is a fabric run (R233). -/
def inSlab (p : PlatInfo) (s : Site) : Bool :=
  decide (p.slabX0 ≤ s.x ∧ s.x < p.slabX1 ∧ p.slabY0 ≤ s.y ∧ s.y < p.slabY1)

/-- The sites of this chip in rising global index. -/
def slabSites (p : PlatInfo) : List Site := (allSites p).filter (inSlab p)

/-! ### Zones and the colour-split order -/

/-- Zones along a dimension (R105). -/
def zoneCount (d : Nat) : Nat := (d + 63) / 64

/-- The zone index of a site, by the plat's own coordinates (R105, R235). -/
def zoneIndex (p : PlatInfo) (s : Site) : Nat :=
  (s.z * zoneCount p.dimY + (s.y - p.orgY) / 64) * zoneCount p.dimX + (s.x - p.orgX) / 64

/-- Sites along one axis with a given residue modulo 3 (R112). -/
def thirdCount (d a : Nat) : Nat := (d + 2 - a) / 3

/-- Layers of a parity (R112). -/
def halfCount (d p : Nat) : Nat := (d + 1 - p) / 2

/-- Sites of a colour (R112). -/
def colourCount (dx dy dz c : Nat) : Nat :=
  halfCount dz (c / 9) * thirdCount dy (c / 3 % 3) * thirdCount dx (c % 3)

/-- The rank of a site within its colour (R112). -/
def siteRank (dx dy : Nat) (s : Site) : Nat :=
  (s.z / 2 * thirdCount dy (s.y % 3) + s.y / 3) * thirdCount dx (s.x % 3) + s.x / 3

/-- Bytes of a run of `n` elements of `e` bits (R112). -/
def runBytes (n e : Nat) : Nat := (n * e + 511) / 512 * 64

/-- Bytes of the runs of the colours below `c` (R112). -/
def runStart (dx dy dz e c : Nat) : Nat :=
  ((List.range c).map (fun k => runBytes (colourCount dx dy dz k) e)).foldl (· + ·) 0

/-- Bytes of a whole plane (R112). -/
def planeBytes (dx dy dz e : Nat) : Nat := runStart dx dy dz e 18

/-- The bit offset of a site's element within its plane, by the plat's own coordinates (R112, R235). -/
def elementBit (p : PlatInfo) (e : Nat) (s : Site) : Nat :=
  let l : Site := ⟨s.x - p.orgX, s.y - p.orgY, s.z⟩
  8 * runStart p.dimX p.dimY p.dimZ e (siteColour l.x l.y l.z) + siteRank p.dimX p.dimY l * e

/-- Bits of a coupling code (R108, R113). -/
def platWidth (p : PlatInfo) : Nat := 2 ^ p.codeWidth

/-- P, the steps of a traverse (R136, R138, R162). -/
def platSteps (p : PlatInfo) : Nat := if p.order = 0 then 18 else 1

/-- The size of one spin plane (R116). -/
def spinPlaneBytes (p : PlatInfo) : Nat := planeBytes p.dimX p.dimY p.dimZ 1

/-! ### Codes, couplings and biases; `rd` reads a byte of the plat -/

/-- Reads an element of at most 8 bits at a bit offset from a byte offset. -/
def readBits (rd : Nat → Byte) (off bit w : Nat) : Nat :=
  bitsOf (rd (off + bit / 8)).toNat (bit % 8 + w - 1) (bit % 8)

/-- The code of a coupling (R73, R113). -/
def bondCode (p : PlatInfo) (rd : Nat → Byte) (b : Bond) : Int :=
  let w := platWidth p
  symCode w (readBits rd p.couplOff (elementBit p (16 * w) b.owner + b.dir * w) w)

/-- The bias code of a site (R115). -/
def biasCode (p : PlatInfo) (rd : Nat → Byte) (s : Site) : Int :=
  symCode 8 (readBits rd p.biasOff (elementBit p 8 s) 8)

/-- code · zone scale · layer scale in units of 2^-200 (R82, R106). -/
def scaledCode (q : Int) (zone layer : Nat) : Int :=
  q * (8 + (zone % 8 : Nat)) * (2 ^ 16 + (layer / 128 % 2 ^ 16 : Nat)) *
    2 ^ (zone / 8 % 16 + layer / 2 ^ 23 % 256 + 47)

/-- What a configured run holds of its plat beside the header: layer scales and zone scales. -/
structure PlatScales where
  layers : List (BitVec 32 × BitVec 32)
  zones  : List (Nat × Nat)
  deriving DecidableEq, Repr

/-- The coupling J of a bond, in units (R106). -/
def bondJ (p : PlatInfo) (sc : PlatScales) (rd : Nat → Byte) (b : Bond) : Int :=
  scaledCode (bondCode p rd b) (sc.zones.getD (zoneIndex p b.owner) (0, 0)).1
    ((sc.layers.getD b.owner.z (0, 0)).1).toNat

/-- The bias h of a site, in units (R106). -/
def siteH (p : PlatInfo) (sc : PlatScales) (rd : Nat → Byte) (s : Site) : Int :=
  scaledCode (biasCode p rd s) (sc.zones.getD (zoneIndex p s) (0, 0)).2 ((sc.layers.getD s.z (0, 0)).2).toNat

/-- s = 2b − 1 (R12). -/
def spinInt (b : Bool) : Int := if b then 1 else -1

/-- The local field (R14, R128), the bits read through `spin` by the site's number. -/
def siteField (p : PlatInfo) (sc : PlatScales) (rd : Nat → Byte) (spin : Nat → Bool) (s : Site) : Int :=
  (((bondsOf p s).map (fun b => bondJ p sc rd b * spinInt (spin (siteLin p b.partner)))).foldl (· + ·) 0)
    + siteH p sc rd s

/-- The sites of this chip in rows of a zone: by rising zone index, within a zone by rising y (R105, R213). -/
def energyRows (p : PlatInfo) : List (List Site) :=
  (List.range p.dimZ).flatMap (fun z => (List.range (zoneCount p.dimY)).flatMap (fun j =>
    (List.range (zoneCount p.dimX)).flatMap (fun i => (List.range 64).map (fun y =>
      ((List.range 64).map (fun x => Site.mk (p.orgX + 64 * i + x) (p.orgY + 64 * j + y) z)).filter (inSlab p)))))

/-- The coupling term of a row: what its sites own (R213). -/
def rowCoupling (p : PlatInfo) (sc : PlatScales) (rd : Nat → Byte) (spin : Nat → Bool) (row : List Site) : Int :=
  (row.map (fun s =>
    ((ownedBonds p s).map (fun b => bondJ p sc rd b * spinInt (spin (siteLin p b.partner)))).foldl (· + ·) 0
      * spinInt (spin (siteLin p s)))).foldl (· + ·) 0

/-- The bias term of a row (R213). -/
def rowBias (p : PlatInfo) (sc : PlatScales) (rd : Nat → Byte) (spin : Nat → Bool) (row : List Site) : Int :=
  (row.map (fun s => siteH p sc rd s * spinInt (spin (siteLin p s)))).foldl (· + ·) 0

/-- The energy of this chip's part: its datum, then of each row the couplings its sites own and their biases
(R13, R213, R237). -/
def platEnergy (p : PlatInfo) (sc : PlatScales) (rd : Nat → Byte) (spin : Nat → Bool) : Lacc :=
  (energyRows p).foldl (fun x row =>
    laccAdd (laccAdd x (laccOf (rowCoupling p sc rd spin row))) (laccOf (rowBias p sc rd spin row)))
    (laccOfImage p.datum)

/-! ### Spin planes -/

/-- The mask of the sites of this chip for which `f` holds. -/
def maskOf (p : PlatInfo) (f : Site → Bool) : Nat :=
  ((slabSites p).map (fun s => if f s then 2 ^ siteLin p s else 0)).foldl (· + ·) 0

/-- The spins of a plane read through `rd` at a byte offset (R116). -/
def readPlane (p : PlatInfo) (rd : Nat → Byte) (off : Nat) : Nat :=
  maskOf p (fun s => decide (readBits rd off (elementBit p 1 s) 1 = 1))

/-- Sets or clears a bit of a memory at a bit offset. -/
def memSetBit (m : Memory) (bit : Nat) (b : Bool) : Memory :=
  let v := (memRead m (bit / 8)).toNat
  let w := 2 ^ (bit % 8)
  let c := if v.testBit (bit % 8) then v - w else v
  memWrite m (bit / 8) (BitVec.ofNat 8 (if b then c + w else c))

/-- The bytes of a spin plane that held `old`, with this chip's sites set (R112, R116): bits of no site of this chip
keep what they held (log entry 14). -/
def planeImage (p : PlatInfo) (spins : Nat) (old : List Byte) : List Byte :=
  memReadN ((slabSites p).foldl (fun m s => memSetBit m (elementBit p 1 s) (spins.testBit (siteLin p s)))
    (memWriteN [] 0 old)) 0 (spinPlaneBytes p)

/-- The initial bit of a site under SPIN_INIT (R116). -/
def initBit (seed stream : Nat) (s : Site) (replica : Nat) : Bool :=
  (ctrWord seed stream (siteIndex s.x s.y s.z) 0 replica 5).testBit 31

/-! ### The header and its checks -/

/-- The header's fields; the plat stands for the whole lattice (R108). -/
def platParse (va : Nat) (h : List Byte) : PlatInfo :=
  let f := fieldOf h
  { va := va, codeWidth := f 6 1, order := f 7 1, dimX := f 8 4, dimY := f 12 4, dimZ := f 16 2,
    replicas := f 19 1, spinInit := bitOf (f 20 1) 0, chains := f 24 4, chainSites := f 96 8, bytes := f 32 8,
    lscaleOff := f 40 8, zscaleOff := f 48 8, couplOff := f 56 8, biasOff := f 64 8, spinOff := f 72 8,
    chainDir := f 80 8, chainList := f 88 8, datum := (h.drop 112).take 48,
    orgX := 0, orgY := 0, gDimX := f 8 4, gDimY := f 12 4, slabX0 := 0, slabX1 := f 8 4, slabY0 := 0, slabY1 := f 12 4 }

/-- The present sections in order: offset and size (R107, R110 to R117). -/
def platSections (p : PlatInfo) : List (Nat × Nat) :=
  let w := platWidth p
  let pad (n : Nat) := (n + 63) / 64 * 64
  [(p.lscaleOff, pad (8 * p.dimZ)),
   (p.zscaleOff, pad (2 * zoneCount p.dimX * zoneCount p.dimY * p.dimZ)),
   (p.couplOff, planeBytes p.dimX p.dimY p.dimZ (16 * w)),
   (p.biasOff, planeBytes p.dimX p.dimY p.dimZ 8),
   (p.spinOff, p.replicas * spinPlaneBytes p)] ++
  (if p.chains = 0 then [] else [(p.chainDir, pad (8 * p.chains)), (p.chainList, pad (8 * p.chainSites))])

/-- Whether sections are placed as R107 asks, after `fin`, within `bytes`. -/
def sectionsOk (fin bytes : Nat) (l : List (Nat × Nat)) : Bool :=
  match l with
  | [] => true
  | (off, n) :: r =>
    decide (off ≠ 0 ∧ off % 64 = 0 ∧ fin ≤ off ∧ off + n ≤ bytes) && sectionsOk (off + n) bytes r

/-- The status of the first failing check of the header, checks 2 to 8 of R118; `none` where all pass. -/
def platHeaderStatus (h : List Byte) : Option Status :=
  let f := fieldOf h
  let p := platParse 0 h
  let crcBytes := h.take 28 ++ zeros 4 ++ h.drop 32
  let bad := stBadField
  if f 0 4 ≠ 0x5441_4C50 ∨ f 4 2 ≠ 1 then some bad
  else if f 28 4 ≠ crc32c crcBytes then some bad
  else if 2 ≤ f 20 1 ∨ f 21 3 ≠ 0 ∨ f 104 8 ≠ 0 ∨ f 160 96 ≠ 0 then some bad
  else if f 8 4 = 0 ∨ 2 ^ 20 < f 8 4 ∨ f 12 4 = 0 ∨ 2 ^ 20 < f 12 4 ∨ f 16 2 = 0 ∨ 256 < f 16 2 then some stLatticeRange
  else if f 18 1 ≠ 6 ∨ 3 < f 6 1 ∨ 1 < f 7 1 ∨ 64 < f 19 1 then some bad
  else if f 19 1 = 0 ∨ f 32 8 = 0 then some stLenZero
  else if !sectionsOk 256 p.bytes (platSections p) then some bad
  else if p.chains = 0 ∧ (p.chainDir ≠ 0 ∨ p.chainList ≠ 0 ∨ p.chainSites ≠ 0) then some bad
  else none

end Sys2Proof.Machine
end

