-- ==== Sys2Proof/Machine/Mem.lean ====
section
/-! DEFINITION. Memory levels, capacities and the device pool (R26, R395, R396, R402, R416), page tables and
translation (R394, R397 to R403), reads and writes of a context's virtual addresses, translation faults (R404 to
R406) and uncorrectable errors (R413, R414), and what a faulted context's descriptors become (R364). -/

namespace Sys2Proof.Machine

/-! ### Capacities -/

/-- Addressable bytes of one HBM4 channel, C (R395). -/
def chanBytes : Nat := 45776 * 65536
/-- The range of a full stack, S (R395). -/
def stackBytes : Nat := 32 * chanBytes

/-- Stacks that a grade enables (R16). -/
def gradeStacks (grade : Nat) : List Nat :=
  if grade = 0 then [0, 1, 2, 3, 4, 5, 6, 7] else if grade = 1 then [0, 1, 2, 4, 5, 6] else [0, 2, 4, 6]

/-- Bytes that the stack of rank `k` serves (R395, R416). -/
def rankBytes (s : State) (k : Nat) : Nat :=
  match (gradeStacks s.fuses.grade)[k]? with
  | none => 0
  | some st => s.boot.stackChans.getD st 0 * chanBytes

/-- A range of near memory, no longer than a stack's range, in parts that each lie in the range of one stack. -/
def nearParts (off n : Nat) : List (Nat × Nat) :=
  let room := stackBytes - off % stackBytes
  if n ≤ room then [(off, n)] else [(off, room), (off + room, n - room)]

/-- Whether `n` bytes of near memory at an offset exist (R395). -/
def nearExists (s : State) (off n : Nat) : Bool :=
  decide (0 < n) &&
    (nearParts off n).all (fun p => decide (p.1 % stackBytes + p.2 ≤ rankBytes s (p.1 / stackBytes)))

/-- Whether any of `n` bytes at an offset lies in the pool's part of a stack (R402). -/
def nearPool (s : State) (off n : Nat) : Bool :=
  (nearParts off n).any (fun p =>
    decide (rankBytes s (p.1 / stackBytes) < p.1 % stackBytes + p.2 + s.poolNear * 65536))

/-- DDR5 channels that a grade enables (R2, R510). -/
def gradeDdr (grade : Nat) : List Nat :=
  if grade = 0 then List.range 24
  else if grade = 1 then List.range 8 ++ (List.range 8).map (· + 12)
  else List.range 6 ++ (List.range 6).map (· + 12)

/-- DDR5 channels in service, ascending (R396, R417). -/
def ddrInService (s : State) : List Nat := (gradeDdr s.fuses.grade).filter (fun c => decide (c ∉ s.boot.outDdr))

/-- Far capacity in bytes (R396, R5). -/
def farBytes (s : State) : Nat := (ddrInService s).length * s.boot.dimms * s.boot.dimmGb * 10 ^ 9

/-- Whether `n` bytes of far memory at an offset exist. -/
def farExists (s : State) (off n : Nat) : Bool := decide (off + n ≤ farBytes s ∧ 0 < n)

/-- Whether any of `n` bytes at an offset lies in the pool's part of far memory (R402). -/
def farPool (s : State) (off n : Nat) : Bool := decide (farBytes s < off + n + s.poolFar * 65536)

/-- The far-memory channel that serves an offset: 4 KiB units rotate over the channels in service (R396). -/
def farChannel (s : State) (off : Nat) : Nat :=
  let cs := ddrInService s
  cs.getD (off / 4096 % max 1 cs.length) 0

/-! ### The device pool (R28, R391, R402) -/

/-- Bytes of the device pool in a place: the top of each stack of a compute die, or of far memory (R16, R402). -/
def poolOf (s : State) (pl : Place) : Nat :=
  match pl with
  | .near die =>
    (((gradeStacks s.fuses.grade).zipIdx.filter (fun p => decide (p.1 / 2 = die))).map
      (fun p => min (s.poolNear * 65536) (rankBytes s p.2))).foldl (· + ·) 0
  | .far => min (s.poolFar * 65536) (farBytes s)

/-- Bytes of the device pool that a context's placements hold in the places that `p` picks: POOL_USED with every place
picked (R385). -/
def placedBytes (s : State) (c : Nat) (p : Place → Bool) : Nat :=
  ((s.runs.filter (fun (r : Run) => decide (r.key.ctx = c))).map (fun r =>
    match r.spin with
    | some q => ((q.places.filter (fun e => p e.2.1)).map (fun e => e.2.2)).foldl (· + ·) 0
    | none => 0)).foldl (· + ·) 0

/-- Bytes of the pool that a context holds in a place: placements, save areas of 8 MiB, held areas of 2 KiB (R402). -/
def heldBytes (s : State) (pl : Place) (e : Nat × Ctx) : Nat :=
  placedBytes s e.1 (fun x => decide (x = pl)) + 8388608 * (e.2.areas.filter (fun a => decide (a.2 = pl))).length +
  2048 * (e.2.rings.filter (fun (q : Nat × Ring) =>
    decide (q.2.area = some pl) && (q.2.configured || !q.2.held.isEmpty))).length

/-- Whether a place of the pool has room for `n` more bytes. -/
def poolRoom (s : State) (n : Nat) (pl : Place) : Bool :=
  decide ((s.ctxs.map (heldBytes s pl)).foldl (· + ·) 0 + n ≤ poolOf s pl)

/-- The compute die of a core, by its logical number (R18). -/
def dieOf (s : State) (core : Nat) : Nat := s.boot.enabled.getD core 144 / 36

/-- The places for a core's own data in the order in which they are tried: its own die, the two dies joined to it by a
bridge, the die across, far memory (R17, R28). -/
def placesFor (s : State) (core : Nat) : List Place :=
  let d := dieOf s core
  [.near d, .near (if d % 2 = 0 then d + 1 else d - 1), .near ((d + 2) % 4), .near (3 - d), .far]

/-- Allots the save area of a context for one core: near memory of the core's own die, else far memory (R391). -/
def allotArea (c : Nat) (s : State) (core : Nat) : Option State :=
  ([Place.near (dieOf s core), .far].find? (poolRoom s 8388608)).map (fun pl =>
    s.updCtx c (fun x => { x with areas := x.areas ++ [(core, pl)] }))

/-- Allots the save areas of contexts for cores, none where one of them has no room (R389 to R391). -/
def allotAreas (s : State) (cs cores : List Nat) : Option State :=
  cs.foldlM (fun t c => cores.foldlM (allotArea c) t) s

/-! ### Bytes of a level -/

/-- A memory level's bytes. -/
def levelMem (s : State) (l : Level) : Memory :=
  match l with
  | .near => s.near
  | .far => s.far
  | .host => s.host
  | .coreStore => []

/-- Replaces a memory level's bytes. -/
def setLevel (s : State) (l : Level) (m : Memory) : State :=
  match l with
  | .near => { s with near := m }
  | .far => { s with far := m }
  | .host => { s with host := m }
  | .coreStore => s

/-- Channels in service of a stack that its layout rotates over, ascending (R395, R416). -/
def stackChannels (s : State) (stack : Nat) : List Nat :=
  (List.range 32).filter (fun c => decide (32 * stack + c ∉ s.boot.outChans))

/-- The channel, 32k + c, that serves a near offset: 1 KiB units rotate over the stack's channels (R395). -/
def nearChannel (s : State) (off : Nat) : Nat :=
  let stack := (gradeStacks s.fuses.grade).getD (off / stackBytes) 0
  let cs := stackChannels s stack
  32 * stack + cs.getD (off % stackBytes / 1024 % max 1 cs.length) 0

/-- A line of the pool's part of a place that holds an uncorrectable error, in the share that the pool gives an owner there:
which lines those are is open (R402, R413; log entry 25). -/
def poolBadLine (s : State) (pl : Place) (owner : Nat × Nat × Nat) : Option (Level × Nat) :=
  s.badLines.find? (fun p =>
    (match pl with
     | .near die => decide (p.1 = .near ∧ (gradeStacks s.fuses.grade).getD (p.2 * 64 / stackBytes) 8 / 2 = die) && nearPool s (p.2 * 64) 64
     | .far => decide (p.1 = .far) && farPool s (p.2 * 64) 64) && Config.poolHolds owner p.2)

/-- A 64 B line of the pool's part of a place that a channel retired since the last reset serves. What the device holds in
near memory of a die is taken to lie on every channel of the die's stacks (DESIGN CHOICE, log entry 25). -/
def poolLostLine (s : State) (pl : Place) : Option Nat :=
  match pl with
  | .far => none
  | .near die =>
    (s.boot.lostChans.find? (fun ch => decide (ch / 64 = die))).bind (fun ch =>
      let k := (gradeStacks s.fuses.grade).idxOf (ch / 32)
      let base := (k * stackBytes + (rankBytes s k - min (s.poolNear * 65536) (rankBytes s k))) / 1024
      (((List.range 32).map (· + base)).find? (fun u => decide (nearChannel s (u * 1024) = ch))).map (fun u => u * 16))

/-- A line of what the device holds in a place for an owner that a read meets an uncorrectable error at: one of a retired
channel, or a bad line of its share (R413, R415). -/
def poolLost (s : State) (pl : Place) (owner : Nat × Nat × Nat) : Option (Level × Nat) :=
  ((poolLostLine s pl).map (fun n => (Level.near, n))).or (poolBadLine s pl owner)

/-- Whether a near line lies in a channel retired since the last reset (R415). -/
def lineLost (s : State) (line : Nat) : Bool := decide (nearChannel s (line * 64) ∈ s.boot.lostChans)

/-- Whether a line holds an uncorrectable error, or lies in a retired channel (R413, R415). -/
def lineBad (s : State) (l : Level) (line : Nat) : Bool :=
  decide ((l, line) ∈ s.badLines) || (decide (l = .near) && lineLost s line)

/-- The first line of a range that lies in a channel retired since the last reset. -/
def lostLineIn (s : State) (l : Level) (off n : Nat) : Option Nat :=
  if l ≠ .near ∨ s.boot.lostChans = [] ∨ n = 0 then none
  else ((List.range ((off + n - 1) / 64 + 1 - off / 64)).map (· + off / 64)).find? (lineLost s)

/-- The first bad line of a range. -/
def badLineIn (s : State) (l : Level) (off n : Nat) : Option Nat :=
  ((s.badLines.find? (fun p => decide (p.1 = l ∧ off / 64 ≤ p.2 ∧ p.2 ≤ (off + n - 1) / 64 ∧ 0 < n))).map Prod.snd).or
    (lostLineIn s l off n)

/-! ### Page tables -/

/-- What a translation gives. -/
inductive Xlate where
  | ok (l : Level) (off : Nat)
  | fault (kind : Nat)
  /-- the host page is not present: a PRI request is due (R400) -/
  | pri (page : Nat)
  /-- the walk met an uncorrectable error (R413) -/
  | ue (l : Level) (line : Nat)
  deriving DecidableEq, Repr

/-- Whether a table of `n` bytes lies in its target's capacity and outside the pool (R398). -/
def rangeOk (s : State) (l : Level) (off n : Nat) : Bool :=
  match l with
  | .near => nearExists s off n && !nearPool s off n
  | .far => farExists s off n && !farPool s off n
  | .host => true
  | .coreStore => false

/-- The level of a TARGET field. -/
def targetLevel (t : Nat) : Level := if t = 0 then .near else if t = 1 then .far else .host

/-- A leaf as the translation units hold it for one 64 KiB page: its entry with OUT naming that page. -/
inductive Leaf where
  | entry (w : Nat)
  | fault (kind : Nat)
  | ue (l : Level) (line : Nat)
  deriving DecidableEq, Repr

/-- Whether an entry is a malformed leaf that covers `n` bytes (R398). -/
def leafBad (s : State) (w n : Nat) : Bool :=
  decide (bitsOf w 63 57 ≠ 0 ∨ bitsOf w 15 6 ≠ 0 ∨ bitsOf w 3 2 = 3) ||
  (decide (n ≠ 65536) && decide (bitsOf w 28 16 ≠ 0)) ||
  !rangeOk s (targetLevel (bitsOf w 3 2)) (bitsOf w 56 16 * 65536) n

/-- Whether an entry is a malformed table pointer to a table of 64 KiB (R398). -/
def pointerBad (s : State) (w : Nat) : Bool :=
  decide (bitsOf w 63 57 ≠ 0 ∨ bitsOf w 15 4 ≠ 0 ∨ 2 ≤ bitsOf w 3 2) ||
  !rangeOk s (targetLevel (bitsOf w 3 2)) (bitsOf w 56 16 * 65536) 65536

/-- Reads an entry of a table. -/
def readEntry (s : State) (l : Level) (off : Nat) : Nat := memLoad (levelMem s l) off 8

/-- The walk of a context's page tables for a 64 KiB page (R397, R398). -/
def walkPage (s : State) (c page : Nat) : Leaf :=
  let root := (s.ctxAt c).ptRoot.toNat
  let rl := targetLevel (root % 4)
  let rb := bitsOf root 47 12 * 4096
  if 2 ≤ root % 4 ∨ bitsOf root 11 2 ≠ 0 ∨ bitsOf root 63 48 ≠ 0 ∨ !rangeOk s rl rb 512 then .fault 4
  else
    let a0 := rb + 8 * (page / 2 ^ 26)
    if lineBad s rl (a0 / 64) then .ue rl (a0 / 64)
    else
      let e0 := readEntry s rl a0
      if e0 % 2 = 0 then .fault 1
      else if (e0 / 2) % 2 = 1 ∨ pointerBad s e0 then .fault 4
      else
        let l1 := targetLevel (bitsOf e0 3 2)
        let a1 := bitsOf e0 56 16 * 65536 + 8 * (page / 2 ^ 13 % 2 ^ 13)
        if lineBad s l1 (a1 / 64) then .ue l1 (a1 / 64)
        else
          let e1 := readEntry s l1 a1
          if e1 % 2 = 0 then .fault 1
          else if (e1 / 2) % 2 = 1 then
            (if leafBad s e1 (2 ^ 29) then .fault 4 else .entry (e1 + page % 2 ^ 13 * 65536))
          else if pointerBad s e1 then .fault 4
          else
            let l2 := targetLevel (bitsOf e1 3 2)
            let a2 := bitsOf e1 56 16 * 65536 + 8 * (page % 2 ^ 13)
            if lineBad s l2 (a2 / 64) then .ue l2 (a2 / 64)
            else
              let e2 := readEntry s l2 a2
              if e2 % 2 = 0 then .fault 1
              else if (e2 / 2) % 2 = 0 ∨ leafBad s e2 65536 then .fault 4
              else .entry e2

/-- The leaf of a page: a cached entry, or a walk (R399). -/
def leafOf (s : State) (c page : Nat) : Leaf :=
  match tabFind (s.ctxAt c).tlb page with
  | some w => .entry w.toNat
  | none => walkPage s c page

/-- The key of a byte of a context's host address space. -/
def hostKey (c a : Nat) : Nat := c * 2 ^ 64 + a

/-- The key of a 4 KiB page of a context's host address space. -/
def hostPageKey (c a : Nat) : Nat := c * 2 ^ 52 + a / 4096

/-- Translates one address for an access (R394, R397 to R403). An address beyond 48 bits maps to nothing
(log entry 11). With ATS disabled a request goes out untranslated, and no PRI request is made (R400; log entry 76). -/
def xlate (s : State) (c va : Nat) (write : Bool) : Xlate :=
  if 2 ^ 48 ≤ va then .fault 1
  else
    match leafOf s c (va / 65536) with
    | .fault k => .fault k
    | .ue l n => .ue l n
    | .entry w =>
      if !write ∧ !bitOf w 4 then .fault 2
      else if write ∧ !bitOf w 5 then .fault 3
      else
        let off := bitsOf w 56 16 * 65536 + va % 65536
        match targetLevel (bitsOf w 3 2) with
        | .host =>
          match tabGet .present s.hostPages (hostPageKey c off) with
          | .present => .ok .host (hostKey c off)
          | .absent => if s.ats then .pri (off / 4096) else .fault 5
          | .denied => .fault 5
        | l => .ok l off

/-- Splits a range at 4 KiB boundaries: address and length of each piece; the count bounds the recursion. -/
def pieces (fuel va n : Nat) : List (Nat × Nat) :=
  match fuel with
  | 0 => []
  | k + 1 =>
    if n = 0 then []
    else
      let m := min n (4096 - va % 4096)
      (va, m) :: pieces k (va + m) (n - m)

/-- The pieces of a range. -/
def rangePieces (va n : Nat) : List (Nat × Nat) := pieces (n / 4096 + 2) va n

/-- What stops an access to a range, with the address of the first byte that is not reached. -/
inductive Stop where
  | fault (kind va : Nat)
  | pri (page : Nat)
  | ue (l : Level) (line : Nat)
  deriving DecidableEq, Repr

/-- What stops an access to a piece within one page: a failed translation, then an uncorrectable line (R403, R413). -/
def pieceStop (s : State) (c : Nat) (write : Bool) (p : Nat × Nat) : Option Stop :=
  match xlate s c p.1 write with
  | .fault k => some (.fault k p.1)
  | .pri g => some (.pri g)
  | .ue l n => some (.ue l n)
  | .ok l off =>
    match (if write then lostLineIn s l off p.2 else badLineIn s l off p.2) with
    | some n => some (.ue l n)
    | none => none

/-- What stops an access to a range (R403, R413). -/
def rangeStop (s : State) (c va n : Nat) (write : Bool) : Option Stop :=
  (rangePieces va n).findSome? (pieceStop s c write)

/-- The bytes of a range of virtual addresses; a byte that does not translate reads as zero, and no caller uses one. -/
def vaRead (s : State) (c va n : Nat) : List Byte :=
  (rangePieces va n).flatMap (fun p =>
    match xlate s c p.1 false with
    | .ok l off => memReadN (levelMem s l) off p.2
    | _ => zeros p.2)

/-- A number at a virtual address. -/
def vaLoad (s : State) (c va n : Nat) : Nat := leNat (vaRead s c va n)

/-- Writes one piece. -/
def pieceWrite (c : Nat) (bs : List Byte) (va : Nat) (s : State) (p : Nat × Nat) : State :=
  match xlate s c p.1 true with
  | .ok l off => setLevel s l (memWriteN (levelMem s l) off ((bs.drop (p.1 - va)).take p.2))
  | _ => s

/-- Writes bytes at a virtual address. -/
def vaWrite (s : State) (c va : Nat) (bs : List Byte) : State :=
  (rangePieces va bs.length).foldl (pieceWrite c bs va) s

/-- Whether any byte of a range has a leaf that names HOST (R401). -/
def rangeHost (s : State) (c va n : Nat) : Bool :=
  (rangePieces va n).any (fun (p : Nat × Nat) =>
    match leafOf s c (p.1 / 65536) with
    | .entry w => decide (bitsOf w 3 2 = 2)
    | _ => false)

/-- Whether the single page of an address names HOST. -/
def pageHost (s : State) (c va : Nat) : Bool := rangeHost s c va 1

/-- Caches the leaf of the pages of a range (R399). -/
def cachePages (s : State) (c va n : Nat) : State :=
  let put (t : Tab Word) (p : Nat × Nat) : Tab Word :=
    match leafOf s c (p.1 / 65536) with
    | .entry w => tabSet t (p.1 / 65536) (BitVec.ofNat 64 w)
    | _ => t
  s.updCtx c (fun x => { x with tlb := (rangePieces va n).foldl put x.tlb })

/-- Whether a quota of a context has been reached: engine, memory, link (R386). -/
def quotaHit (x : Ctx) : Bool × Bool × Bool :=
  (decide (x.quotaEngine ≠ 0 ∧ x.quotaEngine.toNat ≤ x.acctEngine.toNat),
   decide (x.quotaMem ≠ 0 ∧ x.quotaMem.toNat ≤ x.acctMem.toNat),
   decide (x.quotaLink ≠ 0 ∧ x.quotaLink.toNat ≤ x.acctLink.toNat))

/-- Sets the QUOTA bits of quotas that have been reached (R386). -/
def markQuota (x : Ctx) : Ctx :=
  let q := quotaHit x
  { x with quotaEngineHit := x.quotaEngineHit || q.1, quotaMemHit := x.quotaMemHit || q.2.1,
           quotaLinkHit := x.quotaLinkHit || q.2.2 }

/-- Whether any quota has been reached. -/
def overQuota (x : Ctx) : Bool := (quotaHit x).1 || (quotaHit x).2.1 || (quotaHit x).2.2

/-- Adds bytes to ACCT_MEM (R385, R386). -/
def chargeMem (s : State) (c n : Nat) : State :=
  s.updCtx c (fun x => markQuota { x with acctMem := x.acctMem + BitVec.ofNat 64 n })

/-! ### Messages of a group -/

/-- CONTEXT of GRP_CTRL (R230). -/
def Group.context (g : Group) : Nat := bitsOf g.ctrl.toNat 47 36

/-- Payload bytes of a message: those of easement messages and tally images are the spec's, a broadcast's the images', a
plan's its area; the others are open (R238, R239, R385; log entry 27). -/
def payloadBytes (m : FabMsg) : Nat :=
  match m with
  | .easement e => (easementBytes e).length
  | .tally _ _ image => image.length
  | .broadcast _ tallies => (tallies.map List.length).foldl (· + ·) 0
  | .group (.plan area) => area.length
  | .group g => Config.groupBytes g
  | .joinMsg _ => Config.controlBytes 0
  | .stopMsg _ _ => Config.controlBytes 1
  | .digest _ _ _ => Config.controlBytes 2
  | .linkState _ => 0

/-- Charges payload bytes sent over boundary links to the context of a group (R385; what counts, log entry 27). -/
def chargeLink (s : State) (gi n : Nat) : State :=
  s.updCtx (s.groupAt gi).context (fun x => markQuota { x with acctLink := x.acctLink + BitVec.ofNat 64 n })

/-- Sends a message of a group to chips, at the charge of its context (R385). -/
def sendGroup (s : State) (gi : Nat) (chips : List Nat) (m : FabMsg) : State :=
  chargeLink (sendFabs s chips m) gi (chips.length * payloadBytes m)

/-- Sends a control message to every other member of a group. -/
def sendAll (s : State) (g : Nat) (m : GroupMsg) : State := sendGroup s g (otherMembers s (s.groupAt g)) (.group m)

/-- Sends a STOP to the other members of a group; `lost` is the member that it names (R239, R244, R246). -/
def sendStop (s : State) (g : Nat) (st : Status) (lost : Option Nat) : State :=
  sendGroup s g (otherMembers s (s.groupAt g)) (.stopMsg st lost)

/-! ### Core store -/

/-- Reads a core's store. -/
def storeRead (s : State) (core off n : Nat) : List Byte := memReadN (s.workAt core).store off n

/-- What holds errors, without the words of a core's store that a write of `n` bytes rewrites whole (R22). -/
def rewritten (core off n : Nat) (l : List (Level × Nat)) : List (Level × Nat) :=
  l.filter (fun p => decide (p.1 ≠ .coreStore ∨ 8 * p.2 < core * 2 ^ 23 + off ∨ core * 2 ^ 23 + off + n < 8 * p.2 + 8))

/-- What holds errors, outside the store of a core. -/
def withoutStore (core : Nat) (l : List (Level × Nat)) : List (Level × Nat) :=
  l.filter (fun p => decide (p.1 ≠ .coreStore ∨ p.2 / 2 ^ 20 ≠ core))

/-- Writes a core's store: each word of 64 bits that is written whole has new check bits (R22). -/
def storeWrite (s : State) (core off : Nat) (bs : List Byte) : State :=
  State.updWork { s with badLines := rewritten core off bs.length s.badLines } core
    (fun w => { w with store := memWriteN w.store off bs })

/-- The first word of a range of a core's store that holds an uncorrectable error, by its number core · 2^20 + word (R22,
R413). -/
def storeBad (s : State) (core off n : Nat) : Option Nat :=
  (s.badLines.find? (fun p => decide (p.1 = .coreStore ∧ (core * 2 ^ 23 + off) / 8 ≤ p.2 ∧
    p.2 ≤ (core * 2 ^ 23 + off + n - 1) / 8 ∧ 0 < n))).map Prod.snd

/-! ### Run records -/

/-- The step that marks a start exchange (R238). -/
def startStep : Nat := 2 ^ 48 - 1

/-- What marks the starting energies of spin command `n` of a group among its partial tallies: above every step, so that
those of another command are not taken for them (R116; DESIGN CHOICE, log entry 26). -/
def startKey (n : Nat) : Nat := startStep + n

/-- The lead's run-start data for the present spin command of a group, if they have come (R236, R237). -/
def presentStart (G : Group) : Option (List (BitVec 32) × List (List Byte) × List Byte × Nat × Nat) :=
  G.runStart.filter (fun d => decide (d.2.2.2.2 = G.cmds))

/-- The step after the last traverse that has completed (R181): the present one counts once all its steps have run. -/
def lastStep (q : SpinRun) (c : SpinCmd) : Nat :=
  if c.started ∧ platSteps q.plat ≤ c.tallied then c.step + platSteps q.plat else c.step

/-- Whether an address of a structure is misaligned or reaches past the virtual addresses (R166, R394). -/
def vaBad (a n : Nat) : Bool := decide (a % 64 ≠ 0 ∨ 2 ^ 48 < a + n)

/-- The 128 bytes of a run record (R186). -/
def recordImage (bs : List Byte) (c : Option SpinCmd) (order : Nat) (st : Status) (first last : Nat) (arithRev : Nat)
    (elapsed : Word) : List Byte :=
  let n (f : SpinCmd → Nat) : Nat := match c with | some q => f q | none => 0
  natLe 8 (fieldOf bs 40 8) ++ natLe 2 (fieldOf bs 36 2) ++ natLe 1 order ++ natLe 1 (n SpinCmd.stopReason) ++
  natLe 2 st.toNat ++ zeros 2 ++ natLe 6 first ++ natLe 6 last ++ natLe 4 (n SpinCmd.traversesRun) ++
  natLe 6 (match c with | some q => q.targetStep | none => startStep) ++ natLe 2 (n SpinCmd.targetReplica) ++
  natLe 8 (n SpinCmd.exchAttempts) ++ natLe 8 (n SpinCmd.exchSwaps) ++ natLe 8 (n SpinCmd.exchNan) ++
  natLe 6 (n SpinCmd.benchLastStep) ++ natLe 2 (n SpinCmd.benchLastSlot) ++ natLe 4 (n SpinCmd.benchCount) ++
  natLe 4 arithRev ++ natLe 8 (fieldOf bs 8 8) ++ natLe 8 elapsed.toNat ++ zeros 32

/-- Whether a run record can be written at an address (R186). -/
def recordOk (s : State) (c a : Nat) : Bool := decide (a ≠ 0) && !vaBad a 128 && !rangeHost s c a 128

/-- The run record of a spin command of a run at its end: address and bytes, none where none is written (R181, R186).
The elapsed time is open. Under TIMEOUT_KILLED, which stands for a context reset too, the 128 bytes are not defined: they
are free values. -/
def recordWrite (s : State) (c : Nat) (q : SpinRun) (d : SpinCmd) (st : Status) : List (Nat × List Byte) :=
  let a := match d.block with | some b => b.recAddr | none => 0
  if d.schedule = false ∨ !recordOk s c a then []
  else if st = stTimeoutKilled then [(a, (List.range 128).map (Config.byte s.fresh))]
  else
    let d1 := if platSteps q.plat ≤ d.tallied ∧ d.started then { d with traversesRun := d.traversesRun + 1 } else d
    [(a, recordImage d.bytes (some d1) q.plat.order st d.firstStep (lastStep q d) s.boot.fw.arithRev
      (Config.word s.fresh))]

/-- Marks an operation of R282 that occurs in a context of a timed plot: cause 2 MARKED_T (R286). -/
def markT (s : State) (c : Nat) : State :=
  if (s.ctxAt c).plotValid then timingBroken s (s.ctxAt c).plot 2 else s

/-- Marks the use of a page that is not locked in a timed plot (R393). -/
def markUnlocked (s : State) (c va n : Nat) : State :=
  if (rangePieces va n).all (fun (p : Nat × Nat) => decide (p.1 / 65536 ∈ (s.ctxAt c).locked)) then s else markT s c

/-- Marks what a timed plot sees of an access: an unlocked page, a HOST target (R393, R401). -/
def markAccess (s : State) (c va n : Nat) : State :=
  let s1 := markUnlocked s c va n
  if rangeHost s c va n then markT s1 c else s1

/-- Writes each of several results where it can be written, independently of the others; a write that is made is an access
of the context (R282, R393, R401). -/
def writeEach (s : State) (c : Nat) (ws : List (Nat × List Byte)) : State :=
  ws.foldl (fun t w => if (rangeStop t c w.1 w.2.length true).isNone then (vaWrite (markAccess t c w.1 w.2.length) c w.1 w.2).tick else t) s

/-- What a RUN that ends while its SPIN_SCHEDULE is in flight writes: the run record, and at a completion, which a reset is
not, BENCH_NEXT (R181, R186, R187). -/
def endWrites (s : State) (c : Nat) (q : SpinRun) (d : SpinCmd) (st : Status) (reset : Bool) : List (Nat × List Byte) :=
  recordWrite s c q d st ++ (if d.schedule ∧ reset = false then [(d.blockVa + 130, natLe 2 d.benchNext)] else [])

/-- What a SPIN_SCHEDULE writes that ends before it has started, its run block read: the record of a refusal and, once
its checks have passed, BENCH_NEXT (R186, R187). -/
def startWrites (s : State) (r : Run) (st : Status) (reset : Bool) : List (Nat × List Byte) :=
  match r.block with
  | none => []
  | some (bs, b) =>
    let a := fieldOf b 32 8
    let order := match r.spin with | some q => if q.last.isNone then 0 else q.plat.order | none => 0
    let next := fieldOf b 130 2
    (if !recordOk s r.key.ctx a then []
     else if st = stTimeoutKilled then [(a, (List.range 128).map (Config.byte s.fresh))]
     else [(a, recordImage bs none order st (fieldOf b 136 6) (fieldOf b 136 6) s.boot.fw.arithRev (Config.word s.fresh))]) ++
    (if 256 < b.length ∧ reset = false then
      [(fieldOf bs 24 8 + 130, natLe 2 (if next < fieldOf b 52 2 then next else 0))] else [])

/-- A RUN ends with a status while its SPIN_SCHEDULE is in flight: what that writes, where it can be written (R186). -/
def endRecord (s : State) (r : Run) (st : Status) (reset : Bool) : State :=
  writeEach s r.key.ctx (match r.spin.bind SpinRun.cmd with
    | none => startWrites s r st reset
    | some d => (match r.spin with
      | some q => endWrites s r.key.ctx q d st reset
      | none => []))

/-! ### Ends of work -/

/-- Moves a descriptor in flight of a ring to the finished ones, with its status (R366). -/
def Ring.finish (q : Ring) (slot : Nat) (st : Status) (detail : Nat) : Ring :=
  { q with
    inflight := q.inflight.filter (fun d => d.slot ≠ slot)
    finished := q.finished ++ ((q.inflight.filter (fun d => d.slot = slot)).map (fun d => Finished.mk d st detail)) }

/-- Completes a descriptor in flight. -/
def finishDesc (s : State) (c r slot : Nat) (st : Status) (detail : Nat) : State :=
  s.updRing c r (fun q => q.finish slot st detail)

/-- The cores that a RUN holds are freed: control cores idle, queues empty (R359). The core store stays. -/
def freeCore (k : RunKey) (c : Core) : Core :=
  if c.work.run = some k then
    { c with
      work := { c.work with
        run := none, dmaU := {}, spinU := {}, denseU := {}, vecU := {}, since := [], rbars := 0, wqs := [],
        seeds := 0, benches := 0, issuedAny := false, spinMode := 0, strips := 0,
        cc0 := { c.work.cc0 with mode := .idle, wait := .none, started := false, cbars := 0 },
        cc1 := { c.work.cc1 with mode := .idle, wait := .none, started := false, cbars := 0 } }
      spinBusy := 0, vecMode := 0 }
  else c

/-- A group whose present spin command has ended on this chip: `n` commands more have ended; what the other members have
sent for the next one or a later one stays (R236, R247). -/
def Group.ended (G : Group) (n st : Nat) : Group :=
  let m := G.cmds + n
  { G with
    st := st, cmds := m, holdStep := none, asked := false, sentStart := false, stops := []
    digests := [], peerDigests := [], peerUpto := 0
    readied := G.readied.filter (fun x => decide (m ≤ x.1)), go := G.go.filter (fun x => decide (m ≤ x))
    refusals := G.refusals.filter (fun x => decide (m ≤ x.1)), cuts := G.cuts.filter (fun x => decide (m ≤ x.1))
    walls := G.walls.filter (fun x => decide (m ≤ x.1))
    partials := G.partials.filter (fun x => decide (x.1 < startStep ∨ startKey m ≤ x.1))
    runStart := G.runStart.filter (fun x => decide (m ≤ x.2.2.2.2)) }

/-- A RUN that ran over a group ends: the group is no longer RUNNING, the command that is in flight or that the lead has
started counts as ended, and an end other than DONE is the loss of this member for the others (R236, R246). -/
def leaveGroup (s : State) (r : Run) (st : Status) : State :=
  match r.spin with
  | none => s
  | some q =>
    match q.group with
    | none => s
    | some g =>
      let G := s.groupAt g
      if G.st ≠ 3 then s
      else
        let s1 := s.updGroup g (fun G => G.ended (bitNat (q.cmd.isSome || (presentStart G).isSome)) 2)
        if st = stDone then s1 else sendStop s1 g stLinkLost (some s.fab.chip)

/-- Ends a RUN with a status, or in a reset: its run record, its group, its cores, its saved parts, its seed draws that wait
(R274); it leaves the list; a snapshot that held it ends with BAD_FIELD, no spin command being left (R411, log entry 16). -/
def dropRun (s : State) (k : RunKey) (st : Status) (reset : Bool) : State :=
  let s0 := match s.findRun k with
    | some r => leaveGroup (endRecord s r st reset) r st
    | none => s
  let s1 := { s0 with
    cores := List.map (fun (p : Nat × Core) => (p.1, freeCore k p.2)) s0.cores
    runs := s0.runs.filter (fun r => r.key ≠ k)
    rng := { s0.rng with waiting := s0.rng.waiting.filter (fun w => decide (w ≠ NoiseFor.seed k)) } }
  s1.updCtx k.ctx (fun x => { x with
    saves := x.saves.filter (fun (p : Nat × Work) => p.2.run ≠ some k)
    snapStatus := if x.snapRun = some k then stBadField else x.snapStatus
    snapRun := if x.snapRun = some k then none else x.snapRun })

/-- The status registers of a core after a command of a unit has completed (R159, R216). -/
def lastStatus (u : EngineUnit) (st : Status) (c : Core) : Core :=
  match u with
  | .dma => c
  | .spin => { c with spinLast := st }
  | .dense => { c with denseLast := st }
  | .vector => { c with vecLast := st, vecMode := 0 }

/-- The commands that a core still holds for a RUN end with the status that ends it, a trap's and UNIT_RESET too: the
status registers of their units (R159, R216, R315; log entry 43). -/
def endUnits (k : RunKey) (st : Status) (c : Core) : Core :=
  if c.work.run = some k ∧ st ≠ stDone then
    [EngineUnit.spin, .dense, .vector].foldl
      (fun (c : Core) u => if (c.work.unitQ u).queue.isEmpty then c else lastStatus u st c) c
  else c

/-- Ends a RUN with a status that its commands take too (R315). -/
def stopRun (s : State) (k : RunKey) (st : Status) : State :=
  dropRun { s with cores := List.map (fun (p : Nat × Core) => (p.1, endUnits k st p.2)) s.cores } k st false

/-- Completes a RUN with a status (R332, R359). -/
def completeRun (s : State) (k : RunKey) (st : Status) (detail : Nat) : State :=
  finishDesc (stopRun s k st) k.ctx k.ring k.slot st detail

/-- One ring of a context that becomes faulted (R364): every descriptor in flight or fetched completes with
CTX_FAULTED, but for the one named, which takes its own status. -/
def faultRing (r : Nat) (own : Option (Nat × Nat × Status)) (q : Ring) : Ring :=
  let st (d : Desc) : Status :=
    match own with
    | some (r', k, x) => if r' = r ∧ k = d.slot then x else stCtxFaulted
    | none => stCtxFaulted
  { q with
    inflight := []
    fetched := []
    waitOn := false
    finished := q.finished ++ (q.inflight ++ q.fetched).map (fun d => Finished.mk d (st d) 0)
    configured := false
    stopping := false
    full := false
    keepsTail := false
    stopCause := if q.configured then 3 else q.stopCause }

/-- The started services of a context lose it: each is to send one SAFE frame with CAUSE CONTEXT (R432). -/
def loseServices (s : State) (c : Nat) : State :=
  { s with services := s.services.map (fun v => if v.ctx = c ∧ v.st ≠ 0 then { v with contextLost := true } else v) }

/-- A context that is ACTIVE or FAULT_PENDING becomes faulted; in no other state has it a transition to FAULTED (R364, R380,
R432). -/
def faultCtx (s : State) (c : Nat) (own : Option (Nat × Nat × Status)) : State :=
  let own? (k : RunKey) : Status := match own with
    | some (r, n, x) => if r = k.ring ∧ n = k.slot then x else stCtxFaulted
    | none => stCtxFaulted
  if (s.ctxAt c).st ≠ 1 ∧ (s.ctxAt c).st ≠ 2 then s else
  let s1 := ((s.runs.filter (fun (r : Run) => r.key.ctx = c)).map Run.key).foldl (fun t k => stopRun t k (own? k)) s
  let s2 := s1.updCtx c (fun x => { x with
    st := 3
    rings := x.rings.map (fun p => (p.1, faultRing p.1 own p.2)) })
  raiseVector (loseServices s2 c) (s2.ctxAt c).errVector

/-- A core of a context that faults, its spin engines at rest: the strips they held have written (R156, R159, R524). -/
def restSpin (c : Nat) (x : Core) : Core :=
  match x.work.run with
  | some k => if k.ctx = c then { x with spinBusy := 0 } else x
  | none => x

/-- Records a translation fault (R404, R405): the first makes the context FAULT_PENDING, later ones are counted; an
access that has faulted already waits and faults no second time. A fault is marked T (R282). -/
def raiseFault (s : State) (c : Nat) (f : FaultRec) (h : Holder) : State :=
  let x := s.ctxAt c
  if x.st = 1 then
    let s1 := s.updCtx c (fun x => { x with st := 2, fault := some f, faultMore := 0, holders := x.holders ++ [(h, f.kind)] })
    let s2 := { s1 with
      runs := s1.runs.map (fun r => if r.key.ctx = c ∧ r.phase = .dispatched then { r with phase := .preempted } else r)
      cores := List.map (fun (p : Nat × Core) => (p.1, restSpin c p.2)) s1.cores }
    markT (raiseVector s2 x.faultVector) c
  else if x.st = 2 ∧ (x.holders.any (fun (p : Holder × Nat) => decide (p.1 = h))) = false then
    markT (s.updCtx c (fun x => { x with faultMore := min 255 (x.faultMore + 1), holders := x.holders ++ [(h, f.kind)] })) c
  else s

/-- Sends a PRI page request for an access of a context's work and remembers it (R400); it is marked T (R282). -/
def requestPage (s : State) (c page : Nat) (ring : Option Nat) : State :=
  if s.pris.any (fun q => decide (q.ctx = c ∧ q.page = page ∧ q.ring = ring)) then s
  else markT (State.emit { s with pris := s.pris ++ [PriReq.mk c page ring] } (.pri c page)) c

/-- The status of a fault kind under abort (R403). -/
def faultStatus (kind : Nat) : Status := if kind = 2 ∨ kind = 3 then stPermFault else stXlateFault

/-- The DETAIL of a record whose type the spec gives none: open (R447). -/
def openDetail (s : State) : Nat := (Config.word s.fresh).toNat

/-- Appends an event record to the event log (R447): newest first, at most 131,072. -/
def logEvent (s : State) (type kind unit detail : Nat) : State :=
  { s with
    fresh := s.fresh + 1
    flash := { s.flash with
      events := ({ type := type, kind := kind, unit := unit, boot := s.boot.boots,
                   timeNs := (Config.timeNs s.fresh).toNat, detail := detail } :: s.flash.events).take 131072
      eventCount := s.flash.eventCount + 1 } }

/-! ### Retirement and uncorrectable errors -/

/-- Writes a retirement record: to the retirement table, or to the event log when that is full (R448). -/
def logRetire (s : State) (type kind unit detail : Nat) : State :=
  if 4096 ≤ s.flash.retire.length then logEvent s type kind unit detail
  else
    { s with
      fresh := s.fresh + 1
      flash := { s.flash with
        retire := s.flash.retire ++ [{ type := type, kind := kind, unit := unit, boot := s.boot.boots,
                                       timeNs := (Config.timeNs s.fresh).toNat, detail := detail }] } }

/-- The logical number of a physical core, if it is enabled. -/
def logicalOf (s : State) (phys : Nat) : Option Nat := (List.range s.boot.enabled.length).find? (fun n => s.boot.enabled.getD n 144 = phys)

/-- A change of the runtime map breaks the timing of every timed plot that is in use (R286). -/
def mapChanged (s : State) : State :=
  (s.plots.map Prod.fst).foldl (fun t p =>
    if t.runs.any (fun r => decide (r.phase = .dispatched ∧ (t.ctxAt r.key.ctx).plot = p)) then timingBroken t p 4 else t) s

/-- The grade count of cores (R2). -/
def gradeCores (grade : Nat) : Nat := if grade = 0 then 128 else if grade = 1 then 96 else 64

/-- A unit leaves service: kind 1 a core, which gives up its logical number or its place among the spares; kind 2 a
dense bank (R450, R451). -/
def leaveService (s : State) (kind unit : Nat) : State :=
  let pend := s.boot.pending.filter (fun q => decide (q ≠ (kind, unit)))
  if kind = 1 then
    let s1 := { s with boot := { s.boot with
      pending := pend
      outCores := s.boot.outCores ++ [unit]
      spares := s.boot.spares.filter (fun q => decide (q ≠ unit))
      enabled := s.boot.enabled.map (fun q => if q = unit then 144 else q)
      degraded := s.boot.degraded || decide (unit ∈ s.boot.enabled) } }
    match logicalOf s unit with
    | some n => s1.updCore n (fun c => { c with plot := none, pendingRetire := false, power := 2 })
    | none => s1
  else
    let s1 := { s with boot := { s.boot with pending := pend, outBanks := s.boot.outBanks ++ [unit] } }
    match logicalOf s (unit / 12) with
    | some n => s1.updCore n (fun c => { c with bankGood := c.bankGood &&& ~~~(1#12 <<< (unit % 12)) })
    | none => s1

/-- The core, by its logical number, that a pending unit belongs to. -/
def unitCore (s : State) (kind unit : Nat) : Option Nat := logicalOf s (if kind = 1 then unit else unit / 12)

/-- A core or a dense bank is to be retired: its record is written at once; outside every plot it leaves service at
once, inside one it is pending (R450). -/
def retireUnit (s : State) (kind unit detail : Nat) : State :=
  if (kind, unit) ∈ s.boot.pending ∨ (kind = 1 ∧ unit ∈ s.boot.outCores) ∨ (kind = 2 ∧ unit ∈ s.boot.outBanks) then s
  else
    let s1 := logRetire s (if kind = 1 then 0x10 else 0x11) kind unit detail
    match unitCore s kind unit with
    | some n =>
      if (s.coreAt n).plot.isSome then
        let s2 := { s1 with boot := { s1.boot with pending := s1.boot.pending ++ [(kind, unit)] } }
        if kind = 1 then s2.updCore n (fun c => { c with pendingRetire := true }) else s2
      else mapChanged (leaveService s1 kind unit)
    | none => mapChanged (leaveService s1 kind unit)

/-- Whether no channel of a stack is left in service (R445). -/
def stackGone (b : Boot) (stack : Nat) : Bool :=
  (List.range 32).all (fun c => decide (32 * stack + c ∈ b.outChans ∨ 32 * stack + c ∈ b.lostChans))

/-- Retires an HBM4 channel at once; the device is DEGRADED once a stack has none left (R415, R445). -/
def retireChannel (s : State) (chan detail : Nat) : State :=
  if chan ∈ s.boot.lostChans then s
  else
    let s1 := logRetire s 0x12 3 chan detail
    let b := { s1.boot with lostChans := s1.boot.lostChans ++ [chan] }
    mapChanged { s1 with boot := { b with degraded := b.degraded || stackGone b (chan / 32) } }

/-- The row of a near offset within its channel, a 1 KiB unit (log entry 25). -/
def nearRow (s : State) (off : Nat) : Nat :=
  let stack := (gradeStacks s.fuses.grade).getD (off / stackBytes) 0
  off % stackBytes / 1024 / max 1 (stackChannels s stack).length

/-- The key of a row in the table of row errors. -/
def rowKey (chan row : Nat) : Nat := chan * 2 ^ 32 + row

/-- Whether the event log holds an uncorrectable error of a channel at another row within the last 24 h (R415). Records of
an earlier boot count time from its reset: whether such a one lies within 24 h is open while the device is up for less
(R447; log entry 35). -/
def otherRowRecent (s : State) (chan row : Nat) (now : Nat) : Bool :=
  let day := 86400000000000
  s.flash.events.any (fun e => decide (e.type = 0x20 ∧ e.kind = 3 ∧ e.unit = chan ∧ nearRow s e.detail ≠ row) &&
    (if e.boot = s.boot.boots then decide (now < e.timeNs + day)
     else decide (now < day) && (Config.word s.fresh).getLsbD 0))

/-- Writes an uncorrectable error into the health log and marks what it calls for: the repair of its row, the
retirement of its channel or of its core (R413, R415, R450). -/
def noteUe (s : State) (l : Level) (line : Nat) : State :=
  let off := line * 64
  match l with
  | .near =>
    let chan := nearChannel s off
    let row := nearRow s off
    let twice := otherRowRecent s chan row (Config.timeNs s.fresh).toNat
    let s1 := logEvent s 0x20 3 chan off
    let s2 := { s1 with rowErrors := tabSet s1.rowErrors (rowKey chan row) 3 }
    if twice then retireChannel s2 chan off else s2
  | .far => logEvent s 0x20 5 (farChannel s off) off
  | .coreStore =>
    let phys := (s.coreAt (line / 2 ^ 20)).phys
    let at' := line % 2 ^ 20 / 8 * 64
    retireUnit (logEvent s 0x20 1 phys at') 1 phys at'
  | .host => s

/-- CTX_UE for an error (R414). -/
def ueWord (l : Level) (line : Nat) : Word :=
  match l with
  | .coreStore => BitVec.ofNat 64 (2 ^ 63 + 2 * 2 ^ 61 + line / 2 ^ 20 * 2 ^ 48 + line % 2 ^ 20 / 8 * 64)
  | .far => BitVec.ofNat 64 (2 ^ 63 + 2 ^ 61 + line * 64)
  | _ => BitVec.ofNat 64 (2 ^ 63 + line * 64)

/-- An access of a context's work meets an uncorrectable error: its read has been tried again, which is marked T (R282,
R412); the context becomes faulted, and the descriptor that made the access completes with MEM_UE (R413). -/
def memUe (s : State) (c : Nat) (l : Level) (line : Nat) (ring slot : Nat) : State :=
  let s1 := (markT s c).updCtx c (fun x => { x with ue := ueWord l line })
  faultCtx (noteUe s1 l line) c (some (ring, slot, stMemUe))

/-- A read that the device makes for a context outside any descriptor's access meets an uncorrectable error: the context
becomes faulted, CTX_UE and the health log record it (R413, R414). -/
def deviceUe (s : State) (c : Nat) (l : Level) (line : Nat) : State :=
  let s1 := (markT s c).updCtx c (fun x => { x with ue := ueWord l line })
  faultCtx (noteUe s1 l line) c none

/-- What a stopped access of a context's work does: a recorded fault, a page request or an ended context. -/
def stopAccess (s : State) (c : Nat) (x : Stop) (write : Bool) (unit core ring slot : Nat) (h : Holder) : State :=
  match x with
  | .fault k va => raiseFault s c ⟨k, write, unit, core, ring, slot, va % 2 ^ 48⟩ h
  | .pri p => requestPage s c p none
  | .ue l n => memUe s c l n ring slot

end Sys2Proof.Machine
end

