-- ==== Sys2Proof/Machine/Rng.lean ====
section
/-! DEFINITION. The entropy path and the DRBG (chapter 09): health tests and estimates (R255, R256), conditioner
and DRBG (R257 to R259), states (R260 to R263), requests (R264 to R266), RAW_TAP (R269), and the commands that
act on them. -/

namespace Sys2Proof.Machine

open Host (Outcome)

/-! ### Shared operations -/

/-- A source of the RNG. -/
def Rng.src (r : Rng) (i : Nat) : Source := r.sources.getD i {}

/-- Changes a source. -/
def Rng.updSrc (r : Rng) (i : Nat) (f : Source → Source) : Rng := { r with sources := listUpd r.sources i f }

/-- Replaces the RNG. -/
def State.setRng (s : State) (r : Rng) : State := { s with rng := r }

/-- Sources that are not latched. -/
def Rng.unlatched (r : Rng) : Nat := (r.sources.filter (fun x => !x.latched)).length

/-- The status of a request that the present state blocks (R265). -/
def Rng.blockStatus (r : Rng) : Status := if r.st = 3 ∨ r.st = 5 ∨ r.st = 0 then stNoiseFault else stNoiseNotReady

/-- A control core that waits for the given thing is to execute its instruction again (R333). -/
def wakeFor (w : CcWait) (c : CCore) : CCore :=
  if c.mode = .waiting ∧ c.wait = w then { c with mode := .running, wait := .none } else c

/-- A core's work in which those that wait for the given thing go on. -/
def Work.wakeFor (w : CcWait) (x : Work) : Work := { x with cc0 := Machine.wakeFor w x.cc0, cc1 := Machine.wakeFor w x.cc1 }

/-- Control cores of a RUN that wait for the given thing execute again, on their cores or in the save areas (R333, R334). -/
def wakeRun (s : State) (k : RunKey) (w : CcWait) : State :=
  let s1 := { s with cores := List.map (fun (p : Nat × Core) =>
    if p.2.work.run = some k then (p.1, { p.2 with work := p.2.work.wakeFor w }) else p) s.cores }
  s1.updCtx k.ctx (fun x => { x with saves := List.map (fun (p : Nat × Work) =>
    if p.2.run = some k then (p.1, p.2.wakeFor w) else p) x.saves })

/-- Ends a RUN with the status of a failed seed draw (R267). -/
def endRunWith (s : State) (k : RunKey) (st : Status) : State :=
  s.updRun k (fun q => if q.status = none then { q with status := some st, phase := .stopping } else q)

/-- Bytes as the device gives them out. -/
def toBytes (l : List Nat) : List Byte := l.map (BitVec.ofNat 8)

/-- How many bytes a request draws: a seed 8, a nonce 32, a signature 64 (R264). -/
def noiseBytes (w : NoiseFor) : Nat :=
  match w with
  | .seed _ => 8
  | .nonce _ => 32
  | .linkSign _ => 64
  | .security _ => 32
  | .sign _ => 64

/-- The connection over a transport. -/
def State.conn (s : State) (p : SpdmPort) : Spdm :=
  match p with
  | .doe => s.mgmt.doe
  | .mctp => s.mgmt.mctp

/-- Replaces the connection over a transport. -/
def State.setConn (s : State) (p : SpdmPort) (c : Spdm) : State :=
  match p with
  | .doe => { s with mgmt := { s.mgmt with doe := c } }
  | .mctp => { s with mgmt := { s.mgmt with mctp := c } }

/-- A request waits at the end of the queue. -/
def State.queueNoise (s : State) (w : NoiseFor) : State := s.setRng { s.rng with waiting := s.rng.waiting ++ [w] }

/-- Who sends over a transport of SPDM: over DOE the function itself (R476, R479). -/
def spdmFrom (s : State) (p : SpdmPort) : Option (Nat × Nat) := if p = .mctp then some s.sender else none

/-- A connection whose signed response has been given: measurement messages count anew for the next (DSP0274). -/
def Spdm.afterSign (c : Spdm) : Spdm := { c with busy := 0, body := [], asked := [], meas := [] }

/-- A signed response that cannot be given: ERROR Unspecified (R478). -/
def spdmUnsigned (s : State) (p : SpdmPort) : State :=
  (s.setConn p { (s.conn p) with busy := 0, body := [], asked := [] }).emit (.spdm p (spdmFrom s p) 0x7F [0x05, 0x00])

/-- Gives a requester its bits, or the status with which its wait ended (R265, R267, R225, R478). A response that has its
nonce asks for the bits of its signature (R264). -/
def answerNoise (s : State) (w : NoiseFor) (res : Status × List Byte) : State :=
  match w with
  | .seed k =>
    if res.1 = stDone then
      wakeRun (s.updRun k (fun q => { q with seeds := q.seeds ++ [BitVec.ofNat 64 (leNat res.2)], seedWait := false })) k .seed
    else endRunWith (s.updRun k (fun q => { q with seedWait := false })) k res.1
  | .nonce l =>
    if res.1 = stDone then
      (s.updLink l (fun x => { x with identifying := false, nonce := res.2 })).emit
        (.identify l s.fab.chip s.fuses.grade s.boot.fw.arithRev res.2 (chainBytes s))
    else s.updLink l (fun x => { x with identifying := true })
  | .linkSign l =>
    let text := (s.linkAt l).signs
    let s1 := s.updLink l (fun x => { x with signs := [] })
    if res.1 = stDone ∧ text ≠ [] then s1.emit (.identifySign l (ecdsaSign (signingKey s) text res.2)) else s1
  | .security p =>
    if res.1 = stDone then (s.setConn p { (s.conn p) with body := (s.conn p).body ++ res.2 }).queueNoise (.sign p)
    else spdmUnsigned s p
  | .sign p =>
    if res.1 = stDone then
      let c := s.conn p
      let code := if c.busy = 1 then 0x03 else 0x60
      let text := spdmText c.busy (c.asked ++ spdmMsg 0x12 code 0 0 c.body)
      (s.setConn p { c.afterSign with certs := if c.busy = 1 then [] else c.certs }).emit
        (.spdm p (spdmFrom s p) code (c.body ++ ecdsaSign (signingKey s) text res.2))
    else spdmUnsigned s p

/-- The RNG is READY and can serve: the DRBG is instantiated and no reseed is under way (R259). -/
def Rng.serves (r : Rng) : Option (Nat × Nat × Nat) :=
  if r.st = 2 ∧ r.reseeding = false then r.drbg else none

/-- The RNG after a generate call; a reseed is due after 65,536 calls (R258). -/
def Rng.afterGenerate (r : Rng) (kv : Nat × Nat) (n : Nat) : Rng :=
  { r with drbg := some (kv.1, kv.2, n + 1), reseeding := r.reseeding || decide (65536 ≤ n + 1) }

/-- Serves the waiting requests in order of arrival while the DRBG serves; the count bounds the recursion (R265). -/
def serveWaiting (fuel : Nat) (s : State) : State :=
  match fuel with
  | 0 => s
  | k + 1 =>
    match s.rng.waiting, s.rng.serves with
    | w :: rest, some (key, v, n) =>
      let g := drbgGenerate (noiseBytes w) (key, v)
      let r1 := (s.rng.afterGenerate g.2 n)
      serveWaiting k (answerNoise (s.setRng { r1 with waiting := rest }) w (stDone, toBytes g.1))
    | _, _ => s

/-- Ends every waiting request with NOISE_FAULT (R265). -/
def failWaiting (s : State) : State :=
  s.rng.waiting.foldl (fun t w => answerNoise t w (stNoiseFault, [])) (s.setRng { s.rng with waiting := [] })

/-- A request of the DRBG: served at once, refused at once in FAILED or past 4,096 waiting requests, else waiting
(R264, R265). In READY, whose timeouts have no status, one past 4,096 waits too (DESIGN CHOICE, log entry 103). -/
def requestNoise (s : State) (w : NoiseFor) : State :=
  if s.rng.st = 5 ∨ s.rng.st = 0 then answerNoise s w (stNoiseFault, [])
  else if 4096 ≤ s.rng.waiting.length ∧ s.rng.st ≠ 2 then answerNoise s w (s.rng.blockStatus, [])
  else serveWaiting (2 * s.rng.waiting.length + 2) (s.setRng { s.rng with waiting := s.rng.waiting ++ [w] })

/-- Enters FAILED: logged, and every waiting request ends (R263, R265). The record of the block as a whole names kind 8 and
unit 255 (DESIGN CHOICE: R447 and R448 give it none; log entry 85). -/
def enterFailed (s : State) : State :=
  failWaiting (logEvent (s.setRng { s.rng with st := 5, drbg := none, block := [], turn := 0, blocks := [], reseeding := false })
    0x21 8 255 (openDetail s))

/-- The personalisation string: the serial number and the first 32 bytes of the firmware digest (R258; the digest has
48 bytes, log entry 12). -/
def personalisation (s : State) : List Nat := (natLe 16 s.fuses.serial ++ natLe 32 s.boot.fw.digest).map BitVec.toNat

/-- Drops what a failing or leaving state may not keep: the working state, the partly filled block and the blocks
(R262, R269). -/
def Rng.erase (r : Rng) : Rng :=
  { r with drbg := none, block := [], turn := 0, blocks := [], reseeding := false, feeds := List.replicate 8 [] }

/-! ### Health tests and estimates -/

/-- The repetition count test after a sample: the source and whether the test fails (R255). -/
def rctStep (x : Source) (b : Bool) : Source × Bool :=
  let run := if x.rctBit = some b then x.rctRun + 1 else 1
  if 41 ≤ run then ({ x with rctBit := none, rctRun := 0, rctFails := x.rctFails + 1 }, true)
  else ({ x with rctBit := some b, rctRun := run }, false)

/-- The adaptive proportion test after a sample (R255). -/
def aptStep (x : Source) (b : Bool) : Source × Bool :=
  let first := if x.aptCount = 0 then b else x.aptBit
  let m := (if x.aptCount = 0 then 0 else x.aptMatch) + bitNat (b == first)
  if 795 ≤ m then ({ x with aptCount := 0, aptMatch := 0, aptFails := x.aptFails + 1 }, true)
  else if x.aptCount + 1 = 1024 then ({ x with aptCount := 0, aptMatch := 0 }, false)
  else ({ x with aptBit := first, aptCount := x.aptCount + 1, aptMatch := m }, false)

/-- An estimate as Q1.15, saturated (R256). -/
def estimate (n : Nat) : BitVec 16 := BitVec.ofInt 16 (min ((n : Int) - 32768) 32767)

/-- Closes a window of 65,536 samples: the estimates are written and a new window opens (R256). -/
def closeWindow (x : Source) : Source :=
  if x.winCount = 65536 then
    { x with est := estimate x.winOnes :: x.winAgree.map estimate, winCount := 0, winOnes := 0,
             winAgree := [0, 0, 0, 0] }
  else x

/-- Counts a sample into the open window (R256). -/
def windowStep (x0 : Source) (b : Bool) : Source :=
  let x := closeWindow x0
  { x with
    winCount := x.winCount + 1
    winOnes := x.winOnes + bitNat b
    winAgree := x.winAgree.zipIdx.map (fun p => p.1 + bitNat (x.recent[p.2]? == some b))
    recent := (b :: x.recent).take 4 }

/-- The tests and estimates of one sample: the source, and whether a test fails. -/
def testSample (x : Source) (b : Bool) : Source × Bool :=
  let p := rctStep (windowStep x b) b
  let q := aptStep p.1 b
  (q.1, p.2 || q.2)

/-- The tests of a source begin anew: a start-up test or a retest takes fresh samples alone (R261, R262). -/
def freshTest (x : Source) : Source := { x with rctBit := none, rctRun := 0, aptCount := 0, aptMatch := 0, testCount := 0, clean := 0 }

/-- A failure counts; the third in a row latches the source (R263). -/
def failSource (x : Source) (retest : Bool) : Source :=
  let n := min 3 (x.consec + 1)
  { freshTest x with consec := n, latched := x.latched || decide (n = 3), retest := retest && !(decide (n = 3) || x.latched),
                     passed := x.passed && !decide (n = 3) }

/-- A sample of a start-up test or retest that no test fails: after 1,024 the source passes (R261, R262). -/
def testPass (x : Source) : Source :=
  if x.testCount + 1 = 1024 then { x with testCount := 0, retest := false, passed := true, clean := 0 }
  else { x with testCount := x.testCount + 1 }

/-- A sample of continuous testing that no test fails (R263). -/
def cleanPass (x : Source) : Source :=
  if x.clean + 1 = 65536 then { x with clean := 65536, consec := 0 } else { x with clean := min 65536 (x.clean + 1) }

/-- Moves bits from the sources' samples into the block, one at a time from each contributing source in ascending
order, cycling, until it holds 512 (R257); the count bounds the recursion. -/
def fillBlock (fuel : Nat) (r : Rng) : Rng :=
  match fuel with
  | 0 => r
  | k + 1 =>
    if 512 ≤ r.block.length then r
    else
      let x := r.src r.turn
      if x.latched ∨ x.retest then fillBlock k { r with turn := (r.turn + 1) % 8 }
      else
        match r.feeds.getD r.turn [] with
        | [] => r
        | b :: rest => fillBlock k { r with block := r.block ++ [b], turn := (r.turn + 1) % 8,
                                            feeds := listUpd r.feeds r.turn (fun _ => rest) }

/-- Whether every unlatched source has passed its start-up test (R261). -/
def Rng.allPassed (r : Rng) : Bool := r.sources.all (fun x => x.latched || x.passed)

/-- Gives a tested sample to the conditioner (R257). What a source gives ahead of the others, or while a full block waits, is
kept in order (DESIGN CHOICE, log entry 102). -/
def feedSample (r : Rng) (i : Nat) (b : Bool) : Rng :=
  fillBlock 16 { r with feeds := listUpd r.feeds i (fun l => l ++ [b]) }

/-- Logs a latching, and enters FAILED when fewer than four sources remain unlatched (R263). -/
def afterFailure (s : State) (i : Nat) (wasLatched : Bool) : State :=
  let now := (s.rng.src i).latched
  let s1 := if now && !wasLatched then logEvent s 0x21 8 i (openDetail s) else s
  if s1.rng.unlatched < 4 ∧ s1.rng.st ≠ 5 then enterFailed s1 else s1

/-- The RNG after a failure: READY moves to FAULT, and FAULT starts over (R262). -/
def faultAfter (r : Rng) : Rng := if r.st = 2 then { r.erase with st := 3 } else if r.st = 3 then r.erase else r

/-- Whether the entropy sources give samples: the always-on domain has its clock, no reset holds the package, and it does not
wait for one after a rail failure (R260, R513, R514, R517). -/
def rngRuns (s : State) : Bool := s.boot.aonRst && s.boot.rails && s.boot.aonClock

/-- One raw sample of a source (R255 to R257, R261 to R263, R269): failures count, latch and are logged in FAILED too, but
nothing feeds the conditioner there; the last retest of FAULT begins the four fresh blocks. In RAW_TAP a failure counts for
nothing, while passed samples go on towards clearing the count. A failed test of a latched source is without effect
(DESIGN CHOICE, log entry 101). -/
def sampleStep (s : State) (i : Nat) (b : Bool) : State :=
  let r := s.rng
  let x := r.src i
  if 8 ≤ i ∨ r.st = 0 ∨ r.settled = false ∨ rngRuns s = false then s
  else
    let p := testSample x b
    let r1 := r.updSrc i (fun _ => p.1)
    if r.st = 4 then
      let r2 := if !p.2 && x.passed && !x.retest then r1.updSrc i cleanPass else r1
      s.setRng (if i = r.tapSrc then
        (if r.fifo.length < 4096 then { r2 with fifo := r.fifo ++ [b] } else { r2 with overrun := true }) else r2)
    else if x.latched then s.setRng r1
    else if p.2 then
      let r2 := r1.updSrc i (fun y => failSource y (x.passed || x.retest))
      afterFailure (s.setRng (if x.passed ∨ x.retest then faultAfter r2 else r2)) i x.latched
    else if x.passed = false ∨ x.retest then
      let r2 := r1.updSrc i testPass
      s.setRng (if r.st = 3 ∧ r2.sources.all (fun y => !y.retest) then r2.erase else r2)
    else
      let r2 := r1.updSrc i cleanPass
      s.setRng (if r.st = 5 ∨ (r.st = 1 ∧ r.allPassed = false) then r2 else feedSample r2 i b)

/-! ### Commands -/

/-- ENTROPY_SAMPLE (R255): a raw sample of a source. -/
def execEntropySample (source : Nat) (bit : Bool) (s : State) : Outcome State Fault Refusal :=
  .next (sampleStep s source bit)

/-- ESTIMATE_WINDOW (R256): the window of a source closes and its estimates are written. -/
def execEstimateWindow (source : Nat) (s : State) : Outcome State Fault Refusal :=
  .next (if rngRuns s then s.setRng (s.rng.updSrc source closeWindow) else s)

/-- Uses the blocks that have been made: instantiation from four in STARTUP or FAULT, a reseed from three (R258,
R261, R262). -/
def useBlocks (s : State) : State :=
  let r := s.rng
  let ent := (r.blocks.take 3).flatMap (beBytes 16)
  if (r.st = 1 ∧ r.allPassed ∨ r.st = 3 ∧ r.sources.all (fun x => !x.retest)) ∧ 4 ≤ r.blocks.length then
    let kv := drbgInstantiate (ent ++ beBytes 16 (r.blocks.getD 3 0) ++ personalisation s)
    serveWaiting (2 * r.waiting.length + 2)
      (s.setRng { r with st := 2, drbg := some (kv.1, kv.2, 0), blocks := [], reseeding := false })
  else
    match r.drbg with
    | some (k, v, _) =>
      if r.st = 2 ∧ r.reseeding ∧ 3 ≤ r.blocks.length then
        let kv := drbgReseed ent (k, v)
        serveWaiting (2 * r.waiting.length + 2)
          (s.setRng { r with drbg := some (kv.1, kv.2, 0), blocks := [], reseeding := false })
      else s
    | none => s

/-- Whether fresh blocks are wanted: in FAULT only once no source is in retest (R262). -/
def Rng.wantsBlocks (r : Rng) : Bool :=
  decide (r.st = 1) || (decide (r.st = 3) && r.sources.all (fun x => !x.retest)) || (decide (r.st = 2) && r.reseeding)

/-- CONDITIONER_BLOCK (R257): 512 samples make a block, which may instantiate or reseed the DRBG; the next block begins with
the lowest contributing source. -/
def execConditionerBlock (s : State) : Outcome State Fault Refusal :=
  .next (let r := s.rng
    if r.block.length < 512 ∨ rngRuns s = false then s
    else useBlocks (s.setRng { r with
      block := [], turn := 0
      blocks := if r.wantsBlocks then r.blocks ++ [beVal (condition (r.block.take 512))] else r.blocks }))

/-- RNG_SETTLING_END (R261): the sources have settled, in STARTUP or in RAW_TAP. -/
def execRngSettlingEnd (s : State) : Outcome State Fault Refusal :=
  .next (if rngRuns s ∧ s.rng.st ≠ 0 ∧ s.rng.settled = false then s.setRng { s.rng with settled := true } else s)

/-- A reseed begins in READY; it takes three fresh blocks (R258, R276). -/
def startReseed (s : State) : State := if s.rng.st = 2 then s.setRng { s.rng with reseeding := true } else s

/-- DRBG_RESEED_DUE (R258). -/
def execDrbgReseedDue (s : State) : Outcome State Fault Refusal := .next (startReseed s)

/-- Enters RAW_TAP from any state other than OFF (R269); OVERRUN goes with a read alone (R277). -/
def enterRawTap (s : State) : State :=
  if s.rng.st = 0 ∨ s.rng.st = 4 then s
  else s.setRng { s.rng.erase with st := 4, rawTap := true, fifo := [] }

/-- Leaves RAW_TAP: STARTUP in full, or FAILED at once (R269). -/
def exitRawTap (s : State) : State :=
  if s.rng.st ≠ 4 then s
  else
    let r := { s.rng with st := 1, rawTap := false, sources := s.rng.sources.map (fun x =>
      { freshTest x with passed := false, retest := false }) }
    if r.unlatched < 4 then enterFailed (s.setRng r) else s.setRng r

/-- Selects the tapped source and empties the FIFO (R269). -/
def setTapSrc (s : State) (n : Nat) : State := s.setRng { s.rng with tapSrc := n % 8, fifo := [] }

/-- A read of RNG_DATA: 32 fresh bits in READY, else a status and zero (R266). -/
def readRngData (s : State) : State × Word :=
  match s.rng.st, s.rng.drbg with
  | 2, some (k, v, n) =>
    let g := drbgGenerate 4 (k, v)
    (s.setRng (s.rng.afterGenerate g.2 n), BitVec.ofNat 64 (leNat (toBytes g.1)))
  | _, _ => (s, BitVec.ofNat 64 (s.rng.blockStatus.toNat * 2 ^ 32))

/-- A read of RNG_RAW: up to 32 samples leave the FIFO and OVERRUN clears (R277). -/
def readRngRaw (s : State) : State × Word :=
  let got := if s.rng.st = 4 then s.rng.fifo.take 32 else []
  (s.setRng { s.rng with fifo := if s.rng.st = 4 then s.rng.fifo.drop 32 else s.rng.fifo, overrun := false },
   BitVec.ofNat 64 (bitsByte got + got.length * 2 ^ 32 + bitNat s.rng.overrun * 2 ^ 40))

/-- RNG_REQUEST_TIMEOUT (R265): the oldest waiting request times out while the RNG is not READY. -/
def execRngRequestTimeout (s : State) : Outcome State Fault Refusal :=
  .next (match s.rng.waiting with
    | [] => s
    | w :: rest =>
      if s.rng.st = 2 then s
      else answerNoise (s.setRng { s.rng with waiting := rest }) w (s.rng.blockStatus, []))

end Sys2Proof.Machine
end

