-- ==== Sys2Proof/Machine/Operands.lean ====
section
/-! DEFINITION. The operand forms of the control cores (R301, R307 to R310, R330 to R333): registers, immediates,
data-area addresses, branch targets, when a control core may execute, retiring, waiting and trapping, and which
words of a program are defined instructions. -/

namespace Sys2Proof.Machine

/-! ### Registers and immediates -/

/-- A general register: g0 reads as zero (R301). -/
def regGet (c : CCore) (r : BitVec 5) : Word := if r = 0 then 0 else tabGet 0 c.regs r.toNat

/-- Writes a general register: a write to g0 is discarded (R301). -/
def regSet (c : CCore) (r : BitVec 5) (v : Word) : CCore :=
  if r = 0 then c else { c with regs := tabSet c.regs r.toNat v }

/-- sext() of R309. -/
def sext16 (i : BitVec 16) : Word := i.signExtend 64
/-- zext() of R309. -/
def zext16 (i : BitVec 16) : Word := i.zeroExtend 64
/-- sext() of a 21-bit field. -/
def sext21 (i : BitVec 21) : Word := i.signExtend 64

/-- The address of a load, store or JALR: rs1 + sext(imm16). -/
def effAddr (c : CCore) (rs1 : BitVec 5) (imm : BitVec 16) : Word := regGet c rs1 + sext16 imm

/-- A branch target: PC + 4 · sext(offset) (R309). -/
def branchTo (c : CCore) (off : BitVec 16) : Word := c.pc + (sext16 off <<< 2)

/-- A jump target of JAL. -/
def jumpTo (c : CCore) (off : BitVec 21) : Word := c.pc + (sext21 off <<< 2)

/-- 1 or 0 as a register value. -/
def boolWord (b : Bool) : Word := if b then 1 else 0

/-! ### When a control core executes -/

/-- Whether the package runs work: rails good, clocks running, brought up, not in D3hot (R440, R461, R513). -/
def chipRuns (s : State) : Bool :=
  s.boot.rails && s.boot.aonRst && s.boot.clocks && s.boot.bootDone && !s.boot.d3hot && decide (s.power.chip = 0)

/-- The RUN that a control core works for, when the core may execute its next instruction: the RUN is dispatched and
not stopping, its context is ACTIVE and holds its plot, the core is powered and not being reset, and the control core
was started and has not ended (R331, R333, R361, R363, R404, R457, R460). -/
def hartReady (s : State) (h : Hart) : Option Run :=
  let c := s.coreAt h.core
  let cc := c.work.cc h.cc
  match s.runOf h.core with
  | none => none
  | some r =>
    if chipRuns s ∧ c.power = 0 ∧ c.quiesce ≠ 1 ∧ r.phase = .dispatched ∧ r.status = none ∧ r.timedOut = false ∧
       (s.ctxAt r.key.ctx).st = 1 ∧ (s.plotAt (c.plot.getD 64)).holder = some r.key.ctx ∧
       cc.started = true ∧ (cc.mode = .running ∨ cc.mode = .waiting)
    then some r else none

/-- Sets the control core after an instruction has completed: it runs, its PC is given, RETIRED counts (R338). -/
def retireWith (s : State) (h : Hart) (pc : Word) (f : CCore → CCore) : State :=
  s.updCore h.core (fun c =>
    { c with
      work := c.work.setCc h.cc (f { (c.work.cc h.cc) with pc := pc, mode := .running, wait := .none })
      retired := c.retired + 1 })

/-- Retires and moves to the next instruction. -/
def retire (s : State) (h : Hart) : State := retireWith s h ((s.hart h).pc + 4) id

/-- Retires with a result in rd. -/
def retireReg (s : State) (h : Hart) (rd : BitVec 5) (v : Word) : State :=
  retireWith s h ((s.hart h).pc + 4) (fun c => regSet c rd v)

/-- The instruction waits: it is executed again from its start (R333). -/
def waitHart (s : State) (h : Hart) (w : CcWait) : State :=
  s.updHart h (fun c => { c with mode := .waiting, wait := w })

/-- The word of DRABEL_TRAP0 or DRABEL_TRAP1 (R337). -/
def trapWord (st : Status) (cause code pc ctx : Nat) : Word :=
  BitVec.ofNat 64 (st.toNat * 2 ^ 48 + cause % 256 * 2 ^ 40 + code % 256 * 2 ^ 32 + pc % 2 ^ 16 * 2 ^ 16 + ctx)

/-- A trap ends the RUN on all its cores: the trap register of its control core takes the trap, the first trap gives
the RUN its status, and nothing of the RUN executes or issues any more (R331). -/
def trapHart (s : State) (h : Hart) (r : Run) (cause : Nat) (st : Status) (code : Nat) : State :=
  let w := trapWord st cause code (s.hart h).pc.toNat r.key.ctx
  let s1 := s.updCore h.core (fun c =>
    let c1 := if h.cc then { c with trap1 := w } else { c with trap0 := w }
    { c1 with work := c1.work.setCc h.cc { (c1.work.cc h.cc) with mode := .ended, wait := .none } })
  s1.updRun r.key (fun q =>
    if q.status = none then
      { q with status := some st, phase := .stopping,
               detail := cause % 256 + code % 256 * 256 + h.core * 65536 }
    else q)

/-- One instruction of a control core: nothing while the core may not execute, a PC_RANGE trap beyond CODE_BYTES, else
its body (R330). -/
def hartStep (s : State) (h : Hart) (body : Run → CCore → State) : State :=
  match hartReady s h with
  | none => s
  | some r =>
    if r.hdr.codeBytes ≤ (s.hart h).pc.toNat then trapHart s h r 2 stBadOpcode 0
    else body r (s.hart h)

/-- An instruction that writes rd and does nothing else. -/
def aluStep (s : State) (h : Hart) (rd : BitVec 5) (f : CCore → Word) : State :=
  hartStep s h (fun _ c => retireReg s h rd (f c))

/-- A conditional branch. -/
def branchStep (s : State) (h : Hart) (off : BitVec 16) (taken : CCore → Bool) : State :=
  hartStep s h (fun _ c => retireWith s h (if taken c then branchTo c off else c.pc + 4) id)

/-! ### The data area -/

/-- Whether `n` bytes at an offset lie in the data area (R308). -/
def inArea (r : Run) (a n : Nat) : Bool := decide (a + n ≤ r.hdr.dataBytes)

/-- An instruction with an aligned core-store access of `n` bytes: MISALIGNED before AREA (R330); where it reads the word,
also to write a part of it, an uncorrectable error ends the context (R22, R413). -/
def areaStep (s : State) (h : Hart) (addr : CCore → Word) (n : Nat) (reads : Bool) (body : CCore → Nat → State) : State :=
  hartStep s h (fun r c =>
    let a := (addr c).toNat
    if a % n ≠ 0 then trapHart s h r 3 stBadField 0
    else if !inArea r a n then trapHart s h r 4 stPermFault 0
    else
      match (if reads then storeBad s h.core a n else none) with
      | some l => memUe s r.key.ctx .coreStore l r.key.ring r.key.slot
      | none => body c a)

/-- A load of `n` bytes: the value goes to rd through `f`. -/
def loadStep (s : State) (h : Hart) (rd rs1 : BitVec 5) (imm : BitVec 16) (n : Nat) (f : Nat → Word) : State :=
  areaStep s h (fun c => effAddr c rs1 imm) n true (fun _ a => retireReg s h rd (f (leNat (storeRead s h.core a n))))

/-- A store of the low `n` bytes of rd; a whole word is written without a read (R22). -/
def storeStep (s : State) (h : Hart) (rd rs1 : BitVec 5) (imm : BitVec 16) (n : Nat) : State :=
  areaStep s h (fun c => effAddr c rs1 imm) n (decide (n ≠ 8)) (fun c a =>
    retire (storeWrite s h.core a (natLe n (regGet c rd).toNat)) h)

/-! ### Defined words (R309, R310) -/

/-- Whether a word is a defined encoding: its major opcode, funct and sub-operation are listed and the bits that the
list requires to be zero are zero (R309, R310). -/
def drabelDefined (w : Nat) : Bool :=
  let major := w / 2 ^ 26 % 64
  let rs1 := bitsOf w 20 16
  let rs2 := bitsOf w 15 11
  let funct := bitsOf w 10 0
  let imm := bitsOf w 15 0
  if major = 0 then
    decide (funct < 19) && (decide (funct < 17) || decide (rs2 = 0))
  else if 1 ≤ major ∧ major ≤ 4 then true
  else if 5 ≤ major ∧ major ≤ 7 then decide (imm < 64)
  else if 8 ≤ major ∧ major ≤ 0xA then true
  else if major = 0xB then decide (rs1 = 0)
  else if 0x10 ≤ major ∧ major ≤ 0x18 then true
  else if major = 0x19 then decide (funct = 0)
  else if 0x20 ≤ major ∧ major ≤ 0x27 then true
  else if major = 0x30 ∨ major = 0x31 ∨ major = 0x32 ∨ major = 0x33 then decide (funct = 0)
  else if major = 0x34 then decide (funct = 0)
  else if major = 0x35 ∨ major = 0x38 ∨ major = 0x39 then decide (funct = 0)
  else if major = 0x36 then decide (funct < 3)
  else if major = 0x37 then decide (funct < 2)
  else if major = 0x3A then true
  else if major = 0x3B ∨ major = 0x3C then decide (funct = 0)
  else if major = 0x3D then
    let sub := imm / 256
    let arg := imm % 256
    decide (sub < 7) &&
      !(decide (sub = 1 ∧ 2 < arg) || decide (sub = 2 ∧ 7 < arg) || decide (sub = 3 ∧ 1 < arg))
  else false

/-- The word that a control core would fetch next. -/
def fetchWord (c : Core) (pc : Nat) : Nat := (c.code.getD (pc / 4) 0).toNat

end Sys2Proof.Machine
end

