-- ==== Sys2Proof/Machine/Sched.lean ====
section
/-! DEFINITION. Which context holds a plot (R360, R361, R391): runnable contexts, the passing of a plot with its saves
and restores, slices and YIELD_SLICE (R334), and the event marks of a timed plot (R282, R286). -/

namespace Sys2Proof.Machine

/-- The work of a RUN's core: on the core while the RUN's context holds it, else in the context's save area. -/
def runWork (s : State) (r : Run) (core : Nat) : Work :=
  if (s.workAt core).run = some r.key then s.workAt core
  else tabGet {} (s.ctxAt r.key.ctx).saves core

/-- Whether a control core waits in WAIT_QUEUE. -/
def waitsQueue (c : CCore) : Bool :=
  match c.mode, c.wait with
  | .waiting, .queue _ => true
  | _, _ => false

/-- Whether a control core is a started one, an ended one too, that does not wait in WAIT_QUEUE (R360). -/
def ccActive (c : CCore) : Bool := c.started && !waitsQueue c

/-- Whether a RUN makes its context runnable (R360). -/
def runRunnable (s : State) (r : Run) : Bool :=
  match r.phase with
  | .waiting | .ready => true
  | .dispatched | .preempted | .stopping =>
    r.cores.any (fun n => ccActive (runWork s r n).cc0 || ccActive (runWork s r n).cc1)

/-- Whether a context is runnable on its plot (R360, R404). -/
def ctxRunnable (s : State) (c : Nat) : Bool :=
  decide ((s.ctxAt c).st = 1) && s.runs.any (fun r => decide (r.key.ctx = c) && runRunnable s r)

/-- Contexts attached to a plot, in ascending number (R388, R390). -/
def attachedTo (s : State) (p : Nat) : List Nat :=
  (s.ctxs.filter (fun (q : Nat × Ctx) => q.2.plotValid && decide (q.2.plot = p))).map Prod.fst

/-- Logical cores of a mask, ascending. -/
def maskCores (m : Nat) : List Nat := (List.range 128).filter (fun n => m.testBit n)

/-- A control core's slice begins anew (R334). -/
def clearYield (w : Work) : Work :=
  { w with cc0 := { w.cc0 with yielded := false }, cc1 := { w.cc1 with yielded := false } }

/-- Passes one core to another context: the outgoing work is saved and the incoming work restored, which rewrites its store;
its spin engines are at rest (R22, R156, R391). -/
def switchCore (old : Option Nat) (new : Nat) (s : State) (core : Nat) : State :=
  let w := s.workAt core
  let back := match tabFind (s.ctxAt new).saves core with
    | some x => x
    | none => { store := w.store }
  let s1 := match old, w.run with
    | some o, some _ => s.updCtx o (fun x => { x with saves := tabSet x.saves core (clearYield w) })
    | _, _ => s
  let s2 := s1.updCtx new (fun x => { x with saves := tabDel x.saves core })
  State.updCore { s2 with badLines := if back.run.isSome then withoutStore core s2.badLines else s2.badLines } core
    (fun c => { c with work := back, spinBusy := 0
                       power := if back.run.isSome ∧ c.power = 1 then 0 else c.power })

/-- The uncorrectable error that a read of the save area of a context for a core meets (R391, R413, R415). -/
def areaLost (s : State) (c core : Nat) : Option (Level × Nat) :=
  ((s.ctxAt c).areas.find? (fun a => decide (a.1 = core))).bind (fun a => poolLost s a.2 (c, core, 0))

/-- The uncorrectable error that saving the work of a context on a core meets: in the core store, which it reads, or in a
save area that a retired channel serves (R391, R413, R415). -/
def saveUe (s : State) (c core : Nat) : Option (RunKey × Level × Nat) :=
  match (s.workAt core).run with
  | some k =>
    if k.ctx = c then ((storeBad s core 0 8388608).map (fun l => (k, Level.coreStore, l))).or
      ((areaLost s c core).map (fun l => (k, l.1, l.2)))
    else none
  | none => none

/-- The uncorrectable error that restoring the work of a context on a core meets (R391, R413, R415). -/
def restoreUe (s : State) (c core : Nat) : Option (RunKey × Level × Nat) :=
  ((tabFind (s.ctxAt c).saves core).bind Work.run).bind (fun k => (areaLost s c core).map (fun l => (k, l.1, l.2)))

/-- A context whose saved or restored work meets an error becomes faulted (R413). -/
def passUe (s : State) (x : Option (RunKey × Level × Nat)) : State :=
  match x with
  | some (k, l, n) => memUe s k.ctx l n k.ring k.slot
  | none => s

/-- The phase of a RUN when its plot passes from one context to another (R361). -/
def switchPhase (old : Option Nat) (new : Nat) (r : Run) : Run :=
  if some r.key.ctx = old ∧ r.phase = .dispatched then { r with phase := .preempted }
  else if r.key.ctx = new ∧ r.phase = .preempted then { r with phase := .dispatched }
  else r

/-- The words of code bytes. -/
def codeWords (n : Nat) (bs : List Byte) : List (BitVec 32) :=
  (List.range (n / 4)).map (fun i => BitVec.ofNat 32 (fieldOf bs (4 * i) 4))

/-- The image that a program names, for R306. -/
def imageKey (r : Run) (p : ProgHdr) : Nat × Nat × Nat := (r.key.ctx, r.program, p.crc)

/-- The named cores that lack the image (R306). -/
def coresLacking (s : State) (r : Run) (p : ProgHdr) : List Nat :=
  r.cores.filter (fun n => decide ((s.coreAt n).image ≠ some (imageKey r p)))

/-- Loads code into a core's instruction store (R306); a wrong CRC leaves no image. -/
def loadCode (s : State) (code : List (BitVec 32)) (image : Option (Nat × Nat × Nat)) (cores : List Nat) : State :=
  cores.foldl (fun t n => t.updCore n (fun c => { c with code := code, image := image })) s

/-- Reloads the code of a RUN that goes on, where its cores lack the image (R306, R333). A load breaks no timing of its own
(R286; DEDUCED, log entry 94). -/
def reloadRun (s : State) (k : RunKey) : State :=
  match s.findRun k with
  | none => s
  | some r =>
    if r.phase ≠ .dispatched then s
    else
      match coresLacking s r r.hdr with
      | [] => s
      | n :: rest =>
        match rangeStop s k.ctx (r.program + 64) r.hdr.codeBytes false with
        | some x => stopAccess s k.ctx x false 5 n k.ring k.slot (.sequencer k)
        | none =>
          let bs := vaRead s k.ctx (r.program + 64) r.hdr.codeBytes
          let good := decide (crc32c bs = r.hdr.crc)
          let s1 := markAccess (cachePages s k.ctx (r.program + 64) r.hdr.codeBytes) k.ctx (r.program + 64) r.hdr.codeBytes
          let s2 := loadCode s1 (codeWords r.hdr.codeBytes bs) (if good then some (imageKey r r.hdr) else none) (n :: rest)
          if good then s2 else completeRun s2 k stBadField 0

/-- Reloads the code of every RUN of a context that goes on (R333). -/
def reloadRuns (s : State) (c : Nat) : State :=
  ((s.runs.filter (fun (r : Run) => decide (r.key.ctx = c))).map Run.key).foldl reloadRun s

/-- Passes a plot to a context, whose code is reloaded (R333, R361); a context whose save or restore meets an uncorrectable
error becomes faulted, and one that does so at its restore does not get the plot (R413). -/
def switchPlot (s : State) (p new : Nat) : State :=
  let q := s.plotAt p
  if q.holder = some new then s
  else
    let cores := maskCores q.mask
    let s0 := passUe s (q.holder.bind (fun o => cores.findSome? (saveUe s o)))
    match cores.findSome? (restoreUe s0 new) with
    | some x => passUe s0 (some x)
    | none =>
      let s1 := cores.foldl (switchCore q.holder new) s0
      let s2 := { s1 with runs := s1.runs.map (switchPhase q.holder new) }
      reloadRuns (s2.updPlot p (fun x => { x with holder := some new })) new

/-- The next runnable context of a plot after its holder, in ascending number, in a cycle (R361). -/
def nextHolder (s : State) (p : Nat) : Option Nat :=
  let h := (s.plotAt p).holder
  let cs := (attachedTo s p).filter (fun c => ctxRunnable s c && decide (some c ≠ h))
  match h with
  | none => cs.head?
  | some k => ((cs.filter (fun c => decide (k < c))) ++ (cs.filter (fun c => decide (c < k)))).head?

/-- Whether a control core leaves the slice free: it has ended, waits, or has yielded (R334). -/
def ccYields (c : CCore) : Bool :=
  !c.started || decide (c.mode = .ended) || decide (c.mode = .waiting) || c.yielded

/-- Ends the slice when every started control core of the RUN has ended, waits or has yielded and at least one has
yielded, or when the context is no longer runnable, every stake waiting in WAIT_QUEUE, and another context is runnable
(R326, R334). -/
def yieldCheck (s : State) (k : RunKey) : State :=
  match s.findRun k with
  | none => s
  | some r =>
    let p := (s.ctxAt k.ctx).plot
    let ws := r.cores.map (runWork s r)
    if (ws.all (fun w => ccYields w.cc0 && ccYields w.cc1) ∧ ws.any (fun w => w.cc0.yielded || w.cc1.yielded)) ∨
       !ctxRunnable s k.ctx then
      match nextHolder s p with
      | some c => switchPlot s p c
      | none => s
    else s

end Sys2Proof.Machine
end

