-- ==== Sys2Proof/Machine/Wakes.lean ====
section
/-! DEFINITION. What waits and what wakes it: memory conditions of control cores and of WAIT descriptors and the moments at
which they are evaluated (R318, R325, R350), and which descriptor of a ring is next (R354, R355). -/

namespace Sys2Proof.Machine

/-- Whether a value meets a condition (R310, R349). -/
def meets (test : WaitTest) (v threshold mask : Word) : Bool :=
  match test with
  | .ge => decide (threshold.toNat ≤ v.toNat)
  | .eq => decide (v = threshold)
  | .masked => decide (v &&& mask = threshold &&& mask)

/-- FLAGS of a descriptor (R345). -/
def descFlags (d : Desc) : Nat := fieldOf d.bytes 1 1

/-- TYPE of a descriptor, 0xFF when it could not be read (R366). -/
def descType (d : Desc) : Nat := if d.unread then 0xFF else fieldOf d.bytes 0 1

/-- Whether a RUN that has started waits for a core of an earlier RUN of its context: RUNs stand in the order in which
they started (R355). -/
def runBlocked (s : State) (r : Run) : Bool :=
  (s.runs.takeWhile (fun q => decide (q.key ≠ r.key))).any (fun q =>
    decide (q.key.ctx = r.key.ctx) && q.cores.any (fun n => decide (n ∈ r.cores)))

/-- Whether a RUN of a ring waits for a core, so that it holds its ring (R355). -/
def ringHeld (s : State) (c r : Nat) : Bool :=
  s.runs.any (fun q => decide (q.key.ctx = c ∧ q.key.ring = r ∧ q.phase = .waiting) && runBlocked s q)

/-- The descriptor that a ring may start next, when it has the given type (R354, R355). -/
def nextOf (s : State) (c r ty : Nat) (states : List Nat) : Option Desc :=
  let q := s.ringAt c r
  if chipRuns s ∧ q.configured ∧ !q.stopping ∧ (s.ctxAt c).st ∈ states ∧ q.inflight.length < 16 ∧
     !ringHeld s c r then
    match q.fetched with
    | d :: _ => if descType d = ty then some d else none
    | [] => none
  else none

/-- A ring without the first of its fetched descriptors. -/
def Ring.pop (q : Ring) : Ring := { q with fetched := q.fetched.drop 1, kept := q.kept - 1, waitOn := false }

/-- Takes the first fetched descriptor out of a ring and finishes it. -/
def finishNext (s : State) (c r : Nat) (st : Status) : State :=
  s.updRing c r (fun q =>
    match q.fetched with
    | d :: _ => { q.pop with finished := q.finished ++ [⟨d, st, 0⟩] }
    | [] => q)

/-- The condition of a WAIT descriptor (R349). -/
def waitTest (bs : List Byte) (v : Word) : Bool :=
  let w (off : Nat) : Word := BitVec.ofNat 64 (fieldOf bs off 8)
  meets (if fieldOf bs 4 1 = 0 then .ge else if fieldOf bs 4 1 = 1 then .eq else .masked) v (w 16) (w 24)

/-- Whether the WAIT at the front of a ring may be evaluated: one that has started goes on in FAULT_PENDING, unless its own
access has faulted and waits for RESUME or ABORT_FAULT; none starts there (R404, R406). -/
def waitMay (s : State) (ctx ring : Nat) (d : Desc) : Bool :=
  (decide ((s.ctxAt ctx).st = 1) || (s.ringAt ctx ring).waitOn) &&
    !(s.ctxAt ctx).holders.any (fun (p : Holder × Nat) => decide (p.1 = .desc ring d.slot))

/-- Evaluates the WAIT at the front of a ring (R350). -/
def waitStep (s : State) (ctx ring : Nat) : State :=
  match nextOf s ctx ring 2 [1, 2] with
  | none => s
  | some d =>
    let a := fieldOf d.bytes 8 8
    let s1 := s.updRing ctx ring (fun q => { q with waitOn := true })
    if waitMay s ctx ring d = false then s
    else match rangeStop s ctx a 8 false with
    | some x => stopAccess s1 ctx x false 4 0 ring d.slot (.desc ring d.slot)
    | none =>
      if waitTest d.bytes (BitVec.ofNat 64 (vaLoad s ctx a 8)) then finishNext s ctx ring stDone else s1

/-- Evaluates the WAIT at the front of every ring (R350, R461). -/
def evalWaits (s : State) : State :=
  (s.ctxs.flatMap (fun (p : Nat × Ctx) => (List.range 4).map (fun r => (p.1, r)))).foldl
    (fun (t : State) (p : Nat × Nat) => waitStep t p.1 p.2) s

/-! ### Control cores -/

/-- Whether the condition of a WAIT_VALUE that waits holds (R318). -/
def valueMet (s : State) (r : Run) (c : CCore) : Bool :=
  match c.mode, c.wait with
  | .waiting, .value va threshold mask test =>
    (rangeStop s r.key.ctx va.toNat 8 false).isNone &&
      meets test (BitVec.ofNat 64 (vaLoad s r.key.ctx va.toNat 8)) threshold mask
  | _, _ => false

/-- Whether a waiting control core's condition holds, or its access is stopped, so that its instruction ends or executes
again (R318, R325). -/
def pollHolds (s : State) (r : Run) (w : Work) (c : CCore) : Bool :=
  let x := r.key.ctx
  match c.mode, c.wait with
  | .waiting, .value va _ _ _ => (rangeStop s x va.toNat 8 false).isSome || valueMet s r c
  | .waiting, .queue va =>
    (rangeStop s x va.toNat 64 false).isSome ||
      decide (vaLoad s x va.toNat 8 ≠ vaLoad s x (va.toNat + 8) 8) ||
      decide (tabGet 0 w.wqs va.toNat < (r.taken.filter (fun q => decide (q.1 = va.toNat))).length)
  | _, _ => false

/-- A waiting control core whose instruction is to execute again from its start (R333). -/
def wakeCc (c : CCore) : CCore := { c with mode := .running, wait := .none }

/-- Polls a control core on its core: a WAIT_VALUE whose condition holds completes, where its control core may execute;
every other instruction whose condition holds executes again. -/
def pollHart (r : Run) (core : Nat) (s : State) (cc : Bool) : State :=
  let h : Hart := ⟨core, cc⟩
  if pollHolds s r (s.workAt core) (s.hart h) = false then s
  else if valueMet s r (s.hart h) ∧ (hartReady s h).isSome then retire s h
  else s.updHart h wakeCc

/-- The work of a pre-empted RUN's core after a poll. -/
def pollWork (s : State) (r : Run) (w : Work) : Work :=
  { w with cc0 := if pollHolds s r w w.cc0 then wakeCc w.cc0 else w.cc0
           cc1 := if pollHolds s r w w.cc1 then wakeCc w.cc1 else w.cc1 }

/-- Polls the control cores of one core of a RUN, on the core or in the save area. -/
def pollCore (r : Run) (s : State) (core : Nat) : State :=
  if (s.workAt core).run = some r.key then [false, true].foldl (pollHart r core) s
  else if (tabFind (s.ctxAt r.key.ctx).saves core).isSome then
    s.updCtx r.key.ctx (fun x => { x with saves := tabSet x.saves core (pollWork s r (tabGet {} x.saves core)) })
  else s

/-- Polls the control cores of a RUN. -/
def pollRun (s : State) (k : RunKey) : State :=
  match s.findRun k with
  | none => s
  | some r => if (s.ctxAt k.ctx).st = 1 ∧ r.status = none then r.cores.foldl (pollCore r) s else s

/-- Evaluates what waits on memory: the control cores of every RUN, then the WAIT descriptors. It is done at every poll, and
at every SIGNAL, ENQUEUE and QPOST and at the end of every engine command, whatever line they write: an evaluation
more often than the spec asks for changes nothing else (R318, R325, R350; log entry 30). -/
def wakeWaits (s : State) : State :=
  if chipRuns s then evalWaits ((s.runs.map Run.key).foldl pollRun s) else s

/-- The instruction waits, and the slice may end (R333, R334). -/
def waitYield (s : State) (h : Hart) (w : CcWait) (r : Run) : State := yieldCheck (waitHart s h w) r.key

end Sys2Proof.Machine
end

