-- ==== Sys2Proof/Machine/CcSys.lean ====
section
/-! DEFINITION. The instructions of the control cores that issue, wait and signal (R310, R312 to R334); BENCHMARK and END,
which bear on spin runs, stand in Machine/Bench.lean. -/

namespace Sys2Proof.Machine

open Host (Outcome)

/-! ### Issue -/

/-- The unit that ISSUE routes an opcode to (R312). -/
def unitOf (op : Nat) : Option EngineUnit :=
  if 0x21 ≤ op ∧ op ≤ 0x24 then some .spin
  else if 0x31 ≤ op ∧ op ≤ 0x33 then some .dense
  else if 0x41 ≤ op ∧ op ≤ 0x47 then some .vector
  else none

/-- The unit number of a ticket (R314). -/
def unitNum (u : EngineUnit) : Nat :=
  match u with
  | .dma => 0
  | .spin => 2
  | .dense => 3
  | .vector => 4

/-- A ticket (R314). -/
def ticketOf (u : EngineUnit) (ordinal : Nat) : Word := BitVec.ofNat 64 (unitNum u * 2 ^ 60 + ordinal)

/-- The level that a virtual address maps to, as the DMA class of a declaration entry: 0 NEAR, 1 FAR, 2 HOST (R295). -/
def levelClass (s : State) (c va : Nat) : Nat :=
  match leafOf s c (va / 65536) with
  | .entry w => bitsOf w 3 2
  | _ => 0

/-- The rate class of two quantisation blocks: 0 BF16, 1 with 8-bit codes, 2 with shorter codes only (R20, R295; DEDUCED:
the wider operand decides, log entry 24). -/
def rateClass (s : State) (c a b : Nat) : Nat :=
  let fmt (q : Nat) : Nat := vaLoad s c q 1
  if a = 0 ∨ b = 0 then 0
  else if fmt a = 4 ∨ fmt a = 6 ∨ fmt b = 4 ∨ fmt b = 6 then 1
  else 2

/-- Credits are held in this many parts of 1/40 pJ, so that every charge, cap, share and halved share of up to 128 cores is
whole and nothing is rounded (R10, R464, R465; DESIGN CHOICE of the unit, log entry 56). -/
def creditUnit : Nat := 16 * ((List.range 128).map (· + 1)).foldl Nat.lcm 1 ^ 2

/-- Debits a core's credits by an amount of `creditUnit` parts: no caller spends more than they are, and a core that the
governor does not pace has none (R464, R465). -/
def spendUnits (s : State) (core n : Nat) : State :=
  { s with power := { s.power with
      credits := s.power.credits.map (fun (p : Nat × Nat) => if p.1 = core then (p.1, p.2 - n) else p) } }

/-- Whether the spin run that a core works for is streamed (R149). -/
def streamsPlat (s : State) (w : Work) : Bool :=
  !w.spinU.queue.isEmpty && ((w.run.bind s.findRun).bind Run.spin).any SpinRun.streamed

/-- What a core's active consumers draw in a period at full rate (R464): 256 sites and an array clock in each clock, and for
a unit that reads near memory an equal part of its 250 W. -/
def fullDraw (s : State) (w : Work) : Nat :=
  creditUnit * ((if w.spinU.queue.isEmpty then 0 else 1044480000) + (if w.denseU.queue.isEmpty then 0 else 1114112000)) +
  (if w.dmaU.queue.isEmpty ∧ w.denseU.queue.isEmpty ∧ streamsPlat s w = false then 0
   else creditUnit * 100000000000 / max 1 s.coreCount)

/-- Whether a core lies in an admitted reservation (R298, R465). -/
def reservedCore (s : State) (core : Nat) : Bool :=
  match (s.coreAt core).plot with
  | some p => decide ((s.plotAt p).st = 2)
  | none => false

/-- Whether the governor paces a core: it lies in no admitted reservation and has credits of the period, or holds a spin,
dense or DMA command that has come since the period's start, whose credits come with the next. A core that holds vector
commands alone gets no credits under R465 and is not paced (R33, R464, R465; DESIGN CHOICE, log entry 56). -/
def paced (s : State) (core : Nat) : Bool :=
  !reservedCore s core && ((tabFind s.power.credits core).isSome || decide (fullDraw s (s.workAt core) ≠ 0))

/-- Whether a core's credits cover what work of `n` parts costs at once (R33, R465). -/
def affords (s : State) (core n : Nat) : Bool := !paced s core || decide (n ≤ tabGet 0 s.power.credits core)

/-- Spends credits of a core that the governor paces. -/
def spend (s : State) (core n : Nat) : State := if paced s core then spendUnits s core n else s

/-- Sets what a unit's command at work has paid. -/
def setPaid (s : State) (core : Nat) (u : EngineUnit) (n : Nat) : State :=
  s.updWork core (fun w => w.setUnitQ u { w.unitQ u with paid := n })

/-- Pays for work of a unit's head command, `n` parts in all, as far as its core's credits go beyond what it has paid
already: the state, and whether the work is paid. -/
def payPart (s : State) (core : Nat) (u : EngineUnit) (n : Nat) : State × Bool :=
  let paid := ((s.workAt core).unitQ u).paid
  if paced s core then
    let m := min (n - paid) (tabGet 0 s.power.credits core)
    (setPaid (spend s core m) core u (paid + m), decide (n ≤ paid + m))
  else (s, true)

/-- Pays for work of the head commands of cores: the state, and whether all of it is paid, so that the work may be done.
Work that is not paid in full waits for the next period, and what is paid stays paid: no core exceeds its credits and
nothing stays unpaid (R33, R464, R465; log entry 56). -/
def payEach (s : State) (cores : List Nat) (u : EngineUnit) (cost : Nat → Nat) : State × Bool :=
  let p := cores.foldl (fun (t : State × Bool) core => let q := payPart t.1 core u (cost core); (q.1, t.2 && q.2)) (s, true)
  if p.2 then (cores.foldl (fun t core => if paced s core then setPaid t core u 0 else t) p.1, true) else p

/-- Pays for work of one core's head command. -/
def payUnits (s : State) (core : Nat) (u : EngineUnit) (n : Nat) : State × Bool := payEach s [core] u (fun _ => n)

/-- Adds to the charge that the command at work runs up, in 1/40 pJ (R464). -/
def State.addCharge (s : State) (n : Nat) : State := { s with power := { s.power with charge := s.power.charge + n } }

/-- The charge of bytes of near memory: 15.625 pJ each (R464). -/
def nearCharge (n : Nat) : Nat := 625 * n * creditUnit

/-- Whether a virtual address lies in near memory. -/
def nearSide (s : State) (c va : Nat) : Bool :=
  match leafOf s c (va / 65536) with
  | .entry w => decide (bitsOf w 3 2 = 0)
  | _ => false

/-- Bytes of near memory in a range (R464). -/
def nearBytes (s : State) (c va n : Nat) : Nat :=
  (((rangePieces va n).filter (fun p => nearSide s c p.1)).map Prod.snd).foldl (· + ·) 0

/-- The class of a command in the terms of a declaration entry (R295). A transfer from memory to memory has the class of
its farther side. -/
def cmdClass (s : State) (c : Nat) (bs : List Byte) : Nat :=
  let f := fieldOf bs
  let op := f 0 1
  if op = 1 then
    (if f 1 1 = 2 then 3
     else max (if f 1 1 = 1 then 0 else levelClass s c (f 16 8)) (if f 1 1 = 0 then 0 else levelClass s c (f 24 8)))
  else if op = 0x31 then rateClass s c (vaLoad s c (f 24 8 + 8) 8) (vaLoad s c (f 24 8 + 24) 8)
  else if op = 0x32 then rateClass s c (vaLoad s c (f 8 8 + 16) 8) (vaLoad s c (f 8 8 + 16) 8)
  else 0

/-- Products of one traverse of a DENSE_ANNEAL for one replica (R203, R295). -/
def annealProducts (s : State) (c : Nat) (bs : List Byte) : Nat :=
  let f := fieldOf bs
  let na := vaLoad s c (f 8 8) 4
  let nb := vaLoad s c (f 8 8 + 4) 4
  if f 1 1 = 0 then na * nb * (if bitsOf (f 3 1) 2 1 = 0 then 2 else 1) else na * na

/-- Named replicas of a mask. -/
def maskCount (m : Nat) : Nat := ((List.range 64).filter (fun k => m.testBit k)).length

/-- The amount of a command in the terms of a declaration entry: traverses of SPIN_TRAVERSE, products of the dense
commands, values or elements, bytes of a DMA (R295, R296; DEDUCED for READOUT and ENERGY: sites for each replica, and for
EXCHANGE: replicas, log entry 24). The traverses of a SPIN_SCHEDULE are counted as they run. -/
def cmdAmount (s : State) (c : Nat) (bs : List Byte) : Nat :=
  let f := fieldOf bs
  let op := f 0 1
  let vars : Nat := vaLoad s c (f 8 8) 4 + vaLoad s c (f 8 8 + 4) 4
  let sites (va : Nat) : Nat := if op = 0x45 ∧ f 1 1 = 1 then vars else vaLoad s c (va + 8) 4 * vaLoad s c (va + 12) 4 * vaLoad s c (va + 16) 2
  if op = 1 then f 8 8 * max 1 (f 4 4)
  else if op = 0x21 then f 4 4
  else if op = 0x31 then f 4 4 * f 8 4 * f 12 4
  else if op = 0x32 then f 4 4 * maskCount (f 16 8) * annealProducts s c bs
  else if op = 0x33 then f 4 4 * f 8 4
  else if op = 0x41 then f 4 4 * f 36 4 * (f 50 6 % 2 ^ 25)
  else if op = 0x42 then f 4 4 * f 36 4
  else if op = 0x43 then 128 * f 4 4
  else if op = 0x44 ∨ op = 0x45 then sites (if op = 0x44 ∧ f 24 8 ≠ 0 then f 24 8 else f 8 8) * maskCount (f 32 4 + f 36 4 * 2 ^ 32)
  else if op = 0x46 ∨ op = 0x47 then f 4 4
  else 0

/-- Array clocks with products in flight of a dense command: `n` products at the rate of its formats (R20, R464; DEDUCED,
log entry 56). -/
def arrayClocks (s : State) (c : Nat) (bs : List Byte) (n : Nat) : Nat :=
  let cls := cmdClass s c bs
  let rate := if cls = 0 then 1024 else if cls = 1 then 4096 else 8192
  (n + rate - 1) / rate

/-- The admitted declarations of a context's timed plot: the plot's own and those of its started services (R286, R295,
R426). -/
def declarations (s : State) (c : Nat) : List (List (Nat × Nat × Nat × Nat)) :=
  (s.plotAt (s.ctxAt c).plot).declared ::
    (s.services.filter (fun v => decide (v.ctx = c ∧ v.st ≠ 0))).map Service.declared

/-- Whether a declaration covers the next command of an opcode and class on a core beside those that the
core has issued in the RUN: for every amount, no more commands of at least that amount than the entries of at least that
amount allow (R286, R295). -/
def declares (r : Run) (core op cls amount : Nat) (decl : List (Nat × Nat × Nat × Nat)) : Bool :=
  let es := decl.filter (fun e => decide (e.1 = op ∧ e.2.1 = cls))
  let as := amount :: (r.issuedOps.filter (fun q => decide (q.1 = core ∧ q.2.1 = op ∧ q.2.2.1 = cls))).map (fun q => q.2.2.2)
  as.all (fun a => decide ((as.filter (fun b => decide (a ≤ b))).length ≤
    ((es.filter (fun e => decide (a ≤ e.2.2.2))).map (fun e => e.2.2.1)).foldl (· + ·) 0))

/-- Copies the 64 bytes of a command into its unit's queue and returns the ticket, or stalls on a full queue (R313). -/
def issueTo (s : State) (h : Hart) (rd : BitVec 5) (r : Run) (a : Nat) (u : EngineUnit) : State :=
  let w := s.workAt h.core
  let q := w.unitQ u
  if 16 ≤ q.queue.length then waitYield s h (.stall u) r
  else
    match storeBad s h.core a 64 with
    | some l => memUe s r.key.ctx .coreStore l r.key.ring r.key.slot
    | none =>
      let bytes := memReadN w.store a 64
      let n := q.issued + 1
      let op := fieldOf bytes 0 1
      let s1 := s.updWork h.core (fun w =>
        { (w.setUnitQ u { q with issued := n, queue := q.queue ++ [⟨n, bytes⟩] }) with
          since := w.since ++ [(u, n, none)], issuedAny := true })
      let s2 := retireReg s1 h rd (ticketOf u n)
      let p := s2.plotAt (s2.ctxAt r.key.ctx).plot
      let cls := cmdClass s r.key.ctx bytes
      let amount := cmdAmount s r.key.ctx bytes
      let s3 := if p.timed && !(declarations s r.key.ctx).any (declares r h.core op cls amount) then timingBroken s2 (s2.ctxAt r.key.ctx).plot 3 else s2
      s3.updRun r.key (fun x => { x with issuedOps := x.issuedOps ++ [(h.core, op, cls, amount)] })

/-- An instruction that reads bytes of its core store: an uncorrectable error there ends its context (R22, R413). -/
def storeGuard (s : State) (h : Hart) (r : Run) (a n : Nat) (body : State) : State :=
  match storeBad s h.core a n with
  | some l => memUe s r.key.ctx .coreStore l r.key.ring r.key.slot
  | none => body

/-- ISSUE (R310, R312, R313): causes in ascending number (R330); the opcode is read before the address is judged. -/
def execIssue (h : Hart) (rd rs1 : BitVec 5) (s : State) : Outcome State Fault Refusal :=
  .next (hartStep s h (fun r c =>
    let a := (regGet c rs1).toNat
    let op := (memRead (s.workAt h.core).store a).toNat
    storeGuard s h r a (if inArea r a 1 then 1 else 0) (
    if inArea r a 1 ∧ unitOf op = none then trapHart s h r 1 stBadOpcode 0
    else if a % 64 ≠ 0 then trapHart s h r 3 stBadField 0
    else if !inArea r a 64 then trapHart s h r 4 stPermFault 0
    else
      match unitOf op with
      | some u => issueTo s h rd r a u
      | none => trapHart s h r 1 stBadOpcode 0)))

/-- DMA (R310, R312): the command goes to the DMA unit whatever its opcode. -/
def execDma (h : Hart) (rd rs1 : BitVec 5) (s : State) : Outcome State Fault Refusal :=
  .next (hartStep s h (fun r c =>
    let a := (regGet c rs1).toNat
    if a % 64 ≠ 0 then trapHart s h r 3 stBadField 0
    else if !inArea r a 64 then trapHart s h r 4 stPermFault 0
    else issueTo s h rd r a .dma))

/-! ### Waiting for commands -/

/-- The unit of a ticket. -/
def ticketUnit (t : Nat) : Option EngineUnit :=
  let u := t / 2 ^ 60
  if u = 0 then some .dma else if u = 2 then some .spin else if u = 3 then some .dense
  else if u = 4 then some .vector else none

/-- Whether a ticket names a command among the 64 most recent of its unit (R314). -/
def ticketLive (q : UnitQ) (n : Nat) : Bool := decide (1 ≤ n ∧ n ≤ q.issued ∧ q.issued < n + 64)

/-- The status of a ticket's command once it has completed: a ticket that is not live is no ticket (R314). -/
def ticketStatus (w : Work) (t : Nat) : Option (Option Status) :=
  match ticketUnit t with
  | none => none
  | some u =>
    let q := w.unitQ u
    let n := t % 2 ^ 60
    if ticketLive q n then some ((q.done.find? (fun p => decide (p.1 = n))).map Prod.snd) else none

/-- A status as a register value. -/
def statusWord (st : Status) : Word := st.zeroExtend 64

/-- EWAIT (R310, R314). -/
def execEwait (h : Hart) (rd rs1 : BitVec 5) (s : State) : Outcome State Fault Refusal :=
  .next (hartStep s h (fun r c =>
    match ticketStatus (s.workAt h.core) (regGet c rs1).toNat with
    | none => trapHart s h r 5 stBadField 0
    | some none => waitYield s h (.ticket (regGet c rs1)) r
    | some (some st) => retireReg s h rd (statusWord st)))

/-- EPOLL (R310, R314). -/
def execEpoll (h : Hart) (rd rs1 : BitVec 5) (s : State) : Outcome State Fault Refusal :=
  .next (hartStep s h (fun r c =>
    match ticketStatus (s.workAt h.core) (regGet c rs1).toNat with
    | none => trapHart s h r 5 stBadField 0
    | some none => retireReg s h rd (BitVec.allOnes 64)
    | some (some st) => retireReg s h rd (statusWord st)))

/-- Whether every command that a core has issued has completed (R319). -/
def drained (w : Work) : Bool :=
  w.dmaU.queue.isEmpty && w.spinU.queue.isEmpty && w.denseU.queue.isEmpty && w.vecU.queue.isEmpty

/-- The earliest-issued status other than DONE since the last EDRAIN, or DONE (R310). -/
def earliestBad (w : Work) : Status :=
  match w.since.findSome? (fun q => q.2.2.bind (fun st => if st = stDone then none else some st)) with
  | some st => st
  | none => stDone

/-- An instruction that first waits until every command of its core has completed. -/
def drainStep (s : State) (h : Hart) (r : Run) (body : State) : State :=
  if drained (s.workAt h.core) then body else waitYield s h .drain r

/-- EDRAIN (R310). -/
def execEdrain (h : Hart) (rd : BitVec 5) (s : State) : Outcome State Fault Refusal :=
  .next (hartStep s h (fun r _ => drainStep s h r
    (retireReg (s.updWork h.core (fun w => { w with since := [] })) h rd (statusWord (earliestBad (s.workAt h.core))))))

/-- FENCE (R310, R319). -/
def execFence (h : Hart) (s : State) : Outcome State Fault Refusal :=
  .next (hartStep s h (fun r _ => drainStep s h r (retire s h)))

/-! ### Memory conditions and signals -/

/-- An access of a control-core instruction to a virtual range: what stops it is recorded with UNIT CONTROL_CORE
(R405), and a timed plot sees a HOST target and the use of an unlocked page (R393, R401). -/
def hartAccess (s : State) (h : Hart) (r : Run) (va n : Nat) (write : Bool) (body : State) : State :=
  match rangeStop s r.key.ctx va n write with
  | some x => stopAccess s r.key.ctx x write 6 h.core r.key.ring r.key.slot (.hart h)
  | none => markAccess body r.key.ctx va n

/-- WAIT_VALUE (R310, R318): the condition is evaluated at the start and at every poll. -/
def execWaitValue (h : Hart) (rd rs1 rs2 : BitVec 5) (test : WaitTest) (s : State) : Outcome State Fault Refusal :=
  .next (hartStep s h (fun r c =>
    let va := (regGet c rs1).toNat
    if va % 8 ≠ 0 then trapHart s h r 3 stBadField 0
    else hartAccess s h r va 8 false
      (let v : Word := BitVec.ofNat 64 (vaLoad s r.key.ctx va 8)
       if meets test v (regGet c rs2) (regGet c rd) then retire s h
       else waitYield s h (.value (regGet c rs1) (regGet c rs2) (regGet c rd) test) r)))

/-- SIGNAL (R310, R319): waits for the core's commands, then writes or adds indivisibly; rd takes the old value. -/
def execSignal (h : Hart) (rd rs1 rs2 : BitVec 5) (add : Bool) (s : State) : Outcome State Fault Refusal :=
  .next (hartStep s h (fun r c =>
    let va := (regGet c rs1).toNat
    if va % 8 ≠ 0 then trapHart s h r 3 stBadField 0
    else drainStep s h r
      (hartAccess s h r va 8 false (hartAccess s h r va 8 true
        (let old : Word := BitVec.ofNat 64 (vaLoad s r.key.ctx va 8)
         let v := if add then old + regGet c rs2 else regGet c rs2
         wakeWaits (retireReg (vaWrite s r.key.ctx va (natLe 8 v.toNat)) h rd old))))))

/-! ### Barriers -/

/-- Whether a core has ended: every started control core has executed END (R332). -/
def workEnded (w : Work) : Bool :=
  (!w.cc0.started || decide (w.cc0.mode = .ended)) && (!w.cc1.started || decide (w.cc1.mode = .ended))

/-- Whether the CBARRIER that a control core has reached last is complete (R320). -/
def cbarDone (s : State) (h : Hart) : Bool :=
  let o := s.hart ⟨h.core, !h.cc⟩
  decide ((s.hart h).cbars ≤ o.cbars ∨ o.started = false ∨ o.mode = .ended)

/-- Whether the RBARRIER that a core of a RUN has reached last is complete (R320). -/
def rbarDone (s : State) (r : Run) (core : Nat) : Bool :=
  r.cores.all (fun k => decide ((s.workAt core).rbars ≤ (runWork s r k).rbars) || workEnded (runWork s r k))

/-- Completes the barrier that a control core waits at, when it is complete (R320). -/
def releaseBarrier (r : Run) (s : State) (h : Hart) : State :=
  let c := s.hart h
  if c.mode = .waiting ∧ (hartReady s h).isSome ∧
     (c.wait = .cbarrier ∧ cbarDone s h ∨ c.wait = .rbarrier ∧ rbarDone s r h.core) then retire s h else s

/-- Completes the barriers that the arrival of a control core, or its END, has completed (R320). -/
def releaseBarriers (s : State) (r : Run) : State :=
  (r.cores.flatMap (fun n => [Hart.mk n false, Hart.mk n true])).foldl (releaseBarrier r) s

/-- CBARRIER (R310, R320): the k-th of one control core completes with the k-th of the other. -/
def execCbarrier (h : Hart) (s : State) : Outcome State Fault Refusal :=
  .next (hartStep s h (fun r c =>
    let n := if c.mode = .waiting ∧ c.wait = .cbarrier then c.cbars else c.cbars + 1
    let s1 := s.updHart h (fun x => { x with cbars := n })
    if cbarDone s1 h then releaseBarriers (retire s1 h) r else waitYield s1 h .cbarrier r))

/-- RBARRIER (R310, R320, R328). -/
def execRbarrier (h : Hart) (s : State) : Outcome State Fault Refusal :=
  .next (hartStep s h (fun r c =>
    if h.cc then trapHart s h r 6 stBadField 0
    else
      let w := s.workAt h.core
      let n := if c.mode = .waiting ∧ c.wait = .rbarrier then w.rbars else w.rbars + 1
      let s1 := s.updWork h.core (fun x => { x with rbars := n })
      if rbarDone s1 r h.core then releaseBarriers (retire s1 h) r
      else waitYield s1 h .rbarrier r))

/-! ### Rings and stake queues -/

/-- Descriptors that a ring holds: tail − head modulo 2^32 (R340). -/
def ringCount (q : Ring) : Nat := (q.tail + 2 ^ 32 - q.head) % 2 ^ 32

/-- L of a ring (R376). -/
def ringLog (q : Ring) : Nat := q.cfg.toNat % 32

/-- The virtual address of a descriptor's slot (R340). -/
def slotVa (q : Ring) (k : Nat) : Nat := bitsOf q.base.toNat 47 12 * 4096 + 64 * (k % 2 ^ ringLog q)

/-- ENQUEUE (R310, R321). -/
def execEnqueue (h : Hart) (rd rs1 : BitVec 5) (imm : BitVec 16) (s : State) : Outcome State Fault Refusal :=
  .next (hartStep s h (fun r c =>
    let a := (regGet c rs1).toNat
    let n := imm.toNat
    if 3 < n then trapHart s h r 1 stBadOpcode 0
    else if a % 64 ≠ 0 then trapHart s h r 3 stBadField 0
    else if !inArea r a 64 then trapHart s h r 4 stPermFault 0
    else drainStep s h r
      (let q := s.ringAt r.key.ctx n
       if q.configured = false then retireReg s h rd 2
       else if ringCount q = 2 ^ ringLog q then retireReg s h rd 1
       else storeGuard s h r a 64 (hartAccess s h r (slotVa q q.tail) 64 true
         (let s1 := vaWrite s r.key.ctx (slotVa q q.tail) (storeRead s h.core a 64)
          let s2 := s1.updRing r.key.ctx n (fun q => { q with tail := (q.tail + 1) % 2 ^ 32, dbPending := true })
          wakeWaits (retireReg s2 h rd 0))))))

/-- The address of a stake queue's entry (R323). -/
def queueEntry (va log j : Nat) : Nat := va + 64 + 16 * (j % 2 ^ log)

/-- What WAIT_QUEUE does with the entry it returns: the parameter copy, the entry into the core store, the count of
completed takes, and PARAM in rd (R325); for admission the turn counts as a RUN of its own (R326). `take` is the state with
the entry taken. -/
def returnEntry (s take : State) (h : Hart) (rd : BitVec 5) (r : Run) (va off : Nat) (entry : List Byte) : State :=
  let param := fieldOf entry 0 8
  let n := r.hdr.paramBytes
  let done : State :=
    let s1 := if param ≠ 0 then storeWrite take h.core r.hdr.paramOff (vaRead s r.key.ctx param n) else take
    let s2 := storeWrite s1 h.core off entry
    let s3 := s2.updWork h.core (fun w => { w with wqs := tabSet w.wqs va (tabGet 0 w.wqs va + 1) })
    let s4 := s3.updRun r.key (fun q => { q with issuedOps := q.issuedOps.filter (fun e => decide (e.1 ≠ h.core)) })
    retireReg s4 h rd (BitVec.ofNat 64 param)
  if param ≠ 0 then hartAccess s h r param n false done else done

/-- Whether a stake queue's header can be read and its SIZE_LOG2 is above 12 (R323, R325). -/
def queueLogBad (s : State) (r : Run) (va : Nat) : Bool :=
  (rangeStop s r.key.ctx va 64 false).isNone && decide (12 < vaLoad s r.key.ctx (va + 16) 1)

/-- WAIT_QUEUE (R310, R325, R328): collective in the RUN; causes in ascending number (R330). -/
def execWaitQueue (h : Hart) (rd rs1 rs2 : BitVec 5) (s : State) : Outcome State Fault Refusal :=
  .next (hartStep s h (fun r c =>
    let va := (regGet c rs1).toNat
    let off := (regGet c rs2).toNat
    if va % 64 ≠ 0 ∨ off % 16 ≠ 0 ∨ queueLogBad s r va then trapHart s h r 3 stBadField 0
    else if !inArea r off 16 then trapHart s h r 4 stPermFault 0
    else if h.cc then trapHart s h r 6 stBadField 0
    else hartAccess s h r va 64 false
      (let log := vaLoad s r.key.ctx (va + 16) 1
       let mine := tabGet 0 (s.workAt h.core).wqs va
       let taken := (r.taken.filter (fun q => decide (q.1 = va))).map Prod.snd
       let prod := vaLoad s r.key.ctx va 8
       let cons := vaLoad s r.key.ctx (va + 8) 8
       match taken[mine]? with
         | some e => returnEntry s s h rd r va off e
         | none =>
           if prod = cons then waitYield s h (.queue (regGet c rs1)) r
           else hartAccess s h r (va + 8) 8 true (hartAccess s h r (queueEntry va log cons) 16 false
             (let e := vaRead s r.key.ctx (queueEntry va log cons) 16
              let s1 := vaWrite s r.key.ctx (va + 8) (natLe 8 (cons + 1))
              let s2 := s1.updRun r.key (fun q => { q with taken := q.taken ++ [(va, e)] })
              returnEntry s s2 h rd r va off e)))))

/-- QPOST (R310, R324). -/
def execQpost (h : Hart) (rd rs1 rs2 : BitVec 5) (s : State) : Outcome State Fault Refusal :=
  .next (hartStep s h (fun r c =>
    let va := (regGet c rs1).toNat
    let off := (regGet c rs2).toNat
    if va % 64 ≠ 0 ∨ off % 16 ≠ 0 ∨ queueLogBad s r va then trapHart s h r 3 stBadField 0
    else if !inArea r off 16 then trapHart s h r 4 stPermFault 0
    else hartAccess s h r va 64 false
      (let log := vaLoad s r.key.ctx (va + 16) 1
       let prod := vaLoad s r.key.ctx va 8
       let cons := vaLoad s r.key.ctx (va + 8) 8
       if (prod + 2 ^ 64 - cons) % 2 ^ 64 = 2 ^ log then retireReg s h rd 1
       else storeGuard s h r off 16 (hartAccess s h r va 8 true (hartAccess s h r (queueEntry va log prod) 16 true
         (let s1 := vaWrite s r.key.ctx (queueEntry va log prod) (storeRead s h.core off 16)
          wakeWaits (retireReg (vaWrite s1 r.key.ctx va (natLe 8 (prod + 1))) h rd 0)))))))

/-! ### Seeds, time and identity -/

/-- SEED (R310, R328, R267): the k-th of each core returns the RUN's k-th drawn seed. -/
def execSeed (h : Hart) (rd : BitVec 5) (s : State) : Outcome State Fault Refusal :=
  .next (hartStep s h (fun r _ =>
    let w := s.workAt h.core
    if h.cc ∨ w.issuedAny then trapHart s h r 6 stBadField 0
    else
      match r.seeds[w.seeds]? with
      | some v => retireReg (s.updWork h.core (fun w => { w with seeds := w.seeds + 1 })) h rd v
      | none =>
        if r.seedWait then waitYield s h .seed r
        else
          let s1 := markT (s.updRun r.key (fun q => { q with seedWait := true })) r.key.ctx
          let s2 := requestNoise s1 (.seed r.key)
          match s2.findRun r.key with
          | none => s2
          | some r2 =>
            match r2.seeds[w.seeds]? with
            | some v => retireReg (s2.updWork h.core (fun w => { w with seeds := w.seeds + 1 })) h rd v
            | none => waitYield s2 h .seed r))

/-- READ_TIME (R310, R420): device time, or a field port's 802.1AS time, all ones when the port has none. Device time is an
open value; a port's time is that of its last Sync and an open time since it, below 2^32 ns (log entry 2). -/
def execReadTime (h : Hart) (rd : BitVec 5) (arg : BitVec 8) (s : State) : Outcome State Fault Refusal :=
  .next (hartStep s h (fun r _ =>
    if arg.toNat = 0 then (retireReg s h rd (Config.timeNs s.fresh)).tick
    else if arg.toNat ≤ 2 then
      (if (s.portAt (arg.toNat - 1)).time = 0 then retireReg s h rd (BitVec.allOnes 64)
       else (retireReg s h rd (BitVec.ofNat 64 ((s.portAt (arg.toNat - 1)).timeNs + (Config.word s.fresh).toNat % 2 ^ 32))).tick)
    else trapHart s h r 1 stBadOpcode 0))

/-- The place of a core in a list. -/
def rankIn (l : List Nat) (n : Nat) : Nat := (l.takeWhile (fun k => decide (k ≠ n))).length

/-- RDID (R310): an identity value by selector. -/
def execRdid (h : Hart) (rd : BitVec 5) (arg : BitVec 8) (s : State) : Outcome State Fault Refusal :=
  .next (hartStep s h (fun r _ =>
    let v (n : Nat) : State := retireReg s h rd (BitVec.ofNat 64 n)
    if arg.toNat = 0 then v (rankIn r.cores h.core)
    else if arg.toNat = 1 then v r.cores.length
    else if arg.toNat = 2 then v (bitNat h.cc)
    else if arg.toNat = 3 then v r.key.ctx
    else if arg.toNat = 4 then v s.fab.chip
    else if arg.toNat = 5 then v h.core
    else if arg.toNat = 6 then v r.hdr.dataBytes
    else if arg.toNat = 7 then v s.boot.fw.arithRev
    else trapHart s h r 1 stBadOpcode 0))

/-! ### Slices and ends -/

/-- YIELD_SLICE (R310, R334). -/
def execYieldSlice (h : Hart) (s : State) : Outcome State Fault Refusal :=
  .next (hartStep s h (fun r c =>
    yieldCheck (retireWith s h (c.pc + 4) (fun x => { x with yielded := true })) r.key))

/-- The status codes of R378. -/
def statusTable : List Status :=
  [stDone, stLenZero, stBadOpcode, stBadField, stScaleRange, stLatticeRange, stXlateFault, stPermFault, stMemUe,
   stTimeoutDrained] ++
  [stTimeoutKilled, stUnitReset, stLinkLost, stDiverged, stNoiseFault, stNoiseNotReady, stDeadlineRefused,
   stPowerRefused, stCapacityRefused, stFieldOverflow, stCtxFaulted]

/-- A status given to END or TRAP: one that is not in the table is reported as BAD_FIELD (R332). -/
def reportStatus (v : Word) : Status :=
  let st : Status := v.truncate 16
  if st ∈ statusTable then st else stBadField

/-- TRAP (R310, R331). -/
def execTrap (h : Hart) (rs1 : BitVec 5) (arg : BitVec 8) (s : State) : Outcome State Fault Refusal :=
  .next (hartStep s h (fun r c => trapHart s h r 7 (reportStatus (regGet c rs1)) arg.toNat))

end Sys2Proof.Machine
end

