-- ==== Sys2Proof/Machine/Rings.lean ====
section
/-! DEFINITION. Rings, doorbells, descriptors and completion records (R339 to R346, R349 to R354, R357, R365 to
R374, R377), and the PRI responses that records and accesses wait for (R369, R400). -/

namespace Sys2Proof.Machine

open Host (Outcome)

/-! ### Shared operations -/

/-- A core as the chip leaves DEEP_IDLE: the store of a core of a plot has been restored; the core is retained, or
ACTIVE where a held RUN goes on (R460, R462). -/
def restoreCore (c : Core) : Core := if c.plot.isSome then { c with power := if c.work.run.isSome then 0 else 1 } else c

/-- The chip becomes ACTIVE: its fast clocks run, but in recovery, and after DEEP_IDLE and D3hot the core stores are
restored and DEEP_IDLE is clear (R438, R460, R462, R463). -/
def wakeFully (s : State) : State :=
  { s with
    power := { s.power with chip := 0, deepIdle := if s.power.chip = 1 then s.power.deepIdle else false }
    boot := { s.boot with clocks := decide (s.boot.mode ≠ 2) }
    cores := if s.power.chip = 1 then s.cores else List.map (fun (p : Nat × Core) => (p.1, restoreCore p.2)) s.cores }

/-- A doorbell or a BAR access wakes the chip from CHIP_IDLE and DEEP_IDLE; a pending WAIT is evaluated at the wake
(R460, R461). After a thermal trip nothing wakes it (R468). -/
def wakeChip (s : State) : State :=
  if (s.power.chip = 1 ∨ s.power.chip = 2) ∧ s.boot.thermtrip = false then evalWaits (wakeFully s) else s

/-- A frame of a field port or a CONTROL message of a link wakes the chip from CHIP_IDLE (R460). -/
def wakeIdle (s : State) : State := if s.power.chip = 1 then wakeChip s else s

/-- Raises the error vector of a context (R372). -/
def raiseErr (s : State) (c : Nat) : State := raiseVector s (s.ctxAt c).errVector

/-- STATE of a ring (R373). -/
def ringState (q : Ring) : Nat :=
  if q.configured = false then 4
  else if q.full then 3
  else if q.held.any HeldRec.fault then 2
  else if q.head = q.tail ∧ q.inflight = [] ∧ q.fetched = [] then 1
  else 0

/-- M of a ring's completion queue (R376). -/
def cqLog (q : Ring) : Nat := q.cqCfg.toNat % 32

/-- Whether the completion queue is full (R368). -/
def cqFull (q : Ring) : Bool := decide ((q.cqTail + 2 ^ 32 - q.cqHead) % 2 ^ 32 = 2 ^ cqLog q)

/-- The host address of the next record (R365). -/
def recordVa (q : Ring) : Nat := q.cqBase.toNat / 4096 * 4096 + 32 * (q.cqTail % 2 ^ cqLog q)

/-- The 32 bytes of a completion record (R366, R367). A descriptor that could not be read has no USER_TAG, and its record
holds 0 there (DESIGN CHOICE, log entry 110). -/
def recordBytes (c r : Nat) (q : Ring) (f : Finished) (endNs : Nat) : List Byte :=
  let phase := if q.cqTail / 2 ^ cqLog q % 2 = 0 then 1 else 0
  natLe 2 f.status.toNat ++ natLe 1 (descType f.desc) ++ natLe 1 (phase + 2 * r) ++ natLe 2 c ++ zeros 2 ++
    natLe 4 f.desc.slot ++ natLe 4 f.detail ++ (if f.desc.unread then zeros 8 else (f.desc.bytes.drop 56).take 8) ++
    natLe 8 endNs

/-- Whether a finished descriptor writes a record (R366). -/
def wantsRecord (f : Finished) : Bool := decide (f.status ≠ stDone) || bitOf (descFlags f.desc) 0

/-- Writes a record, advances CQ_TAIL and raises the completion vector when IRQ is set (R366, R372). -/
def writeRecord (s : State) (c r : Nat) (f : Finished) (endNs : Nat) : State :=
  let q := s.ringAt c r
  let s1 := { s with host := memWriteN s.host (hostKey c (recordVa q)) (recordBytes c r q f endNs) }
  let s2 := s1.updRing c r (fun q => { q with cqTail := (q.cqTail + 1) % 2 ^ 32 })
  if bitOf (descFlags f.desc) 1 ∧ f.desc.unread = false then raiseVector s2 (bitsOf q.cfg.toNat 42 32) else s2

/-- Enters HELD_FULL when held records and descriptors in flight reach 64 (R370). -/
def checkFull (s : State) (c r : Nat) : State :=
  let q := s.ringAt c r
  if q.full = false ∧ q.configured ∧ 64 ≤ q.held.length + q.inflight.length then
    raiseErr (s.updRing c r (fun q => { q with full := true })) c
  else s

/-- Puts a record into the held area (R369, R370). -/
def holdRecord (s : State) (c r : Nat) (f : Finished) (endNs : Nat) (fault : Bool) : State :=
  let s1 := s.updRing c r (fun q => { q with held := q.held ++ [⟨f, endNs, fault⟩] })
  checkFull (if fault then raiseErr s1 c else s1) c r

/-- Whether the page of a ring's next record is present; with ATS disabled no page request is made (R369, R400). -/
def recordPage (s : State) (c r : Nat) : HostPage :=
  let p := tabGet .present s.hostPages (hostPageKey c (recordVa (s.ringAt c r)))
  if p = .absent ∧ s.ats = false then .denied else p

/-- Enters STOPPED once a STOP's descriptors in flight have completed and their records are written or held (R374). -/
def stopCheck (s : State) (c r : Nat) : State :=
  let q := s.ringAt c r
  if q.stopping ∧ q.inflight = [] ∧ q.finished = [] then
    s.updRing c r (fun q => { q with configured := false, stopping := false, stopCause := 1, keepsTail := true,
                                     full := false })
  else s

/-- Whether a record of a ring waits for a PRI response (R369). -/
def recordWaits (s : State) (c r : Nat) : Bool := s.pris.any (fun q => decide (q.ctx = c ∧ q.ring = some r))

/-- Writes held records, oldest first, until one cannot be written or waits for a PRI response; the count bounds the
recursion (R368, R371). `retry` also tries records that a failed translation holds; where it meets a full queue, the records
left wait for nothing but room. -/
def deliverHeld (fuel : Nat) (retry : Bool) (s : State) (c r : Nat) : State :=
  match fuel with
  | 0 => s
  | k + 1 =>
    let q := s.ringAt c r
    match q.held with
    | [] => s.updRing c r (fun q => { q with full := false })
    | x :: rest =>
      if x.fault ∧ !retry then s
      else if cqFull q then
        s.updRing c r (fun q => { q with held := q.held.map (fun x => { x with fault := false }) })
      else if recordWaits s c r then s
      else
        match recordPage s c r with
        | .present =>
          deliverHeld k retry (writeRecord (s.updRing c r (fun q => { q with held := rest })) c r x.fin x.endNs) c r
        | .absent => requestPage s c (recordVa q / 4096) (some r)
        | .denied => raiseErr (s.updRing c r (fun q => { q with held := { x with fault := true } :: rest })) c

/-- The oldest finished descriptor's record becomes held by a failed translation (R369). -/
def holdFinished (s : State) (c r : Nat) : State :=
  match (s.ringAt c r).finished with
  | [] => s
  | f :: rest =>
    stopCheck (holdRecord (s.updRing c r (fun q => { q with finished := rest })).tick c r f (Config.timeNs s.fresh).toNat true) c r

/-- Delivers the oldest finished descriptor of a ring: its record is written, held, or waits for a page or for room in
the held area; `again` tells that a PRI response has already come, so that a second failure holds it (R366, R368 to
R370). -/
def deliverFinished (s : State) (c r : Nat) (again : Bool) : State :=
  let q := s.ringAt c r
  match q.finished with
  | [] => s
  | f :: rest =>
    let pop := s.updRing c r (fun q => { q with finished := rest })
    let ns := (Config.timeNs s.fresh).toNat
    if wantsRecord f = false then stopCheck pop c r
    else if 64 ≤ q.held.length then s
    else if q.held ≠ [] then stopCheck (holdRecord pop.tick c r f ns (q.held.any HeldRec.fault)) c r
    else if cqFull q then stopCheck (holdRecord pop.tick c r f ns false) c r
    else if recordWaits s c r then s
    else
      match recordPage s c r with
      | .present => stopCheck (writeRecord pop.tick c r f ns) c r
      | .absent =>
        if again then holdFinished s c r
        else requestPage s c (recordVa q / 4096) (some r)
      | .denied => holdFinished s c r

/-! ### Doorbells -/

/-- A tail write: accepted, or ignored with DB_BAD (R342). -/
def tailWrite (s : State) (c r t : Nat) : State :=
  let q := s.ringAt c r
  if q.configured ∧ ringCount q ≤ (t + 2 ^ 32 - q.head) % 2 ^ 32 ∧ (t + 2 ^ 32 - q.head) % 2 ^ 32 ≤ 2 ^ ringLog q then
    s.updRing c r (fun q => { q with tail := t, dbPending := true })
  else raiseErr (s.updRing c r (fun q => { q with dbBad := true })) c

/-- TAIL_DOORBELL (R341, R342). -/
def execTailDoorbell (ctx ring : Nat) (value : Word) (s : State) : Outcome State Fault Refusal :=
  .next (if hostUp s ∧ ctx < 4096 ∧ ring < 4 then tailWrite (wakeChip s) ctx ring (value.toNat % 2 ^ 32) else s)

/-- A completion-queue head write: room for records that wait on a full queue (R341, R365, R368). -/
def cqHeadWrite (s : State) (c r h : Nat) : State :=
  deliverHeld 65 false (s.updRing c r (fun q => { q with cqHead := h })) c r

/-- CQ_HEAD_DOORBELL (R365). -/
def execCqHeadDoorbell (ctx ring : Nat) (value : Word) (s : State) : Outcome State Fault Refusal :=
  .next (if hostUp s ∧ ctx < 4096 ∧ ring < 4 then cqHeadWrite (wakeChip s) ctx ring (value.toNat % 2 ^ 32) else s)

/-! ### Fetching and checking -/

/-- Whether bytes `off` to `off + n - 1` are not all zero. -/
def nonzero (bs : List Byte) (off n : Nat) : Bool := decide (fieldOf bs off n ≠ 0)

/-- The cores that a RUN names: those of its mask, every core of the plot for a mask of zero (R347). -/
def runCores (s : State) (c : Nat) (bs : List Byte) : List Nat :=
  let m := fieldOf bs 24 16
  maskCores (if m = 0 then (s.plotAt (s.ctxAt c).plot).mask else m)

/-- The first failing check of a RUN (R347, R348). -/
def checkRun (s : State) (c : Nat) (bs : List Byte) : Option Status :=
  let x := s.ctxAt c
  let p := s.plotAt x.plot
  let prog := fieldOf bs 8 8
  if prog = 0 ∨ prog % 64 ≠ 0 ∨ 2 ^ 48 < prog + 64 then some stBadField
  else if x.plotValid = false ∨ p.st = 0 then some stCapacityRefused
  else if (runCores s c bs).any (fun n => !p.mask.testBit n || !s.coreEnabled n) ∨
      2 ^ 128 ≤ fieldOf bs 24 16 then some stPermFault
  else if nonzero bs 40 16 then some stBadField
  else none

/-- The first failing check of a WAIT (R349, R350). -/
def checkWait (s : State) (c : Nat) (bs : List Byte) : Option Status :=
  let a := fieldOf bs 8 8
  if 2 < fieldOf bs 4 1 ∨ nonzero bs 5 3 ∨ a = 0 ∨ a % 8 ≠ 0 ∨ 2 ^ 48 < a + 8 ∨ pageHost s c a ∨
     (fieldOf bs 4 1 ≠ 2 ∧ nonzero bs 24 8) ∨ nonzero bs 32 24 then some stBadField
  else none

/-- The first failing check of a SIGNAL (R351). -/
def checkSignal (bs : List Byte) : Option Status :=
  let a := fieldOf bs 8 8
  if 1 < fieldOf bs 4 1 ∨ nonzero bs 5 3 ∨ a = 0 ∨ a % 8 ≠ 0 ∨ 2 ^ 48 < a + 8 ∨ nonzero bs 24 32 then some stBadField
  else none

/-- The first failing check of a COPY (R352, R394). -/
def checkCopy (bs : List Byte) : Option Status :=
  let src := fieldOf bs 8 8
  let dst := fieldOf bs 16 8
  let n := fieldOf bs 24 8
  if nonzero bs 4 4 ∨ src = 0 ∨ src % 8 ≠ 0 ∨ 2 ^ 48 < src + n ∨ dst = 0 ∨ dst % 8 ≠ 0 ∨ 2 ^ 48 < dst + n ∨
     n % 8 ≠ 0 ∨ nonzero bs 32 24 then some stBadField
  else none

/-- The first failing check of a descriptor, in ascending byte order (R345, R346). -/
def checkDesc (s : State) (c : Nat) (bs : List Byte) : Option Status :=
  let ty := fieldOf bs 0 1
  let fl := fieldOf bs 1 1
  if 5 < ty then some stBadOpcode
  else if 8 ≤ fl ∨ (bitOf fl 2 ∧ ty ≠ 1) ∨ nonzero bs 2 2 then some stBadField
  else if ty = 1 then checkRun s c bs
  else if ty = 2 then checkWait s c bs
  else if ty = 3 then checkSignal bs
  else if ty = 4 then checkCopy bs
  else if nonzero bs 4 52 then some stBadField
  else none

/-- Whether a ring's fetcher may fetch: a descriptor that a STOP has kept starts before any further fetch, and held records
and descriptors in flight together stay below 64 (R357, R370, R374, R380, R404). -/
def mayFetch (s : State) (c : Nat) (q : Ring) : Bool :=
  chipRuns s && q.configured && !q.stopping && !q.full && decide ((s.ctxAt c).st = 1) && decide (q.kept = 0) &&
  decide (q.held.length + q.inflight.length < 64)

/-- Whether a ring has a descriptor ready to fetch (R356). -/
def fetchReady (s : State) (c : Nat) (q : Ring) : Bool := mayFetch s c q && decide (q.head ≠ q.tail)

/-- The first of the numbers of a list that comes after `n` in a cycle, the list being in ascending order. -/
def nextInCycle (n : Nat) (l : List Nat) : Option Nat := (l.find? (fun k => decide (n < k))).or l.head?

/-- The context and ring that the fetchers serve next: contexts in ascending number in a cycle, one descriptor each, and
within a context its ready rings in ascending number in a cycle (R356; DEDUCED: one descriptor in each turn of a context,
log entry 77). -/
def nextFetch (s : State) : Option (Nat × Nat) :=
  let ready (c : Nat) : List Nat := (List.range 4).filter (fun r => fetchReady s c (s.ringAt c r))
  (nextInCycle s.lastCtx ((s.ctxs.map Prod.fst).filter (fun c => !(ready c).isEmpty))).bind (fun c =>
    (nextInCycle (s.ctxAt c).lastRing (ready c)).map (fun r => (c, r)))

/-- Fetches and checks the descriptor at the head of a ring (R340, R346, R404, R413). A ring whose address maps to HOST, which
R339 rules out without saying what the device does, is fetched from as any page is (DESIGN CHOICE, log entry 109). -/
def fetchStep (s : State) (ctx ring : Nat) : State :=
  let q := s.ringAt ctx ring
  let va := slotVa q q.head
  match rangeStop s ctx va 64 false with
  | some (.ue l n) =>
    let s1 := s.updRing ctx ring (fun q => { q with
      head := (q.head + 1) % 2 ^ 32
      inflight := q.inflight ++ [{ slot := q.head, bytes := [], unread := true }] })
    memUe s1 ctx l n ring q.head
  | some x => stopAccess s ctx x false 4 0 ring q.head (.fetch ring q.head)
  | none =>
    let d : Desc := { slot := q.head, bytes := vaRead s ctx va 64 }
    match checkDesc s ctx d.bytes with
    | some st => s.updRing ctx ring (fun q => { q with
        head := (q.head + 1) % 2 ^ 32, finished := q.finished ++ [⟨d, st, 0⟩] })
    | none => s.updRing ctx ring (fun q => { q with head := (q.head + 1) % 2 ^ 32, fetched := q.fetched ++ [d] })

/-- DESCRIPTOR_FETCH (R340, R346, R356, R357): a ring that the round robin serves next fetches; an empty one goes idle. -/
def execDescriptorFetch (ctx ring : Nat) (s : State) : Outcome State Fault Refusal :=
  .next (let q := s.ringAt ctx ring
    if mayFetch s ctx q ∧ q.head = q.tail then s.updRing ctx ring (fun q => { q with dbPending := false })
    else if nextFetch s = some (ctx, ring) then
      fetchStep ({ s with lastCtx := ctx }.updCtx ctx (fun x => { x with lastRing := ring })) ctx ring
    else s)

/-! ### Starting descriptors -/

/-- Whether every descriptor in flight of a ring is a stake (R351, R353). -/
def onlyStakes (q : Ring) : Bool := q.inflight.all (fun d => decide (descType d = 1) && bitOf (descFlags d) 2)

/-- NOP (R353). -/
def execNop (ctx ring : Nat) (s : State) : Outcome State Fault Refusal :=
  .next (match nextOf s ctx ring 0 [1] with
    | none => s
    | some _ => finishNext s ctx ring stDone)

/-- FENCE_DESCRIPTOR (R353). -/
def execFenceDescriptor (ctx ring : Nat) (s : State) : Outcome State Fault Refusal :=
  .next (match nextOf s ctx ring 5 [1] with
    | none => s
    | some _ => if onlyStakes (s.ringAt ctx ring) then finishNext s ctx ring stDone else s)

/-- WAIT (R350). -/
def execWait (ctx ring : Nat) (s : State) : Outcome State Fault Refusal := .next (waitStep s ctx ring)

/-- The next descriptor of a ring goes in flight; held records and descriptors in flight may then be 64 (R354, R370). -/
def startNext (s : State) (c r : Nat) (d : Desc) : State :=
  checkFull (s.updRing c r (fun q => { q.pop with inflight := q.inflight ++ [d] })) c r

/-- The access of a SIGNAL in flight: WRITE needs write access, ADD reads as well; then the waits on memory are evaluated
(R318, R351, R398, R401). -/
def signalStep (s : State) (c r : Nat) (d : Desc) : State :=
  let a := fieldOf d.bytes 8 8
  let v := fieldOf d.bytes 16 8
  let add := decide (fieldOf d.bytes 4 1 = 1)
  let readStop := if add then rangeStop s c a 8 false else none
  match readStop with
  | some x => stopAccess s c x false 4 0 r d.slot (.desc r d.slot)
  | none =>
    match rangeStop s c a 8 true with
    | some x => stopAccess s c x true 4 0 r d.slot (.desc r d.slot)
    | none =>
      let w := if add then vaLoad s c a 8 + v else v
      wakeWaits (finishDesc (vaWrite (markAccess s c a 8) c a (natLe 8 w)) c r d.slot stDone 0)

/-- SIGNAL_DESCRIPTOR (R351, R354): a SIGNAL in flight goes on, else the next descriptor starts as one. -/
def execSignalDescriptor (ctx ring : Nat) (s : State) : Outcome State Fault Refusal :=
  .next (match (s.ringAt ctx ring).inflight.find? (fun d => decide (descType d = 3)) with
    | some d => if (s.ctxAt ctx).st = 1 ∧ chipRuns s then signalStep s ctx ring d else s
    | none =>
      match nextOf s ctx ring 3 [1] with
      | none => s
      | some d => if onlyStakes (s.ringAt ctx ring) then signalStep (startNext s ctx ring d) ctx ring d else s)

/-- Whether two ranges of `n` bytes overlap. -/
def overlaps (a b n : Nat) : Bool := decide (a < b + n ∧ b < a + n)

/-- Copies bytes from one virtual range to another in pieces that do not cross a 4 KiB boundary of either; answers the
state, the bytes moved in all and what stopped it (R317, R352, R404). `free` marks an overlapping copy, whose values
are open. -/
def copyLoop (fuel : Nat) (s : State) (c src dst n done : Nat) (free : Bool) : State × Nat × Option (Stop × Bool) :=
  match fuel with
  | 0 => (s, done, none)
  | k + 1 =>
    if n ≤ done then (s, done, none)
    else
      let m := min (n - done) (min (4096 - (src + done) % 4096) (4096 - (dst + done) % 4096))
      match rangeStop s c (src + done) m false with
      | some x => (s, done, some (x, false))
      | none =>
        match rangeStop s c (dst + done) m true with
        | some x => (s, done, some (x, true))
        | none =>
          let data := if free then (List.range m).map (fun i => Config.byte s.fresh (done + i))
                      else vaRead s c (src + done) m
          copyLoop k (vaWrite s c (dst + done) data) c src dst n (done + m) free

/-- Continues a COPY in flight from the bytes it has moved (R352, R404). -/
def copyStep (s : State) (c r : Nat) (d : Desc) : State :=
  let src := fieldOf d.bytes 8 8
  let dst := fieldOf d.bytes 16 8
  let n := fieldOf d.bytes 24 8
  let s0 := markAccess (markAccess (cachePages (cachePages s c src n) c dst n) c src n) c dst n
  let p := copyLoop (n / 2048 + 4) s0 c src dst n d.moved (overlaps src dst n)
  let s1 := (chargeMem p.1 c (2 * (p.2.1 - d.moved))).tick
  match p.2.2 with
  | none => wakeWaits (finishDesc s1 c r d.slot stDone 0)
  | some (x, w) =>
    let s2 := s1.updRing c r (fun q => { q with inflight := q.inflight.map (fun e =>
      if e.slot = d.slot then { e with moved := p.2.1 } else e) })
    stopAccess s2 c x w 4 0 r d.slot (.desc r d.slot)

/-- COPY (R352, R354, R386): the next descriptor starts as one, beside those in flight; when it is no COPY, the oldest
COPY in flight goes on. -/
def execCopy (ctx ring : Nat) (s : State) : Outcome State Fault Refusal :=
  .next (match nextOf s ctx ring 4 [1] with
    | some d =>
      let s1 := s.updCtx ctx markQuota
      if overQuota (s.ctxAt ctx) then finishNext s1 ctx ring stCapacityRefused
      else copyStep (startNext s1 ctx ring d) ctx ring d
    | none =>
      match (s.ringAt ctx ring).inflight.find? (fun d => decide (descType d = 4)) with
      | some d => if (s.ctxAt ctx).st = 1 ∧ chipRuns s then copyStep s ctx ring d else s
      | none => s)

/-! ### Completion and PRI -/

/-- DESCRIPTOR_COMPLETE (R366 to R370): the oldest finished descriptor of a ring, when it is the one named. -/
def execDescriptorComplete (ctx ring slot : Nat) (s : State) : Outcome State Fault Refusal :=
  .next (match (s.ringAt ctx ring).finished with
    | f :: _ => if f.desc.slot = slot then deliverFinished s ctx ring false else s
    | [] => s)

/-- Whether a PRI request is in progress. -/
def findPri (s : State) (ctx page : Nat) : Option PriReq :=
  s.pris.find? (fun q => decide (q.ctx = ctx ∧ q.page = page))

/-- Ends a PRI request: a success makes a page that was absent present, and what waited translates again: a page that the
host has come to deny fails a second time and holds the record. A failed response or a timeout holds the record, whatever
the page is by then, or denies the page to the context's access (R369, R400, R403). -/
def priEnd (s : State) (ctx page : Nat) (ok : Bool) : State :=
  match findPri s ctx page with
  | none => s
  | some q =>
    let s1 := { s with pris := s.pris.filter (fun x => decide (x ≠ q)) }
    let setPage (t : State) (v : HostPage) : State :=
      { t with hostPages := tabSet t.hostPages (ctx * 2 ^ 52 + page) v }
    let s2 := if ok ∧ tabGet .present s.hostPages (ctx * 2 ^ 52 + page) = .absent then setPage s1 .present else s1
    match q.ring with
    | none => if ok then s2 else setPage s1 .denied
    | some r =>
      if (s2.ringAt ctx r).held ≠ [] then
        (if ok then deliverHeld 65 true s2 ctx r
         else
           let mark (x : HeldRec) : HeldRec := { x with fault := true }
           raiseErr (s2.updRing ctx r (fun q => { q with held := q.held.map mark })) ctx)
      else if ok then deliverFinished s2 ctx r true
      else holdFinished s2 ctx r

/-- PRI_RESPONSE (R369). -/
def execPriResponse (ctx page : Nat) (ok : Bool) (s : State) : Outcome State Fault Refusal := .next (priEnd s ctx page ok)

/-- PRI_TIMEOUT (R369). -/
def execPriTimeout (ctx page : Nat) (s : State) : Outcome State Fault Refusal := .next (priEnd s ctx page false)

/-! ### Ring control -/

/-- A place in the device pool for a held area: far memory, else the dies in order (R402; DESIGN CHOICE of the order, log
entry 13). -/
def heldPlace (s : State) : Option Place :=
  [Place.far, .near 0, .near 1, .near 2, .near 3].find? (poolRoom s 2048)

/-- Whether a size field lies within 6 … 16. -/
def logOk (n : Nat) : Bool := decide (6 ≤ n ∧ n ≤ 16)

/-- START of a ring (R374, R402). -/
def ringStart (s : State) (c r : Nat) : State :=
  let q := s.ringAt c r
  if q.configured ∨ (s.ctxAt c).st = 3 then s
  else if logOk (ringLog q) ∧ logOk (cqLog q) ∧ (q.held ≠ [] ∨ (heldPlace s).isSome) then
    let keep := q.keepsTail ∧ (q.tail + 2 ^ 32 - q.head) % 2 ^ 32 ≤ 2 ^ ringLog q
    checkFull (deliverHeld 65 true (s.updRing c r (fun q => { q with
      configured := true, stopCause := 0, cqTail := 0, keepsTail := false, full := false
      kept := q.fetched.length
      area := if q.held = [] then heldPlace s else q.area
      tail := if keep then q.tail else q.head })) c r) c r
  else raiseErr (s.updRing c r (fun q => { q with stopCause := 2 })) c

/-- STOP of a ring (R374). -/
def ringStop (s : State) (c r : Nat) : State :=
  if (s.ringAt c r).configured then stopCheck (s.updRing c r (fun q => { q with stopping := true })) c r else s

/-- RETRY_COMPLETIONS of a ring (R371). -/
def ringRetry (s : State) (c r : Nat) : State :=
  if (s.ringAt c r).held = [] then s else deliverHeld 65 true s c r

/-- A write of RING_STATUS.HEAD: in STOPPED it sets head and discards the kept descriptors (R374, R377). -/
def ringHead (s : State) (c r h : Nat) : State :=
  if (s.ringAt c r).configured then s else s.updRing c r (fun q => { q with head := h, fetched := [], kept := 0 })

/-- START (R374). -/
def execStart (ctx ring : Nat) (s : State) : Outcome State Fault Refusal :=
  .next (if hostUp s ∧ ctx < 4096 ∧ ring < 4 then ringStart (wakeChip s) ctx ring else s)

/-- STOP (R374). -/
def execStop (ctx ring : Nat) (s : State) : Outcome State Fault Refusal :=
  .next (if hostUp s ∧ ctx < 4096 ∧ ring < 4 then ringStop (wakeChip s) ctx ring else s)

/-- RETRY_COMPLETIONS (R371). -/
def execRetryCompletions (ctx ring : Nat) (s : State) : Outcome State Fault Refusal :=
  .next (if hostUp s ∧ ctx < 4096 ∧ ring < 4 then ringRetry (wakeChip s) ctx ring else s)

/-- RING_HEAD_WRITE (R377). -/
def execRingHeadWrite (ctx ring : Nat) (head : BitVec 32) (s : State) : Outcome State Fault Refusal :=
  .next (if hostUp s ∧ ctx < 4096 ∧ ring < 4 then ringHead (wakeChip s) ctx ring head.toNat else s)

end Sys2Proof.Machine
end

