-- ==== Sys2Proof/Machine/SpinOps.lean ====
section
/-! DEFINITION. The parts of a spin run (chapters 05, 06, 10): plat validation against memory (R118), parcels and strips
(R123 to R126), the decision unit (R132), readiness (R136, R137, R146, R240, R241), the deciding and resolving of
strips (R132, R138 to R144), digests (R248) and the image of a benchmark (R287 to R289). -/

namespace Sys2Proof.Machine

/-! ### Plats in memory -/

/-- A byte of a plat for a context's work. -/
def platByte (s : State) (c va : Nat) (off : Nat) : Byte := (vaRead s c (va + off) 1).getD 0 0

/-- The layer scales and zone scales of a plat (R110, R111). -/
def readScales (s : State) (c : Nat) (p : PlatInfo) : PlatScales :=
  let lb := vaRead s c (p.va + p.lscaleOff) (8 * p.dimZ)
  let n := zoneCount p.dimX * zoneCount p.dimY * p.dimZ
  let zb := vaRead s c (p.va + p.zscaleOff) (2 * n)
  { layers := (List.range p.dimZ).map (fun z =>
      (BitVec.ofNat 32 (fieldOf lb (8 * z) 4), BitVec.ofNat 32 (fieldOf lb (8 * z + 4) 4)))
    zones := (List.range n).map (fun k => (fieldOf zb (2 * k) 1, fieldOf zb (2 * k + 1) 1)) }

/-- The first failing layer scale (R81, check 10 of R118); of one layer's two scales the coupling scale is looked at
first (DESIGN CHOICE, log entry 78: R118 orders the layers only). -/
def scalesStatus (sc : PlatScales) : Option Status :=
  sc.layers.findSome? (fun q =>
    [q.1.toNat, q.2.toNat].findSome? (fun b =>
      if layerRange b then some stScaleRange else if layerField b then some stBadField else none))

/-- The chain directory's entries: FIRST, LENGTH and the reserved bits (R117). -/
def chainEntries (s : State) (c : Nat) (p : PlatInfo) : List (Nat × Nat × Nat) :=
  let bs := vaRead s c (p.va + p.chainDir) (8 * p.chains)
  (List.range p.chains).map (fun k =>
    let w := fieldOf bs (8 * k) 8
    (bitsOf w 47 0, bitsOf w 60 48, bitsOf w 63 61))

/-- The chain site list's entries (R117). -/
def chainSiteList (s : State) (c : Nat) (p : PlatInfo) : List Nat :=
  let bs := vaRead s c (p.va + p.chainList) (8 * p.chainSites)
  (List.range p.chainSites).map (fun k => fieldOf bs (8 * k) 8)

/-- Whether FIRST of every entry is as R117 requires, from `at`. -/
def firstsOk (start : Nat) (l : List (Nat × Nat × Nat)) : Bool :=
  match l with
  | [] => true
  | e :: r => decide (e.1 = start) && firstsOk (start + e.2.1) r

/-- Whether a global index lies in the lattice (R101). -/
def siteInside (p : PlatInfo) (g : Nat) : Bool :=
  decide (g % 2 ^ 20 < p.dimX ∧ g / 2 ^ 20 % 2 ^ 20 < p.dimY ∧ g / 2 ^ 40 < p.dimZ)

/-- Checks 12 to 14 of R118. -/
def chainStatus (s : State) (c : Nat) (p : PlatInfo) : Option Status :=
  if p.chains = 0 then none
  else
    let es := chainEntries s c p
    let ss := chainSiteList s c p
    if es.any (fun e => decide (e.2.1 = 0)) then some stLenZero
    else if es.any (fun e => decide (4096 < e.2.1) || decide (e.2.2 ≠ 0)) || !firstsOk 0 es ||
        decide ((es.map (fun e => e.2.1)).foldl (· + ·) 0 ≠ p.chainSites) ||
        ss.any (fun g => decide (2 ^ 48 ≤ g)) || !decide ss.Nodup then some stBadField
    else if ss.any (fun g => !siteInside p g) then some stLatticeRange
    else none

/-- What the validation of a plat gives: the plat, a refusal, or an access that stops it. -/
inductive PlatResult where
  | ok (p : PlatInfo) (sc : PlatScales)
  | refuse (st : Status)
  | stop (x : Stop)
  deriving DecidableEq, Repr

/-- What the validation reads of a plat beside its header: the scales (R119). -/
def scaleReads (p : PlatInfo) : List (Nat × Nat) :=
  [(p.va + p.lscaleOff, 8 * p.dimZ),
   (p.va + p.zscaleOff, 2 * (zoneCount p.dimX * zoneCount p.dimY * p.dimZ))]

/-- The chain table, where there is one (R117, R119). -/
def chainReads (p : PlatInfo) : List (Nat × Nat) :=
  if p.chains = 0 then [] else [(p.va + p.chainDir, 8 * p.chains), (p.va + p.chainList, 8 * p.chainSites)]

/-- The spin planes, which the device does not read under SPIN_INIT (R116, R119). -/
def spinReads (p : PlatInfo) : List (Nat × Nat) :=
  if p.spinInit then [] else [(p.va + p.spinOff, p.replicas * spinPlaneBytes p)]

/-- What the configuration of a run reads of its plat (R118, R119). -/
def platReads (p : PlatInfo) : List (Nat × Nat) := (p.va, 256) :: (scaleReads p ++ chainReads p ++ spinReads p)

/-- The first stop of reads of several ranges. -/
def readsStop (s : State) (c : Nat) (l : List (Nat × Nat)) : Option Stop :=
  l.findSome? (fun a => rangeStop s c a.1 a.2 false)

/-- Validates a plat at a virtual address: checks 1 to 14 of R118, each part read as the check that needs it comes
(R107, R119); check 15 is the placement's (`choosePlacement`). -/
def validatePlat (s : State) (c va : Nat) : PlatResult :=
  if va % 64 ≠ 0 ∨ 2 ^ 48 < va + 256 ∨ rangeHost s c va 256 then .refuse stBadField
  else
    match rangeStop s c va 256 false with
    | some x => .stop x
    | none =>
      let h := vaRead s c va 256
      match platHeaderStatus h with
      | some st => .refuse st
      | none =>
        let p := platParse va h
        if 2 ^ 48 < va + p.bytes ∨ rangeHost s c va p.bytes then .refuse stBadField
        else
          match readsStop s c (scaleReads p) with
          | some x => .stop x
          | none =>
            let sc := readScales s c p
            match scalesStatus sc with
            | some st => .refuse st
            | none =>
              if laccFinite (laccOfImage p.datum) = false then .refuse stBadField
              else
                match readsStop s c (chainReads p) with
                | some x => .stop x
                | none =>
                  match chainStatus s c p with
                  | some st => .refuse st
                  | none =>
                    match readsStop s c (spinReads p) with
                    | some x => .stop x
                    | none => .ok p sc

/-! ### Parcels and strips -/

/-- Whether a site lies in a parcel. -/
def inParcel (q : Parcel) (s : Site) : Bool := decide (q.x0 ≤ s.x ∧ s.x < q.x1 ∧ q.y0 ≤ s.y ∧ s.y < q.y1)

/-- Whether a bound is a multiple of 64 or a face (R123). -/
def cutPoint (v lo hi : Nat) : Bool := decide (v % 64 = 0 ∨ v = lo ∨ v = hi)

/-- Whether a cut holds: distinct cores of the RUN, cut points of R123, every site of the chip in one parcel. -/
def cutOk (p : PlatInfo) (cores : List Nat) (cut : List Parcel) : Bool :=
  decide (cut ≠ []) && decide (cut.map Parcel.core).Nodup &&
  cut.all (fun q => decide (q.core ∈ cores) && decide (q.x0 < q.x1 ∧ q.y0 < q.y1) &&
    decide (p.slabX0 ≤ q.x0 ∧ q.x1 ≤ p.slabX1 ∧ p.slabY0 ≤ q.y0 ∧ q.y1 ≤ p.slabY1) &&
    cutPoint q.x0 p.slabX0 p.slabX1 && cutPoint q.x1 p.slabX0 p.slabX1 &&
    cutPoint q.y0 p.slabY0 p.slabY1 && cutPoint q.y1 p.slabY0 p.slabY1) &&
  decide ((cut.map (fun q => (q.x1 - q.x0) * (q.y1 - q.y0))).foldl (· + ·) 0 =
    (p.slabX1 - p.slabX0) * (p.slabY1 - p.slabY0)) &&
  cut.all (fun q => cut.all (fun t => decide (q = t ∨ q.x1 ≤ t.x0 ∨ t.x1 ≤ q.x0 ∨ q.y1 ≤ t.y0 ∨ t.y1 ≤ q.y0)))

/-- The whole slab as one parcel on the RUN's lowest core. -/
def wholeCut (p : PlatInfo) (cores : List Nat) : List Parcel :=
  [⟨cores.headD 0, p.slabX0, p.slabX1, p.slabY0, p.slabY1⟩]

/-- Zone counts of the slab in x and y (R105). -/
def zonesXY (p : PlatInfo) : Nat × Nat := ((p.slabX1 - p.slabX0 + 63) / 64, (p.slabY1 - p.slabY0 + 63) / 64)

/-- Candidate grids of parcels for `n` cores with the zones of the largest parcel. -/
def gridChoices (n : Nat) (z : Nat × Nat) : List (Nat × Nat × Nat) :=
  (List.range (min n z.1)).flatMap (fun i => (List.range (min (n / (i + 1)) z.2)).map (fun j =>
    (i + 1, j + 1, ((z.1 + i) / (i + 1)) * ((z.2 + j) / (j + 1)))))

/-- Bound `i` of `g` parts of `z` zones between two faces. -/
def gridBound (i g z lo hi : Nat) : Nat := min (lo + 64 * (i * z / g)) hi

/-- The cut of a slab by a grid over cores in ascending order (R123, R124; log entry 24). -/
def gridCut (p : PlatInfo) (cores : List Nat) (g : Nat × Nat) : List Parcel :=
  let z := zonesXY p
  (List.range (g.1 * g.2)).map (fun k =>
    let i := k % g.1
    let j := k / g.1
    { core := cores.getD k 0
      x0 := gridBound i g.1 z.1 p.slabX0 p.slabX1, x1 := gridBound (i + 1) g.1 z.1 p.slabX0 p.slabX1
      y0 := gridBound j g.2 z.2 p.slabY0 p.slabY1, y1 := gridBound (j + 1) g.2 z.2 p.slabY0 p.slabY1 })

/-- The cuts of a slab by every grid that the cores allow, in the order in which they are tried (log entry 24). -/
def gridCuts (p : PlatInfo) (cores : List Nat) : List (List Parcel) :=
  (gridChoices cores.length (zonesXY p)).map (fun c => gridCut p cores (c.1, c.2.1))

/-! ### Placement -/

/-- Sites of a parcel. -/
def parcelSites (p : PlatInfo) (q : Parcel) : Nat := (q.x1 - q.x0) * (q.y1 - q.y0) * p.dimZ

/-- Spin bits that a run keeps for a site, over all replicas: the spins, the decision plane of SYNC, two shadow planes
where a schedule captures (R148, R184). -/
def planeBits (p : PlatInfo) (shadow : Bool) : Nat :=
  p.replicas * (1 + bitNat (decide (p.order ≠ 0)) + 2 * bitNat shadow)

/-- Footprint of a site in the core store, in eighths of a byte (R148, R184). -/
def footprint8 (p : PlatInfo) (shadow : Bool) : Nat :=
  16 * platWidth p + 8 + 4 * max 1 (platWidth p / 2) + planeBits p shadow

/-- Whether a parcel may be resident beside a data area (R148, R305). -/
def resident (p : PlatInfo) (shadow : Bool) (data : Nat) (q : Parcel) : Bool :=
  decide (footprint8 p shadow * parcelSites p q + 8 * data ≤ 8 * 8323072)

/-- Bytes that a streamed parcel keeps in the device pool, after parcels of `before` sites: its spin planes, in whole bytes
over the plat, so that every cut of it needs the same; codes and bias are read in place (R124, R149, R184, R402; DESIGN
CHOICE, log entry 13). -/
def streamBytes (p : PlatInfo) (shadow : Bool) (before : Nat) (q : Parcel) : Nat :=
  (planeBits p shadow * (before + parcelSites p q) + 7) / 8 - (planeBits p shadow * before + 7) / 8

/-- Bytes of the pool's part of a place that nothing holds (R402). -/
def poolFree (s : State) (pl : Place) : Nat := poolOf s pl - (s.ctxs.map (heldBytes s pl)).foldl (· + ·) 0

/-- Bytes that a list of placed parts holds in a place. -/
def heldIn (l : List (Nat × Place × Nat)) (pl : Place) : Nat :=
  ((l.filter (fun e => decide (e.2.1 = pl))).map (fun e => e.2.2)).foldl (· + ·) 0

/-- Whether placements of a context may hold `n` more bytes of the device pool (R386). -/
def inQuota (s : State) (ctx n : Nat) : Bool :=
  let quota := (s.ctxAt ctx).quotaPool.toNat
  decide (quota = 0 ∨ placedBytes s ctx (fun _ => true) + n ≤ quota)

/-- Bytes of a list of placed parts. -/
def partBytes (l : List (Nat × Place × Nat)) : Nat := (l.map (fun e => e.2.2)).foldl (· + ·) 0

/-- Places `n` bytes of a core in the places given, each as far as it has room, beside what `acc` holds (R28); none where
they have not room enough together. -/
def placeBytes (s : State) (core n : Nat) (acc : List (Nat × Place × Nat)) (pls : List Place) :
    Option (List (Nat × Place × Nat)) :=
  match pls with
  | [] => if n = 0 then some acc else none
  | pl :: r =>
    let m := min n (poolFree s pl - heldIn acc pl)
    placeBytes s core (n - m) (if m = 0 then acc else acc ++ [(core, pl, m)]) r

/-- Allots pool memory for the parcels of a cut in turn, within QUOTA_POOL (R28, R386, R402); none where one finds no
room. -/
def placeParcels (s : State) (ctx : Nat) (p : PlatInfo) (shadow : Bool) (l : List Parcel) :
    Option (List (Nat × Place × Nat)) :=
  let one (acc : List (Nat × Place × Nat) × Nat) (q : Parcel) : Option (List (Nat × Place × Nat) × Nat) :=
    (placeBytes s q.core (streamBytes p shadow acc.2 q) acc.1 (placesFor s q.core)).map (fun ps => (ps, acc.2 + parcelSites p q))
  ((l.foldlM one ([], 0)).map Prod.fst).filter (fun ps => inQuota s ctx (partBytes ps))

/-- Both shadow planes without a bit (R184). -/
def blankShadows : List (List Nat) := List.replicate 2 (List.replicate 64 0)

/-- A cut with the parts of the device pool that it holds, and whether the plat is streamed. -/
structure Placement where
  cut      : List Parcel
  streamed : Bool
  places   : List (Nat × Place × Nat)
  deriving DecidableEq, Repr

/-- The first zone column of a slab, by y then x, that no parcel of a list covers. -/
def openZone (p : PlatInfo) (l : List Parcel) : Option (Nat × Nat) :=
  let z := zonesXY p
  ((List.range (z.1 * z.2)).map (fun k => (k % z.1, k / z.1))).find? (fun c =>
    !l.any (fun q => inParcel q ⟨p.slabX0 + 64 * c.1, p.slabY0 + 64 * c.2, 0⟩))

/-- The parcels of a core whose first zone column is the one given. -/
def zoneParcels (p : PlatInfo) (core : Nat) (c : Nat × Nat) : List Parcel :=
  let z := zonesXY p
  (List.range (z.1 - c.1)).flatMap (fun w => (List.range (z.2 - c.2)).map (fun h =>
    { core := core
      x0 := p.slabX0 + 64 * c.1, x1 := min (p.slabX0 + 64 * (c.1 + w + 1)) p.slabX1
      y0 := p.slabY0 + 64 * c.2, y1 := min (p.slabY0 + 64 * (c.2 + h + 1)) p.slabY1 }))

/-- Some cut of a slab over cores whose parcels all satisfy `fits`, beside those already cut; none where R123 allows
none (R29, R123). -/
def someCut (p : PlatInfo) (fits : Parcel → Bool) (cores : List Nat) (l : List Parcel) : Option (List Parcel) :=
  match openZone p l, cores with
  | none, _ => some l
  | some _, [] => none
  | some c, k :: r =>
    ((zoneParcels p k c).filter (fun q => fits q &&
      l.all (fun t => decide (q.x1 ≤ t.x0 ∨ t.x1 ≤ q.x0 ∨ q.y1 ≤ t.y0 ∨ t.y1 ≤ q.y0)))).findSome?
        (fun q => someCut p fits r (l ++ [q]))

/-- A cut whose parcels may all be resident with the given footprint, where there is one: the given one, one parcel, a
grid, else any (R29, R124, R148). -/
def fittingCut (p : PlatInfo) (cores : List Nat) (shadow : Bool) (data : Nat) (own : List Parcel) : Option (List Parcel) :=
  match (own :: wholeCut p cores :: gridCuts p cores).find? (fun l => l.all (resident p shadow data)) with
  | some l => some l
  | none => someCut p (resident p shadow data) cores []

/-- A resident cut where there is one, and among them one that has room for shadow planes where there is one: whether a
later schedule finds room for its shadows does not depend on the cut then (R124, R148, R184). -/
def residentCut (p : PlatInfo) (cores : List Nat) (shadow : Bool) (data : Nat) (own : List Parcel) : Option (List Parcel) :=
  (fittingCut p cores true data own).or (if shadow then none else fittingCut p cores false data own)

/-- The placement of a cut that stands, the other chip's of a LOCKSTEP pair (R247): resident where each parcel may be, else
streamed. -/
def placeCut (s : State) (ctx : Nat) (p : PlatInfo) (shadow : Bool) (data : Nat) (cut : List Parcel) : Option Placement :=
  if cut.all (resident p shadow data) then some ⟨cut, false, []⟩
  else (placeParcels s ctx p shadow cut).map (fun ps => ⟨cut, true, ps⟩)

/-- The placement of a run (R27 to R29, R124, R148, R149, R386, R402): a resident cut where there is one, else streamed
with parcels cut along x only. None where the pool or QUOTA_POOL has no room, which no cut decides: all need the same. -/
def choosePlacement (s : State) (ctx : Nat) (p : PlatInfo) (cores : List Nat) (shadow : Bool) (data : Nat)
    (given : List Parcel) : Option Placement :=
  let own := if cutOk p cores given then given else wholeCut p cores
  match residentCut p cores shadow data own with
  | some l => some ⟨l, false, []⟩
  | none =>
    let l := if own.all (fun q => decide (q.y0 = p.slabY0 ∧ q.y1 = p.slabY1)) then own else wholeCut p cores
    (placeParcels s ctx p shadow l).map (fun ps => ⟨l, true, ps⟩)

/-- Gives a configured run the shadow planes where a schedule is its first that captures: its cut and its placement stand
(R151). Resident parcels that have room for them keep them in their core stores; otherwise, where no resident cut has that
room, the device pool holds them, two bits for each site and replica, or none can be given (R29, R148, R184, R386; DESIGN
CHOICE, log entry 13). -/
def addShadow (s : State) (r : Run) (q : SpinRun) : Option SpinRun :=
  let q1 := { q with shadow := true, shadows := blankShadows }
  if q.streamed = false ∧ q.cut.all (resident q.plat true r.hdr.dataBytes) then some q1
  else
    let core := r.cores.headD 0
    let n := (2 * q.plat.replicas * (q.cut.map (parcelSites q.plat)).foldl (· + ·) 0 + 7) / 8
    ((placeBytes s core n [] (placesFor s core)).filter (fun ps => inQuota s r.key.ctx (partBytes ps))).map
      (fun ps => { q1 with places := q.places ++ ps })

/-- The sites of a parcel of one colour, in rank order (R126). -/
def parcelColour (p : PlatInfo) (q : Parcel) (colour : Nat) : List Site :=
  (List.range p.dimZ).flatMap (fun z =>
    (List.range (q.y1 - q.y0)).flatMap (fun y =>
      (List.range (q.x1 - q.x0)).filterMap (fun x =>
        if siteColour (q.x0 + x) (q.y0 + y) z = colour then some ⟨q.x0 + x, q.y0 + y, z⟩ else none)))

/-- The strips of a parcel for a phase: under SYNC those of every colour in turn (R126, R138). -/
def parcelStrips (p : PlatInfo) (q : Parcel) (phase : Nat) : List (List Site) :=
  let strips (c : Nat) : List (List Site) :=
    let l := parcelColour p q c
    chunks 32 ((l.length + 31) / 32) l
  if p.order = 0 then strips phase else (List.range 18).flatMap strips

/-- The parcel that holds a site. -/
def parcelOf (cut : List Parcel) (s : Site) : Option Parcel := cut.find? (fun q => inParcel q s)

/-- Whether a site lies within 2 in x and y of a parcel (R125). -/
def nearParcel (q : Parcel) (s : Site) : Bool :=
  decide (q.x0 ≤ s.x + 2 ∧ s.x < q.x1 + 2 ∧ q.y0 ≤ s.y + 2 ∧ s.y < q.y1 + 2)

/-- The sites of one parcel that another holds in its easement (R125). -/
def bandSites (p : PlatInfo) (src dst : Parcel) : List Site :=
  (slabSites p).filter (fun s => inParcel src s && nearParcel dst s)

/-! ### The decision unit -/

/-- The table index of an argument: clamp(RNI(256 · y) + 4096, 0, 8191) (R132, R173). A NaN arises from β = 0 and a field
whose FP32 rounding is infinite; the spec gives it no index: a free value (log entry 70). -/
def tableIndex (y : Nat) : Nat :=
  match fpVal fmt32 y with
  | .fin d => (clampInt (dyRni (dyMul ⟨256, 0⟩ d) + 4096) 0 8191).toNat
  | .inf n => if n then 0 else 8191
  | .nan => (Config.nanIndex y).toNat

/-- An entry of an acceptance or exchange table (R133, R174). -/
def tableEntry (t : Memory) (x : Nat) : Nat := memLoad t (4 * x) 4

/-- RN(2 · β · fr) (R132). -/
def thermalArg (beta : Nat) (field : Num) : Nat :=
  let fr := numRound fmt32 field
  numRound fmt32 (numMul (numMul (.fin ⟨2, 0⟩) (fpVal fmt32 beta)) (fpVal fmt32 fr))

/-- The new bit of a site (R132): rule 0 GIBBS, 1 METROPOLIS. -/
def decideBit (rule beta : Nat) (t : Memory) (field : Num) (b : Bool) (u : Nat) : Bool :=
  let y0 := thermalArg beta field
  let y := if rule = 1 ∧ b then fpNegate y0 else y0
  let e := tableEntry t (tableIndex y)
  let hit := decide (e = 0xFFFF_FFFF ∨ u < e)
  if rule = 0 then hit else b != hit

/-! ### Bits as a strip reads them -/

/-- A bit of a list of masks by replica. -/
def maskBit (l : List Nat) (replica i : Nat) : Bool := (l.getD replica 0).testBit i

/-- Sets or clears a bit of a mask. -/
def setMaskBit (m i : Nat) (b : Bool) : Nat := if m.testBit i = b then m else if b then m + 2 ^ i else m - 2 ^ i

/-- Sets a bit in a list of masks by replica. -/
def setMask (l : List Nat) (replica i : Nat) (b : Bool) : List Nat := listUpd l replica (fun m => setMaskBit m i b)

/-- The bit of a remote site as the latest arrived message before step `t` gives it (R238, R240, R241). -/
def remoteBit (r : SpinRun) (replica t i : Nat) : Bool :=
  let es := r.remote.filter (fun e =>
    decide (e.2.2.1 = replica ∧ e.2.2.2.1.testBit i ∧ (e.2.1 < t ∨ e.2.1 = startStep)))
  let age (e : Nat × Nat × Nat × Nat × Nat) : Nat := if e.2.1 = startStep then 0 else e.2.1 + 1
  match es with
  | [] => false
  | e :: l => ((l.foldl (fun a b => if age a < age b then b else a) e).2.2.2.2).testBit i

/-- The direction with which messages for a site outside the slab come (R238). -/
def siteDir (p : PlatInfo) (j : Site) : Nat :=
  let low := decide (j.y < p.slabY0)
  let high := decide (p.slabY1 ≤ j.y)
  if j.x < p.slabX0 then (if low then 7 else if high then 5 else 1)
  else if p.slabX1 ≤ j.x then (if low then 6 else if high then 4 else 0)
  else if low then 3 else 2

/-- The site with a number. -/
def siteOfLin (p : PlatInfo) (k : Nat) : Site := ⟨k % p.gDimX, k / p.gDimX % p.gDimY, k / (p.gDimX * p.gDimY)⟩

/-- Which generation of a core's easement a step reads: one under CHROMATIC, by traverse parity under SYNC, so that
bits that arrive early never overwrite bits still to be read (R238). -/
def easeKey (p : PlatInfo) (core replica step : Nat) : Nat :=
  (if p.order = 0 then core else (step % 2 + 1) * 1024 + core) * 64 + replica

/-- The spin of a site as a strip of step `t` on a core reads it: in its parcel, in its easement, or received from
another chip (R125, R136, R138, R240). -/
def readSpin (r : SpinRun) (masks : List Nat) (core replica t : Nat) (j : Site) : Bool :=
  let i := siteLin r.plat j
  if inSlab r.plat j then
    if (parcelOf r.cut j).map Parcel.core = some core then maskBit masks replica i
    else (tabGet 0 r.easement (easeKey r.plat core replica t)).testBit i
  else remoteBit r replica t i

/-- Whether messages of remote step `u` for a site have arrived. -/
def remoteHas (r : SpinRun) (replica u i : Nat) : Bool :=
  r.remote.any (fun e => decide (e.2.1 = u ∧ e.2.2.1 = replica) && e.2.2.2.1.testBit i)

/-- One past the latest step below `t` whose message has come from a direction; a start exchange counts as the step
before the command's first (R240, R241). -/
def newestFrom (r : SpinRun) (first dir replica t : Nat) : Option Nat :=
  let es := r.remote.filter (fun e => decide (e.1 = dir ∧ e.2.2.1 = replica ∧ (e.2.1 < t ∨ e.2.1 = startStep)))
  match es with
  | [] => none
  | _ => some ((es.map (fun e => if e.2.1 = startStep then first else e.2.1 + 1)).foldl max 0)

/-- Whether an easement flag is set (R146). -/
def flagged (c : SpinCmd) (dst src step replica kind : Nat) : Bool := decide ((dst, src, step, replica, kind) ∈ c.flags)

/-- How often a site has been decided since the present traverse began (R136, R137). -/
def timesDecided (c : SpinCmd) (replica k : Nat) : Nat := bitNat (maskBit c.decided replica k) + bitNat (maskBit c.ahead replica k)

/-- Whether the bit of a partner holds the value that R136 or R138 gives it for a strip at `phase`, counted from the
present traverse's first; `relax` is k of a RELAXED group (R137, R146, R240, R241). -/
def partnerReady (r : SpinRun) (c : SpinCmd) (relax : Option Nat) (dst replica phase : Nat) (j : Site) : Bool :=
  let p := r.plat
  let P := platSteps p
  let turn := phase / P
  let cj := if p.order = 0 then siteColour j.x j.y j.z else 0
  let earlier := decide (p.order = 0 ∧ cj < phase % P)
  let k := siteLin p j
  let last := if earlier then c.step + turn * P + cj
    else if turn = 0 ∧ c.step = c.firstStep then startStep
    else c.step + turn * P + cj - P
  if inSlab p j then
    let src := (parcelOf r.cut j).map Parcel.core
    if src = some dst then (if p.order = 0 then decide (timesDecided c replica k = turn + bitNat earlier) else true)
    else flagged c dst (src.getD 0) last replica (if last = startStep then 0 else 1)
  else
    match newestFrom r c.firstStep (siteDir p j) replica (c.step + phase) with
    | none => false
    | some u => decide (c.step + phase ≤ u + relax.getD 0) && (relax.isSome || remoteHas r replica last k)

/-- Whether a strip may issue at `phase`: no site of it is decided and every bit it reads is ready (R137). -/
def stripReady (r : SpinRun) (c : SpinCmd) (relax : Option Nat) (core replica phase : Nat) (sites : List Site) : Bool :=
  sites.all (fun i => decide (timesDecided c replica (siteLin r.plat i) = phase / platSteps r.plat) &&
    (bondsOf r.plat i).all (fun b => partnerReady r c relax core replica phase b.partner))

/-! ### Deciding and resolving -/

/-- The plat's scales as the run holds them. -/
def SpinRun.scales (r : SpinRun) : PlatScales := ⟨r.lscale, r.zscale⟩

/-- The ACCEPT word of a site (R135). -/
def acceptWord (c : SpinCmd) (s : Site) (replica step : Nat) : Nat :=
  ctrWord c.seed.toNat c.stream (siteIndex s.x s.y s.z) step replica 0

/-- What a strip gives: the sites with their old and new bit and their field. -/
structure Decided where
  site  : Site
  old   : Bool
  new   : Bool
  field : Int
  deriving DecidableEq, Repr

/-- Decides the sites of a strip (R132); `rd` reads the plat, `t` is the context's acceptance table. -/
def decideStrip (r : SpinRun) (c : SpinCmd) (rd : Nat → Byte) (t : Memory) (core replica step : Nat)
    (sites : List Site) : List Decided :=
  let masks := if r.plat.order = 0 then r.spins else c.before
  sites.map (fun i =>
    let f := siteField r.plat r.scales rd (fun k => readSpin r masks core replica step (siteOfLin r.plat k)) i
    let b := maskBit masks replica (siteLin r.plat i)
    ⟨i, b, decideBit c.rule ((c.betas.getD replica 0).toNat) t (.fin ⟨f, -200⟩) b (acceptWord c i replica step), f⟩)

/-- ΔE of a flip: −2 · s · f (R144). -/
def flipDelta (old : Bool) (f : Int) : Int := -2 * spinInt old * f

/-- Flips among decided sites. -/
def flipsOf (ds : List Decided) : Nat := (ds.filter (fun d => d.new != d.old)).length

/-- The energy change of a strip's flips (R144). -/
def deltaOf (ds : List Decided) : Int :=
  (ds.map (fun d => if d.new != d.old then flipDelta d.old d.field else 0)).foldl (· + ·) 0

/-- Adds an energy change for a phase and replica (R145). -/
def addDelta (c : SpinCmd) (phase replica : Nat) (d : Int) : SpinCmd :=
  { c with deltas := tabSet c.deltas (phase * 64 + replica) (tabGet 0 c.deltas (phase * 64 + replica) + d) }

/-- Writes a bit of traverse `t` into shadow plane t mod 2, where the run holds them (R184). -/
def shadowBit (r : SpinRun) (t replica k : Nat) (b : Bool) : SpinRun :=
  if r.shadow then { r with shadows := listUpd r.shadows (t % 2) (fun l => setMask l replica k b) } else r

/-- Writes the new bits of a CHROMATIC strip, into the shadow plane of their traverse too; of a strip of the next traverse
the bits after the present one stay at hand (R137, R184). -/
def applyStrip (r0 : SpinRun) (c : SpinCmd) (phase replica : Nat) (ds : List Decided) : SpinRun :=
  let r := ds.foldl (fun q d => shadowBit q ((c.step + phase) / platSteps r0.plat) replica (siteLin r0.plat d.site) d.new) r0
  let lin (d : Decided) := siteLin r.plat d.site
  let mark (l : List Nat) : List Nat := ds.foldl (fun l d => setMask l replica (lin d) true) l
  let c1 := addDelta c phase replica (deltaOf ds)
  let c2 := if phase < platSteps r.plat then { c1 with decided := mark c.decided }
    else { c1 with ahead := mark c.ahead, aheadOld := ds.foldl (fun l d => setMask l replica (lin d) d.old) c.aheadOld }
  { r with spins := ds.foldl (fun l d => setMask l replica (lin d) d.new) r.spins, cmd := some c2 }

/-- Keeps the decisions of a SYNC decide strip (R138). -/
def applyDecide (r : SpinRun) (c : SpinCmd) (replica : Nat) (ds : List Decided) : SpinRun :=
  let lin (d : Decided) := siteLin r.plat d.site
  { r with cmd := some { c with
      decided := ds.foldl (fun l d => setMask l replica (lin d) true) c.decided
      flipping := ds.foldl (fun l d => setMask l replica (lin d) (d.new != d.old)) c.flipping } }

/-- Where the decisions that other chips sent for a step lie: their bits (R238). -/
def decBitsKey (step replica : Nat) : Nat := 2 * step * 64 + replica

/-- The sites whose decisions have arrived for a step (R238). -/
def decHaveKey (step replica : Nat) : Nat := (2 * step + 1) * 64 + replica

/-- Whether a site decided to flip, on this chip or by a received decision (R139, R238). -/
def decidedFlip (r : SpinRun) (c : SpinCmd) (replica : Nat) (j : Site) : Bool :=
  let k := siteLin r.plat j
  if inSlab r.plat j then maskBit c.flipping replica k
  else (tabGet 0 r.decEasement (decBitsKey c.step replica)).testBit k

/-- What resolving one site gives: its new bit, its energy change, the collisions its core counts, and whether it
yields (R139 to R141). -/
structure Resolved where
  site     : Site
  new      : Bool
  delta    : Int
  collides : Nat
  yields   : Bool
  deriving DecidableEq, Repr

/-- Resolves one site of a SYNC traverse (R139 to R141). -/
def resolveSite (r : SpinRun) (c : SpinCmd) (rd : Nat → Byte) (core replica : Nat) (i : Site) : Resolved :=
  let p := r.plat
  let old := maskBit c.before replica (siteLin p i)
  let read (j : Site) : Bool := readSpin r c.before core replica c.step j
  let flips := decidedFlip r c replica i
  let hits := (bondsOf p i).filter (fun b => decidedFlip r c replica b.partner && decide (bondCode p rd b ≠ 0))
  let owned := hits.filter (fun b => decide (b.owner = i))
  let f := siteField p r.scales rd (fun k => read (siteOfLin p k)) i
  if !flips then ⟨i, old, 0, 0, false⟩
  else if c.policy = 0 then
    let pair := (owned.map (fun b => 4 * bondJ p r.scales rd b * spinInt old * spinInt (read b.partner))).foldl (· + ·) 0
    ⟨i, !old, flipDelta old f + pair, owned.length, false⟩
  else
    let low := hits.any (fun b => decide (siteIndex b.partner.x b.partner.y b.partner.z < siteIndex i.x i.y i.z))
    if low then ⟨i, old, 0, owned.length, true⟩ else ⟨i, !old, flipDelta old f, owned.length, false⟩

/-- The named replicas, ascending. -/
def namedReplicas (mask : Nat) : List Nat := (List.range 64).filter (fun i => mask.testBit i)

/-- Whether a core has decided every site of its parcel for every named replica: its decide pass is over (R138). -/
def parcelDecided (r : SpinRun) (c : SpinCmd) (core : Nat) : Bool :=
  let m := maskOf r.plat (fun s => r.cut.any (fun q => decide (q.core = core) && inParcel q s))
  (namedReplicas c.mask).all (fun k => decide (c.decided.getD k 0 &&& m = m))

/-- Whether a resolve strip may issue: its sites and the partners of its sites are decided, and the decisions of
neighbouring parcels and chips have arrived (R138). -/
def resolveReady (r : SpinRun) (c : SpinCmd) (core replica : Nat) (sites : List Site) : Bool :=
  parcelDecided r c core &&
  sites.all (fun i =>
    maskBit c.decided replica (siteLin r.plat i) && !maskBit c.resolved replica (siteLin r.plat i) &&
    (bondsOf r.plat i).all (fun b =>
      let j := b.partner
      if inSlab r.plat j then
        maskBit c.decided replica (siteLin r.plat j) &&
        (let src := (parcelOf r.cut j).map Parcel.core
         decide (src = some core) || flagged c core (src.getD 0) c.step replica 2)
      else (tabGet 0 r.decEasement (decHaveKey c.step replica)).testBit (siteLin r.plat j)))

/-- Writes the new bits of a resolve strip, into the shadow plane of the traverse too (R138, R184). -/
def applyResolve (r0 : SpinRun) (c : SpinCmd) (replica : Nat) (rs : List Resolved) : SpinRun :=
  let r := rs.foldl (fun q d => shadowBit q c.step replica (siteLin r0.plat d.site) d.new) r0
  let lin (d : Resolved) := siteLin r.plat d.site
  let c1 := addDelta c 0 replica ((rs.map Resolved.delta).foldl (· + ·) 0)
  { r with
    spins := rs.foldl (fun l d => setMask l replica (lin d) d.new) r.spins
    cmd := some { c1 with resolved := rs.foldl (fun l d => setMask l replica (lin d) true) c.resolved } }

/-! ### Steps and tallies -/

/-- The mask of the sites that a phase updates on this chip. -/
def phaseMask (p : PlatInfo) (phase : Nat) : Nat :=
  maskOf p (fun s => decide (p.order ≠ 0 ∨ siteColour s.x s.y s.z = phase))

/-- The sites that a step has decided, by replica, the step counted from the present traverse's first. -/
def decidedOf (r : SpinRun) (c : SpinCmd) (phase : Nat) : List Nat := if phase < platSteps r.plat then c.decided else c.ahead

/-- Whether a step of the present traverse or the next has run for every named replica: resolved under SYNC (R144). -/
def phaseDone (r : SpinRun) (c : SpinCmd) (phase : Nat) : Bool :=
  let m := phaseMask r.plat (phase % platSteps r.plat)
  (namedReplicas c.mask).all (fun k =>
    decide ((if r.plat.order = 0 then decidedOf r c phase else c.resolved).getD k 0 &&& m = m))

/-- Whether no strip of a step has issued. -/
def phaseIdle (r : SpinRun) (c : SpinCmd) (phase : Nat) : Bool :=
  let m := phaseMask r.plat (phase % platSteps r.plat)
  (namedReplicas c.mask).all (fun k => decide ((decidedOf r c phase).getD k 0 &&& m = 0)) || decide (m = 0)

/-- The spins after the present traverse as far as it has run: what strips of the next have changed is as it was (R137,
R184). -/
def spinsHere (r : SpinRun) (c : SpinCmd) : List Nat :=
  r.spins.zipIdx.map (fun t => (t.1 - (t.1 &&& c.ahead.getD t.2 0)) + c.aheadOld.getD t.2 0)

/-- The spins after the first `n` steps of the present traverse: sites that a later step decides hold what they held
before it (R157, R248). -/
def spinsAt (r : SpinRun) (c : SpinCmd) (n : Nat) : List Nat :=
  if platSteps r.plat ≤ n then spinsHere r c
  else
    let m := if r.plat.order ≠ 0 then 0 else maskOf r.plat (fun i => decide (siteColour i.x i.y i.z < n))
    (spinsHere r c).zipIdx.map (fun t => (t.1 &&& m) + (c.before.getD t.2 0 - (c.before.getD t.2 0 &&& m)))

/-- The tallies after the exact energy changes of a step are added, by replica, and whether one leaves the LACC range
(R145). -/
def addStep (c : SpinCmd) (change : Nat → Int) : List (List Byte) × Bool :=
  let one (k : Nat) (img : List Byte) : List Byte × Bool :=
    if c.mask.testBit k then
      let t := match laccOfImage img with
        | .fin v => laccOf (v + change k)
        | x => x
      (laccImage t, !laccFinite t)
    else (img, false)
  let l := c.tallies.zipIdx.map (fun q => one q.2 q.1)
  (l.map Prod.fst, l.any Prod.snd)

/-- Steps from the present traverse's first up to the last that has issued a strip. -/
def issuedPhases (r : SpinRun) (c : SpinCmd) : Nat :=
  ((List.range (2 * platSteps r.plat)).map (fun k => if phaseIdle r c k then 0 else k + 1)).foldl max 0

/-! ### Digests and benchmarks -/

/-- H(i, ρ) (R248). -/
def siteHash (g replica : Nat) : Nat :=
  let w := ctrWords 0x4C53_5445_5044_4947 0xFFFF g 0 replica 15
  w.x0.toNat + 2 ^ 32 * w.x1.toNat + 2 ^ 64 * w.x2.toNat + 2 ^ 96 * w.x3.toNat

/-- D_spin over sites and named replicas (R248). -/
def spinDigest (p : PlatInfo) (spins : List Nat) (mask : Nat) (sites : List Site) : Nat :=
  ((namedReplicas mask).flatMap (fun k => sites.map (fun s =>
    if maskBit spins k (siteLin p s) then siteHash (siteIndex s.x s.y s.z) k else 0))).foldl (· + ·) 0 % 2 ^ 128

/-- D_tally (R248). -/
def tallyDigest (tallies : List (List Byte)) (mask : Nat) : Nat :=
  ((namedReplicas mask).map (fun k =>
    let n := leNat (tallies.getD k [])
    (k + 1) * (n % 2 ^ 128 + n / 2 ^ 128 % 2 ^ 128 + n / 2 ^ 256 % 2 ^ 128))).foldl (· + ·) 0 % 2 ^ 128

/-- Packs bits, the first the least significant, and pads to 64 bytes (R75, R288). -/
def packBits (bs : List Bool) : List Byte := natLe ((bs.length + 511) / 512 * 64) (bitsByte bs)

/-- The planes of the spin section (R288). -/
def benchPlanes (p : PlatInfo) (spins : List Nat) (mask : Nat) : List Byte :=
  (namedReplicas mask).flatMap (fun k => packBits ((slabSites p).map (fun s => maskBit spins k (siteLin p s))))

/-- The size of a benchmark without an extra section (R288). -/
def benchBytes (p : PlatInfo) (mask : Nat) : Nat :=
  4352 + (namedReplicas mask).length * (((p.slabX1 - p.slabX0) * (p.slabY1 - p.slabY0) * p.dimZ + 511) / 512 * 64)

/-- What the progress fields of a benchmark hold. -/
structure BenchAt where
  kind      : Nat
  step      : Nat
  tallyStep : Nat
  entry     : Nat
  entryDone : Nat
  pos       : List Nat
  deriving DecidableEq, Repr

/-- The image of a benchmark (R287, R288). -/
def benchImage (arithRev : Nat) (r : SpinRun) (c : SpinCmd) (b : BenchAt) (extra : List Byte) : List Byte :=
  let p := r.plat
  let planes := benchPlanes p r.spins c.mask
  let dspin := spinDigest p r.spins c.mask (slabSites p)
  let head (crc : Nat) : List Byte :=
    natLe 4 0x4843_4E42 ++ natLe 2 1 ++ natLe 1 b.kind ++ natLe 1 p.order ++ natLe 8 c.seed.toNat ++
    natLe 2 c.stream ++ zeros 2 ++ natLe 4 arithRev ++ natLe 8 c.mask ++ natLe 6 b.step ++ natLe 2 b.entry ++
    natLe 4 b.entryDone ++ zeros 4 ++ natLe 4 p.gDimX ++ natLe 4 p.gDimY ++ natLe 2 p.dimZ ++
    natLe 1 p.codeWidth ++ zeros 5 ++ natLe 4 p.slabX0 ++ natLe 4 p.slabX1 ++ natLe 4 p.slabY0 ++
    natLe 4 p.slabY1 ++ natLe 16 dspin ++ (List.range 64).flatMap (fun k => natLe 1 (b.pos.getD k 0)) ++
    natLe 8 planes.length ++ natLe 8 extra.length ++ natLe 6 b.tallyStep ++ zeros 2 ++ natLe 4 crc ++ zeros 68
  let reps := (List.range 64).flatMap (fun k =>
    (if c.mask.testBit k then (c.tallies.getD k (zeros 48)) else zeros 48) ++ zeros 16)
  head (crc32c (head 0)) ++ reps ++ planes ++ extra

end Sys2Proof.Machine
end

