-- ==== Sys2Proof/Machine/SpinCmds.lean ====
section
/-! DEFINITION. Spin commands up to their first step and at their end (chapters 05, 06, 08): when a unit takes up a
command (R131, R155, R313), the checks of SPIN_TRAVERSE and SPIN_SCHEDULE (R152 to R154, R164 to R171), the
configuration of a run (R116, R122, R235 to R237), and what completion writes (R180, R181, R185 to R187). -/

namespace Sys2Proof.Machine

/-! ### Units -/

/-- Whether a unit of a core is free of a reset (R453, R457): bit 0 DMA, 1 SPIN, 2 DENSE, 3 VECTOR. -/
def unitQuiet (c : Core) (u : EngineUnit) : Bool :=
  let i := match u with | .dma => 0 | .spin => 1 | .dense => 2 | .vector => 3
  decide (c.quiesce = 0) || (decide (c.quiesce = 2) && !c.quiesceUnits.toNat.testBit i)

/-- Whether a RUN executes: dispatched, not ending, its context ACTIVE and the holder of its plot (R331, R361, R404). -/
def runActive (s : State) (r : Run) : Bool :=
  chipRuns s && decide (r.phase = .dispatched ∧ r.status = none ∧ r.timedOut = false ∧ (s.ctxAt r.key.ctx).st = 1 ∧
    (s.plotAt (s.ctxAt r.key.ctx).plot).holder = some r.key.ctx)

/-- The opcode of a command. -/
def cmdOp (bs : List Byte) : Nat := fieldOf bs 0 1

/-- The opcode of the command with an ordinal in a queue. -/
def queuedOp (q : UnitQ) (n : Nat) : Nat := ((q.queue.find? (fun c => decide (c.ordinal = n))).map (fun c => cmdOp c.bytes)).getD 0

/-- Whether no table load that the core issued before a command is still to complete (R155, R174). -/
def tableTurn (w : Work) (u : EngineUnit) (n : Nat) : Bool :=
  (w.since.takeWhile (fun e => decide ((e.1, e.2.1) ≠ (u, n)))).all (fun e =>
    !(decide (e.1 = .spin) && e.2.2.isNone &&
      decide (queuedOp w.spinU e.2.1 = 0x22 ∨ queuedOp w.spinU e.2.1 = 0x24)))

/-- The RUN and the head command of a unit that may work: the head's result is not there yet and no table load is before it
(R155, R174, R313). -/
def unitReady (s : State) (core : Nat) (u : EngineUnit) : Option (Run × Cmd) :=
  let c := s.coreAt core
  match s.runOf core, (c.work.unitQ u).queue with
  | some r, q :: _ =>
    if runActive s r ∧ c.power = 0 ∧ unitQuiet c u ∧ (c.work.unitQ u).result = none ∧ tableTurn c.work u q.ordinal then
      some (r, q) else none
  | _, _ => none

/-- Whether an issued command takes its turn with spin commands: every spin-unit command and DENSE_ANNEAL (R131, R155). -/
def spinKind (w : Work) (e : EngineUnit × Nat × Option Status) : Bool :=
  decide (e.1 = .spin) || (decide (e.1 = .dense) && decide (queuedOp w.denseU e.2.1 = 0x32))

/-- Whether no command that takes its turn before this one is still to complete (R131, R155). -/
def turnOf (w : Work) (u : EngineUnit) (n : Nat) : Bool :=
  (w.since.takeWhile (fun e => decide ((e.1, e.2.1) ≠ (u, n)))).all (fun e => !(spinKind w e && e.2.2.isNone))

/-- Gives the head command of a unit its status. -/
def setResult (u : EngineUnit) (st : Status) (s : State) (core : Nat) : State :=
  s.updWork core (fun w => w.setUnitQ u { (w.unitQ u) with running := true, result := some st })

/-- The spin command that a core's unit has taken up and not finished. -/
def spinHead (w : Work) : Option (List Byte) :=
  match w.spinU.queue with
  | c :: _ => if w.spinU.running ∧ w.spinU.result = none ∧ (cmdOp c.bytes = 0x21 ∨ cmdOp c.bytes = 0x23)
      then some c.bytes else none
  | [] => none

/-- Gives the spin command of every core of a RUN that has taken it up its status (R154). -/
def setSpinResults (s : State) (r : Run) (st : Status) : State :=
  (r.cores.filter (fun n => (spinHead (runWork s r n)).isSome)).foldl (setResult .spin st) s

/-! ### Groups -/

/-- KIND of GRP_CTRL (R230). -/
def Group.kind (g : Group) : Nat := bitsOf g.ctrl.toNat 35 34
/-- RELAX. -/
def Group.relax (g : Group) : Nat := bitsOf g.ctrl.toNat 33 30
/-- LEAD. -/
def Group.lead (g : Group) : Nat := bitsOf g.ctrl.toNat 29 20
/-- LS_EVERY. -/
def Group.every (g : Group) : Nat := bitsOf g.ctrl.toNat 15 0

/-- The group entry that binds a context for its spin commands: ACTIVE, RUNNING or FAILED (R236, R244). -/
def groupOf (s : State) (c : Nat) : Option Nat :=
  (List.range 16).find? (fun n => decide (2 ≤ (s.groupAt n).st ∧ (s.groupAt n).context = c))

/-- This chip's cell. -/
def ownCell (s : State) (g : Group) : Nat := rankIn g.cells s.fab.chip

/-- The cells whose tallies come to a cell (R239). -/
def childCells (g : Group) (cell : Nat) : List Nat :=
  let i := cell % g.gx
  let j := cell / g.gx
  (if i + 1 < g.gx then [cell + 1] else []) ++ (if i = 0 ∧ j + 1 < g.gy then [cell + g.gx] else [])

/-- The cell that a cell's tallies go to (R239). -/
def parentCell (g : Group) (cell : Nat) : Nat := if cell % g.gx ≠ 0 then cell - 1 else cell - g.gx

/-- The grid neighbours of this chip: direction and chip (R238). -/
def gridNeighbours (s : State) (g : Group) : List (Nat × Nat) :=
  let cell := ownCell s g
  let i := cell % g.gx
  let j := cell / g.gx
  let at' (d k : Nat) (ok : Bool) : List (Nat × Nat) := if ok then [(d, g.cells.getD k 0)] else []
  at' 0 (cell - 1) (decide (0 < i)) ++ at' 1 (cell + 1) (decide (i + 1 < g.gx)) ++
  at' 2 (cell - g.gx) (decide (0 < j)) ++ at' 3 (cell + g.gx) (decide (j + 1 < g.gy))

/-- The sites of the band that faces a direction (R238). -/
def faceBand (p : PlatInfo) (dir : Nat) : List Site :=
  (slabSites p).filter (fun s =>
    if dir = 0 then decide (s.x < p.slabX0 + 2) else if dir = 1 then decide (p.slabX1 ≤ s.x + 2)
    else if dir = 2 then decide (s.y < p.slabY0 + 2) else decide (p.slabY1 ≤ s.y + 2))

/-- An easement message of a band (R238). -/
def bandMsg (g : Group) (dir replica step : Nat) (decision : Bool) (bits : List Bool) : FabEasement :=
  { groupId := bitsOf g.ctrl.toNat 63 48, dir := dir, replica := replica, decision := decision, step := step,
    count := bits.length, payload := natLe ((bits.length + 7) / 8) (bitsByte bits) }

/-- Sends an easement message to a chip. -/
def sendBand (s : State) (gi chip : Nat) (m : FabEasement) : State := sendGroup s gi [chip] (.easement m)

/-- Sends the image of a guarded register to a chip (R239). -/
def sendTally (s : State) (gi chip step replica : Nat) (image : List Byte) : State :=
  sendGroup s gi [chip] (.tally step replica image)

/-- The lead sends the tallies after a step to the other members (R239; what counts, log entry 27). -/
def sendTallies (s : State) (gi step : Nat) (tallies : List (List Byte)) : State :=
  sendGroup s gi (otherMembers s (s.groupAt gi)) (.broadcast step tallies)

/-- Sends the bits of a step, of a start exchange or of a decide pass to every grid neighbour (R238). -/
def sendBands (s : State) (gi : Nat) (p : PlatInfo) (mask : Nat) (masks : List Nat) (colour : Option Nat) (step : Nat)
    (decision : Bool) : State :=
  let g := s.groupAt gi
  if g.kind ≠ 0 then s
  else
    (gridNeighbours s g).foldl (fun s d =>
      (namedReplicas mask).foldl (fun s k =>
        let sites := (faceBand p d.1).filter (fun i =>
          match colour with | some c => decide (siteColour i.x i.y i.z = c) | none => true)
        sendBand s gi d.2 (bandMsg g d.1 k step decision (sites.map (fun i => maskBit masks k (siteLin p i)))))
        s) s

/-- The bounds of the band that a message with a direction brings, in global coordinates: x0, x1, y0, y1 (R238). -/
def bandBounds (p : PlatInfo) (dir : Nat) : Nat × Nat × Nat × Nat :=
  let x := if dir ∈ [1, 5, 7] then (p.slabX0 - 2, p.slabX0) else if dir ∈ [0, 4, 6] then (p.slabX1, p.slabX1 + 2)
    else (p.slabX0, p.slabX1)
  let y := if dir ∈ [3, 6, 7] then (p.slabY0 - 2, p.slabY0) else if dir ∈ [2, 4, 5] then (p.slabY1, p.slabY1 + 2)
    else (p.slabY0, p.slabY1)
  (x.1, min x.2 p.gDimX, y.1, min y.2 p.gDimY)

/-- The sites that a message is for, in ascending global index (R238). -/
def bandMsgSites (p : PlatInfo) (m : FabEasement) : List Site :=
  let b := bandBounds p m.dir
  let all : List Site := (List.range p.dimZ).flatMap (fun z =>
    (List.range (b.2.2.2 - b.2.2.1)).flatMap (fun j =>
      (List.range (b.2.1 - b.1)).map (fun i => (⟨b.1 + i, b.2.2.1 + j, z⟩ : Site))))
  if p.order = 0 ∧ m.step ≠ startStep then all.filter (fun i => decide (siteColour i.x i.y i.z = m.step % 18)) else all

/-- The bits of a message as pairs of a site and its bit; none where the count is not that of its sites. -/
def bandBits (p : PlatInfo) (m : FabEasement) : List (Site × Bool) :=
  let sites := bandMsgSites p m
  if m.count ≠ sites.length then []
  else sites.zipIdx.map (fun t => (t.1, (m.payload.getD (t.2 / 8) 0).toNat.testBit (t.2 % 8)))

/-- Stores an easement message in a run by its step (R238). -/
def takeBand (q : SpinRun) (m : FabEasement) : SpinRun :=
  let bits := bandBits q.plat m
  let sum (l : List (Site × Bool)) : Nat := (l.map (fun t => 2 ^ siteLin q.plat t.1)).foldl (· + ·) 0
  let mask := sum bits
  let ones := sum (bits.filter (fun t => t.2))
  let old (k : Nat) : Nat := tabGet 0 q.decEasement k
  let kb := decBitsKey m.step m.replica
  let kh := decHaveKey m.step m.replica
  let dec := tabSet (tabSet q.decEasement kb (old kb ||| ones)) kh (old kh ||| mask)
  if m.decision then { q with decEasement := dec }
  else { q with remote := q.remote ++ [(m.dir, m.step, m.replica, mask, ones)] }

/-- Relays the corner rows of a face band that came along x to the y neighbours (R238). -/
def relayBand (s : State) (gi : Nat) (p : PlatInfo) (m : FabEasement) : State :=
  let g := s.groupAt gi
  if 2 ≤ m.dir then s
  else
    let bits := bandBits p m
    let send (t : State) (d : Nat × Nat) : State :=
      if d.1 < 2 then t
      else
        let low := decide (d.1 = 2)
        let part := bits.filter (fun e => if low then decide (e.1.y < p.slabY0 + 2) else decide (p.slabY1 ≤ e.1.y + 2))
        let dir := if low then (if m.dir = 0 then 4 else 5) else if m.dir = 0 then 6 else 7
        sendBand t gi d.2 (bandMsg g dir m.replica m.step m.decision (part.map Prod.snd))
    (gridNeighbours s g).foldl send s

/-- The run's plat as a slab plat of a SLAB group: its place in the global lattice, or none where it does not match
the plan record and the request (R235, R236, R241). -/
def slabPlat (s : State) (c : Nat) (g : Group) (p : PlatInfo) : Option PlatInfo :=
  let a := vaRead s c g.plan 128
  let f := fieldOf a
  if f 64 2 = 0 ∨ f 96 4 ≠ p.dimX ∨ f 100 4 ≠ p.dimY ∨ f 8 2 ≠ p.dimZ ∨ f 10 1 ≠ p.codeWidth ∨ f 11 1 ≠ p.order ∨
     f 12 1 ≠ p.replicas ∨ p.chains ≠ 0 ∨ (s.fab.chip ≠ g.lead ∧ laccOfImage p.datum ≠ .fin 0) ∨
     (g.relax ≠ 0 ∧ p.order = 1) then none
  else some { p with orgX := f 88 4, orgY := f 92 4, gDimX := f 0 4, gDimY := f 4 4, slabX0 := f 72 4,
                     slabX1 := f 76 4, slabY0 := f 80 4, slabY1 := f 84 4 }

/-! ### Fields and checks -/

/-- Whether an array of `n` bytes leaves the data area (R523). -/
def outArea (r : Run) (off n : Nat) : Bool := !inArea r off n

/-- The β array of a SPIN_TRAVERSE. -/
def betaArray (s : State) (core : Nat) (bs : List Byte) : List (BitVec 32) :=
  let b := storeRead s core (fieldOf bs 24 4) 256
  (List.range 64).map (fun k => BitVec.ofNat 32 (fieldOf b (4 * k) 4))

/-- Offset of the tallies of a spin command or a DENSE_ANNEAL (R152, R164, R200). -/
def tallyOffOf (bs : List Byte) : Nat := if cmdOp bs = 0x23 then fieldOf bs 32 4 else fieldOf bs 28 4

/-- The tally images of a spin command. -/
def tallyArray (s : State) (core : Nat) (bs : List Byte) : List (List Byte) :=
  let b := storeRead s core (tallyOffOf bs) 3072
  (List.range 64).map (fun k => (b.drop (48 * k)).take 48)

/-- The first pass of SPIN_TRAVERSE (R153). -/
def travFirst (r : Run) (bs : List Byte) (betas : List (BitVec 32)) : Option Status :=
  let f := fieldOf bs
  let other : Bool := match r.spin with | some q => decide (q.plat.va ≠ f 8 8) | none => false
  if 1 < f 1 1 ∨ 1 < f 2 1 ∨ f 3 1 ≠ 0 ∨ f 8 8 = 0 ∨ other then some stBadField
  else if f 16 8 = 0 then some stLenZero
  else if f 24 4 % 256 ≠ 0 then some stBadField
  else if outArea r (f 24 4) 256 then some stPermFault
  else if (namedReplicas (f 16 8)).any (fun k => !fpFinite (betas.getD k 0).toNat) then some stBadField
  else if f 28 4 % 64 ≠ 0 then some stBadField
  else if outArea r (f 28 4) 3072 then some stPermFault
  else if nonzero bs 48 16 then some stBadField
  else none

/-- The second pass of SPIN_TRAVERSE (R153). -/
def travSecond (p : PlatInfo) (bs : List Byte) : Option Status :=
  let f := fieldOf bs
  if 2 ^ p.replicas ≤ f 16 8 ∨ f 32 6 % platSteps p ≠ 0 ∨ 2 ^ 48 < f 32 6 + f 4 4 * platSteps p then some stBadField
  else none

/-- Step 1 of R170 but for the plat and REPLICA_MASK against REPLICAS. -/
def schedFirst (s : State) (r : Run) (bs : List Byte) : Option Status :=
  let f := fieldOf bs
  let other : Bool := match r.spin with | some q => decide (q.plat.va ≠ f 8 8) | none => false
  let b := f 24 8
  if nonzero bs 1 7 ∨ f 8 8 = 0 ∨ other then some stBadField
  else if f 16 8 = 0 then some stLenZero
  else if b = 0 ∨ b % 64 ≠ 0 ∨ 2 ^ 48 < b + 256 ∨ rangeHost s r.key.ctx b 256 ∨ f 32 4 % 64 ≠ 0 then some stBadField
  else if outArea r (f 32 4) 3072 then some stPermFault
  else if f 38 2 ≠ 0 ∨ nonzero bs 48 16 then some stBadField
  else none

/-- Step 2 of R170: the run block (R166, R187, R401). -/
def blockStatus (s : State) (c : Nat) (p : PlatInfo) (mask : Nat) (blk : List Byte) : Option Status :=
  let f := fieldOf blk
  let host (a n : Nat) : Bool := rangeHost s c a n
  let slots := f 52 2 * f 56 8
  if f 0 2 = 0 then some stLenZero
  else if 4096 < f 0 2 ∨ 4 ≤ f 2 1 ∨ f 3 1 ≠ 0 ∨
      f 8 8 = 0 ∨ vaBad (f 8 8) (16 * f 0 2) ∨ host (f 8 8) (16 * f 0 2) ∨
      (f 16 8 ≠ 0 ∧ (vaBad (f 16 8) 256 ∨ host (f 16 8) 256)) ∨
      (f 24 8 ≠ 0 ∧ vaBad (f 24 8) (4096 + 64 * spinPlaneBytes p)) ∨
      f 32 8 = 0 ∨ vaBad (f 32 8) 128 ∨
      (f 40 8 = 0 ∧ f 48 4 ≠ 0) ∨ (f 40 8 ≠ 0 ∧ f 48 4 ≠ 0 ∧ (vaBad (f 40 8) slots ∨ host (f 40 8) slots)) ∨
      (f 40 8 ≠ 0 ∧ vaBad (f 40 8) 0) ∨
      (f 48 4 ≠ 0 ∧ f 52 2 = 0) ∨ f 54 2 ≠ 0 ∨ f 56 8 % 64 ≠ 0 ∨
      (f 48 4 ≠ 0 ∧ (f 56 8 = 0 ∨ f 56 8 < benchBytes p mask)) then some stBadField
  else if bitOf (f 2 1) 1 ∧ f 72 8 = 0 then some stLenZero
  else if f 142 2 ≠ 0 ∨ nonzero blk 208 48 then some stBadField
  else none

/-- A schedule table's entries from its bytes (R167). -/
def parseEntries (n : Nat) (bs : List Byte) : List SchedEntry :=
  (List.range n).map (fun k =>
    { beta := BitVec.ofNat 32 (fieldOf bs (16 * k) 4), traverses := fieldOf bs (16 * k + 4) 4,
      mode := fieldOf bs (16 * k + 8) 2, policy := fieldOf bs (16 * k + 10) 1 })

/-- The inputs of a run block followed by its ladder and its table (R165, R166). -/
def parseBlock (blk : List Byte) : RunBlock :=
  let f := fieldOf blk
  { entries := parseEntries (f 0 2) (blk.drop 512), stopFlags := f 2 1, exch := f 4 4,
    ladder := (List.range 64).map (fun k => if f 16 8 = 0 then 0x3F80_0000 else BitVec.ofNat 32 (f (256 + 4 * k) 4)),
    bestAddr := f 24 8, recAddr := f 32 8, benchAddr := f 40 8, benchEvery := f 48 4, benchSlots := f 52 2,
    benchSlotBytes := f 56 8, budget := f 64 4, targetEvery := f 68 4, wallUs := f 72 8,
    target := (blk.drop 80).take 48 }

/-- POS of a run block. -/
def blockPos (blk : List Byte) : List Nat := (List.range 64).map (fun k => fieldOf blk (144 + k) 1)

/-- Step 3 of R170: the named positions are a permutation of 0 … n − 1 (R169). -/
def posOk (mask : Nat) (pos : List Nat) : Bool :=
  let ps := (namedReplicas mask).map (fun k => pos.getD k 0)
  ps.all (fun a => decide (a < ps.length)) && decide ps.Nodup

/-- Step 4 of R170 for one entry: its fields and each β it would form (R167, R169). -/
def entryOk (b : RunBlock) (n : Nat) (raw : List Byte) (k : Nat) (e : SchedEntry) : Bool :=
  fpFinite e.beta.toNat && decide (e.mode < 16) && decide (e.policy ≤ 1) &&
  decide (fieldOf raw (512 + 16 * k + 11) 5 = 0) &&
  (!bitOf e.mode 1 || (List.range n).all (fun a => fpFinite (fpMul e.beta.toNat (b.ladder.getD a 0).toNat)))

/-- Traverses of a list of entries. -/
def traversesOf (l : List SchedEntry) : Nat := (l.map SchedEntry.traverses).foldl (· + ·) 0

/-- Steps 3 to 6 of R170. -/
def schedRest (p : PlatInfo) (mask : Nat) (blk : List Byte) : Bool :=
  let f := fieldOf blk
  let b := parseBlock blk
  let n := (namedReplicas mask).length
  let e := f 128 2
  let d := f 132 4
  let left := traversesOf (b.entries.drop e) - d
  posOk mask (blockPos blk) &&
  (b.entries.zipIdx.all (fun q => decide (q.2 < e) || entryOk b n blk q.2 q.1)) &&
  decide (e ≤ f 0 2) &&
  (if e = f 0 2 then decide (d = 0)
   else decide (d < (b.entries.getD e ⟨0, 0, 0, 0⟩).traverses ∨ d = 0)) &&
  decide (f 136 6 % platSteps p = 0) &&
  decide (f 136 6 + platSteps p * (if b.budget = 0 then left else min left b.budget) ≤ 2 ^ 48)

/-- The entry that holds the next traverse: finished and skipped entries are passed over (R166, R168). -/
def skipEntries (l : List SchedEntry) (e d : Nat) : Nat × Nat :=
  match l with
  | [] => (e, 0)
  | x :: r => if x.traverses ≤ d then skipEntries r (e + 1) 0 else (e, d)

/-- The next traverse's entry. -/
def nextEntry (b : RunBlock) (e d : Nat) : Nat × Nat := skipEntries (b.entries.drop e) e d

/-- β of every replica under an entry (R169). -/
def entryBetas (b : RunBlock) (e : SchedEntry) (pos : List Nat) : List (BitVec 32) :=
  (List.range 64).map (fun k =>
    if bitOf e.mode 1 then BitVec.ofNat 32 (fpMul e.beta.toNat (b.ladder.getD (pos.getD k 0) 0).toNat) else e.beta)

/-! ### What the device reads of a schedule -/

/-- The run block, its ladder and its table as one string, or what stops the reading (R165). -/
def readBlock (s : State) (c va : Nat) : List Byte ⊕ Stop :=
  match rangeStop s c va 256 false with
  | some x => .inr x
  | none => .inl (vaRead s c va 256)

/-- The ladder and the table that a block names. -/
def readTables (s : State) (c : Nat) (blk : List Byte) : List Byte ⊕ Stop :=
  let f := fieldOf blk
  let ls := if f 16 8 = 0 then none else rangeStop s c (f 16 8) 256 false
  match ls.or (rangeStop s c (f 8 8) (16 * f 0 2) false) with
  | some x => .inr x
  | none => .inl ((if f 16 8 = 0 then zeros 256 else vaRead s c (f 16 8) 256) ++ vaRead s c (f 8 8) (16 * f 0 2))

/-! ### Writing results -/

/-- Writes strings of bytes at virtual addresses. -/
def putAll (s : State) (c : Nat) (ws : List (Nat × List Byte)) : State :=
  ws.foldl (fun s w => vaWrite (markAccess s c w.1 w.2.length) c w.1 w.2) s

/-- What stops the first of several writes that cannot be made. -/
def writesStop (s : State) (c : Nat) (ws : List (Nat × List Byte)) : Option Stop :=
  ws.findSome? (fun w => rangeStop s c w.1 w.2.length true)

/-- The ranges of several writes. -/
def writeRanges (ws : List (Nat × List Byte)) : List (Nat × Nat) := ws.map (fun w => (w.1, w.2.length))

/-- What the near-memory bytes of ranges cost, in parts of `creditUnit` (R464). -/
def nearCost (s : State) (c : Nat) (l : List (Nat × Nat)) : Nat :=
  nearCharge ((l.map (fun a => nearBytes s c a.1 a.2)).foldl (· + ·) 0)

/-- Goes on with transfers of a RUN's spin command, its ranges given, once the RUN's lowest core has paid for their
near-memory bytes; until then they wait (R33, R464, R465; log entry 56). -/
def nearThen (s : State) (r : Run) (l : List (Nat × Nat)) (body : State → State) : State :=
  let p := payUnits s (r.cores.headD 0) .spin (nearCost s r.key.ctx l)
  if p.2 then body p.1 else p.1

/-- An access of a spin command is stopped: the fault is the spin unit's of the RUN's lowest core (R404, R405). -/
def spinStop (s : State) (r : Run) (x : Stop) (write : Bool) : State :=
  let core := r.cores.headD 0
  stopAccess s r.key.ctx x write 1 core r.key.ring r.key.slot (.engine core .spin)

/-- Writes results of a RUN's spin command and goes on: a stopped write waits, and so do writes that are not paid for. -/
def writeThen (s : State) (r : Run) (ws : List (Nat × List Byte)) (body : State → State) : State :=
  match writesStop s r.key.ctx ws with
  | some x => spinStop s r x true
  | none => nearThen s r (writeRanges ws) (fun t => body (putAll t r.key.ctx ws))

/-- Whether a run has had no spin command before this one. -/
def firstCommand (q : SpinRun) : Bool := q.last.isNone

/-- A refused command is over on this chip: no run stays configured by a first command or where the run ends (R122, R154);
a run that has had commands stays at hand for a BENCHMARK (R329). Its group is no longer RUNNING then; the others are told,
and what the lead has sent for a later command stays (R236). -/
def endRefused (s : State) (r : Run) (st : Status) (tell ends : Bool) : State :=
  let gone := ends || (match r.spin with | some q => firstCommand q | none => true)
  let past : Option SpinRun := r.spin.filter (fun q => gone && !firstCommand q)
  let s1 := s.updRun r.key (fun x => { x with
    spin := if gone then none else x.spin, block := none, ended := past.or x.ended })
  match groupOf s r.key.ctx with
  | none => s1
  | some g =>
    let G := s.groupAt g
    let s2 := s1.updGroup g (fun G => G.ended 1 (if gone ∧ G.st = 3 then 2 else G.st))
    if tell then sendAll s2 g (.refusal G.cmds st ends) else s2

/-- A refusal of a spin command: what it writes where its run block has been read, its status on every core, no run
configured where this was the run's first command, and the members of a group told (R122, R154, R186, R187, R236). -/
def refuseSpin (s : State) (r : Run) (st : Status) (tell ends : Bool) : State :=
  writeThen s r (startWrites s r st false) (fun s1 => endRefused (setSpinResults s1.tick r st) r st tell ends)

/-! ### Starting a command -/

/-- The initial bits of a replica under SPIN_INIT (R116). -/
def drawnMask (p : PlatInfo) (seed stream replica : Nat) : Nat := maskOf p (fun i => initBit seed stream i replica)

/-- The bits that a newly configured run holds for each replica of the plat (R116, R119). -/
def firstSpins (s : State) (c : Nat) (p : PlatInfo) (bs : List Byte) : List Nat :=
  (List.range 64).map (fun k =>
    if p.replicas ≤ k then 0
    else if p.spinInit then drawnMask p (fieldOf bs 40 8) (if cmdOp bs = 0x21 then fieldOf bs 38 2 else fieldOf bs 36 2) k
    else readPlane p (platByte s c p.va) (p.spinOff + k * spinPlaneBytes p))

/-- The energy of this chip's part of a drawn replica: a partner on another chip holds its own drawn bit (R116). -/
def drawnEnergy (s : State) (c : Nat) (p : PlatInfo) (sc : PlatScales) (seed stream k : Nat) : Lacc :=
  platEnergy p sc (platByte s c p.va) (fun i => initBit seed stream (siteOfLin p i) k)

/-- STREAM of a spin command (R152, R164). -/
def streamOf (bs : List Byte) : Nat := if cmdOp bs = 0x21 then fieldOf bs 38 2 else fieldOf bs 36 2

/-- The exact energy, but for the datum, of this chip's part of a drawn replica, as a guarded register holds it (R116,
R239). -/
def drawnPart (s : State) (c : Nat) (p : PlatInfo) (sc : PlatScales) (seed stream k : Nat) : Int :=
  let spin := fun i => initBit seed stream (siteOfLin p i) k
  let rd := platByte s c p.va
  ((energyRows p).map (fun row => rowCoupling p sc rd spin row + rowBias p sc rd spin row)).foldl (· + ·) 0

/-- The coupling and bias planes, which the energies of an initial draw read (R116). -/
def drawReads (p : PlatInfo) : List (Nat × Nat) :=
  [(p.va + p.couplOff, planeBytes p.dimX p.dimY p.dimZ (16 * platWidth p)),
   (p.va + p.biasOff, planeBytes p.dimX p.dimY p.dimZ 8)]

/-- A spin run as configured, before its first command starts (R122); `shadow` is whether its schedule captures. -/
def configuredRun (s : State) (r : Run) (p : PlatInfo) (sc : PlatScales) (bs : List Byte) (shadow : Bool)
    (l : Placement) : SpinRun :=
  { plat := p, lscale := sc.layers, zscale := sc.zones, cut := l.cut,
    spins := firstSpins s r.key.ctx p bs, easement := [], decEasement := [], cmd := none, last := none,
    group := groupOf s r.key.ctx, remote := [], shadow := shadow, shadows := blankShadows, streamed := l.streamed,
    places := l.places }

/-- Whether any entry of a command's schedule captures (R184). -/
def capturing (c : SpinCmd) : Bool :=
  match c.block with
  | some b => b.entries.any (fun e => bitOf e.mode 3)
  | none => false

/-- The bytes that a streamed run moves in a traverse are charged to its context: codes and bias, spin reads and writes,
shadows (R149, R184, R385). -/
def chargeStream (s : State) (k : RunKey) (q : SpinRun) (c : SpinCmd) : State :=
  if q.streamed = false then s
  else
    let n := (q.cut.map (parcelSites q.plat)).foldl (· + ·) 0
    chargeMem s k.ctx (n * (4 * platWidth q.plat + 1) + n * (namedReplicas c.mask).length * (1 + bitNat (capturing c)) / 4)

/-- A SPIN_SCHEDULE that runs more traverses than the declarations of its timed plot allow breaks the timing (R286,
R295). -/
def checkTraverses (s : State) (k : RunKey) (c : SpinCmd) : State :=
  let n := (s.ctxAt k.ctx).plot
  let most := (((declarations s k.ctx).flatten.filter (fun e => decide (e.1 = 0x23))).map (fun e => e.2.2.2)).foldl max 0
  if c.schedule ∧ (s.ctxAt k.ctx).plotValid ∧ most < c.traversesRun + 1 then timingBroken s n 3 else s

/-- The bytes of a replica's spin plane of the plat with the run's bits (R185). -/
def planeWrite (s : State) (c : Nat) (p : PlatInfo) (spins : List Nat) (k : Nat) : Nat × List Byte :=
  let a := p.va + p.spinOff + k * spinPlaneBytes p
  (a, planeImage p (spins.getD k 0) (vaRead s c a (spinPlaneBytes p)))

/-- Writes the tally images of a command into the TALLY_OFF array of every core of the RUN (R143). -/
def storeTallies (s : State) (r : Run) (mask off : Nat) (ts : List (List Byte)) : State :=
  r.cores.foldl (fun s n => (namedReplicas mask).foldl (fun s k => storeWrite s n (off + 48 * k) (ts.getD k [])) s) s

/-- A command with the β, rule and policy of the entry that holds its next traverse (R134, R169). -/
def withEntry (c : SpinCmd) : SpinCmd :=
  match c.block with
  | none => c
  | some b =>
    let e := b.entries.getD c.entry ⟨0, 0, 0, 0⟩
    { c with betas := entryBetas b e c.pos, rule := e.mode % 2, policy := e.policy }

/-- The command as strips of the next traverse see it: no swap stands between the two (R137, R177). -/
def nextTurn (c : SpinCmd) : SpinCmd :=
  match c.block with
  | none => c
  | some b =>
    let n := nextEntry b c.entry (c.entryDone + 1)
    withEntry { c with entry := n.1, entryDone := n.2 }

/-- Starts the present traverse of a command, its step already moved: what strips of it have decided ahead stands; of
the easement flags those of the traverse before stay, of other chips' bits what a RELAXED strip may still read (R134,
R137, R146, R169, R241). -/
def beginTraverse (r : SpinRun) (c : SpinCmd) : SpinRun :=
  let none64 : List Nat := List.replicate 64 0
  let P := platSteps r.plat
  { r with
    decEasement := r.decEasement.filter (fun q => decide (2 * c.step ≤ q.1 / 64))
    remote := r.remote.filter (fun q => decide (q.2.1 = startStep ∨ c.step ≤ q.2.1 + P + 9))
    cmd := some { withEntry c with
      decided := c.ahead, flipping := none64, resolved := none64, before := spinsHere r c, ahead := none64,
      aheadOld := none64, tallied := 0, banded := 0
      deltas := (c.deltas.filter (fun e => decide (64 * P ≤ e.1))).map (fun e => (e.1 - 64 * P, e.2))
      flags := c.flags.filter (fun q => decide (q.2.2.1 = startStep ∨ c.step ≤ q.2.2.1 + P)) } }

/-- The command's record in the run: its fields and counts at the start. -/
def newCmd (r : Run) (bs : List Byte) (betas : List (BitVec 32)) (tallies : List (List Byte)) (blk : List Byte) : SpinCmd :=
  let f := fieldOf bs
  let sched := decide (cmdOp bs = 0x23)
  let b := parseBlock blk
  let e := if sched then nextEntry b (fieldOf blk 128 2) (fieldOf blk 132 4) else (0, 0)
  let start := if sched then fieldOf blk 136 6 else f 32 6
  let next := fieldOf blk 130 2
  { schedule := sched, bytes := bs, rule := f 1 1, policy := f 2 1, mask := f 16 8, seed := BitVec.ofNat 64 (f 40 8),
    stream := streamOf bs, firstStep := start, remaining := if sched then 0 else f 4 4, tallyOff := tallyOffOf bs,
    blockVa := if sched then f 24 8 else 0, block := if sched then some b else none, betas := betas,
    pos := if sched then blockPos blk else List.replicate 64 0, entry := e.1, entryDone := e.2,
    benchNext := if next < b.benchSlots then next else 0, joined := r.cores, compared := r.cores, step := start,
    decided := [], flipping := [], resolved := [], before := [], ahead := List.replicate 64 0,
    aheadOld := List.replicate 64 0, deltas := [], tallied := 0, banded := 0, tallies := tallies, flags := [], limit := none, tallyStep := start, sent := [], traversesRun := 0, targetStep := startStep, targetReplica := 0, exchAttempts := 0,
    exchSwaps := 0, exchNan := 0, benchLastStep := 0, benchLastSlot := 0, benchCount := 0, stopReason := 0,
    mail := [], wallAt := none, fin := sched && decide (fieldOf blk 128 2 = fieldOf blk 0 2), started := false, result := none }

/-! ### Completion -/

/-- Bytes 128 to 141 of the progress fields with the positions, as R180 writes them; a step of 2^48, one past the last
that a field of 48 bits holds, is written as 0 (DESIGN CHOICE, log entry 79: the spec does not say). -/
def progressWrites (c : SpinCmd) : List (Nat × List Byte) :=
  [(c.blockVa + 128, natLe 2 c.entry ++ natLe 2 c.benchNext ++ natLe 4 c.entryDone ++ natLe 6 c.step),
   (c.blockVa + 144, (List.range 64).flatMap (fun k => natLe 1 (c.pos.getD k 0)))]

/-- What a spin command writes into memory at its completion with a status: final states, progress and run record
(R171, R180, R181, R185 to R187). -/
def completionWrites (s : State) (r : Run) (q : SpinRun) (c : SpinCmd) (st : Status) : List (Nat × List Byte) :=
  let planes := if c.started ∧ (st = stDone ∨ st = stFieldOverflow) then
    (namedReplicas c.mask).map (planeWrite s r.key.ctx q.plat q.spins) else []
  let prog := if c.schedule = false then []
    else if st = stDone ∧ c.started then progressWrites c
    else [(c.blockVa + 130, natLe 2 c.benchNext)]
  planes ++ prog ++ recordWrite s r.key.ctx q c st

/-- A RUN's core comes to rest after a spin command, its work on the core or in the save area (R159). -/
def restCore (k : RunKey) (s : State) (core : Nat) : State :=
  if (s.workAt core).run = some k then
    s.updCore core (fun c => { c with spinBusy := 0, work := { c.work with spinMode := 0 } })
  else s.updCtx k.ctx (fun x => { x with saves := x.saves.map (fun (p : Nat × Work) =>
    if p.1 = core ∧ p.2.run = some k then (p.1, { p.2 with spinMode := 0 }) else p) })

/-- The cores of a run come to a traverse boundary: no strip is in flight (R159). -/
def clearBusy (s : State) (q : SpinRun) : State :=
  (q.cut.map Parcel.core).foldl (fun t n => t.updCore n (fun c => { c with spinBusy := 0 })) s

/-- Ends the spin command of a RUN with the status it holds: its writes, the tallies, the results on every core; a
stopped write leaves it to be ended later (R180, R181, R315). -/
def closeSpin (s : State) (k : RunKey) : State :=
  match s.findRun k with
  | none => s
  | some r =>
    match r.spin with
    | none => s
    | some q =>
      match q.cmd with
      | none => s
      | some c =>
        match c.result with
        | none => s
        | some st =>
          writeThen s r (completionWrites s r q c st) (fun s1 =>
            let s2 := if (c.started ∧ st = stDone) ∨ st = stFieldOverflow then
              storeTallies s1 r c.mask c.tallyOff c.tallies else s1
            let s3 := setSpinResults s2.tick r st
            let s4 := r.cores.foldl (restCore k) s3
            let s5 := s4.updRun k (fun x => { x with spin := some { q with cmd := none, last := some c } })
            match q.group with
            | some g =>
              let s6 := s5.updGroup g (fun G => { G.ended 1 G.st with
                easements := [], partials := (G.ended 1 G.st).partials.filter (fun e => decide (startStep ≤ e.1)), broadcast := []
                holdStep := G.holdStep, asked := G.asked })
              if (s.groupAt g).lead = s.fab.chip ∧ (s.groupAt g).kind = 0 ∧ c.started ∧ (st ≠ stDone ∨ c.traversesRun = 0) then
                sendTallies s6 g (if st = stFieldOverflow then c.tallyStep else lastStep q c) c.tallies
              else s6
            | none => s5)

/-- Aborts the spin command of a RUN with a status: its cores take it, what it writes is written where it can be, and the
other members of a group lose this one (R181, R186, R187, R246, R406, R453). -/
def abortSpin (s : State) (r : Run) (st : Status) : State :=
  match r.spin, r.spin.bind SpinRun.cmd with
  | some q, some c =>
    let s1 := writeEach (leaveGroup s r st) r.key.ctx (completionWrites s r q { c with result := some st } st)
    (r.cores.foldl (restCore r.key) (setSpinResults s1 r st)).updRun r.key (fun x => { x with
      spin := some { q with cmd := none, last := some { c with result := some st } } })
  | _, _ => endRefused (setSpinResults (writeEach s r.key.ctx (startWrites s r st false)) r st) r st true false

/-- The messages of a start exchange within the chip: every core's bits for each core that holds a site of it (R146). -/
def startMail (q : SpinRun) (mask : Nat) : List ((Nat × Nat × Nat × Nat × Nat) × Nat) :=
  q.cut.flatMap (fun a => q.cut.flatMap (fun b =>
    if a.core = b.core ∨ bandSites q.plat a b = [] then []
    else (namedReplicas mask).map (fun k => ((b.core, a.core, startStep, k, 0), q.spins.getD k 0))))

/-- Begins the command that a configured run holds, a benchmark that waits for a step boundary first: the starting tallies
are finite and a traverse remains, or the command ends. A finished schedule, unlike one whose entries left are all skipped,
writes nothing but its record and ends DONE whatever its starting tallies are (R145, R152, R171, R180; DEDUCED, log entry
42). -/
def launchSpin (s : State) (k : RunKey) (q : SpinRun) (c : SpinCmd) : State :=
  let nonFinite := (namedReplicas c.mask).any (fun n => !laccFinite (laccOfImage (c.tallies.getD n [])))
  let put (q : SpinRun) : State := s.updRun k (fun x => { x with spin := some q })
  let stop (c : SpinCmd) : State := closeSpin (put { q with cmd := some c }) k
  let empty : Bool := match c.block with
    | some b => decide (b.entries.length ≤ c.entry)
    | none => decide (c.remaining = 0)
  if c.fin ∨ (empty ∧ c.schedule = false) then stop { c with result := some stDone, stopReason := bitNat c.schedule }
  else if nonFinite then stop { c with result := some stFieldOverflow }
  else if empty then stop { c with result := some stDone, stopReason := 1, started := true }
  else
    let msgs := match q.group with | some g => (s.groupAt g).easements.reverse | none => []
    let waits := match (s.findRun k).bind Run.benchWait with
      | some (_, _, t) => !t && q.group.isNone
      | none => false
    let q1 := msgs.foldl takeBand
      (beginTraverse { q with easement := [], decEasement := [], remote := [] }
        { c with started := true, limit := if waits then some c.step else none, mail := startMail q c.mask })
    let s1 := checkTraverses (chargeStream (put q1) k q c) k c
    let s2 := (q.cut.map Parcel.core).foldl (fun s n => s.updWork n (fun x => { x with strips := 0, spinMode := 1 })) s1
    match q.group with
    | some g =>
      sendBands (msgs.foldl (fun t m => relayBand t g q.plat m) s2) g q.plat c.mask q.spins none startStep false
    | none => s2

end Sys2Proof.Machine
end

