-- ==== Sys2Proof/Machine/Dense.lean ====
section
/-! DEFINITION. Engine commands: how a unit works one off, the operand transfers (R21, R148, R385, R393), the output
step with its fused stages (R69 to R71, R192, R195 to R198), DENSE_MATMUL (R190 to R194) and DENSE_CONVERT (R199). -/

namespace Sys2Proof.Machine

open Host (Outcome)

/-! ### Working a command off -/

/-- How the work of a command ends: with a status, or at an access that is stopped; the command then starts again
from its beginning once the access can be made, with the same result (R156, R215, R404). -/
inductive EngOut where
  | done (st : Status) (s : State)
  | stop (x : Stop) (write : Bool)
  deriving DecidableEq, Repr

/-- What the transfer of a range does beside moving bytes: its leaves are cached, ACCT_MEM and the near bytes of the command
count it, and a timed plot sees HOST transfers and unlocked pages (R282, R385, R393, R399, R464). -/
def touch (s : State) (c va n : Nat) : State :=
  chargeMem (cachePages ((markAccess s c va n).addCharge (625 * nearBytes s c va n)) c va n) c n

/-- Whether a range reaches past the virtual addresses (R394). -/
def pastEnd (va n : Nat) : Bool := decide (2 ^ 48 < va + n)

/-- Reads an operand and goes on with it (R394, R403, R413). -/
def engRead (s : State) (c va n : Nat) (k : State → List Byte → EngOut) : EngOut :=
  if pastEnd va n then .done stBadField s
  else
    match rangeStop s c va n false with
    | some x => .stop x false
    | none => k (touch s c va n) (vaRead s c va n)

/-- Reads several operands, whose bytes are taken where they are used, and goes on. -/
def engReads (s : State) (c : Nat) (l : List (Nat × Nat)) (k : State → EngOut) : EngOut :=
  match l with
  | [] => k s
  | a :: r => engRead s c a.1 a.2 (fun s1 _ => engReads s1 c r k)

/-- Writes results, or stops before any byte of them is written. -/
def engWrite (s : State) (c : Nat) (ws : List (Nat × List Byte)) (k : State → EngOut) : EngOut :=
  if ws.any (fun w => pastEnd w.1 w.2.length) then .done stBadField s
  else
    match ws.findSome? (fun w => rangeStop s c w.1 w.2.length true) with
    | some x => .stop x true
    | none => k (ws.foldl (fun s w => vaWrite (touch s c w.1 w.2.length) c w.1 w.2) s)

/-- Adds a clipped and a total count to a clip-counter pair, none for an address of zero (R96). -/
def clipAdd (s : State) (c a clipped total : Nat) (k : State → EngOut) : EngOut :=
  if a = 0 then k s
  else engRead s c a 16 (fun s1 bs =>
    engWrite s1 c [(a, natLe 8 (fieldOf bs 0 8 + clipped) ++ natLe 8 (fieldOf bs 8 8 + total))] k)

/-- UNIT of a translation fault (R405): 0 DMA, 1 SPIN, 2 DENSE, 3 VECTOR. -/
def faultUnit (u : EngineUnit) : Nat :=
  match u with
  | .dma => 0
  | .spin => 1
  | .dense => 2
  | .vector => 3

/-- What the work of a head command does once it is paid for, and before (R464, R465): until the charge that it has run up
is paid, nothing of it has happened but the payment. -/
def whenPaid (s s1 : State) (cores : List Nat) (u : EngineUnit) (cost : Nat → Nat) (k : State → State) : State :=
  let s2 := { s1 with power := { s1.power with charge := 0 } }
  if (payEach s cores u cost).2 then k (payEach s2 cores u cost).1 else (payEach s cores u cost).1

/-- Ends the work of the head command of a unit, once what it costs is paid (R464, R465). -/
def engEnd (s : State) (r : Run) (core : Nat) (u : EngineUnit) (o : EngOut) : State :=
  match o with
  | .done st s1 => whenPaid s s1 [core] u (fun _ => s1.power.charge * creditUnit) (fun t => setResult u st t core)
  | .stop x w => stopAccess s r.key.ctx x w (faultUnit u) core r.key.ring r.key.slot (.engine core u)

/-- Charges the array clocks of a DENSE_MATMUL that has done its work, a refused one has none (R464): 1,638.4 pJ each. -/
def chargeDense (s : State) (r : Run) (bs : List Byte) (o : EngOut) : EngOut :=
  match o with
  | .done st s1 => .done st (if st = stDone ∧ cmdOp bs = 0x31 then s1.addCharge (65536 * arrayClocks s r.key.ctx bs (cmdAmount s r.key.ctx bs)) else s1)
  | x => x

/-- Works off the head command of a dense unit when it has the given opcode (R313, R464). -/
def engineStep (s : State) (core op : Nat) (body : Run → List Byte → EngOut) : State :=
  match unitReady s core .dense with
  | none => s
  | some (r, q) => if cmdOp q.bytes ≠ op then s else engEnd s r core .dense (chargeDense s r q.bytes (body r q.bytes))

/-- Whether an address that must be given is not: zero, misaligned, or its `n` bytes reach too far. -/
def needBad (a align n : Nat) : Bool := decide (a = 0 ∨ a % align ≠ 0) || pastEnd a n

/-- Whether an address that may be zero is misaligned, or its `n` bytes reach too far. -/
def optBad (a align n : Nat) : Bool := decide (a % align ≠ 0) || (decide (a ≠ 0) && pastEnd a n)

/-- Bytes of a row of `n` elements of `w` bits, padded to 64 B. -/
def rowPad (n w : Nat) : Nat := (n * w + 511) / 512 * 64

/-- Element `i` of line `l` of an array of elements of `w` bits with padded lines. -/
def elemAt (w : Nat) (bs : List Byte) (stride l i : Nat) : Nat :=
  if w ≤ 8 then codeAt w (bs.drop (l * stride)) i else fieldOf bs (l * stride + i * (w / 8)) (w / 8)

/-! ### Output blocks (R192) -/

/-- The format of OUT_FMT (R77, R192). -/
def outFmt (f : Nat) : OutFmt :=
  if f = 0 then .fp fmt32 4 else if f = 1 then .fp fmtBf 2 else if f = 2 then .fp fmt16 2
  else if f = 3 then .code 8 0 255 else if f = 4 then .code 4 0 15 else if f = 5 then .code 8 (-127) 127
  else if f = 6 then .code 4 (-7) 7 else .code 2 (-1) 1

/-- Bits of an output. -/
def outWidth (f : Nat) : Nat :=
  match outFmt f with
  | .fp _ n => 8 * n
  | .code w _ _ => w
  | .image => 384

/-- Whether an output format is an integer format. -/
def outInt (f : Nat) : Bool := decide (3 ≤ f)

/-- The checks of an output block of `m` rows and `n` columns in ascending byte order (R77, R192, R193); `factor` tells that
FACTOR_ADDR may be given. OUT_ZP of a floating-point output, and STAT_ADDR or TOPK_ADDR while its flag is clear, are
accepted whatever they hold and have no effect (DESIGN CHOICE, log entry 105). -/
def outStatus (ob : List Byte) (m n : Nat) (factor : Bool) : Option Status :=
  let f := fieldOf ob
  let fmt := f 0 1
  let top := bitOf (f 1 1) 1
  if 7 < fmt ∨ 4 ≤ f 1 1 then some stBadField
  else if top ∧ f 2 1 = 0 then some stLenZero
  else if (top ∧ 64 < f 2 1) ∨ (top = false ∧ f 2 1 ≠ 0) ∨ (5 ≤ fmt ∧ f 3 1 ≠ 0) ∨ (fmt = 4 ∧ 15 < f 3 1) ∨
      (outInt fmt ∧ !fpFinite (f 4 4)) ∨ optBad (f 8 8) 1 (m * rowPad n (outWidth fmt)) ∨
      (factor = false ∧ f 16 8 ≠ 0) ∨ optBad (f 16 8) 1 (4 * n) ∨
      (bitOf (f 1 1) 0 ∧ f 24 8 = 0) ∨ optBad (f 24 8) 1 (16 * m) ∨
      (top ∧ f 32 8 = 0) ∨ optBad (f 32 8) 1 (m * ((8 * f 2 1 + 63) / 64 * 64)) ∨
      optBad (f 40 8) 16 16 ∨ nonzero ob 48 16 then some stBadField
  else none

/-- An accumulated output: its value, and v itself where an FP32 output without a factor is v (R69). -/
structure OutVal where
  x      : Num
  direct : Option Nat
  deriving DecidableEq, Repr

/-- What the output step gives for one output: its code or encoding, the marks of R70 and R71, and x of R196. -/
structure OutCell where
  val       : Int
  clipped   : Bool
  nonfinite : Bool
  x         : Nat
  deriving DecidableEq, Repr

/-- Whether a value is finite. -/
def numFinite (x : Num) : Bool :=
  match x with
  | .fin _ => true
  | _ => false

/-- The output step for one output (R46, R47, R69 to R71). -/
def outCell (ob : List Byte) (v : OutVal) (factor : Option Nat) : OutCell :=
  let y := withFactor v.x factor
  let x := numRound fmt32 y
  match outFmt (fieldOf ob 0 1) with
  | .fp f n =>
    let b := match v.direct, factor with
      | some d, none => if n = 4 then d else numRound f y
      | _, _ => numRound f y
    ⟨b, false, decide (f.infBits ≤ b % f.signBit), x⟩
  | .code _ lo hi =>
    let q := requant y (fieldOf ob 4 4) (fieldOf ob 3 1) lo hi
    ⟨q.1, q.2, !numFinite y, x⟩
  | .image => ⟨0, false, false, x⟩

/-- The bytes of a row of outputs. -/
def outRow (fmt : Nat) (row : List OutCell) : List Byte :=
  match outFmt fmt with
  | .fp _ n => row.flatMap (fun o => natLe n o.val.toNat)
  | .code w _ _ => packCodes w (row.map OutCell.val)
  | .image => []

/-! ### Fused stages -/

/-- a < b of two FP32 encodings, neither a NaN; the zeros are equal. -/
def fpLess (a b : Nat) : Bool :=
  match fpVal fmt32 a, fpVal fmt32 b with
  | .fin x, .fin y => dyLt x y
  | .inf true, .inf true => false
  | .inf true, _ => true
  | .fin _, .inf false => true
  | _, _ => false

/-- The greatest n ≤ 2^24 with (2n − 1)^256 ≤ 2^(6144 + j), found bit by bit: 2^23 · 2^(j/256) to the nearest. -/
def tabSig (bits j n : Nat) : Nat :=
  match bits with
  | 0 => n
  | b + 1 => if (2 * (n + 2 ^ b) - 1) ^ 256 ≤ 2 ^ (6144 + j) then tabSig b j (n + 2 ^ b) else tabSig b j n

/-- TAB[j]: the FP32 rounding of 2^(j/256) (R195). -/
def expTab (j : Nat) : Nat := 0x3F00_0000 + tabSig 24 j 0

/-- RN of an exact number as an exact number. -/
def rnd (d : Dy) : Dy := fpDy (fpRound fmt32 d)

/-- The exponential of the fused stages (R195). -/
def fusedExp (x : Nat) : Nat :=
  match fpVal fmt32 (fpMul x 0x3FB8_AA3B) with
  | .fin t =>
    if dyLt t (dyInt (-150)) then 0
    else
      let n : Int := dyAt t (min t.e 0) / 2 ^ (-(min t.e 0)).toNat
      let f := dySub t (dyInt n)
      let j := (dyAt f (min f.e (-8)) / 2 ^ (-8 - min f.e (-8)).toNat).toNat
      let r := dySub f ⟨j, -8⟩
      let p1 := rnd (dyAdd (fpDy 0x3E75_FDF0) (rnd (dyMul (fpDy 0x3D63_5847) r)))
      let p2 := rnd (dyAdd (fpDy 0x3F31_7218) (rnd (dyMul p1 r)))
      let p3 := rnd (dyAdd ⟨1, 0⟩ (rnd (dyMul p2 r)))
      fpRound fmt32 (dyMul (rnd (dyMul (fpDy (expTab j)) p3)) ⟨1, n⟩)
  | _ => 0

/-- Maximum, sum and NaN flag of a block (R196). -/
structure RowStat where
  m   : Nat
  s   : Nat
  nan : Bool
  deriving DecidableEq, Repr

/-- One value into a block's statistics (R196). -/
def statAdd (t : RowStat) (x : Nat) : RowStat :=
  if fpNan x then { t with nan := true }
  else if fpLess t.m x then { t with m := x, s := fpAdd (fpMul t.s (fusedExp (fpSub t.m x))) 0x3F80_0000 }
  else if fpLess x t.m then { t with s := fpAdd t.s (fusedExp (fpSub x t.m)) }
  else { t with s := fpAdd t.s 0x3F80_0000 }

/-- Merges a later block into an earlier one (R197). -/
def statMerge (a b : RowStat) : RowStat :=
  let n := a.nan || b.nan
  if fpLess a.m b.m then ⟨b.m, fpAdd (fpMul a.s (fusedExp (fpSub a.m b.m))) b.s, n⟩
  else if fpLess b.m a.m then ⟨a.m, fpAdd a.s (fpMul b.s (fusedExp (fpSub b.m a.m))), n⟩
  else ⟨a.m, fpAdd a.s b.s, n⟩

/-- The statistics of a row, by blocks of 64 columns (R196, R197). -/
def rowStat (xs : List Nat) : RowStat :=
  let blocks := (chunks 64 ((xs.length + 63) / 64) xs).map (fun l => l.foldl statAdd ⟨0xFF80_0000, 0, false⟩)
  match blocks with
  | [] => ⟨0xFF80_0000, 0, false⟩
  | b :: r => r.foldl statMerge b

/-- The 16-byte record of a row (R197). -/
def statRecord (t : RowStat) : List Byte := natLe 4 t.m ++ natLe 4 t.s ++ natLe 1 (bitNat t.nan) ++ zeros 7

/-- The top-k entries of a row (R198). -/
def topRecord (k : Nat) (xs : List Nat) : List Byte :=
  let l := (xs.zipIdx.filter (fun p => !fpNan p.1)).mergeSort (fun a b => !fpLess a.1 b.1)
  (List.range k).flatMap (fun i =>
    match l[i]? with
    | some p => natLe 4 p.1 ++ natLe 4 p.2
    | none => natLe 4 0x7FC0_0000 ++ natLe 4 0xFFFF_FFFF)

/-- What the output block writes of its rows (R192, R197, R198); row padding is not written (log entry 17). -/
def outWrites (ob : List Byte) (n : Nat) (rows : List (List OutCell)) : List (Nat × List Byte) :=
  let f := fieldOf ob
  rows.zipIdx.flatMap (fun p =>
    let xs := p.1.map OutCell.x
    (if f 8 8 = 0 then [] else [(f 8 8 + p.2 * rowPad n (outWidth (f 0 1)), outRow (f 0 1) p.1)]) ++
    (if bitOf (f 1 1) 0 then [(f 24 8 + 16 * p.2, statRecord (rowStat xs))] else []) ++
    (if bitOf (f 1 1) 1 then [(f 32 8 + p.2 * ((8 * f 2 1 + 63) / 64 * 64), topRecord (f 2 1) xs)] else []))

/-- Writes the outputs, adds the clip counts and counts the non-finite outputs of the core that runs the command
(R71, R96). -/
def outputStage (s : State) (c core : Nat) (ob : List Byte) (n : Nat) (rows : List (List OutCell)) : EngOut :=
  let cells := rows.flatten
  engWrite s c (outWrites ob n rows) (fun s1 =>
    let fin (s2 : State) : EngOut := .done stDone (s2.updCore core (fun x => { x with
      nonfinite := x.nonfinite + BitVec.ofNat 64 (countTrue (cells.map OutCell.nonfinite)) }))
    if outInt (fieldOf ob 0 1) then
      clipAdd s1 c (fieldOf ob 40 8) (countTrue (cells.map OutCell.clipped)) cells.length fin
    else fin s1)

/-! ### DENSE_MATMUL -/

/-- Step 1 of R193: the command (R190). -/
def matmulStatus (bs : List Byte) : Option Status :=
  let f := fieldOf bs
  if f 1 1 % 4 = 3 ∨ f 1 1 / 4 % 4 = 3 ∨ 16 ≤ f 1 1 ∨ 4 ≤ f 2 1 ∨ f 3 1 ≠ 0 then some stBadField
  else if f 4 4 = 0 then some stLenZero
  else if 2 ^ 24 < f 4 4 then some stBadField
  else if f 8 4 = 0 then some stLenZero
  else if 2 ^ 24 < f 8 4 then some stBadField
  else if f 12 4 = 0 then some stLenZero
  else if nonzero bs 20 4 ∨ needBad (f 24 8) 64 64 ∨ nonzero bs 42 22 then some stBadField
  else none

/-- Step 2 of R193: the operand block (R191). -/
def operandBad (ob : List Byte) : Bool :=
  let f := fieldOf ob
  needBad (f 0 8) 1 0 || optBad (f 8 8) 64 64 || needBad (f 16 8) 1 0 || optBad (f 24 8) 64 64 ||
    optBad (f 32 8) 1 64 || optBad (f 40 8) 64 0 || nonzero ob 48 16

/-- Whether a quantisation block breaks the rules that a dense command checks: formats allowed, GROUP, FLAGS, the
presence and alignment of SCALE, ZP and S2 (R91, R191, R193). -/
def qblkBad (q : List Byte) (formats : List Nat) : Bool :=
  let f := fieldOf q
  let fmt := f 0 1
  let want (there : Bool) (a : Nat) : Bool := if there then needBad a 64 0 else decide (a ≠ 0)
  !decide (fmt ∈ formats) || decide (2 < f 1 1 ∨ 2 ≤ f 3 1) || nonzero q 4 4 || want (decide (fmt ≠ 7)) (f 8 8) ||
    want (decide (fmt = 5 ∨ fmt = 6)) (f 16 8) || want (fmtSym fmt) (f 24 8) || nonzero q 48 16

/-- Reads an optional quantisation block: an empty string for BF16. -/
def readQblk (s : State) (c a : Nat) (formats : List Nat) (k : State → List Byte → EngOut) : EngOut :=
  if a = 0 then k s []
  else engRead s c a 64 (fun s1 q => if qblkBad q formats then .done stBadField s1 else k s1 q)

/-- FORMAT of a block, 0 for BF16. -/
def qFmt (q : List Byte) : Nat := fieldOf q 0 1

/-- Bits of an operand's element. -/
def qWidth (q : List Byte) : Nat := if qFmt q = 0 then 16 else fmtWidth (qFmt q)

/-- The group size G (R91, R194). -/
def qGroup (q : List Byte) : Nat := if qFmt q = 0 then 32 else 32 * 2 ^ fieldOf q 1 1

/-- The value that an activation code stands for in a group sum (R84, R86). -/
def actVal (fmt zp raw : Nat) : Int := if fmt = 7 then 2 * raw - 1 else (raw : Int) - zp

/-- The value of a weight code (R73, R74, R189). -/
def wgtVal (fmt raw : Nat) : Int := if fmt = 7 then 2 * raw - 1 else symCode (fmtWidth fmt) raw

/-- An accumulator of a dense cell (R52). -/
inductive Acc where
  | exact (a : Lacc)
  | pair (p : Pair)
  | sr (v : Nat)
  deriving DecidableEq, Repr

/-- An accumulator at its start. -/
def accZero (fmt : Nat) : Acc := if fmt = 0 then .exact (.fin 0) else if fmt = 1 then .pair ⟨0, 0⟩ else .sr 0

/-- A term into an accumulator; `word` is the ROUND word of R66. -/
def accAdd (a : Acc) (t : Dy) (word : Nat) : Acc :=
  match a with
  | .exact x => .exact (laccAdd x (laccOf (dyUnits t).1))
  | .pair p => .pair (pairAdd p (pairOfTerm t))
  | .sr v => .sr (srAdd v t word)

/-- Bytes of a partial's image (R52, R56). -/
def accBytes (fmt : Nat) : Nat := if fmt = 0 then 48 else 8

/-- A partial's image (R49, R50, R56). -/
def accImage (a : Acc) : List Byte :=
  match a with
  | .exact x => laccImage x
  | .pair p => natLe 4 p.v ++ natLe 4 p.c
  | .sr v => natLe 4 v ++ zeros 4

/-- The value that an accumulator gives (R69). -/
def accNum (a : Acc) : Num :=
  match a with
  | .exact x => laccNum x
  | .pair p => pairNum p
  | .sr v => fpVal fmt32 v

/-- The integer sum of a group (R55, R84). -/
def groupSum (a w : Nat → Int) (lo hi : Nat) : Int :=
  ((List.range (hi - lo)).map (fun k => a (lo + k) * w (lo + k))).foldl (· + ·) 0

/-- Groups g0 up to g1 of a coded reduction (R55, R83). -/
def cellCoded (acc K G g0 g1 : Nat) (a w : Nat → Int) (scale : Nat → Dy) (word : Nat → Nat) : Acc :=
  (List.range (g1 - g0)).foldl (fun x i =>
    let g := g0 + i
    accAdd x (dyMul (dyInt (groupSum a w (g * G) (min (g * G + G) K))) (scale g)) (word g)) (accZero acc)

/-- One BF16 product into an LACC, with the count of R54. -/
def bfAdd (t : Lacc × Nat) (a w : Nat) : Lacc × Nat :=
  match numMul (fpVal fmtBf a) (fpVal fmtBf w) with
  | .fin d => (laccAdd t.1 (laccOf (dyUnits d).1), t.2 + bitNat (dyUnits d).2)
  | x => (laccAdd t.1 (numLacc x), t.2)

/-- Positions lo up to hi of a BF16 reduction (R54). -/
def cellBf (a w : Nat → Nat) (lo hi : Nat) : Lacc × Nat :=
  (List.range (hi - lo)).foldl (fun t k => bfAdd t (a (lo + k)) (w (lo + k))) (.fin 0, 0)

/-- Cores of a context's plot. -/
def plotCores (s : State) (c : Nat) : List Nat := maskCores (s.plotAt (s.ctxAt c).plot).mask

/-- Whether a dense engine with these good banks has the banks that a tile of an accumulator format needs (R52, R57):
all twelve for EXACT, a pair 2i, 2i + 1 for PAIR, any for SR32. -/
def banksFor (acc : Nat) (g : BitVec 12) : Bool :=
  if acc = 0 then decide (g = 0xFFF)
  else if acc = 1 then (List.range 6).any (fun i => g.toNat.testBit (2 * i) && g.toNat.testBit (2 * i + 1))
  else decide (g ≠ 0)

/-- The core whose dense engine runs a command: for EXACT one with all banks good, none where the plot has none (R57).
PAIR and SR32 stay on their engine, also where it has no good pair or bank left, of which the spec says nothing
(DESIGN CHOICE, log entry 75). -/
def denseCore (s : State) (c core acc : Nat) : Option Nat :=
  if acc ≠ 0 ∨ banksFor 0 (s.coreAt core).bankGood then some core
  else (plotCores s c).find? (fun n => banksFor 0 (s.coreAt n).bankGood)

/-- The first thing in the way of a list of reads, each of which may end the command. -/
def firstEnd {α : Type} (l : List α) (f : α → Option EngOut) (k : EngOut) : EngOut := (l.findSome? f).getD k

/-- How the reading of row `r`'s scale and zero point ends a command, if it does (R87). -/
def rowEnd (s : State) (c : Nat) (q : List Byte) (r : Nat) : Option EngOut :=
  let a := fieldOf q 8 8 + 4 * r
  let z := fieldOf q 16 8 + r
  match rangeStop s c a 4 false with
  | some x => some (.stop x false)
  | none =>
    if !rs32Valid (vaLoad s c a 4) then some (.done stScaleRange s)
    else
      match rangeStop s c z 1 false with
      | some x => some (.stop x false)
      | none => if qFmt q = 5 ∧ 15 < vaLoad s c z 1 then some (.done stBadField s) else none

/-- Reads row scales and zero points in ascending row, up to the first failure (R87); for SPIN and BF16 there are
none. -/
def readRows (s : State) (c : Nat) (q : List Byte) (m : Nat) (k : State → List Byte → List Byte → EngOut) : EngOut :=
  if qFmt q = 5 ∨ qFmt q = 6 then
    if pastEnd (fieldOf q 8 8) (4 * m) || pastEnd (fieldOf q 16 8) m then .done stBadField s
    else
      firstEnd (List.range m) (rowEnd s c q)
        (engRead s c (fieldOf q 8 8) (4 * m) (fun s1 sc => engRead s1 c (fieldOf q 16 8) m (fun s2 zp => k s2 sc zp)))
  else k s [] []

/-- How the reading of column `i`'s second-level scale ends a command, if it does (R80, R81, R87); `strict` holds it to
R81. -/
def columnEnd (s : State) (c : Nat) (q : List Byte) (strict : Bool) (i : Nat) : Option EngOut :=
  let a := fieldOf q 24 8 + 4 * i
  match rangeStop s c a 4 false with
  | some x => some (.stop x false)
  | none =>
    let b := vaLoad s c a 4
    if secondRange b then some (.done stScaleRange s)
    else if strict && layerField b then some (.done stBadField s) else none

/-- Reads second-level scales in ascending column, up to the first failure (R80, R87); none for SPIN and BF16. -/
def readS2 (s : State) (c : Nat) (q : List Byte) (n : Nat) (strict : Bool) (k : State → List Byte → EngOut) : EngOut :=
  if fmtSym (qFmt q) then
    if pastEnd (fieldOf q 24 8) (4 * n) then .done stBadField s
    else firstEnd (List.range n) (columnEnd s c q strict) (engRead s c (fieldOf q 24 8) (4 * n) k)
  else k s []

/-- The second-level scale of a column (R189, R193). -/
def s2At (q s2 : List Byte) (i : Nat) : Nat := if fmtSym (qFmt q) then fieldOf s2 (4 * i) 4 else 0x3F80_0000

/-- The scale product of a row, a group and a column (R82, R86, R189). -/
def cellScale (qa qw sa sw : List Byte) (n r g i : Nat) : Dy :=
  let a : Dy := if qFmt qa = 7 then ⟨1, 0⟩ else rs32 (fieldOf sa (4 * r) 4)
  let w : Dy := if qFmt qw = 7 then ⟨1, 0⟩ else ue4m3 (fieldOf sw (g * n + i) 1)
  dyMul a w

/-- The operands of a product as they are read: blocks, scales, codes. -/
structure MatIn where
  bs : List Byte
  qa : List Byte
  qw : List Byte
  sa : List Byte
  zp : List Byte
  sw : List Byte
  s2 : List Byte
  a  : List Byte
  w  : List Byte
  deriving DecidableEq, Repr

/-- Element k of row r of A (R190). -/
def MatIn.aRaw (t : MatIn) (r k : Nat) : Nat :=
  let w := qWidth t.qa
  if bitOf (fieldOf t.bs 2 1) 0 then elemAt w t.a (rowPad (fieldOf t.bs 4 4) w) k r
  else elemAt w t.a (rowPad (fieldOf t.bs 12 4) w) r k

/-- Element k of column i of W (R190). -/
def MatIn.wRaw (t : MatIn) (i k : Nat) : Nat :=
  let w := qWidth t.qw
  if bitOf (fieldOf t.bs 2 1) 1 then elemAt w t.w (rowPad (fieldOf t.bs 8 4) w) k i
  else elemAt w t.w (rowPad (fieldOf t.bs 12 4) w) i k

/-- Groups, groups of a partition and partitions (R194). -/
def matSplit (bs : List Byte) (G : Nat) : Nat × Nat × Nat :=
  let ng := (fieldOf bs 12 4 + G - 1) / G
  let pg := if fieldOf bs 16 4 = 0 then ng else fieldOf bs 16 4
  (ng, pg, (ng + pg - 1) / pg)

/-- Partition j of output (r, i), with its count of LOW_ROUND (R54, R55, R66, R194). -/
def MatIn.part (t : MatIn) (r i j : Nat) : Acc × Nat :=
  let f := fieldOf t.bs
  let K := f 12 4
  let G := qGroup t.qa
  let sp := matSplit t.bs G
  let g0 := j * sp.2.1
  let g1 := min (g0 + sp.2.1) sp.1
  if qFmt t.qa = 0 then
    let x := cellBf (t.aRaw r) (t.wRaw i) (g0 * G) (min (g1 * G) K)
    (.exact x.1, x.2)
  else
    (cellCoded (f 1 1 % 4) K G g0 g1 (fun k => actVal (qFmt t.qa) (fieldOf t.zp r 1) (t.aRaw r k))
      (fun k => wgtVal (qFmt t.qw) (t.wRaw i k)) (fun g => cellScale t.qa t.qw t.sa t.sw (f 8 4) r g i)
      (fun g => ctrWord (f 32 8) (f 40 2) (r * 2 ^ 24 + i) g 0 4), 0)

/-- Bytes of a stored operand with `lines` of `n` elements (R190). -/
def storedBytes (kmajor : Bool) (lines n w : Nat) : Nat := if kmajor then n * rowPad lines w else lines * rowPad n w

/-- The stride of the partials of one output (R194). -/
def partStride (np b : Nat) : Nat := (np * b + 63) / 64 * 64

/-- Forms the product and writes it: partials, or outputs (R193, R194). -/
def matmulRun (s : State) (c core : Nat) (t : MatIn) (opb ob : List Byte) : EngOut :=
  let f := fieldOf t.bs
  let M := f 4 4
  let N := f 8 4
  let sp := matSplit t.bs (qGroup t.qa)
  let rows := (List.range M).map (fun r => (List.range N).map (fun i => (List.range sp.2.2).map (t.part r i)))
  let low := (rows.flatten.flatten.map Prod.snd).foldl (· + ·) 0
  let s1 := s.updCore core (fun x => { x with macs := x.macs + BitVec.ofNat 64 (M * N * f 12 4),
                                              lowRound := x.lowRound + BitVec.ofNat 64 low })
  let b := accBytes (f 1 1 % 4)
  if 1 < sp.2.2 then
    let ws := rows.flatten.zipIdx.map (fun p =>
      (fieldOf opb 40 8 + p.2 * partStride sp.2.2 b, p.1.flatMap (fun a => accImage a.1)))
    engWrite s1 c ws (fun s2 => .done stDone s2)
  else
    let cells := rows.map (fun row => row.zipIdx.map (fun p =>
      outCell ob ⟨accNum (p.1.headD (accZero 0, 0)).1, none⟩ (some (s2At t.qw t.s2 p.2))))
    outputStage s1 c core ob N cells

/-- Steps 7 and 8 of R193, then the product. -/
def matmulLoad (s : State) (c core : Nat) (bs opb qa qw ob : List Byte) : EngOut :=
  let f := fieldOf bs
  let M := f 4 4
  let N := f 8 4
  let K := f 12 4
  let G := qGroup qa
  let sp := matSplit bs G
  let na := storedBytes (bitOf (f 2 1) 0) M K (qWidth qa)
  let nw := storedBytes (bitOf (f 2 1) 1) N K (qWidth qw)
  let coded := decide (fmtSym (qFmt qw) = true)
  if pastEnd (fieldOf opb 0 8) na ∨ pastEnd (fieldOf opb 16 8) nw ∨
     (1 < sp.2.2 ∧ pastEnd (fieldOf opb 40 8) (M * N * partStride sp.2.2 (accBytes (f 1 1 % 4)))) ∨
     (coded ∧ pastEnd (fieldOf qw 8 8) (sp.1 * N)) then .done stBadField s
  else
    match denseCore s c core (f 1 1 % 4) with
    | none => .done stCapacityRefused s
    | some e =>
      readRows s c qa M (fun s1 sa zp =>
        readS2 s1 c qw N false (fun s2 b2 =>
          engRead s2 c (fieldOf qw 8 8) (if coded then sp.1 * N else 0) (fun s3 sw =>
            engRead s3 c (fieldOf opb 0 8) na (fun s4 a =>
              engRead s4 c (fieldOf opb 16 8) nw (fun s5 w =>
                matmulRun s5 c e ⟨bs, qa, qw, sa, zp, sw, b2, a, w⟩ opb ob)))))

/-- DENSE_MATMUL's checks 1 to 6 of R193, then the rest. -/
def matmulBody (s : State) (core : Nat) (r : Run) (bs : List Byte) : EngOut :=
  let c := r.key.ctx
  match matmulStatus bs with
  | some st => .done st s
  | none =>
    engRead s c (fieldOf bs 24 8) 64 (fun s1 opb =>
      if operandBad opb then .done stBadField s1
      else
        readQblk s1 c (fieldOf opb 8 8) [5, 6, 7] (fun s2 qa =>
          readQblk s2 c (fieldOf opb 24 8) [2, 3, 4, 7] (fun s3 qw =>
            let np := (matSplit bs (qGroup qa)).2.2
            if decide (qFmt qa = 0) ≠ decide (qFmt qw = 0) ∨ (qFmt qa = 0 ∧ fieldOf bs 1 1 % 4 ≠ 0) ∨
               qGroup qa ≠ qGroup qw then .done stBadField s3
            else if 1 < np then
              (if fieldOf opb 32 8 ≠ 0 ∨ fieldOf opb 40 8 = 0 then .done stBadField s3
               else matmulLoad s3 c core bs opb qa qw [])
            else if fieldOf opb 32 8 = 0 ∨ fieldOf opb 40 8 ≠ 0 then .done stBadField s3
            else
              engRead s3 c (fieldOf opb 32 8) 64 (fun s4 ob =>
                match outStatus ob (fieldOf bs 4 4) (fieldOf bs 8 4) false with
                | some st => .done st s4
                | none => matmulLoad s4 c core bs opb qa qw ob))))

/-- A bank of a core's dense engine gives a parity error during a tile (R58): it is counted there, the tile's result is
that of its second run on another engine, and the bank is to be retired, or the whole engine, which is its twelve bank
records, where the two SR32 outputs of the recovery check differ. Where no engine of the plot has the banks for the second
run, of which the spec says nothing, the result is delivered all the same and the bank alone is retired (DESIGN CHOICE,
log entry 75). MACS and LOW_ROUND count the tile's products once: those of the second run and of the recovery check are not
among them (R217; DESIGN CHOICE, log entry 104). -/
def parityError (s : State) (c acc core bank : Nat) (agree : Bool) : State :=
  let taken := (plotCores s c).any (fun n => decide (n ≠ core) && banksFor acc (s.coreAt n).bankGood)
  let s1 := s.updCore core (fun x => { x with parityErr := x.parityErr + 1 })
  let phys := (s.coreAt core).phys
  let banks := if agree || !taken then [bank] else List.range 12
  banks.foldl (fun t j => retireUnit t 2 (12 * phys + j) bank) s1

/-- Whether a tile of a format uses a bank of an engine (R52, R57). -/
def bankUsed (acc : Nat) (g : BitVec 12) (bank : Nat) : Bool :=
  let good (j : Nat) : Bool := decide (j < 12) && g.toNat.testBit j
  good bank && (if acc = 0 then banksFor 0 g else if acc = 1 then good (bank / 2 * 2 + (1 - bank % 2)) else true)

/-- The parity errors of a command's tiles in turn: engine, bank, whether the recovery check agrees; a bank that the tiles do
not use gives none (R58). -/
def parityErrors (s : State) (c acc : Nat) (l : List (Nat × Nat × Bool)) : State :=
  l.foldl (fun t e => if bankUsed acc (s.coreAt e.1).bankGood e.2.1 then parityError t c acc e.1 e.2.1 e.2.2 else t) s

/-- DENSE_MATMUL (R58, R190 to R194); `parity` tells of the banks, of the engine that runs the tiles, that give a parity
error while a tile runs, and whether the recovery check agrees. -/
def execDenseMatmul (core : Nat) (parity : List (Nat × Bool)) (s : State) : Outcome State Fault Refusal :=
  .next (let s1 := engineStep s core 0x31 (matmulBody s core)
    match unitReady s core .dense with
    | some (r, q) =>
      let acc := fieldOf q.bytes 1 1 % 4
      match denseCore s r.key.ctx core acc with
      | some e =>
        if cmdOp q.bytes = 0x31 ∧ (s1.workAt core).denseU.result = some stDone then
          parityErrors s1 r.key.ctx acc (parity.map (fun p => (e, p)))
        else s1
      | none => s1
    | none => s1)

/-! ### DENSE_CONVERT -/

/-- Bytes and format of a floating-point input: 0 FP32, 1 BF16, 2 FP16 (R199, R212). -/
def inBytes (mode : Nat) : Nat := if mode = 0 then 4 else if mode = 3 then 48 else 2

/-- A value of an input tensor (R40, R89, R212). -/
def inVal (mode : Nat) (bs : List Byte) : Num :=
  if mode = 0 then fpVal fmt32 (leNat bs) else if mode = 1 then fpVal fmtBf (leNat bs)
  else if mode = 2 then fpVal fmt16 (leNat bs) else laccNum (laccOfImage bs)

/-- Rotates a row, or a column of weights with its factor 2^-7 (R88, R89). -/
def rotated (weights : Bool) (xs : List Num) : List Num :=
  (rotateRow (xs.map (numRound fmt32))).map (fun y =>
    fpVal fmt32 (if weights then fpMul y 0x3C00_0000 else y))

/-- The checks of DENSE_CONVERT before its block (R199). -/
def convertCmdStatus (bs : List Byte) : Option Status :=
  let f := fieldOf bs
  if 2 < f 1 1 ∨ 2 ≤ f 2 1 ∨ f 3 1 ≠ 0 then some stBadField
  else if f 4 4 = 0 ∨ f 8 4 = 0 then some stLenZero
  else if nonzero bs 12 4 ∨ needBad (f 16 8) 1 0 ∨ needBad (f 24 8) 64 64 ∨ needBad (f 32 8) 1 0 ∨ nonzero bs 40 24
    then some stBadField
  else none

/-- Whether the block of a DENSE_CONVERT breaks a rule (R90 to R92, R199). -/
def weightBlkBad (q : List Byte) (K : Nat) : Bool :=
  qblkBad q [2, 3, 4] || !decide (fieldOf q 2 1 = 0 ∨ fieldOf q 2 1 = 2) || nonzero q 32 8 || optBad (fieldOf q 40 8) 16 16 ||
    (bitOf (fieldOf q 3 1) 0 && decide (K % 128 ≠ 0))

/-- The columns of the source as values (R199). Each column, or row under TRANSPOSE, starts at a multiple of 64 B, as in R190,
since R199 names no pitch (DESIGN CHOICE, log entry 89). -/
def sourceColumns (mode K N : Nat) (transpose : Bool) (src : List Byte) : List (List Num) :=
  let e := inBytes mode
  (List.range N).map (fun i => (List.range K).map (fun k =>
    inVal mode ((src.drop (if transpose then k * rowPad N (8 * e) + i * e else i * rowPad K (8 * e) + k * e)).take e)))

/-- Converts the columns and writes codes and scales (R95, R96, R199). -/
def convertColumns (s : State) (c : Nat) (bs q src s2 sw : List Byte) : EngOut :=
  let f := fieldOf bs
  let K := f 4 4
  let N := f 8 4
  let fmt := qFmt q
  let G := qGroup q
  let ng := (K + G - 1) / G
  let given := decide (fieldOf q 2 1 = 2)
  let cols := (sourceColumns (f 1 1) K N (bitOf (f 2 1) 0) src).map (fun xs =>
    if bitOf (fieldOf q 3 1) 0 then rotated true xs else xs)
  let outs := cols.zipIdx.map (fun p =>
    if given then weightsGiven fmt G p.1 (fieldOf s2 (4 * p.2) 4)
      ((List.range ng).map (fun g => fieldOf sw (g * N + p.2) 1)) 0
    else convertColumn fmt G p.2 p.1)
  let codes := outs.zipIdx.map (fun p => (f 32 8 + p.2 * rowPad K (fmtWidth fmt), packCodes (fmtWidth fmt) p.1.codes))
  let scales := if given then [] else
    [(fieldOf q 24 8, outs.flatMap (fun o => natLe 4 o.s2)),
     (fieldOf q 8 8, (List.range ng).flatMap (fun g => outs.flatMap (fun o => natLe 1 (o.scales.getD g 0))))]
  engWrite s c (codes ++ scales) (fun s1 =>
    clipAdd (scaleClamps s1 c ((outs.map ColCodes.clamps).foldl (· + ·) 0)) c (fieldOf q 40 8)
      ((outs.map ColCodes.clipped).foldl (· + ·) 0) (K * N) (fun s2 => .done stDone s2))

/-- The work of DENSE_CONVERT (R80, R87, R199). -/
def denseConvertBody (s : State) (r : Run) (bs : List Byte) : EngOut :=
  let c := r.key.ctx
  let f := fieldOf bs
  match convertCmdStatus bs with
  | some st => .done st s
  | none =>
    engRead s c (f 24 8) 64 (fun s1 q =>
      let K := f 4 4
      let N := f 8 4
      let e := inBytes (f 1 1)
      let ng := (K + qGroup q - 1) / qGroup q
      let given := decide (fieldOf q 2 1 = 2)
      let nsrc := if bitOf (f 2 1) 0 then K * rowPad N (8 * e) else N * rowPad K (8 * e)
      if weightBlkBad q K ∨ pastEnd (f 16 8) nsrc ∨ pastEnd (f 32 8) (N * rowPad K (fmtWidth (qFmt q))) ∨
         pastEnd (fieldOf q 8 8) (ng * N) ∨ pastEnd (fieldOf q 24 8) (4 * N) then .done stBadField s1
      else
        let rest (s2 : State) (b2 : List Byte) : EngOut :=
          engRead s2 c (fieldOf q 8 8) (if given then ng * N else 0) (fun s3 sw =>
            engRead s3 c (f 16 8) nsrc (fun s4 src => convertColumns s4 c bs q src b2 sw))
        if given then readS2 s1 c q N false rest else rest s1 [])

/-- DENSE_CONVERT (R199). -/
def execDenseConvert (core : Nat) (s : State) : Outcome State Fault Refusal :=
  .next (engineStep s core 0x33 (denseConvertBody s))

end Sys2Proof.Machine
end

