-- ==== Sys2Proof/Machine/Anneal.lean ====
section
/-! DEFINITION. DENSE_ANNEAL (R200 to R209): its checks, the fields that the dense array forms, and the traverses of the
three modes. -/

namespace Sys2Proof.Machine

open Host (Outcome)

/-! ### Checks -/

/-- The first pass: the command (R153, R200, R523). RANDOM_ORDER outside SEQUENTIAL and HALVES 1 or 2 outside BIPARTITE are
taken and have no effect, HALVES 3 is refused in every mode: the spec does not say (DESIGN CHOICE, log entry 90). -/
def annealFirst (r : Run) (bs : List Byte) (betas : List (BitVec 32)) : Option Status :=
  let f := fieldOf bs
  if 2 < f 1 1 ∨ 1 < f 2 1 ∨ 8 ≤ f 3 1 ∨ f 3 1 / 2 = 3 ∨ needBad (f 8 8) 64 64 then some stBadField
  else if f 16 8 = 0 then some stLenZero
  else if f 24 4 % 256 ≠ 0 then some stBadField
  else if outArea r (f 24 4) 256 then some stPermFault
  else if (namedReplicas (f 16 8)).any (fun k => !fpFinite (betas.getD k 0).toNat) then some stBadField
  else if f 28 4 % 64 ≠ 0 then some stBadField
  else if outArea r (f 28 4) 3072 then some stPermFault
  else if nonzero bs 48 16 then some stBadField
  else none

/-- Whether a command's mode is BIPARTITE. -/
def annealBi (bs : List Byte) : Bool := decide (fieldOf bs 1 1 = 0)

/-- Variables of a problem. -/
def annealVars (bs ab : List Byte) : Nat := fieldOf ab 0 4 + (if annealBi bs then fieldOf ab 4 4 else 0)

/-- P (R202). -/
def annealP (bs ab : List Byte) : Nat :=
  if annealBi bs then 2 else if fieldOf bs 1 1 = 1 then fieldOf ab 0 4 else 1

/-- The anneal block (R201, R202). -/
def annealBlock (bs ab : List Byte) : Option Status :=
  let f := fieldOf ab
  let bi := annealBi bs
  if f 0 4 = 0 then some stLenZero
  else if 4194304 < f 0 4 then some stBadField
  else if bi ∧ f 4 4 = 0 then some stLenZero
  else if (bi = false ∧ f 4 4 ≠ 0) ∨ 4194304 < annealVars bs ab ∨ needBad (f 8 8) 1 0 ∨ optBad (f 16 8) 64 64 ∨
      (bi ∧ needBad (f 24 8) 1 0) ∨ (bi = false ∧ f 24 8 ≠ 0) ∨ (bi ∧ optBad (f 32 8) 64 64) ∨
      optBad (f 40 8) 1 0 ∨ optBad (f 48 8) 64 64 ∨ needBad (f 56 8) 1 0 then some stBadField
  else none

/-- What depends on both: the step rule and the range of steps (R153, R200, R202). -/
def annealSecond (bs ab : List Byte) : Bool :=
  let P := annealP bs ab
  decide (fieldOf bs 32 6 % P ≠ 0 ∨ 2 ^ 48 < fieldOf bs 32 6 + fieldOf bs 4 4 * P)

/-- A coded or BF16 array of K × N as it is read: block, scales, second-level scales, codes (R203). -/
structure CodeIn where
  q  : List Byte
  sw : List Byte
  s2 : List Byte
  w  : List Byte
  n  : Nat
  k  : Nat
  deriving DecidableEq, Repr

/-- Whether every first-level scale and every second-level scale of J is the same (R206). -/
def oneScale (t : CodeIn) : Bool :=
  let u (b : Byte) : Nat := b.toNat % 128
  (match t.sw with | [] => true | b :: r => r.all (fun x => decide (u x = u b))) &&
  (List.range t.n).all (fun i => decide (fieldOf t.s2 (4 * i) 4 = fieldOf t.s2 0 4))

/-- A problem as it is read. -/
structure Problem where
  j    : CodeIn
  jt   : CodeIn
  bias : CodeIn
  deriving DecidableEq, Repr

/-- An array that is not there. -/
def noCodes : CodeIn := ⟨[], [], [], [], 0, 0⟩

/-- An array of a problem before it is read: its address, its block, K and N. -/
structure ArrayAt where
  addr : Nat
  q    : List Byte
  k    : Nat
  n    : Nat
  deriving DecidableEq, Repr

/-- Reads the first-level scales and the codes of an array, its second-level scales given (R201). -/
def readCodes (s : State) (c : Nat) (t : ArrayAt) (s2 : List Byte) (fin : State → CodeIn → EngOut) : EngOut :=
  let ng := (t.k + qGroup t.q - 1) / qGroup t.q
  engRead s c (fieldOf t.q 8 8) (if qFmt t.q = 0 then 0 else ng * t.n) (fun s1 sw =>
    engRead s1 c t.addr (t.n * rowPad t.k (qWidth t.q)) (fun s2' w => fin s2' ⟨t.q, sw, s2, w, t.n, t.k⟩))

/-- Reads the blocks of J, JT and the biases (R193, R201, R209). -/
def readBlocks (s : State) (c : Nat) (bi : Bool) (ab : List Byte)
    (fin : State → ArrayAt → ArrayAt → ArrayAt → EngOut) : EngOut :=
  let f := fieldOf ab
  let na := f 0 4
  let nb := f 4 4
  readQblk s c (f 16 8) [2, 3, 4] (fun s1 qj =>
    readQblk s1 c (if bi then f 32 8 else 0) [2, 3, 4] (fun s2 qt =>
      readQblk s2 c (if f 40 8 = 0 then 0 else f 48 8) [4] (fun s3 qb =>
        fin s3 ⟨f 8 8, qj, na, if bi then nb else na⟩ ⟨f 24 8, qt, nb, if bi then na else 0⟩
          ⟨f 40 8, qb, if bi then na + nb else na, if f 40 8 = 0 then 0 else 1⟩)))

/-- Whether the coding of a problem is refused: mixed, or SEQUENTIAL with a BF16 J (R203, R206). -/
def codingBad (bs : List Byte) (j jt b : ArrayAt) : Bool :=
  let coded (t : ArrayAt) : Bool := decide (qFmt t.q ≠ 0)
  decide (jt.n ≠ 0 ∧ coded jt ≠ coded j) || decide (b.n ≠ 0 ∧ coded b ≠ coded j) ||
    decide (fieldOf bs 1 1 = 1 ∧ coded j = false)

/-- Reads a problem for an EXACT field (R57, R87, R193, R203, R206): the blocks, their coding, an engine with all its
banks, the second-level scales of J, of JT and of the biases, then scales and codes. That the equal scales of R206 are
asked for after the ranges of R87 is the model's (DESIGN CHOICE, log entry 74). -/
def readProblem (s : State) (c core : Nat) (bs ab : List Byte) (fin : State → Problem → EngOut) : EngOut :=
  readBlocks s c (annealBi bs) ab (fun s0 j jt b =>
    if codingBad bs j jt b then .done stBadField s0
    else if (denseCore s0 c core 0).isNone then .done stCapacityRefused s0
    else
      readS2 s0 c j.q j.n true (fun s1 a1 => readS2 s1 c jt.q jt.n true (fun s2 a2 => readS2 s2 c b.q b.n true (fun s3 a3 =>
        readCodes s3 c j a1 (fun s4 cj =>
          if fieldOf bs 1 1 = 1 ∧ oneScale cj = false then .done stBadField s4
          else
            readCodes s4 c jt a2 (fun s5 ct => readCodes s5 c b a3 (fun s6 cb =>
              fin s6 ⟨cj, if jt.n = 0 then noCodes else ct, if b.n = 0 then noCodes else cb⟩)))))))

/-! ### Fields -/

/-- Element k of column i. -/
def CodeIn.raw (t : CodeIn) (i k : Nat) : Nat := elemAt (qWidth t.q) t.w (rowPad t.k (qWidth t.q)) i k

/-- The scale product of a group of a column (R82, R203). -/
def CodeIn.scale (t : CodeIn) (g i : Nat) : Dy := dyMul (ue4m3 (fieldOf t.sw (g * t.n + i) 1)) (fpDy (fieldOf t.s2 (4 * i) 4))

/-- The coupling part of a column's field for the spins of a mask whose bit `base + k` is variable k; the position
`skip` counts as zero (R86, R203, R204). -/
def CodeIn.field (t : CodeIn) (mask base i : Nat) (skip : Option Nat) : Lacc :=
  let sp (k : Nat) : Int := spinInt (mask.testBit (base + k))
  if qFmt t.q = 0 then
    (List.range t.k).foldl (fun x k =>
      if skip = some k then x
      else
        match numMul (fpVal fmtBf (t.raw i k)) (.fin (dyInt (sp k))) with
        | .fin d => laccAdd x (laccOf (dyUnits d).1)
        | y => laccAdd x (numLacc y)) (.fin 0)
  else
    let G := qGroup t.q
    let w (k : Nat) : Int := if skip = some k then 0 else wgtVal (qFmt t.q) (t.raw i k)
    (List.range ((t.k + G - 1) / G)).foldl (fun x g =>
      laccAdd x (laccOf (dyUnits (dyMul (dyInt (groupSum sp w (g * G) (min (g * G + G) t.k))) (t.scale g i))).1)) (.fin 0)

/-- The bias term of a variable (R201, R204). -/
def biasTerm (b : CodeIn) (i : Nat) : Lacc :=
  if b.n = 0 then .fin 0
  else if qFmt b.q = 0 then numLacc (fpVal fmtBf (b.raw 0 i))
  else .fin (dyUnits (dyMul (dyInt (wgtVal 4 (b.raw 0 i))) (b.scale (i / qGroup b.q) 0))).1

/-- The field of a variable for the spins of a mask (R203 to R205). -/
def annealField (bi : Bool) (na : Nat) (t : Problem) (mask i : Nat) : Lacc :=
  let x :=
    if bi then (if i < na then t.jt.field mask na i none else t.j.field mask 0 (i - na) none)
    else t.j.field mask 0 i (some i)
  laccAdd x (biasTerm t.bias i)

/-! ### Steps -/

/-- How far a dense run has come. -/
structure DenseRun where
  rows    : List Nat
  tallies : List Lacc
  flips   : Nat
  macs    : Nat
  full    : Bool
  deriving DecidableEq, Repr

/-- The decision of a variable from its field (R48, R132, R204). -/
def denseBit (rule beta : Nat) (t : Memory) (f : Lacc) (b : Bool) (u : Nat) : Bool :=
  match f with
  | .fin v => decideBit rule beta t (.fin ⟨v, -200⟩) b u
  | .pinf => false
  | .ninf => true
  | .nan => b

/-- What a variable adds to its replica's tally: its old and new bit, its field before and after the step (R48, R144,
R208); a non-finite field gives −INF. -/
def denseTerm (old new : Bool) (f g : Lacc) : Lacc :=
  match f, g with
  | .fin v, .fin w => .fin (if new != old then -(spinInt old * (v + w)) else 0)
  | _, _ => .ninf

/-- Adds the terms of a step to a tally: the finite ones exactly, then −INF where a field was not finite (R48, R145). That
the finite ones come first, so that a sum that overflows to +INF ends as NaN, is the model's order (DESIGN CHOICE, log
entry 91). -/
def tallyTerms (t : Lacc) (l : List Lacc) : Lacc :=
  let v := (l.map (fun x => match x with | .fin v => v | _ => (0 : Int))).foldl (· + ·) 0
  let x := match t with
    | .fin a => laccOf (a + v)
    | y => y
  if l.all laccFinite then x else laccAdd x .ninf

/-- What one step needs. -/
structure StepIn where
  bs    : List Byte
  na    : Nat
  prob  : Problem
  betas : List (BitVec 32)
  table : Memory
  deriving DecidableEq, Repr

/-- Updates variables of one replica together from the state before the step (R205, R208): new row, terms, flips. -/
def stepReplica (a : StepIn) (sites : List Nat) (step k row : Nat) : Nat × List Lacc × Nat :=
  let fd := fieldOf a.bs
  let bi := annealBi a.bs
  let dec := sites.map (fun i =>
    let f := annealField bi a.na a.prob row i
    let b := row.testBit i
    let u := ctrWord (fd 40 8) (fd 38 2) i step k 0
    (i, b, denseBit (fd 2 1) ((a.betas.getD k 0).toNat) a.table f b u, f))
  let row' := dec.foldl (fun m d => setMaskBit m d.1 d.2.2.1) row
  let term (d : Nat × Bool × Bool × Lacc) : Lacc :=
    denseTerm d.2.1 d.2.2.1 d.2.2.2 (if fd 1 1 = 2 then annealField bi a.na a.prob row' d.1 else d.2.2.2)
  (row', dec.map term, (dec.filter (fun d => d.2.1 != d.2.2.1)).length)

/-- Products that one field pass over a step's variables forms for the named replicas; in SEQUENTIAL the vector
engine updates the fields (R206, R217). -/
def passMacs (bs : List Byte) (na nb : Nat) : Nat :=
  (namedReplicas (fieldOf bs 16 8)).length * (if fieldOf bs 1 1 = 0 then na * nb else na * na)

/-- One step of every named replica. -/
def denseStep (a : StepIn) (nb : Nat) (sites : List Nat) (step : Nat) (r : DenseRun) : DenseRun :=
  let m := if fieldOf a.bs 1 1 = 1 then 0 else passMacs a.bs a.na nb
  if r.full then r
  else
    (namedReplicas (fieldOf a.bs 16 8)).foldl (fun r k =>
      let o := stepReplica a sites step k (r.rows.getD k 0)
      let t := tallyTerms (r.tallies.getD k (.fin 0)) o.2.1
      { rows := listUpd r.rows k (fun _ => o.1), tallies := listUpd r.tallies k (fun _ => t), flips := r.flips + o.2.2,
        macs := r.macs, full := r.full || !laccFinite t }) { r with macs := r.macs + m }

/-- The steps of a traverse: step number and the variables of each (R202, R205, R207, R208). -/
def traverseSteps (a : StepIn) (nb t : Nat) : List (Nat × List Nat) :=
  let fd := fieldOf a.bs
  let half := fd 3 1 / 2
  if fd 1 1 = 0 then
    (if half = 2 then [] else [(2 * t, (List.range nb).map (fun j => a.na + j))]) ++
    (if half = 1 then [] else [(2 * t + 1, List.range a.na)])
  else if fd 1 1 = 2 then [(t, List.range a.na)]
  else
    let u (i : Nat) : Nat := ctrWord (fd 40 8) (fd 38 2) i (t * a.na) 0 3
    let order := if bitOf (fd 3 1) 0 then
      (((List.range a.na).map (fun i => (u i, i))).mergeSort (fun x y => decide (x.1 < y.1 ∨ (x.1 = y.1 ∧ x.2 ≤ y.2)))).map Prod.snd
      else List.range a.na
    order.zipIdx.map (fun p => (t * a.na + p.2, [p.1]))

/-- Every traverse of a command. -/
def annealAll (a : StepIn) (nb P : Nat) (r : DenseRun) : DenseRun :=
  let t0 := fieldOf a.bs 32 6 / P
  (List.range (fieldOf a.bs 4 4)).foldl (fun r t =>
    (traverseSteps a nb (t0 + t)).foldl (fun r st => denseStep a nb st.2 st.1 r) r) r

/-! ### The command -/

/-- The dense command that a core's unit has taken up and not finished, when it is a DENSE_ANNEAL. -/
def annealHead (w : Work) : Option (List Byte) :=
  match w.denseU.queue with
  | c :: _ => if w.denseU.running ∧ w.denseU.result = none ∧ cmdOp c.bytes = 0x32 then some c.bytes else none
  | [] => none

/-- Gives the DENSE_ANNEAL of every core of a RUN that has taken it up its status. -/
def setAnnealResults (s : State) (r : Run) (st : Status) : State :=
  (r.cores.filter (fun n => (annealHead (runWork s r n)).isSome)).foldl (setResult .dense st) s

/-- The bytes of a state row with new bits; padding bits keep what memory held (log entry 14). -/
def rowImage (n row : Nat) (old : List Byte) : List Byte :=
  let v := leNat old
  natLe ((n + 7) / 8) (v / 2 ^ n * 2 ^ n + row % 2 ^ n)

/-- Runs a checked command: the rows and the tallies come back, the counts go to the RUN's lowest core (R209). -/
def annealRun (s : State) (r : Run) (bs ab : List Byte) (t : Problem) (betas : List (BitVec 32)) : EngOut :=
  let c := r.key.ctx
  let core := r.cores.headD 0
  let n := annealVars bs ab
  let stride := rowPad n 1
  let addr (k : Nat) : Nat := fieldOf ab 56 8 + k * stride
  let named := namedReplicas (fieldOf bs 16 8)
  let tallies := (tallyArray s core bs).map laccOfImage
  let added := if annealBi bs then 0 else passMacs bs (fieldOf ab 0 4) 0
  if fieldOf bs 4 4 = 0 then .done stDone s
  else if named.any (fun k => !laccFinite (tallies.getD k (.fin 0))) then .done stFieldOverflow s
  else
    engRead s c (fieldOf ab 56 8) ((named.getLastD 0 + 1) * stride) (fun s1 bytes =>
      let rows := (List.range 64).map (fun k => leNat ((bytes.drop (k * stride)).take ((n + 7) / 8)) % 2 ^ n)
      let a : StepIn := ⟨bs, fieldOf ab 0 4, t, betas, (s.ctxAt c).accTable⟩
      let o := annealAll a (fieldOf ab 4 4) (annealP bs ab) ⟨rows, tallies, 0, 0, false⟩
      engWrite s1 c (named.map (fun k =>
        (addr k, rowImage n (o.rows.getD k 0) ((bytes.drop (k * stride)).take ((n + 7) / 8))))) (fun s2 =>
        let s3 := storeTallies s2 r (fieldOf bs 16 8) (fieldOf bs 28 4) (o.tallies.map laccImage)
        .done (if o.full then stFieldOverflow else stDone)
          (s3.updCore core (fun x => { x with
            denseFlips := x.denseFlips + BitVec.ofNat 64 o.flips
            macs := x.macs + BitVec.ofNat 64 (o.macs + added) }))))

/-- A DENSE_ANNEAL that every core of the RUN has issued: its checks and its run (R153, R209, R215). -/
def annealBody (s : State) (r : Run) (bs : List Byte) : EngOut :=
  let c := r.key.ctx
  let core := r.cores.headD 0
  let betas := betaArray s core bs
  match annealFirst r bs betas, (storeBad s core (fieldOf bs 24 4) 256).or (storeBad s core (fieldOf bs 28 4) 3072) with
  | some st, _ => .done st s
  | none, some l => .stop (.ue .coreStore l) false
  | none, none =>
    engRead s c (fieldOf bs 8 8) 64 (fun s1 ab =>
      match annealBlock bs ab with
      | some st => .done st s1
      | none =>
        if annealSecond bs ab ∨ pastEnd (fieldOf ab 56 8) (((namedReplicas (fieldOf bs 16 8)).getLastD 0 + 1) * rowPad (annealVars bs ab) 1) then .done stBadField s1
        else
          readProblem s1 c (r.cores.headD 0) bs ab (fun s2 t => annealRun s2 r bs ab t betas))

/-- The cores whose dense engines work a RUN's DENSE_ANNEAL: its own, or those that its EXACT work is moved to (R57). -/
def annealEngines (s : State) (r : Run) : List Nat := r.cores.filterMap (fun n => denseCore s r.key.ctx n 0)

/-- The command that a core's dense engine has in hand for a RUN: taken up and not completed. -/
def denseInHand (w : Work) : Option (List Byte) :=
  match w.denseU.queue with
  | q :: _ => if w.denseU.running ∨ w.denseU.result.isSome then some q.bytes else none
  | [] => none

/-- DENSE_STATE.MODE of a core's engine (R57, R216): 1 while it works a DENSE_MATMUL, its own or one moved to it, 2 while
it works a DENSE_ANNEAL, 3 while the RUN of that command is being stopped or its core quiesced, else 0. -/
def denseModeOf (s : State) (core : Nat) : Nat :=
  let use (p : Nat × Core) : Option Nat :=
    match denseInHand p.2.work, s.runOf p.1 with
    | some bs, some r =>
      let op := cmdOp bs
      let at_ := denseCore s r.key.ctx p.1 (if op = 0x31 then fieldOf bs 1 1 % 4 else 0)
      if at_ ≠ some core ∨ (op ≠ 0x31 ∧ op ≠ 0x32) then none
      else if r.phase = .stopping ∨ p.2.quiesce ≠ 0 then some 3 else some (op - 0x30)
    | _, _ => none
  (s.cores.findSome? use).getD 0

/-- What a DENSE_ANNEAL costs each core of its RUN: the array clocks of the products that its engine has formed, and the
near-memory bytes of the command, which the lowest core pays for (R464; log entry 56). -/
def annealCost (s s1 : State) (r : Run) (bs : List Byte) (core : Nat) : Nat :=
  creditUnit * (65536 * arrayClocks s r.key.ctx bs ((s1.coreAt core).macs - (s.coreAt core).macs).toNat +
    (if r.cores.head? = some core then s1.power.charge else 0))

/-- Brings together the cores of a RUN that have issued a DENSE_ANNEAL (R154, R209): it runs once every core has issued
it; a different command or a core that has ended without it gives BAD_FIELD. -/
def gatherAnneal (s : State) (k : RunKey) : State :=
  match s.findRun k with
  | none => s
  | some r =>
    let ws := r.cores.map (runWork s r)
    let heads := ws.map annealHead
    match heads.findSome? id with
    | none => s
    | some bs =>
      if !runActive s r ∨ ws.any (fun w => !workEnded w && (annealHead w).isNone) then s
      else if heads.any (fun h => decide (h ≠ some bs)) then setAnnealResults s r stBadField
      else
        match annealBody s r bs with
        | .done st s1 =>
          whenPaid s s1 r.cores .dense (annealCost s s1 r bs) (fun t => setAnnealResults t r st)
        | .stop x w =>
          let core := r.cores.headD 0
          stopAccess s k.ctx x w 2 core k.ring k.slot (.engine core .dense)

/-- DENSE_ANNEAL (R200 to R209): the dense unit of a core takes up its head command; `parity` tells of the banks, each of a
core's engine, that give a parity error in the run's field passes, and whether the recovery check agrees (R58, R215). A
command that forms no product meets none. -/
def execDenseAnneal (core : Nat) (s : State) (parity : List (Nat × Nat × Bool) := []) : Outcome State Fault Refusal :=
  .next (match unitReady s core .dense with
    | none => s
    | some (r, q) =>
      if cmdOp q.bytes ≠ 0x32 ∨ !turnOf (s.workAt core) .dense q.ordinal then s
      else
        let s1 := gatherAnneal (s.updWork core (fun w => { w with denseU := { w.denseU with running := true } })) r.key
        let low := r.cores.headD 0
        if (s1.coreAt low).macs = (s.coreAt low).macs then s1
        else parityErrors s1 r.key.ctx 0 (parity.filter (fun e => decide (e.1 ∈ annealEngines s r))))

end Sys2Proof.Machine
end

