-- ==== Sys2Proof/Machine/Admit.lean ====
section
/-! DEFINITION. Admission of timed plots and control services (R295 to R299): the block and its declaration, the timing
model, the power plan, and the floor and the setting of the power cap (R299, R469). -/

namespace Sys2Proof.Machine

/-! ### The power cap -/

/-- Power that admitted plots and services reserve, in mW (R298, R299). -/
def reservedMw (s : State) : Nat :=
  (s.plots.map (fun (p : Nat × Plot) => p.2.reservedMw)).foldl (· + ·) 0 +
  (s.services.map Service.reservedMw).foldl (· + ·) 0

/-- FLOOR_W: 215 W plus admitted reservations, rounded up (R299, R469). -/
def floorW (s : State) : Nat := 215 + (reservedMw s + 999) / 1000

/-- The cap that a written CAP_W stands for (R469). -/
def capOf (s : State) (w : Nat) : Nat :=
  let c := if w = 0 then 1000 else max 400 (min 1000 w)
  max c (floorW s)

/-- The cap in effect: the written cap, and never below the floor (R299, R469). -/
def capInEffect (s : State) : Nat := max s.power.capW (floorW s)

/-! ### Block and declaration -/

/-- The declaration's entries: opcode, class, count, amount, and whether the reserved bytes are zero (R295). -/
def declEntry (bs : List Byte) (i : Nat) : Nat × Nat × Nat × Nat :=
  (fieldOf bs (16 * i) 1, fieldOf bs (16 * i + 1) 1, fieldOf bs (16 * i + 4) 4, fieldOf bs (16 * i + 8) 8)

/-- The first failing check of a declaration entry, in byte order (R295). -/
def entryStatus (bs : List Byte) (i : Nat) : Option Status :=
  let e := declEntry bs i
  if (unitOf e.1).isNone ∧ e.1 ≠ 1 then some stBadOpcode
  else if (e.1 = 1 ∧ 3 < e.2.1) ∨ ((e.1 = 0x31 ∨ e.1 = 0x32) ∧ 2 < e.2.1) ∨
      (e.1 ≠ 1 ∧ e.1 ≠ 0x31 ∧ e.1 ≠ 0x32 ∧ e.2.1 ≠ 0) then some stBadField
  else if fieldOf bs (16 * i + 2) 2 ≠ 0 then some stBadField
  else if (e.1 = 0x22 ∨ e.1 = 0x24) ∧ e.2.2.2 ≠ 0 then some stBadField
  else none

/-- The first failing check of an admission block of a kind, in byte order (R295). -/
def admitStatus (kind : Nat) (bs : List Byte) : Option Status :=
  if fieldOf bs 0 1 ≠ kind ∨ fieldOf bs 1 3 ≠ 0 then some stBadField
  else if kind = 1 ∧ fieldOf bs 4 4 = 0 then some stLenZero
  else if fieldOf bs 16 8 = 0 ∨ fieldOf bs 16 8 % 64 ≠ 0 ∨ 2 ^ 48 < fieldOf bs 16 8 + 16 * fieldOf bs 24 2 then
    some stBadField
  else if fieldOf bs 24 2 = 0 then some stLenZero
  else if 1024 < fieldOf bs 24 2 ∨ fieldOf bs 26 6 ≠ 0 ∨ fieldOf bs 46 18 ≠ 0 then some stBadField
  else none

/-- The status that a stopped access of an admission or a service block stands for (R403; log entry 23). -/
def stopStatus (x : Stop) : Status :=
  match x with
  | .fault k _ => faultStatus k
  | .pri _ => stXlateFault
  | .ue _ _ => stMemUe

/-! ### The timing model (R296) -/

/-- k_w (R147). -/
def codeFactor (p : PlatInfo) : Nat := max 1 (platWidth p / 2)

/-- T of a traverse of a parcel (R147). -/
def traverseClk (p : PlatInfo) (q : Parcel) : Nat :=
  let S := ((List.range 18).map (fun c => ((parcelColour p q c).length + 31) / 32)).foldl (· + ·) 0
  let t := codeFactor p * ((p.replicas * S + 7) / 8)
  if p.order = 0 then t + 12 else 2 * t + 40

/-- Latency and throughput of a vector opcode, the slowest where R214 gives several (log entry 24). -/
def vectorRate (op : Nat) : Nat × Nat :=
  if op = 0x41 then (9, 4) else if op = 0x42 then (30, 32) else if op = 0x43 then (30, 32)
  else if op = 0x44 then (20, 256) else if op = 0x45 then (40, 16) else if op = 0x46 then (6, 1) else (6, 128)

/-- Latency and rate of a DMA class (R285). -/
def dmaRate (cls : Nat) : Nat × Nat := if cls = 0 then (400, 32) else if cls = 1 then (1200, 4) else (60, 64)

/-- ⌈a / b⌉. -/
def ceilDiv (a b : Nat) : Nat := (a + b - 1) / b

/-- The cost of one command of a declaration entry, T being the traverse's clocks (R296). -/
def entryClk (T : Nat) (e : Nat × Nat × Nat × Nat) : Nat :=
  let n := e.2.2.2
  if e.1 = 0x21 then 36 + n * T
  else if e.1 = 0x23 then 36 + n * (T + 80)
  else if e.1 = 0x31 ∨ e.1 = 0x32 then 300 + ceilDiv n (if e.2.1 = 0 then 1024 else if e.2.1 = 1 then 4096 else 8192)
  else if e.1 = 0x33 then 316 + ceilDiv n 64
  else if e.1 = 0x22 ∨ e.1 = 0x24 then 512
  else if e.1 = 1 then (dmaRate e.2.1).1 + ceilDiv n (dmaRate e.2.1).2
  else (vectorRate e.1).1 + 100 + ceilDiv n (vectorRate e.1).2

/-- W of a declaration (R296). -/
def wcetOf (T : Nat) (es : List (Nat × Nat × Nat × Nat)) : Nat :=
  2040 + 1020 + (es.map (fun e => e.2.2.1 * (4 + entryClk T e))).foldl (· + ·) 0

/-! ### The power plan (R298) -/

/-- Reserved power of a declaration on `c` of `n` enabled cores, in mW, rounded up (R298). -/
def powerOf (c n : Nat) (es : List (Nat × Nat × Nat × Nat)) : Nat :=
  let has (f : Nat × Nat × Nat × Nat → Bool) : Bool := es.any (fun e => decide (e.2.2.1 ≠ 0) && f e)
  (if has (fun e => decide (e.1 = 0x21 ∨ e.1 = 0x23 ∨ e.1 = 0x32)) then 2612 * c else 0) +
  (if has (fun e => decide (e.1 = 0x31)) then 2786 * c else 0) +
  (if has (fun e => decide (e.1 = 1 ∧ e.2.1 = 0)) then ceilDiv (250000 * c) (max 1 n) else 0)

/-! ### The evaluation -/

/-- What an admission gives: its status, W, the power in mW, the declaration, and the uncorrectable error that its reads have
met (R295, R413). -/
structure Admission where
  status : Status
  wcet   : Nat
  mw     : Nat
  decl   : List (Nat × Nat × Nat × Nat)
  ue     : Option (Level × Nat) := none
  deriving DecidableEq, Repr

/-- A refusal without a model. -/
def refusal (st : Status) : Admission := { status := st, wcet := 0, mw := 0, decl := [] }

/-- The uncorrectable error of a stopped access (R413). -/
def Stop.ue? (x : Stop) : Option (Level × Nat) :=
  match x with
  | .ue l n => some (l, n)
  | _ => none

/-- A refusal at a stopped access. -/
def stopped (x : Stop) : Admission := { refusal (stopStatus x) with ue := x.ue? }

/-- A read that the device makes for a context outside any descriptor has been stopped by an uncorrectable error, or by none
(R413). -/
def ueOf (s : State) (c : Nat) (ue : Option (Level × Nat)) : State :=
  match ue with
  | some (l, n) => deviceUe s c l n
  | none => s

/-- Sites of a cut's largest parcel. -/
def largestParcel (p : PlatInfo) (l : List Parcel) : Nat := (l.map (parcelSites p)).foldl max 0

/-- The cut that admission takes of some: the one with the smallest largest parcel, the first such (DESIGN CHOICE, log
entry 24). -/
def bestCut (p : PlatInfo) (ls : List (List Parcel)) : List Parcel :=
  match ls with
  | [] => []
  | l :: r => r.foldl (fun b c => if largestParcel p c < largestParcel p b then c else b) l

/-- The cuts of a plat over a plot's cores in which every parcel may be resident, no data area and no schedule being
known: those of grids, else some cut of R123 where there is one (R123, R148, R297). -/
def residentCuts (p : PlatInfo) (cores : List Nat) : List (List Parcel) :=
  match (gridCuts p cores).filter (fun l => l.all (resident p false 0)) with
  | [] => (someCut p (resident p false 0) cores []).toList
  | ls => ls

/-- The evaluation of a block and a declaration that have passed their checks, with the plat where one is named and the
longest deadline that the service allows (R296 to R299). -/
def evaluate (s : State) (cores : List Nat) (bs decl : List Byte) (plat : Option PlatInfo) (most : Nat) : Admission :=
  let es := (List.range (fieldOf bs 24 2)).map (declEntry decl)
  let held := match plat with | some p => residentCuts p cores | none => []
  let cut := match plat with | some p => bestCut p (if held.isEmpty then gridCuts p cores else held) | none => []
  let T := match plat with | some p => (cut.map (traverseClk p)).foldl max 0 | none => 0
  let W := wcetOf T es
  let mw := powerOf cores.length s.coreCount es
  let d := fieldOf bs 4 4
  let isSpin (e : Nat × Nat × Nat × Nat) : Bool := decide (e.1 = 0x21 ∨ e.1 = 0x23)
  let late := (decide (d ≠ 0 ∧ d * 17 / 10 < W)) || es.any (fun e => decide (e.1 = 1 ∧ e.2.1 = 2)) ||
    (es.any isSpin && plat.isNone) || decide (most < d) ||
    (plat.isSome && held.isEmpty)
  if late then { status := stDeadlineRefused, wcet := W, mw := mw, decl := [] }
  else if capInEffect s * 1000 < 215000 + mw + reservedMw s then { status := stPowerRefused, wcet := W, mw := mw, decl := [] }
  else { status := stDone, wcet := W, mw := mw, decl := es }

/-- Reads and evaluates the admission block at an address of a context (R295). -/
def admission (s : State) (c va kind : Nat) (cores : List Nat) (most : Nat) : Admission :=
  if va % 64 ≠ 0 ∨ 2 ^ 48 < va + 64 then refusal stBadField
  else
    match (rangeStop s c va 64 false).or (rangeStop s c va 64 true) with
    | some x => stopped x
    | none =>
      let bs := vaRead s c va 64
      match admitStatus kind bs with
      | some st => refusal st
      | none =>
        let n := fieldOf bs 24 2
        match rangeStop s c (fieldOf bs 16 8) (16 * n) false with
        | some x => stopped x
        | none =>
          let decl := vaRead s c (fieldOf bs 16 8) (16 * n)
          match (List.range n).findSome? (entryStatus decl) with
          | some st => refusal st
          | none =>
            if fieldOf bs 8 8 = 0 then evaluate s cores bs decl none most
            else
              match validatePlat s c (fieldOf bs 8 8) with
              | .refuse st => refusal st
              | .stop x => stopped x
              | .ok p _ => evaluate s cores bs decl (some p) most

/-- Writes an admission's result into its block: WCET_CLK, POWER_MW and STATUS (R295). A block that cannot be written
takes nothing. -/
def writeAdmission (s : State) (c va : Nat) (a : Admission) : State :=
  if va % 64 ≠ 0 ∨ 2 ^ 48 < va + 64 ∨ (rangeStop s c (va + 32) 14 true).isSome then s
  else vaWrite s c (va + 32) (natLe 8 a.wcet ++ natLe 4 a.mw ++ natLe 2 a.status.toNat)

end Sys2Proof.Machine
end

