-- ==== Sys2Proof/Machine/Spin.lean ====
section
/-! DEFINITION. The events of a spin run (chapters 05, 06, 08): SPIN_TRAVERSE, SPIN_SCHEDULE, the table loads, the issue
of strips, easement messages, traverse boundaries, holds for benchmarks and snapshots (R157, R329, R411), and stops. -/

namespace Sys2Proof.Machine

open Host (Outcome)

/-! ### Starting a spin command on its RUN -/

/-- What the checks that depend on the plat give: the run block with its tables, a refusal or a stopped access, each with
the run block where it has been read. -/
inductive Checked where
  | ok (blk : List Byte)
  | refuse (st : Status) (blk : Option (List Byte))
  | stop (x : Stop) (blk : Option (List Byte))
  deriving DecidableEq, Repr

/-- The run block of a command that is being started: as it has been read, or read now (R165). -/
def startBlock (s : State) (r : Run) (bs : List Byte) : List Byte ⊕ Stop :=
  match r.block.filter (fun b => decide (b.1 = bs)) with
  | some b => .inl b.2
  | none => readBlock s r.key.ctx (fieldOf bs 24 8)

/-- The checks after the plat is known (R153, R170), made once: a block with its tables has passed them. `lead` holds the
inputs that a group's lead has sent (R165, R237). -/
def checkSecond (s : State) (r : Run) (p : PlatInfo) (bs : List Byte) (lead : Option (List Byte)) : Checked :=
  let c := r.key.ctx
  if cmdOp bs = 0x21 then
    match travSecond p bs with
    | some st => .refuse st none
    | none => .ok []
  else if 2 ^ p.replicas ≤ fieldOf bs 16 8 then .refuse stBadField none
  else
    match startBlock s r bs with
    | .inr x => .stop x none
    | .inl own =>
      if 256 < own.length then .ok own
      else
        let blk := match lead with
          | some b => b.take 128 ++ own.drop 128
          | none => own
        match blockStatus s c p (fieldOf bs 16 8) blk with
        | some st => .refuse st (some blk)
        | none =>
          let tables : List Byte ⊕ Stop := match lead with
            | some b => .inl (b.drop 256)
            | none => readTables s c blk
          match tables with
          | .inr x => .stop x (some blk)
          | .inl t => if schedRest p (fieldOf bs 16 8) (blk ++ t) then .ok (blk ++ t) else .refuse stBadField (some blk)

/-- A RUN with the run block that its command has read. -/
def Run.withBlock (r : Run) (bs : List Byte) (b : Option (List Byte)) : Run :=
  match b with
  | some b => { r with block := if cmdOp bs = 0x23 then some (bs, b) else none }
  | none => r

/-- Goes on with a command whose checks that depend on the plat pass; a refusal ends it, a stopped access waits, and what
has been read of the run block stays read (R165, R170, R186). -/
def checkThen (s : State) (r : Run) (p : PlatInfo) (bs : List Byte) (lead : Option (List Byte))
    (body : State → Run → List Byte → State) : State :=
  let put (r1 : Run) : State := s.updRun r.key (fun x => { x with block := r1.block })
  match checkSecond s r p bs lead with
  | .refuse st b => refuseSpin (put (r.withBlock bs b)) (r.withBlock bs b) st true false
  | .stop x b => spinStop (put (r.withBlock bs b)) r x false
  | .ok b => body (put (r.withBlock bs (some b))) (r.withBlock bs (some b)) b

/-- A command's digest: its bytes but for PLAT and RUN_BLOCK (R236). -/
def cmdDigest (bs : List Byte) : Nat :=
  leNat (bs.take 8 ++ zeros 8 ++ (bs.drop 16).take 8 ++
    (if cmdOp bs = 0x23 then zeros 8 else (bs.drop 24).take 8) ++ bs.drop 32)

/-- Whether this chip chooses the cut of a LOCKSTEP pair: it has the lower identifier (R247). -/
def choosesCut (s : State) (g : Group) : Bool := g.members.all (fun n => decide (s.fab.chip ≤ n))

/-- Whether a command's schedule captures, so that its run needs shadow planes: by its block, a member's by the lead's
(R184, R237). -/
def blockCaptures (bs blk : List Byte) : Bool :=
  decide (cmdOp bs = 0x23) && (parseBlock blk).entries.any (fun e => bitOf e.mode 3)

/-- The plat of a command: the configured run's, or validated anew but for its placement (R118, R122, R235). -/
def platOf (s : State) (r : Run) (bs : List Byte) : PlatResult :=
  match r.spin with
  | some q => .ok q.plat q.scales
  | none =>
    match validatePlat s r.key.ctx (fieldOf bs 8 8), groupOf s r.key.ctx with
    | .ok p sc, some g =>
      let G := s.groupAt g
      if G.kind ≠ 0 then .ok p sc
      else
        match rangeStop s r.key.ctx G.plan 128 false with
        | some x => .stop x
        | none => match slabPlat s r.key.ctx G p with
          | some p1 => .ok p1 sc
          | none => .refuse stBadField
    | v, _ => v

/-- What the placement of a command's run gives: the run, a refusal, or a cut of the other chip still to come (R247). -/
inductive Placed where
  | ok (q : SpinRun)
  | refuse
  | waitCut
  deriving DecidableEq, Repr

/-- The run of a command with its placement: check 15 of R118, made last, since R122 puts the choice of placement after the
checks that depend on the plat (R27 to R29, R123, R124, R247; `cut` is the device's choice; DEDUCED, log entry 86). A run's
placement stands; its first schedule that captures gives it shadow planes (R151, R184). -/
def placeOf (s : State) (r : Run) (p : PlatInfo) (sc : PlatScales) (bs blk : List Byte) (cut : List Parcel) : Placed :=
  let c := r.key.ctx
  let sh := blockCaptures bs blk
  let put (l : Option Placement) : Placed := match l with
    | some l => .ok (configuredRun s r p sc bs sh l)
    | none => .refuse
  match r.spin with
  | some q => if sh ∧ q.shadow = false then
      (match addShadow s r q with | some q1 => .ok q1 | none => .refuse)
    else .ok q
  | none =>
    match (groupOf s c).map s.groupAt with
    | none => put (choosePlacement s c p r.cores sh r.hdr.dataBytes cut)
    | some G =>
      if G.kind = 0 ∨ choosesCut s G then put (choosePlacement s c p r.cores sh r.hdr.dataBytes cut)
      else
        match G.cuts.find? (fun e => decide (e.1 = G.cmds)) with
        | none => .waitCut
        | some e =>
          if r.cores.length < e.2.length then .refuse
          else put (placeCut s c p sh r.hdr.dataBytes (e.2.zipIdx.map (fun t => { t.1 with core := r.cores.getD t.2 1024 })))

/-- Goes on with a command whose run has its placement (R122). -/
def placeThen (s : State) (r : Run) (p : PlatInfo) (sc : PlatScales) (bs blk : List Byte) (cut : List Parcel)
    (body : SpinRun → State) : State :=
  match placeOf s r p sc bs blk cut with
  | .refuse => refuseSpin s r stCapacityRefused true false
  | .waitCut => s
  | .ok q => body q

/-- Whether a command is its run's first and draws the initial bits (R116). -/
def drawsBits (r : Run) (p : PlatInfo) : Bool := p.spinInit && r.spin.all firstCommand

/-- Goes on with a command once what its initial draw reads of the plat can be read (R116). -/
def drawThen (s : State) (r : Run) (p : PlatInfo) (body : State) : State :=
  match (if drawsBits r p then readsStop s r.key.ctx (drawReads p) else none) with
  | some x => spinStop s r x false
  | none => body

/-- Whether the partial energies of the initial draw have come from this chip's children (R116). -/
def energiesHere (s : State) (g : Group) (p : PlatInfo) : Bool :=
  (List.range p.replicas).all (fun k => (childCells g (ownCell s g)).all (fun cell =>
    g.partials.any (fun e => decide (e.1 = startKey g.cmds ∧ e.2.1 = k ∧ e.2.2.1 = cell))))

/-- The sum of the partial values that this chip's children have sent for a step and replica (R239). -/
def childSum (g : Group) (step replica : Nat) : Int :=
  ((g.partials.filter (fun e => decide (e.1 = step ∧ e.2.1 = replica))).map (fun e => e.2.2.2)).foldl (· + ·) 0

/-- A guarded register's 56-byte image (R239). -/
def guardedImage (v : Int) : List Byte := natLe 56 (v % (2 : Int) ^ 448).toNat

/-- A member of a SLAB group sends its exact partial energies of the initial draw up the tree, once those of its children
have come (R116, R239). -/
def sendStart (s : State) (r : Run) (p : PlatInfo) (sc : PlatScales) (g : Nat) (bs : List Byte) : State :=
  let G := s.groupAt g
  if G.sentStart ∨ !drawsBits r p ∨ G.kind ≠ 0 ∨ !energiesHere s G p then s
  else
    drawThen s r p ((List.range p.replicas).foldl (fun s k =>
      sendTally s g (G.cells.getD (parentCell G (ownCell s G)) 0) (startKey G.cmds) k
        (guardedImage (drawnPart s r.key.ctx p sc (fieldOf bs 40 8) (streamOf bs) k + childSum G (startKey G.cmds) k)))
      (s.updGroup g (fun G => { G with sentStart := true })))

/-- A configured run of a group keeps its configuration, the group is RUNNING from now on, and the lower chip of a
LOCKSTEP pair sends its cut (R236, R247). -/
def holdRun (s : State) (r : Run) (q : SpinRun) (g : Nat) : State :=
  let s1 := (s.updRun r.key (fun x => { x with spin := some q })).updGroup g (fun G => { G with
    st := if G.st = 2 then 3 else G.st })
  if r.spin = none ∧ (s.groupAt g).kind = 1 ∧ choosesCut s (s.groupAt g) then sendAll s1 g (.cut (s.groupAt g).cmds q.cut) else s1

/-- The starting tallies of a command: the TALLY_OFF array, or under SPIN_INIT at the run's first command the energies
of the drawn states as ENERGY forms them, over slabs from the exact sum of the members' parts (R116, R143, R213, R239). -/
def startTallies (s : State) (r : Run) (p : PlatInfo) (sc : PlatScales) (bs : List Byte) : List (List Byte) :=
  let own := tallyArray s (r.cores.headD 0) bs
  let seed := fieldOf bs 40 8
  if drawsBits r p then
    own.zipIdx.map (fun t =>
      if t.2 < p.replicas then
        match ((groupOf s r.key.ctx).map s.groupAt).filter (fun G => decide (G.kind = 0)), laccOfImage p.datum with
        | some G, .fin d =>
          laccImage (laccOf (d + drawnPart s r.key.ctx p sc seed (streamOf bs) t.2 + childSum G (startKey G.cmds) t.2))
        | _, _ => laccImage (drawnEnergy s r.key.ctx p sc seed (streamOf bs) t.2)
      else t.1)
  else own

/-- What a spin command reads at its start: the plat at the first, a run block with its ladder and table (R118, R165). -/
def commandReads (q : SpinRun) (bs blk : List Byte) : List (Nat × Nat) :=
  (if firstCommand q then platReads q.plat else []) ++
  (if firstCommand q && q.plat.spinInit then drawReads q.plat else []) ++
  (if cmdOp bs = 0x23 then
    [(fieldOf bs 24 8, 256), (fieldOf blk 16 8, if fieldOf blk 16 8 = 0 then 0 else 256),
     (fieldOf blk 8 8, 16 * fieldOf blk 0 2)]
  else [])

/-- What the start of a spin command transfers beside: a member's plan record, and what loads a resident plat into the core
stores, which under SPIN_INIT the draw has read (R148, R235). -/
def startReads (s : State) (q : SpinRun) (bs blk : List Byte) : List (Nat × Nat) :=
  commandReads q bs blk ++
  (match (q.group.map s.groupAt).filter (fun G => firstCommand q && decide (G.kind = 0)) with
   | some G => [(G.plan, 128)]
   | none => []) ++
  (if firstCommand q && !q.streamed && !q.plat.spinInit then drawReads q.plat else [])

/-- Marks the accesses of several ranges (R393, R401). -/
def markReads (s : State) (c : Nat) (l : List (Nat × Nat)) : State :=
  l.foldl (fun t a => markAccess t c a.1 a.2) s

/-- Marks the uses of unlocked pages of several ranges (R393). -/
def markUses (s : State) (c : Nat) (l : List (Nat × Nat)) : State :=
  l.foldl (fun t a => markUnlocked t c a.1 a.2) s

/-- What the start of a spin command marks in a timed plot: its reads, and a RELAXED run as such (R282, R286, R393). -/
def markStart (s : State) (r : Run) (q : SpinRun) (bs blk : List Byte) : State :=
  let s1 := markReads s r.key.ctx (startReads s q bs blk)
  match q.group with
  | some g => if (s.groupAt g).relax = 0 then s1 else markT s1 r.key.ctx
  | none => s1

/-- Begins an accepted command: the initial draw's planes and tallies, then its first step; a stopped write waits (R116). -/
def openSpin (s : State) (k : RunKey) : State :=
  match s.findRun k with
  | none => s
  | some r =>
    match r.spin with
    | none => s
    | some q =>
      match q.cmd with
      | none => s
      | some c =>
        if c.started ∨ c.result.isSome then s
        else
          let draw := q.plat.spinInit && firstCommand q
          let planes := if draw then (List.range q.plat.replicas).map (planeWrite s k.ctx q.plat q.spins) else []
          writeThen s r planes (fun s1 =>
            launchSpin (if draw then storeTallies s1 r (2 ^ q.plat.replicas - 1) c.tallyOff c.tallies else s1) k q c)

/-- A group whose present command begins: what started it is used up (R236, R237). -/
def Group.begun (G : Group) : Group :=
  { G with
    runStart := G.runStart.filter (fun d => decide (d.2.2.2.2 ≠ G.cmds)), broadcast := [], sentStart := false
    go := G.go.filter (fun n => decide (n ≠ G.cmds)), readied := G.readied.filter (fun e => decide (e.1 ≠ G.cmds))
    partials := G.partials.filter (fun e => decide (e.1 ≠ startKey G.cmds)) }

/-- Accepts a command of a configured run, once what its start transfers is paid for: from now on it is in flight (R122,
R131, R465). -/
def acceptSpin (s : State) (r : Run) (q : SpinRun) (bs blk : List Byte) (betas : List (BitVec 32))
    (tallies : List (List Byte)) : State :=
  nearThen s r (startReads s q bs blk) (fun t =>
    let c := newCmd r bs betas tallies blk
    let s1 := (markStart t r q bs blk).updRun r.key (fun x => { x with spin := some { q with cmd := some c }, block := none })
    openSpin (match q.group with
      | some g => s1.updGroup g Group.begun
      | none => s1) r.key)

/-- The lead of a group sends the run-start data of a command whose checks have passed, once it has the parts of an initial
draw's energies (R116, R236, R237). -/
def leadSend (s : State) (r : Run) (p : PlatInfo) (sc : PlatScales) (g : Nat) (bs blk : List Byte)
    (betas : List (BitVec 32)) : State :=
  let G := s.groupAt g
  if (presentStart G).isSome ∨ (drawsBits r p ∧ G.kind = 0 ∧ !energiesHere s G p) then s
  else
    let d := (betas, startTallies s r p sc bs, blk, cmdDigest bs, G.cmds)
    sendAll (s.updGroup g (fun G => { G with runStart := some d })) g (.runStart d.1 d.2.1 blk (cmdDigest bs) G.cmds)

/-- The lead lets every member start once the checks of all have passed; it starts with what it has sent (R165, R236). -/
def leadGo (s : State) (r : Run) (q : SpinRun) (g : Nat) (bs blk : List Byte) : State :=
  let G := s.groupAt g
  match presentStart G with
  | none => s
  | some d =>
    if (otherMembers s G).all (fun n => decide ((G.cmds, n) ∈ G.readied)) then
      acceptSpin (if G.go = some G.cmds then s else
        sendAll (s.updGroup g (fun G => { G with go := some G.cmds })) g (.go G.cmds)) r q bs blk d.1 d.2.1
    else s

/-- A member has passed its checks: it tells the lead, and starts once the lead lets it (R236). -/
def memberSpin (s : State) (r : Run) (q : SpinRun) (g : Nat) (bs blk : List Byte)
    (d : List (BitVec 32) × List (List Byte) × List Byte × Nat × Nat) : State :=
  let G := s.groupAt g
  if G.go = some G.cmds then acceptSpin s r q bs blk d.1 d.2.1
  else if (G.cmds, s.fab.chip) ∈ G.readied then s
  else sendGroup (s.updGroup g (fun G => { G with readied := (G.cmds, s.fab.chip) :: G.readied })) g [G.lead]
    (.group (.ready G.cmds s.fab.chip))

/-- A spin command of a group whose plat is known: it is configured before its draw's energies are formed, but for the lead
of a LOCKSTEP pair that waits for the other chip's cut, which chip needs the lead's inputs to choose it, and but for a
member whose schedule's placement needs the lead's inputs (R116, R122, R236, R237, R247; log entry 26). -/
def groupSpin (s : State) (r : Run) (p : PlatInfo) (sc : PlatScales) (g : Nat) (bs : List Byte) (betas : List (BitVec 32))
    (cut : List Parcel) : State :=
  let G := s.groupAt g
  if G.lead = s.fab.chip then
    checkThen s r p bs none (fun s1 r1 blk =>
      match placeOf s1 r1 p sc bs blk cut with
      | .refuse => refuseSpin s1 r1 stCapacityRefused true false
      | .waitCut => drawThen s1 r1 p (leadSend s1 r1 p sc g bs blk betas)
      | .ok q =>
        let s2 := holdRun s1 r1 q g
        let r2 := { r1 with spin := some q }
        drawThen s2 r2 p (leadGo (leadSend s2 r2 p sc g bs blk betas) r2 q g bs blk))
  else
    match presentStart G with
    | none =>
      if cmdOp bs ≠ 0x21 ∨ !drawsBits r p ∨ G.kind ≠ 0 then sendStart s r p sc g bs
      else checkThen s r p bs none (fun s1 r1 blk => placeThen s1 r1 p sc bs blk cut (fun q =>
        sendStart (holdRun s1 r1 q g) { r1 with spin := some q } p sc g bs))
    | some d =>
      if d.2.2.2.1 ≠ cmdDigest bs then refuseSpin s r stBadField true true
      else checkThen s r p bs (some d.2.2.1) (fun s1 r1 blk =>
        placeThen s1 r1 p sc bs blk cut (fun q =>
          memberSpin (holdRun s1 r1 q g) { r1 with spin := some q } q g bs blk d))

/-- An uncorrectable error in what a spin command reads of the lowest core's store: β array and tallies (R22, R158). -/
def armStoreBad (s : State) (r : Run) (bs : List Byte) : Option Nat :=
  let core := r.cores.headD 0
  (if cmdOp bs = 0x21 then storeBad s core (fieldOf bs 24 4) 256 else none).or (storeBad s core (tallyOffOf bs) 3072)

/-- A spin command that every core of the RUN has issued with equal fields: its checks, its configuration and its
start, in the order of R122 (R153, R170, R236, R386). -/
def startSpin (s : State) (r : Run) (bs : List Byte) (cut : List Parcel) : State :=
  let c := r.key.ctx
  let gi := groupOf s c
  let G := (gi.map s.groupAt).getD {}
  let isLead := gi.isNone || decide (G.lead = s.fab.chip)
  let betas := betaArray s (r.cores.headD 0) bs
  if gi.isSome ∧ G.st = 4 then refuseSpin s r stLinkLost false true
  else
  match (if gi.isSome then G.refusals.find? (fun d => decide (d.1 = G.cmds)) else none) with
  | some d => refuseSpin s r d.2.1 false d.2.2
  | none =>
  if gi.isSome ∧ overQuota (s.ctxAt c) then refuseSpin (s.updCtx c markQuota) r stCapacityRefused true false
  else
    match (if cmdOp bs = 0x21 then travFirst r bs (if isLead then betas else []) else schedFirst s r bs) with
    | some st => refuseSpin s r st true false
    | none =>
      match armStoreBad s r bs with
      | some l => memUe s c .coreStore l r.key.ring r.key.slot
      | none =>
        match platOf s r bs with
        | .refuse st => refuseSpin s r st true false
        | .stop x => spinStop s r x false
        | .ok p sc =>
          match gi with
          | some g => groupSpin s r p sc g bs betas cut
          | none =>
            checkThen s r p bs none (fun s1 r1 blk => placeThen s1 r1 p sc bs blk cut (fun q => drawThen s1 r1 p
              (acceptSpin s1 r1 q bs blk betas (startTallies s1 r1 p sc bs))))

/-- Whether a RUN has no spin command in flight. -/
def spinIdle (r : Run) : Bool :=
  match r.spin with
  | some q => q.cmd.isNone
  | none => true

/-- Brings together the cores of a RUN that have issued a spin command: it starts once every core has issued it; a
different command, or a core that has ended without it, ends the configured run with BAD_FIELD (R154). -/
def gatherSpin (s : State) (k : RunKey) (cut : List Parcel) : State :=
  match s.findRun k with
  | none => s
  | some r =>
    let ws := r.cores.map (runWork s r)
    let heads := ws.map spinHead
    let ended := ws.any (fun w => workEnded w && (spinHead w).isNone)
    let waits := ws.any (fun w => !workEnded w && (spinHead w).isNone)
    match heads.findSome? id with
    | none => s
    | some bs =>
      if !runActive s r ∨ waits then s
      else if !spinIdle r then openSpin s k
      else if ended ∨ heads.any (fun h => decide (h ≠ some bs)) then refuseSpin s r stBadField true true
      else startSpin s r bs cut

/-- The spin unit of a core takes up its head command (R131, R313). -/
def takeSpin (s : State) (core op : Nat) (cut : List Parcel) : State :=
  match unitReady s core .spin with
  | none => s
  | some (r, q) =>
    if cmdOp q.bytes ≠ op ∨ !turnOf (s.workAt core) .spin q.ordinal then s
    else gatherSpin (s.updWork core (fun w => { w with spinU := { w.spinU with running := true } })) r.key cut

/-- SPIN_TRAVERSE (R152 to R154); `cut` is the parcel cut that the device chooses (R124). -/
def execSpinTraverse (core : Nat) (cut : List Parcel) (s : State) : Outcome State Fault Refusal :=
  .next (takeSpin s core 0x21 cut)

/-- SPIN_SCHEDULE (R164 to R171). -/
def execSpinSchedule (core : Nat) (cut : List Parcel) (s : State) : Outcome State Fault Refusal :=
  .next (takeSpin s core 0x23 cut)

/-! ### Table loads -/

/-- The check of TABLE_LOAD and EXCH_TABLE_LOAD (R155, R174, R523). -/
def tableCheck (r : Run) (bs : List Byte) : Option Status :=
  if nonzero bs 1 7 ∨ fieldOf bs 8 4 % 64 ≠ 0 then some stBadField
  else if outArea r (fieldOf bs 8 4) 32768 then some stPermFault
  else if nonzero bs 12 52 then some stBadField
  else none

/-- Loads 32,768 bytes of a core's store into a table of the context. -/
def loadTable (s : State) (core op : Nat) (put : Ctx → Memory → Ctx) : State :=
  match unitReady s core .spin with
  | none => s
  | some (r, q) =>
    if cmdOp q.bytes ≠ op ∨ !turnOf (s.workAt core) .spin q.ordinal then s
    else
      match tableCheck r q.bytes with
      | some st => setResult .spin st s core
      | none =>
        let off := fieldOf q.bytes 8 4
        match storeBad s core off 32768 with
        | some l => memUe s r.key.ctx .coreStore l r.key.ring r.key.slot
        | none =>
          setResult .spin stDone
            (s.updCtx r.key.ctx (fun x => put x (memWriteN [] 0 (storeRead s core off 32768)))) core

/-- TABLE_LOAD (R155). -/
def execTableLoad (core : Nat) (s : State) : Outcome State Fault Refusal :=
  .next (loadTable s core 0x22 (fun x m => { x with accTable := m }))

/-- EXCH_TABLE_LOAD (R174). -/
def execExchTableLoad (core : Nat) (s : State) : Outcome State Fault Refusal :=
  .next (loadTable s core 0x24 (fun x m => { x with exchTable := m }))

/-! ### Benchmarks that a run is held for -/

/-- The progress fields of the present traverse's start, for a benchmark (R287). -/
def benchAt (kind step : Nat) (c : SpinCmd) : BenchAt :=
  { kind := kind, step := step, tallyStep := c.tallyStep, entry := c.entry, entryDone := c.entryDone, pos := c.pos }

/-- A benchmark of a run's command at a step. -/
def benchOf (s : State) (q : SpinRun) (c : SpinCmd) (kind step : Nat) (extra : List Byte) : List Byte :=
  benchImage s.boot.fw.arithRev q c (benchAt kind step c) extra

/-- Whether a benchmark slot is refused: too small, misaligned, beyond the addresses, or mapping to HOST (R329, R401). A
slot's address that is no multiple of 64 gives BAD_FIELD like the rest of the slot (DESIGN CHOICE, log entry 108). -/
def slotBad (s : State) (c : Nat) (q : SpinRun) (mask va size : Nat) : Bool :=
  decide (size < benchBytes q.plat mask) || vaBad va size || rangeHost s c va size

/-- What the BENCHMARK and the snapshot that wait on a run write at a step: the slot images, and for a snapshot of a
schedule the progress fields but BENCH_NEXT (R329, R411). -/
def takenWrites (s : State) (r : Run) (q : SpinRun) (c : SpinCmd) (step : Nat) (traverse : Bool) : List (Nat × List Byte) :=
  let img := benchOf s { q with spins := spinsAt q c (if traverse then platSteps q.plat else step - c.step) } c 2 step []
  let x := s.ctxAt r.key.ctx
  (match r.benchWait with
   | some (va, size, t) =>
     if (t = false ∨ traverse) ∧ !slotBad s r.key.ctx q c.mask va size then [(va, img)] else []
   | none => []) ++
  (if x.snapRun = some r.key then
    (x.snapAddr, img) ::
      (if c.schedule then
        [(c.blockVa + 128, natLe 2 c.entry), (c.blockVa + 132, natLe 4 c.entryDone ++ natLe 6 c.step),
         (c.blockVa + 144, (List.range 64).flatMap (fun k => natLe 1 (c.pos.getD k 0)))]
       else [])
   else [])

/-- Marks what `takenWrites` wrote as taken, and the cores that wait for it go on; a slot that does not do gives BAD_FIELD
(R329, R334). -/
def takenDone (s : State) (q : SpinRun) (mask : Nat) (k : RunKey) (traverse : Bool) : State :=
  let s1 := s.updRun k (fun r =>
    match r.benchWait with
    | some (va, size, t) =>
      if t = false ∨ traverse then
        { r with benchWait := none
                 benches := r.benches ++ [if slotBad s k.ctx q mask va size then stBadField else stDone] }
      else r
    | none => r)
  wakeWaits ((wakeRun s1 k .benchmark).updCtx k.ctx (fun x =>
    if x.snapRun = some k then { x with snapRun := none, snapStatus := stDone } else x))

/-- Whether every step below `lim` has run on this chip and its tallies are complete (R157). -/
def stepsDone (q : SpinRun) (c : SpinCmd) (lim : Nat) (tallies : Bool) : Bool :=
  (List.range (lim - c.step)).all (fun n => phaseDone q c n) && (!tallies || decide (lim ≤ c.step + c.tallied))

/-- Serves a hold at a step boundary inside a traverse: the waiting benchmark and snapshot are taken and the hold is
released (R157, R329, R411). -/
def holdServe (s : State) (k : RunKey) : State :=
  match s.findRun k with
  | none => s
  | some r =>
    match r.spin with
    | none => s
    | some q =>
      match q.cmd with
      | none => s
      | some c =>
        match c.limit, c.result with
        | some lim, none =>
          if stepsDone q c lim true ∧ lim < c.step + platSteps q.plat then
            writeThen s r (takenWrites s r q c lim false) (fun s1 =>
              takenDone (s1.updRun k (fun x => { x with spin := some { q with cmd := some { c with limit := none } } })) q c.mask k false)
          else s
        | _, _ => s

/-! ### Capture -/

/-- The entry under which the present traverse runs. -/
def presentEntry (c : SpinCmd) : SchedEntry :=
  match c.block with
  | some b => b.entries.getD c.entry ⟨0, 0, 0, 0⟩
  | none => ⟨0, 0, c.rule, c.policy⟩

/-- Whether the end of the present traverse captures (R182). -/
def captureDue (c : SpinCmd) : Bool :=
  match c.block with
  | some b => bitOf (presentEntry c).mode 3 && decide (b.bestAddr ≠ 0)
  | none => false

/-- What a boundary reads: the best-state headers where it captures (R184). -/
def captureReads (c : SpinCmd) : List (Nat × Nat) :=
  match c.block with
  | none => []
  | some b => if captureDue c then (namedReplicas c.mask).map (fun k => (b.bestAddr + 64 * k, 64)) else []

/-- Whether a finite tally is strictly below the energy of a best entry (R183). A valid entry whose ENERGY reads as NaN is
never replaced (DESIGN CHOICE, log entry 88). -/
def beatsBest (tally best : Lacc) : Bool :=
  match tally, best with
  | .fin a, .fin b => decide (a < b)
  | .fin _, .pinf => true
  | _, _ => false

/-- Capture after a traverse: the best entries that are replaced, their planes from the traverse's shadow plane (R182 to
R184). -/
def captureWrites (s : State) (r : Run) (q : SpinRun) (c : SpinCmd) (b : RunBlock) : List (Nat × List Byte) :=
  let n := spinPlaneBytes q.plat
  (namedReplicas c.mask).flatMap (fun k =>
    let h := vaRead s r.key.ctx (b.bestAddr + 64 * k) 64
    let t := laccOfImage (c.tallies.getD k [])
    if laccFinite t ∧ (!bitOf (fieldOf h 54 1) 0 ∨ beatsBest t (laccOfImage (h.take 48))) then
      let a := b.bestAddr + 4096 + k * n
      [(b.bestAddr + 64 * k, laccImage t ++ natLe 6 (c.step + platSteps q.plat - 1) ++ natLe 1 1 ++
          natLe 1 (c.pos.getD k 0) ++ zeros 8),
       (a, planeImage q.plat (((q.shadows.getD (c.step / platSteps q.plat % 2) []).getD k 0)) (vaRead s r.key.ctx a n))]
    else [])

/-- What the capture of the present traverse writes, with the tallies after it where this chip has them (R182, R183). -/
def captured (s : State) (r : Run) (q : SpinRun) (c : SpinCmd) (tallies : Option (List (List Byte))) : List (Nat × List Byte) :=
  match c.block, tallies with
  | some b, some ts => if captureDue c then captureWrites s r q { c with tallies := ts } b else []
  | _, _ => []

/-! ### Stops -/

/-- The records of a stop benchmark's extra section: easement messages received for steps at or after the stop, and
the member's guarded registers since the tallies it holds (R245, R289; their form, log entry 15). -/
def extraSection (g : Group) (c : SpinCmd) (step : Nat) : List Byte :=
  let pad (l : List Byte) : List Byte := l ++ zeros ((64 - l.length % 64) % 64)
  ((g.easements.reverse.filter (fun m => decide (step ≤ m.step ∧ m.step ≠ startStep))).flatMap (fun m => pad (easementBytes m))) ++
  ((c.sent.filter (fun e => decide (c.tallyStep ≤ e.1 ∧ e.1 < step))).flatMap (fun e => pad e.2.2))

/-- The first differing digest of a LOCKSTEP group: step, own and the other's, each with the parcels' (R250). -/
def firstDiff (g : Group) : Option ((Nat × Nat × List Nat) × (Nat × Nat × List Nat)) :=
  g.digests.findSome? (fun d => (g.peerDigests.find? (fun e => decide (e.1 = d.1 ∧ e.2.1 ≠ d.2.1))).map (fun e => (d, e)))

/-- Parcels in ascending index: by (y0, x0) (R250). -/
def parcelOrder (cut : List Parcel) : List Parcel := cut.mergeSort (fun a b => decide (a.y0 < b.y0 ∨ (a.y0 = b.y0 ∧ a.x0 ≤ b.x0)))

/-- The 64-byte report of a divergence (R250). -/
def divergeReport (q : SpinRun) (g : Group) : List Byte :=
  match firstDiff g with
  | none => zeros 64
  | some (d, e) =>
    let n := ((d.2.2.zip e.2.2).takeWhile (fun t => decide (t.1 = t.2))).length
    let same := decide (min d.2.2.length e.2.2.length ≤ n)
    let par := (parcelOrder q.cut).getD n ⟨0, 0, 0, 0, 0⟩
    natLe 6 d.1 ++ zeros 2 ++ natLe 4 (if same then 0xFFFF_FFFF else n) ++ zeros 4 ++
      natLe 4 (if same then 0 else par.x0) ++ natLe 4 (if same then 0 else par.x1) ++
      natLe 4 (if same then 0 else par.y0) ++ natLe 4 (if same then 0 else par.y1) ++ natLe 16 d.2.1 ++ natLe 16 e.2.1

/-- What a stop writes before its completion: the stop benchmark under LINK_LOST, the report under DIVERGED
(R244, R250). -/
def stopWrites (s : State) (q : SpinRun) (c : SpinCmd) (st : Status) (step : Nat) : List (Nat × List Byte) :=
  match q.group with
  | none => []
  | some g =>
    let G := s.groupAt g
    if st = stLinkLost ∧ G.stopBench ≠ 0 ∧ G.kind = 0 then
      [(G.stopBench, benchOf s { q with spins := spinsAt q c (step - c.step) } c 1 step (extraSection G c step))]
    else if st = stDiverged then [(G.plan, divergeReport q G)]
    else []

/-- Whether this chip is a member of a SLAB group other than its lead, so that its tallies are the lead's (R239). -/
def tallyMember (s : State) (q : SpinRun) : Bool :=
  match q.group with
  | some g => decide ((s.groupAt g).kind = 0 ∧ (s.groupAt g).lead ≠ s.fab.chip)
  | none => false

/-- The tallies after the steps below `lim` of the present traverse, where this chip has them: its own once those steps are
in them, a member's those that the lead has broadcast for that step (R239). -/
def talliesAt (s : State) (q : SpinRun) (c : SpinCmd) (lim : Nat) : Option (Nat × List (List Byte)) :=
  if tallyMember s q then
    (q.group.map s.groupAt).bind (fun G => G.broadcast.find? (fun b => decide (b.1 = lim)))
  else if lim ≤ c.step + c.tallied then some (c.tallyStep, c.tallies) else none

/-- Whether every member of a group has told where it stops on an overflow (R157, R239). -/
def stopsHere (s : State) (G : Group) : Bool :=
  (s.fab.chip :: otherMembers s G).all (fun n => G.stops.any (fun e => decide (e.1 = n)))

/-- Whether a command of a SLAB group that is to stop on an overflow waits to know where the other members stop. -/
def stopOpen (s : State) (q : SpinRun) (st : Status) : Bool :=
  match q.group with
  | some g => decide (st = stFieldOverflow ∧ (s.groupAt g).kind = 0) && !stopsHere s (s.groupAt g)
  | none => false

/-- A command after its end at a step boundary: a traverse whose last step has run is among those done (R180, R287). -/
def pastTraverse (q : SpinRun) (c : SpinCmd) (lim : Nat) : SpinCmd :=
  match c.block with
  | some b =>
    if lim < c.step + platSteps q.plat then c
    else
      let n := nextEntry b c.entry (c.entryDone + 1)
      { c with entry := n.1, entryDone := n.2 }
  | none => c

/-- Ends a command that is to stop, once the steps before its limit have run; a traverse that ends there is captured where its
tallies are at hand (R145, R157, R183, R244, R250). -/
def finishSpin (s : State) (k : RunKey) : State :=
  match s.findRun k with
  | none => s
  | some r =>
    match r.spin with
    | none => s
    | some q =>
      match q.cmd with
      | none => s
      | some c =>
        match c.result, c.limit with
        | some st, some lim =>
          let at' := talliesAt s q c lim
          if lim ≤ c.step + platSteps q.plat ∧ stepsDone q c lim (decide (st = stFieldOverflow) && !tallyMember s q) ∧
              (st = stFieldOverflow → at'.isSome) ∧ !stopOpen s q st then
            let g0 := if st = stFieldOverflow then at'.getD (c.tallyStep, c.tallies) else (c.tallyStep, c.tallies)
            let c1 := pastTraverse q c lim
            let last := if lim = c.step + platSteps q.plat then at'.map Prod.snd else none
            let reads := if last.isSome then captureReads c else []
            match readsStop s k.ctx reads with
            | some x => spinStop s r x false
            | none =>
              let ws := captured s r q c last ++ stopWrites s q c1 st lim
              match writesStop s k.ctx ws with
              | some x => spinStop s r x true
              | none =>
                nearThen s r (reads ++ writeRanges ws) (fun t =>
                  let s1 := (putAll (markReads t k.ctx reads) k.ctx ws).updRun k (fun x => { x with spin := some { q with
                    spins := if st = stLinkLost then spinsAt q c (lim - c.step) else q.spins
                    cmd := some { c1 with tallyStep := g0.1, tallies := g0.2 } } })
                  let s2 := closeSpin s1 k
                  match q.group with
                  | some g =>
                    if st = stLinkLost then s2.updGroup g (fun G => { G with st := 4, reason := st }) else s2
                  | none => s2)
          else s
        | _, _ => s

/-- Whether a step's sites that are not decided yet read a bit of another chip that has not come. -/
def stepBlocked (q : SpinRun) (c : SpinCmd) (relax : Option Nat) (n : Nat) : Bool :=
  let remote (k : Nat) (i : Site) : Bool := (bondsOf q.plat i).any (fun b =>
    !inSlab q.plat b.partner && !partnerReady q c relax 0 k n b.partner)
  (namedReplicas c.mask).any (fun k => (slabSites q.plat).any (fun i =>
    decide (q.plat.order ≠ 0 ∨ siteColour i.x i.y i.z = n) && !maskBit c.decided k (siteLin q.plat i) && remote k i))

/-- The step boundary at which a command stops: after the steps that have issued a strip (R157); where a member is lost,
after those of them in the present traverse that the bits at hand still let run, since the others never can (R244;
DESIGN CHOICE, log entry 81). -/
def stopLimit (q : SpinRun) (c : SpinCmd) (relax : Option Nat) (lost : Bool) : Nat :=
  let n := issuedPhases q c
  if lost then
    let m := min n (platSteps q.plat)
    let done (k : Nat) : Bool := if q.plat.order = 0 then !stepBlocked q c relax k else phaseDone q c k
    c.step + ((List.range m).takeWhile done).length
  else c.step + n

/-- k of a RELAXED group (R241). -/
def relaxOf (s : State) (q : SpinRun) : Option Nat :=
  match q.group with
  | some g => if (s.groupAt g).kind = 0 ∧ (s.groupAt g).relax ≠ 0 then some (s.groupAt g).relax else none
  | none => none

/-- The present state of a RUN's spin command. -/
def spinNow (s : State) (k : RunKey) : Option (SpinRun × SpinCmd) :=
  (s.findRun k).bind (fun r => r.spin.bind (fun q => q.cmd.map (fun c => (q, c))))

/-- Replaces a RUN's spin command. -/
def putCmd (s : State) (k : RunKey) (c : SpinCmd) : State :=
  s.updRun k (fun x => { x with spin := x.spin.map (fun q => { q with cmd := some c }) })

/-- The command of a SLAB group stops on an overflow after the last step of which any member has issued a strip, once every
member has told where it stood (R157, R239, R240; DESIGN CHOICE of the messages, log entry 87). -/
def joinStops (s : State) (k : RunKey) : State :=
  match spinNow s k with
  | none => s
  | some (q, c) =>
    match q.group with
    | none => s
    | some g =>
      let G := s.groupAt g
      if c.result = some stFieldOverflow ∧ G.kind = 0 ∧ stopsHere s G then
        putCmd s k { c with limit := some ((G.stops.map Prod.snd).foldl max 0) }
      else s

/-- A member of a SLAB group whose command is to stop on an overflow tells the others where it stands (R157, R239). -/
def tellStop (s : State) (k : RunKey) : State :=
  match spinNow s k with
  | none => s
  | some (q, c) =>
    match q.group, c.limit with
    | some g, some l =>
      if c.result = some stFieldOverflow ∧ (s.groupAt g).kind = 0 then
        joinStops (sendAll (s.updGroup g (fun G => { G with stops := (s.fab.chip, l) :: G.stops })) g (.stopStep s.fab.chip l)) k
      else s
    | _, _ => s

/-- Asks a spin command in flight to stop with a status at its next step boundary (R157, R244). -/
def requestStop (s : State) (k : RunKey) (st : Status) : State :=
  let ask (q : SpinRun) (c : SpinCmd) : SpinRun :=
    if c.result = none then
      { q with cmd := some { c with result := some st, limit := some (stopLimit q c (relaxOf s q) (decide (st = stLinkLost))) } }
    else q
  let s1 := s.updRun k (fun r =>
    match r.spin with
    | some q => match q.cmd with
      | some c => { r with spin := some (ask q c) }
      | none => r
    | none => r)
  finishSpin (tellStop s1 k) k

/-- The boundary that ends the latest traverse of which this chip has issued a strip (R178). -/
def wallStand (q : SpinRun) (c : SpinCmd) : Nat :=
  let P := platSteps q.plat
  c.step + P * ((issuedPhases q c + P - 1) / P)

/-- The stands that members have told for the present command of a group (R178). -/
def wallsOf (G : Group) : List (Nat × Nat) := (G.walls.filter (fun e => decide (e.1 = G.cmds))).map Prod.snd

/-- The boundary past which a core of a group issues no strip, while the request of the wall time has reached this chip and
some other member has not told where it stands (R178). -/
def wallBar (s : State) (q : SpinRun) (c : SpinCmd) : Option Nat :=
  match q.group with
  | some g =>
    if c.wallAt.isSome ∨ c.result.isSome then none
    else ((wallsOf (s.groupAt g)).find? (fun e => decide (e.1 = s.fab.chip))).map Prod.snd
  | none => none

/-- The wall time's request reaches this chip: it tells the members where it stands (R178; DESIGN CHOICE of the messages,
log entry 84). -/
def tellWall (s : State) (q : SpinRun) (c : SpinCmd) (g : Nat) : State :=
  let G := s.groupAt g
  if (wallsOf G).any (fun e => decide (e.1 = s.fab.chip)) then s
  else
    sendAll (s.updGroup g (fun G => { G with walls := G.walls ++ [(G.cmds, s.fab.chip, wallStand q c)] })) g
      (.wall G.cmds s.fab.chip (wallStand q c))

/-- Once every member has told where it stood when the request reached it, the command stops at the end of the latest
traverse of which any core had issued a strip (R178). -/
def agreeWall (s : State) (k : RunKey) (c : SpinCmd) (g : Nat) : State :=
  let l := wallsOf (s.groupAt g)
  if (s.fab.chip :: otherMembers s (s.groupAt g)).all (fun n => l.any (fun e => decide (e.1 = n))) then
    putCmd s k { c with wallAt := some ((l.map Prod.snd).foldl max 0) }
  else s

/-- A command of a group that the wall time's request reaches (R178). -/
def heedWall (s : State) (k : RunKey) : State :=
  match spinNow s k with
  | none => s
  | some (q, c) =>
    match q.group with
    | none => s
    | some g =>
      if wallsOf (s.groupAt g) = [] ∨ c.started = false ∨ c.result.isSome ∨ c.wallAt.isSome then s
      else agreeWall (tellWall s q c g) k c g

/-- A command of a SLAB group stops where another member already stops on an overflow. -/
def heedStops (s : State) (k : RunKey) : State :=
  match spinNow s k with
  | none => s
  | some (q, c) =>
    match q.group with
    | none => s
    | some g => if c.result = none ∧ c.started ∧ (s.groupAt g).stops ≠ [] then requestStop s k stFieldOverflow else s

/-! ### Steps that are complete -/

/-- D(s) with the parcels' D_spin (R248, R250). -/
def stepDigest (q : SpinRun) (c : SpinCmd) (phase : Nat) : Nat × List Nat :=
  let sp := spinsAt q c (phase + 1)
  let ps := (parcelOrder q.cut).map (fun t => spinDigest q.plat sp c.mask ((slabSites q.plat).filter (inParcel t)))
  ((ps.foldl (· + ·) 0 % 2 ^ 128) ^^^ tallyDigest c.tallies c.mask, ps)

/-- Compares the digests of a step that both chips of a LOCKSTEP group hold: equal ones are dropped, different ones
stop the run with DIVERGED (R249, R250). -/
def lockCompare (s : State) (g : Nat) (k : RunKey) : State :=
  let G := s.groupAt g
  match firstDiff G with
  | some _ => requestStop s k stDiverged
  | none =>
    let both (a b : List (Nat × Nat × List Nat)) := a.filter (fun d => !b.any (fun e => decide (e.1 = d.1)))
    s.updGroup g (fun G => { G with digests := both G.digests G.peerDigests, peerDigests := both G.peerDigests G.digests })

/-- A complete step of a SLAB group: its bands go to the neighbours, and this chip's guarded registers are kept (R238,
R239, R289). None where the step is not complete. -/
def bandOnce (s : State) (k : RunKey) (q : SpinRun) (c : SpinCmd) (g : Nat) : Option State :=
  if (s.groupAt g).kind ≠ 0 ∨ platSteps q.plat ≤ c.banded ∨ !phaseDone q c c.banded then none
  else
    let own := (namedReplicas c.mask).map (fun n => (c.step + c.banded, n, guardedImage (tabGet 0 c.deltas (c.banded * 64 + n))))
    let c1 := { c with banded := c.banded + 1, sent := c.sent ++ own }
    let s1 := s.updRun k (fun x => { x with spin := some { q with cmd := some c1 } })
    some (sendBands s1 g q.plat c.mask (spinsHere q c) (if q.plat.order = 0 then some c.banded else none) (c.step + c.banded) false)

/-- Whether a step of the present traverse may be taken into the tallies: it is complete, its bands have gone, no stop is
before it. -/
def tallyReady (q : SpinRun) (c : SpinCmd) : Bool :=
  decide (c.tallied < platSteps q.plat) && !c.limit.any (fun n => decide (n ≤ c.step + c.tallied)) && phaseDone q c c.tallied

/-- The command after the energy changes of its oldest complete step, and whether a tally has left the range, so that it
is to stop (R145). -/
def tallyAdd (q : SpinRun) (c : SpinCmd) (change : Nat → Int) : SpinCmd × Bool :=
  let t := addStep c change
  let ovf := t.2 && c.result.isNone
  ({ c with tallies := t.1, tallied := c.tallied + 1, tallyStep := c.step + c.tallied + 1,
            result := if ovf then some stFieldOverflow else c.result
            limit := if ovf then some (c.step + max (issuedPhases q c) (c.tallied + 1)) else c.limit }, ovf)

/-- A step of a LOCKSTEP group is in the tallies: where a digest is due it goes to the other chip (R249). -/
def lockSend (s : State) (k : RunKey) (q : SpinRun) (c : SpinCmd) (g phase : Nat) : State :=
  let G := s.groupAt g
  if (c.step + phase + 1) % G.every ≠ 0 then s
  else
    let d := stepDigest q c phase
    let s1 := s.updGroup g (fun G => { G with digests := G.digests ++ [(c.step + phase, d)] })
    lockCompare (sendGroup s1 g (otherMembers s G) (.digest (c.step + phase) d.1 d.2)) g k

/-- Takes the oldest complete step of the present traverse into the tallies: by the lead's sums, or on a member into
the image sent up the tree; none where the step or a child's image is not there yet (R145, R239). -/
def tallyOnce (s : State) (k : RunKey) (q : SpinRun) (c : SpinCmd) : Option State :=
  let step := c.step + c.tallied
  let own (n : Nat) : Int := tabGet 0 c.deltas (c.tallied * 64 + n)
  let put (c1 : SpinCmd) : State := s.updRun k (fun x => { x with spin := some { q with cmd := some c1 } })
  if !tallyReady q c then none
  else
    match q.group with
    | none => some (put (tallyAdd q c own).1)
    | some g =>
      let G := s.groupAt g
      if G.kind ≠ 0 then
        let c1 := (tallyAdd q c own).1
        some (lockSend (put c1) k q c1 g c.tallied)
      else if c.banded ≤ c.tallied ∨ !(namedReplicas c.mask).all (fun n => (childCells G (ownCell s G)).all (fun cell =>
          G.partials.any (fun e => decide (e.1 = step ∧ e.2.1 = n ∧ e.2.2.1 = cell)))) then none
      else
        let total (n : Nat) : Int := own n + childSum G step n
        let drop (t : State) : State :=
          t.updGroup g (fun G => { G with partials := G.partials.filter (fun e => decide (e.1 ≠ step)) })
        if G.lead = s.fab.chip then
          let t := tallyAdd q c total
          let s1 := drop (put t.1)
          some (if t.2 then tellStop (sendStop s1 g stFieldOverflow none) k else s1)
        else
          let up := G.cells.getD (parentCell G (ownCell s G)) 0
          let s1 := drop (put { c with tallied := c.tallied + 1 })
          some ((namedReplicas c.mask).foldl (fun s n => sendTally s g up step n (guardedImage (total n))) s1)

/-- Sends the bands of every complete step in turn; the count bounds the recursion (R238). -/
def bandRun (fuel : Nat) (s : State) (k : RunKey) : State :=
  match fuel with
  | 0 => s
  | n + 1 =>
    match spinNow s k with
    | none => s
    | some (q, c) =>
      match q.group.bind (bandOnce s k q c) with
      | none => s
      | some s1 => bandRun n s1 k

/-- Takes every complete step into the tallies in turn; the count bounds the recursion. -/
def tallyRun (fuel : Nat) (s : State) (k : RunKey) : State :=
  match fuel with
  | 0 => s
  | n + 1 =>
    match spinNow s k with
    | none => s
    | some (q, c) =>
      match tallyOnce s k q c with
      | none => s
      | some s1 => tallyRun n s1 k

/-- What follows when bits of a run have been written: the wall time, bands, tallies, holds and stops. -/
def settleSpin (s : State) (k : RunKey) : State :=
  finishSpin (holdServe (tallyRun 19 (bandRun 19 (heedStops (heedWall s k) k) k) k) k) k

/-! ### Strips -/

/-- What a strip reads of the plat: the owner records of its couplings and its bias codes, as ranges (R113, R115). -/
def stripReads (p : PlatInfo) (sites : List Site) : List (Nat × Nat) :=
  let e := 16 * platWidth p
  sites.flatMap (fun i =>
    (p.va + p.biasOff + elementBit p 8 i / 8, 1) ::
      (bondsOf p i).map (fun b => (p.va + p.couplOff + elementBit p e b.owner / 8, e / 8)))

/-- The core's first step, counted from the present traverse's first, that is not decided in its parcel (R137). -/
def openPhase (q : SpinRun) (c : SpinCmd) (par : Parcel) : Nat :=
  let P := platSteps q.plat
  ((List.range (2 * P)).takeWhile (fun n =>
    let m := maskOf q.plat (fun i => inParcel par i && (decide (q.plat.order ≠ 0) || decide (siteColour i.x i.y i.z = n % P)))
    (namedReplicas c.mask).all (fun k => decide ((decidedOf q c n).getD k 0 &&& m = m)))).length

/-- Whether a LOCKSTEP group lets a step issue: the other chip's digest has come for every step of the command that lies
LS_EVERY + 1 or more below it and ends an interval (R249). -/
def lockOpen (s : State) (q : SpinRun) (c : SpinCmd) (step : Nat) : Bool :=
  match q.group with
  | some g =>
    let G := s.groupAt g
    let due := (step - G.every) / G.every * G.every
    decide (G.kind = 0 ∨ step < G.every ∨ due ≤ c.firstStep ∨ due ≤ G.peerUpto)
  | none => true

/-- Whether a count of traverses is due: `every` of them, none for zero. -/
def due (every t : Nat) : Bool := decide (every ≠ 0 ∧ (t + 1) % every = 0)

/-- The traverse boundary that a benchmark or a snapshot waits for: any where this chip runs alone, the one that the lead
has chosen in a group (R329, R411). -/
def chosenBoundary (s : State) (q : SpinRun) (step : Nat) : Bool :=
  match q.group with
  | some g => decide ((s.groupAt g).holdStep = some step)
  | none => true

/-- Whether the end of the present traverse holds the next one or ends the command: target test, exchange, benchmark,
the last traverse (R177). -/
def heldNext (s : State) (q : SpinRun) (r : Run) (c : SpinCmd) : Bool :=
  let t := c.step / platSteps q.plat
  (match c.block with
   | none => decide (c.remaining ≤ 1)
   | some b =>
     let e := presentEntry c
     (bitOf b.stopFlags 0 && (decide (b.targetEvery = 0) || due b.targetEvery t)) ||
     (due b.exch t && bitOf e.mode 2) || due b.benchEvery t ||
     decide (b.entries.length ≤ (nextEntry b c.entry (c.entryDone + 1)).1) ||
     decide (b.budget ≠ 0 ∧ b.budget ≤ c.traversesRun + 1) || decide (c.wallAt = some (c.step + platSteps q.plat)) ||
     decide (wallBar s q c = some (c.step + platSteps q.plat))) ||
  ((r.benchWait.isSome || decide ((s.ctxAt r.key.ctx).snapRun = some r.key) || q.group.isSome) &&
    chosenBoundary s q (c.step + platSteps q.plat))

/-- Whether a boundary is one that R177 holds, so that a member needs the lead's tallies there (R177, R239). -/
def heldBoundary (s : State) (q : SpinRun) (r : Run) (c : SpinCmd) : Bool := captureDue c || heldNext s q r c

/-- Whether strips of the next traverse may issue before the present one ends (R137, R177): under CHROMATIC, where the
boundary holds nothing and no stop or hold is due. -/
def mayAhead (s : State) (q : SpinRun) (r : Run) (c : SpinCmd) : Bool :=
  decide (q.plat.order = 0) && c.result.isNone && c.limit.isNone && !heldNext s q r c

/-- Counts a strip of a core and shows it in SPIN_STATE and SPIN_STEP (R159 to R161, R524). -/
def stripCount (s : State) (core phase step sites flips coll yields : Nat) : State :=
  s.updCore core (fun x => { x with
    spinBusy := x.spinBusy ||| (1#8 <<< (x.work.strips % 8)), headPhase := phase, headStep := step
    work := { x.work with strips := x.work.strips + 1, spinMode := 1 }
    siteUpdates := x.siteUpdates + BitVec.ofNat 64 sites, flips := x.flips + BitVec.ofNat 64 flips,
    collisions := x.collisions + BitVec.ofNat 64 coll, yieldedFlips := x.yieldedFlips + BitVec.ofNat 64 yields })

/-- A strip that may not issue yet: the core waits on a flag, its strips have written (R159). -/
def stripWait (s : State) (core : Nat) : State :=
  s.updCore core (fun x => { x with spinBusy := 0, work := { x.work with spinMode := 2 } })

/-- The first bad word of a core's store outside the RUN's data area, where the device holds the arm's codes, spins and
easement: what a strip meets (R22, R158; DESIGN CHOICE, log entry 82). -/
def armBad (s : State) (r : Run) (core : Nat) : Option Nat :=
  (s.badLines.find? (fun (p : Level × Nat) => decide (p.1 = .coreStore ∧ p.2 / 2 ^ 20 = core ∧
    r.hdr.dataBytes ≤ p.2 % 2 ^ 20 * 8))).map Prod.snd

/-- The uncorrectable error that a strip meets in the pool parts that hold a core's share of a run (R413, R415). -/
def placeLost (s : State) (ctx : Nat) (q : SpinRun) (core : Nat) : Option (Level × Nat) :=
  (q.places.filter (fun e => decide (e.1 = core))).findSome? (fun e => poolLost s e.2.1 (ctx, core, 1))

/-- What the near-memory bytes of a strip of a streamed run cost: codes and bias, which its replicas share, and the spins of
its replica with their shadows, in quarters of a byte (R149, R184, R464). -/
def streamCost (s : State) (ctx : Nat) (q : SpinRun) (c : SpinCmd) (core replica n : Nat) : Nat :=
  if q.streamed = false then 0
  else
    let codes := if replica = (namedReplicas c.mask).headD 0 ∧ nearSide s ctx (q.plat.va + q.plat.couplOff) then
      4 * (4 * platWidth q.plat + 1) * n else 0
    let spins := if q.places.any (fun e => decide (e.1 = core ∧ e.2.1 ≠ .far)) then n * (1 + bitNat (capturing c)) else 0
    625 * (creditUnit / 4) * (codes + spins)

/-- What a strip costs: 6 pJ for each site that it decides, and its near-memory bytes (R464). -/
def stripCost (s : State) (ctx : Nat) (q : SpinRun) (c : SpinCmd) (core replica n : Nat) (resolve : Bool) : Nat :=
  streamCost s ctx q c core replica n + if resolve then 0 else 240 * n * creditUnit

/-- Sends what a strip has completed to the cores that hold a site of it: under SYNC the decisions of a parcel, else the
bits of a step, at the moment at which the last strip that they wait for has written (R25, R138, R146). -/
def postMail (q : SpinRun) (c : SpinCmd) (a : Parcel) (step replica : Nat) (kind : Nat) (bits : Nat) : SpinCmd :=
  { c with mail := c.mail ++ q.cut.flatMap (fun b =>
      if a.core = b.core ∨ bandSites q.plat a b = [] then [] else [((b.core, a.core, step, replica, kind), bits)]) }

/-- Whether a site lies within 2 of a face or a corner of its parcel (R146). -/
def nearEdge (q : Parcel) (i : Site) : Bool :=
  decide (i.x < q.x0 + 2 ∨ q.x1 ≤ i.x + 2 ∨ i.y < q.y0 + 2 ∨ q.y1 ≤ i.y + 2)

/-- The sites of a step's strips of a parcel that hold a site within 2 of its faces: those that must have written before
the step's easement goes (R146). -/
def edgeSites (p : PlatInfo) (q : Parcel) (phase : Nat) : List Site :=
  ((parcelStrips p q phase).filter (fun l => l.any (nearEdge q))).flatten

/-- The run after a strip of a core has written its bits at a step: its easement message goes where the strip holds sites
near the faces and was the last such strip (R146). -/
def postBits (q : SpinRun) (a : Parcel) (step replica : Nat) (sites : List Site) : SpinRun :=
  match q.cmd with
  | none => q
  | some c =>
    let P := platSteps q.plat
    let done := if q.plat.order ≠ 0 then c.resolved else decidedOf q c (step - c.step)
    if sites.any (nearEdge a) && (edgeSites q.plat a ((step - c.step) % P)).all (fun i => maskBit done replica (siteLin q.plat i)) then
      { q with cmd := some (postMail q c a step replica 1 (q.spins.getD replica 0)) }
    else q

/-- The run after a decide strip: the decisions of the parcel go once all its sites have decided for the replica (R138). -/
def postDecisions (q : SpinRun) (a : Parcel) (step replica : Nat) : SpinRun :=
  match q.cmd with
  | none => q
  | some c =>
    let m := maskOf q.plat (inParcel a)
    if c.decided.getD replica 0 &&& m = m then
      { q with cmd := some (postMail q c a step replica 2 (c.flipping.getD replica 0)) }
    else q

/-- Whether a strip that has been found has every bit it reads (R137, R138). -/
def stripGoes (s : State) (q : SpinRun) (c : SpinCmd) (core replica step : Nat) (sites : List Site) (resolve : Bool) : Bool :=
  if resolve then resolveReady q c core replica sites
  else stripReady q c (relaxOf s q) core replica (step - c.step) sites

/-- Issues a strip that may go: decided, or resolved, and its bits written (R130, R132, R138 to R144); what it costs
is charged to the core's credits (R464). -/
def runStrip (s : State) (r : Run) (q : SpinRun) (c : SpinCmd) (par : Parcel) (replica step : Nat) (sites : List Site)
    (resolve : Bool) : State :=
  let core := par.core
  let rd := platByte s r.key.ctx q.plat.va
  let phase := step - c.step
  let put (t : State) (q1 : SpinRun) : State := t.updRun r.key (fun x => { x with spin := some q1 })
  let used := spend (markUses s r.key.ctx (stripReads q.plat sites)) core (stripCost s r.key.ctx q c core replica sites.length resolve)
  if resolve then
    let rs := sites.map (resolveSite q c rd core replica)
    let fl := (rs.filter (fun d => d.new != maskBit c.before replica (siteLin q.plat d.site))).length
    settleSpin (put (stripCount used core 0 step 0 fl ((rs.map Resolved.collides).foldl (· + ·) 0)
      (rs.filter Resolved.yields).length) (postBits (applyResolve q c replica rs) par step replica sites)) r.key
  else
    let turn := if phase < platSteps q.plat then c else nextTurn c
    let ds := decideStrip q turn rd (s.ctxAt r.key.ctx).accTable core replica step sites
    if q.plat.order = 0 then
      settleSpin (put (stripCount used core (phase % 18) step sites.length (flipsOf ds) 0 0)
        (postBits (applyStrip q c phase replica ds) par step replica sites)) r.key
    else
      let q1 := postDecisions (applyDecide q c replica ds) par step replica
      let s1 := put (stripCount used core 0 step sites.length 0 0 0) q1
      match q.group, q1.cmd with
      | some g, some c1 =>
        if (namedReplicas c.mask).all (fun n => decide (c1.decided.getD n 0 &&& phaseMask q.plat 0 = phaseMask q.plat 0))
        then sendBands s1 g q.plat c.mask c1.flipping none step true else s1
      | _, _ => s1

/-- Whether a core may issue a strip of a step now: it runs, the step lies in the window and below a stop or a hold (R137,
R157, R178, R249). -/
def mayStrip (s : State) (r : Run) (q : SpinRun) (c : SpinCmd) (par : Parcel) (replica step : Nat) (resolve : Bool) : Bool :=
  let x := s.coreAt par.core
  let P := platSteps q.plat
  runActive s r && decide (x.power = 0) && unitQuiet x .spin && c.started &&
  c.mask.testBit replica && decide (c.step ≤ step) &&
  decide (step < c.step + (if mayAhead s q r c then 2 * P else P) ∨
    (step < c.step + 2 * P ∧ c.limit.any (fun l => decide (step < l)))) &&
  !c.limit.any (fun l => decide (l ≤ step)) && !(wallBar s q c).any (fun l => decide (l ≤ step)) && !(resolve && decide (q.plat.order = 0)) &&
  decide (step - c.step < openPhase q c par + 4) && lockOpen s q c step

/-- Counts the single-bit errors that the reads of a strip meet in the core's store and correct (R158, R161). -/
def countCorrected (s : State) (core n : Nat) : State :=
  if n = 0 then s else s.updCore core (fun x => { x with csCorrected := x.csCorrected + BitVec.ofNat 64 n })

/-- STRIP_ISSUE (R126, R137, R465): the strip named of a core's parcel issues when it may and its core's credits cover what it
costs; one that has to wait reads nothing.
`corrected` is how many single-bit errors its reads of the core store meet. -/
def execStripIssue (core replica step strip : Nat) (resolve : Bool) (s : State) (corrected : Nat := 0) :
    Outcome State Fault Refusal :=
  .next (match s.runOf core with
    | none => s
    | some r =>
      match r.spin with
      | none => s
      | some q =>
        match q.cmd, q.cut.find? (fun t => decide (t.core = core)) with
        | some c, some par =>
          if !mayStrip s r q c par replica step resolve then s
          else
            match (parcelStrips q.plat par ((step - c.step) % platSteps q.plat))[strip]? with
            | none => s
            | some sites =>
              if !affords s core (stripCost s r.key.ctx q c core replica sites.length resolve) then s
              else if !stripGoes s q c core replica step sites resolve then stripWait s core
              else
                match armBad s r core, placeLost s r.key.ctx q core with
                | some l, _ => memUe s r.key.ctx .coreStore l r.key.ring r.key.slot
                | none, some l => memUe s r.key.ctx l.1 l.2 r.key.ring r.key.slot
                | none, none =>
                  match readsStop s r.key.ctx (stripReads q.plat sites) with
                  | some y => stopAccess s r.key.ctx y false 1 core r.key.ring r.key.slot (.engine core .spin)
                  | none => runStrip (countCorrected s core corrected) r q c par replica step sites resolve
        | _, _ => s)

/-! ### Easement messages within the chip -/

/-- Writes bits into a core's easement: those of the given sites, from the masks of a replica. -/
def writeEasement (q : SpinRun) (key : Nat) (m : Nat) (sites : List Site) : SpinRun :=
  let bits := sites.foldl (fun e i => setMaskBit e (siteLin q.plat i) (m.testBit (siteLin q.plat i)))
    (tabGet 0 q.easement key)
  { q with easement := tabSet q.easement key bits }

/-- EASEMENT_MESSAGE (R25, R125, R138, R146): the message sent first of those from a core to another that have not arrived
comes: a core's bits of the band that a neighbour holds, and the neighbour's flag. A core whose spin unit is being reset
answers UNIT_RESET, which ends the run (R158, R457, R459). -/
def execEasementMessage (dst src step replica : Nat) (kind : EasementKind) (s : State) : Outcome State Fault Refusal :=
  .next (match s.runOf dst with
    | none => s
    | some r =>
      match r.spin with
      | none => s
      | some q =>
        match q.cmd, q.cut.find? (fun t => decide (t.core = src)), q.cut.find? (fun t => decide (t.core = dst)) with
        | some c, some a, some b =>
          let n := match kind with | .start => 0 | .bits => 1 | .decisions => 2
          match c.mail.find? (fun m => decide (m.1.1 = dst ∧ m.1.2.1 = src)) with
          | none => s
          | some m =>
            if m.1 ≠ (dst, src, step, replica, n) then s
            else if unitQuiet (s.coreAt dst) .spin = false then abortSpin s r stUnitReset
            else
              let p := q.plat
              let band := bandSites p a b
              let col := if p.order = 0 then band.filter (fun i => decide (siteColour i.x i.y i.z = step % platSteps p)) else band
              let q1 := match kind with
                | .start => writeEasement q (easeKey p dst replica c.firstStep) m.2 band
                | .bits => writeEasement q (easeKey p dst replica (step + 1)) m.2 col
                | .decisions => q
              s.updRun r.key (fun x => { x with spin := some { q1 with cmd := some { c with
                mail := c.mail.erase m, flags := m.1 :: c.flags } } })
        | _, _, _ => s)

/-! ### Traverse boundaries -/

/-- Whether a tally meets a target (R178). -/
def meetsTarget (tally target : Lacc) : Bool :=
  match tally, target with
  | .nan, _ => false
  | _, .nan => false
  | .ninf, _ => true
  | .fin _, .pinf => true
  | .fin a, .fin b => decide (a ≤ b)
  | .fin _, .ninf => false
  | .pinf, .pinf => true
  | .pinf, _ => false

/-- What the exchange decision of a pair gives (R173): not a number, or whether it swaps; `u` is the EXCHANGE word. -/
def exchangePair (x : Memory) (ba bb ta tb u : Nat) : Option Bool :=
  let v := fpMul (fpSub ba bb) (fpSub ta tb)
  if fpNan v then none
  else
    let w := tableEntry x (tableIndex v)
    some (decide (w = 0xFFFF_FFFF ∨ u < w))

/-- A round's first positions: a even for an even ordinal, odd for an odd one, with a + 1 below n (R172). -/
def roundPairs (k n : Nat) : List Nat := (List.range n).filter (fun a => decide (a % 2 = k % 2 ∧ a + 1 < n))

/-- The replica that holds a ladder position, among the named ones. -/
def holderOf (c : SpinCmd) (a : Nat) : Nat := ((namedReplicas c.mask).find? (fun k => decide (c.pos.getD k 0 = a))).getD 0

/-- One pair of a round (R173, R175). -/
def exchangeStep (x : Memory) (P : Nat) (c : SpinCmd) (a : Nat) : SpinCmd :=
  let ra := holderOf c a
  let rb := holderOf c (a + 1)
  let e (k : Nat) : Nat := numRound fmt32 (laccNum (laccOfImage (c.tallies.getD k [])))
  let b (k : Nat) : Nat := (c.betas.getD k 0).toNat
  let u := ctrWord c.seed.toNat c.stream 0 (c.step + P - 1) a 2
  match exchangePair x (b ra) (b rb) (e ra) (e rb) u with
  | none => { c with exchAttempts := c.exchAttempts + 1, exchNan := c.exchNan + 1 }
  | some swap =>
    if swap then
      { c with exchAttempts := c.exchAttempts + 1, exchSwaps := c.exchSwaps + 1,
               pos := listUpd (listUpd c.pos ra (fun _ => a + 1)) rb (fun _ => a) }
    else { c with exchAttempts := c.exchAttempts + 1 }

/-- The command after the target test and the exchange round of a boundary, its progress moved past the traverse
(R172, R173, R176, R178). -/
def boundaryCmd (s : State) (r : Run) (q : SpinRun) (c : SpinCmd) : SpinCmd :=
  let P := platSteps q.plat
  let t := c.step / P
  let e := presentEntry c
  match c.block with
  | none => { c with step := c.step + P, remaining := c.remaining - 1, traversesRun := c.traversesRun + 1, tallied := 0 }
  | some b =>
    let hits := if bitOf b.stopFlags 0 ∧ (b.targetEvery = 0 ∨ due b.targetEvery t) then
      (namedReplicas c.mask).filter (fun k => meetsTarget (laccOfImage (c.tallies.getD k [])) (laccOfImage b.target)) else []
    let c1 := match hits with
      | k :: _ => { c with targetStep := c.step + P - 1, targetReplica := k, stopReason := c.stopReason + 4 }
      | [] => c
    let c2 := if due b.exch t ∧ bitOf e.mode 2 then
      (roundPairs ((t + 1) / b.exch - 1) (namedReplicas c.mask).length).foldl
        (exchangeStep (s.ctxAt r.key.ctx).exchTable P) c1 else c1
    let n := nextEntry b c.entry (c.entryDone + 1)
    { c2 with step := c.step + P, entry := n.1, entryDone := n.2, traversesRun := c.traversesRun + 1, tallied := 0 }

/-- The tests for schedule end, budget and wall time (R176, R178). -/
def stopTests (c : SpinCmd) : SpinCmd :=
  match c.block with
  | none => if c.remaining = 0 then { c with result := some stDone } else c
  | some b =>
    let w := c.stopReason + bitNat (decide (b.entries.length ≤ c.entry)) +
      2 * bitNat (decide (b.budget ≠ 0 ∧ b.budget ≤ c.traversesRun)) + 8 * bitNat (decide (c.wallAt = some c.step))
    if w = 0 then c else { c with stopReason := w, result := some stDone }

/-- The periodic benchmark that is due at a boundary: its slot and image (R176, R187). -/
def periodicWrite (s : State) (q : SpinRun) (c c1 : SpinCmd) : List (Nat × List Byte) :=
  match c.block with
  | some b =>
    if due b.benchEvery (c.step / platSteps q.plat) then
      [(b.benchAddr + c.benchNext * b.benchSlotBytes, benchOf s q c1 0 c1.step [])] else []
  | none => []

/-- Counts a periodic benchmark (R186, R187). -/
def countPeriodic (c c1 : SpinCmd) : SpinCmd :=
  { c1 with benchCount := c1.benchCount + 1, benchLastStep := c1.step, benchLastSlot := c.benchNext,
            benchNext := (c.benchNext + 1) % (match c.block with | some b => b.benchSlots | none => 1) }

/-- The lead sends the tallies at a held boundary; any other chip's are used up (R239). -/
def boundaryTallies (s : State) (q : SpinRun) (held : Bool) (step : Nat) (tallies : List (List Byte)) : State :=
  match q.group with
  | some g =>
    let s1 := s.updGroup g (fun G => { G with
      broadcast := G.broadcast.filter (fun b => decide (b.1 ≠ step)), holdStep := if G.holdStep = some step then none else G.holdStep
      asked := G.asked && decide (G.holdStep ≠ some step) })
    if (s.groupAt g).kind = 0 ∧ (s.groupAt g).lead = s.fab.chip ∧ held then sendTallies s1 g step tallies else s1
  | none => s

/-- The boundary after a traverse whose steps are all complete: capture, target test, exchange, benchmark, stop tests,
in this order (R176); a stopped access leaves the boundary to be taken again. A command that is to stop later, in a
traverse that strips have begun, captures and moves on to it; where a member is lost, the tallies that a capture needs
may not be `known` (R157, R181, R183). -/
def boundaryStep (s : State) (r : Run) (q : SpinRun) (c : SpinCmd) (known : Bool) : State :=
  let k := r.key
  let clean := decide (issuedPhases q c ≤ platSteps q.plat) && c.result.isNone
  let reads := if known then captureReads c else []
  match readsStop s k.ctx reads with
  | some x => spinStop s r x false
  | none =>
    let capture := captured s r q c (if known then some c.tallies else none)
    let c1 := boundaryCmd s r q c
    let bench := if c.result.isSome then [] else periodicWrite s q c c1
    let c2 := if bench = [] then c1 else countPeriodic c c1
    let takes := clean && chosenBoundary s q c2.step
    let ws := capture ++ bench ++ if takes then takenWrites s r q c2 c2.step true else []
    match writesStop s k.ctx ws with
    | some x => spinStop s r x true
    | none => nearThen s r (reads ++ writeRanges ws) (fun t =>
      let s1 := putAll (markReads t k.ctx reads) k.ctx ws
      let c3 := { c2 with limit := if clean then none else c2.limit
                          sent := c2.sent.filter (fun e => decide (c2.tallyStep ≤ e.1)) }
      let c4 := if c.result.isSome then c3 else stopTests c3
      let s2 := clearBusy (if c4.stopReason.testBit 3 then markT s1 k.ctx else s1) q
      let s3 := if takes then takenDone s2 q c.mask k true else s2
      let s4 := boundaryTallies s3 q (heldBoundary s q r c) c1.step c.tallies
      wakeWaits (if c4.result.isSome ∧ c.result.isNone then
        closeSpin (s4.updRun k (fun x => { x with spin := some { q with cmd := some c4 } })) k
      else settleSpin (checkTraverses (chargeStream (s4.updRun k (fun x => { x with spin := some (beginTraverse q c4) })) k q c4) k c4) k))

/-- A traverse boundary of a group that no member can have passed: two traverses ahead, one for each row and column of a
slab grid, and the interval of a LOCKSTEP pair (R329, R411; DESIGN CHOICE, log entry 84). -/
def farBoundary (q : SpinRun) (c : SpinCmd) (G : Group) : Nat :=
  let P := platSteps q.plat
  c.step + P * (2 + if G.kind = 0 then G.gx + G.gy else (G.every + P - 1) / P)

/-- The wall-time test of a boundary: it is the lowest chip's to make, and its request goes to every member. A chip alone
stops at the end of the latest traverse of which a strip has issued (R178, R179). -/
def wallTest (s : State) (k : RunKey) (q : SpinRun) (c : SpinCmd) : State :=
  if c.block.any (fun b => bitOf b.stopFlags 1) = false ∨ c.wallAt.isSome ∨ c.result.isSome then s
  else
    match q.group with
    | none => putCmd s k { c with wallAt := some (wallStand q c) }
    | some g => if choosesCut s (s.groupAt g) then agreeWall (tellWall s q c g) k c g else s

/-- TRAVERSE_BOUNDARY (R176): `wall` is whether the elapsed time has reached WALL_US (R179). -/
def execTraverseBoundary (run : RunKey) (wall : Bool) (s : State) : Outcome State Fault Refusal :=
  .next (match s.findRun run with
    | none => s
    | some r0 =>
      if !runActive s r0 then s
      else
        let s := settleSpin s run
        match s.findRun run with
        | none => s
        | some r =>
          match r.spin with
          | none => s
          | some q =>
            match q.cmd with
            | none => s
            | some c =>
              let P := platSteps q.plat
              if c.started = false then closeSpin s run
              else if c.result.isSome ∧ c.limit = none then closeSpin s run
              else if c.tallied < P ∨ (c.result.isSome ∧ c.limit.any (fun l => decide (l ≤ c.step + P))) then s
              else
                let s1 := if wall then wallTest s run q c else s
                let c1 := ((spinNow s1 run).map Prod.snd).getD c
                if wallBar s1 q c1 = some (c.step + P) then s1
                else if tallyMember s1 q && heldBoundary s1 q r c1 then
                  match talliesAt s1 q c1 (c.step + P) with
                  | some b => boundaryStep s1 r q { c1 with tallies := b.2, tallyStep := b.1 } true
                  | none => if c.result = some stLinkLost then boundaryStep s1 r q c1 false else s1
                else boundaryStep s1 r q c1 true)

end Sys2Proof.Machine
end

