-- ==== Sys2Proof/Machine/Bench.lean ====
section
/-! DEFINITION. BENCHMARK (R329) and END (R332) of the control cores, the snapshot request (R411), and the service of a
benchmark or a snapshot when the spin command it waited on has completed. -/

namespace Sys2Proof.Machine

open Host (Outcome)

/-- The state after a RUN's last spin command, where none is in flight: of its configured run, else of the run that R154 has
ended (R329). -/
def idleRun (r : Run) : Option (SpinRun × SpinCmd) :=
  let last (q : SpinRun) : Option (SpinRun × SpinCmd) := q.last.map (fun c => (q, c))
  if spinIdle r then (r.spin.bind last).or (r.ended.bind last) else none

/-- Takes the benchmark and the snapshot that wait on a RUN whose spin command is over: they record the state after
the RUN's last spin command, at the step that it stopped at (R287, R329, R411). -/
def serveIdle (s : State) (k : RunKey) : State :=
  match s.findRun k with
  | none => s
  | some r =>
      match idleRun r with
      | some (q, c) =>
        if r.benchWait.isNone ∧ (s.ctxAt k.ctx).snapRun ≠ some k then s
        else
          let img := benchOf s q c 2 (c.limit.getD c.step) []
          let x := s.ctxAt k.ctx
          let ws := (match r.benchWait with
            | some (va, size, _) => if slotBad s k.ctx q c.mask va size then [] else [(va, img)]
            | none => []) ++ (if x.snapRun = some k then [(x.snapAddr, img)] else [])
          writeThen s r ws (fun s1 => takenDone s1 q c.mask k true)
      | none => s

/-- The command whose state a benchmark of a run records: the one in flight, else the last. -/
def benchCmd (q : SpinRun) : Option SpinCmd :=
  match q.cmd with
  | some c => if c.started then some c else q.last
  | none => q.last

/-- Holds a command in flight at its next step boundary, or lets it run to its traverse boundary (R157). -/
def holdSpin (s : State) (k : RunKey) (traverse : Bool) : State :=
  let hold (q : SpinRun) (c : SpinCmd) : SpinRun :=
    if traverse ∨ c.limit.isSome then q
    else { q with cmd := some { c with limit := some (c.step + issuedPhases q c) } }
  s.updRun k (fun r =>
    match r.spin with
    | some q => match q.cmd with
      | some c => { r with spin := some (hold q c) }
      | none => r
    | none => r)

/-- The RUN's next benchmark is refused with BAD_FIELD, and the cores that wait for it go on (R329, R334). -/
def refuseBench (s : State) (k : RunKey) : State :=
  wakeRun (s.updRun k (fun x => { x with benches := x.benches ++ [stBadField] })) k .benchmark

/-- The lead of a group chooses the traverse boundary at which every member takes a benchmark or a snapshot: one that no
member can have passed (R329, R411; log entry 84). -/
def chooseHold (s : State) (k : RunKey) : State :=
  match spinNow s k with
  | none => s
  | some (q, c) =>
    match q.group with
    | none => s
    | some g =>
      let G := s.groupAt g
      if G.lead ≠ s.fab.chip ∨ G.holdStep.isSome then s
      else
        let step := farBoundary q c G
        sendAll (s.updGroup g (fun G => { G with holdStep := some step })) g (.hold step)

/-- A snapshot needs a boundary of its group: the lead chooses one, another member asks it to (R411). -/
def askHold (s : State) (k : RunKey) : State :=
  match (spinNow s k).bind (fun t => t.1.group) with
  | none => s
  | some g =>
    let G := s.groupAt g
    if G.lead = s.fab.chip then chooseHold s k
    else if G.asked ∨ G.holdStep.isSome then s
    else sendGroup (s.updGroup g (fun G => { G with asked := true })) g [G.lead] (.group .ask)

/-- Whether a RUN's cores hold a spin command that has not started. -/
def spinQueued (s : State) (r : Run) : Bool :=
  r.cores.any (fun n => (runWork s r n).spinU.queue.any (fun c => decide (cmdOp c.bytes = 0x21 ∨ cmdOp c.bytes = 0x23)))

/-- Requests the RUN's next benchmark: refused, or waiting on the boundary; a spin command that has been issued and has
not started is waited for, and the slot is looked at then (R329). With none in the queues, and no run that has ever been
configured, there is no state to record: BAD_FIELD (DESIGN CHOICE, log entry 16). -/
def requestBench (s : State) (r : Run) (va size : Nat) (traverse : Bool) : State :=
  let ask (t : State) : State := t.updRun r.key (fun x => { x with benchWait := some (va, size, traverse) })
  match r.spin.bind (fun q => (benchCmd q).map (fun c => (q, c))) with
  | none =>
    if (groupOf s r.key.ctx).isSome ∧ traverse = false then refuseBench s r.key
    else if spinQueued s r then ask s
    else
      match idleRun r with
      | some (q, c) => if slotBad s r.key.ctx q c.mask va size then refuseBench s r.key else serveIdle (ask s) r.key
      | none => refuseBench s r.key
  | some (q, c) =>
    if slotBad s r.key.ctx q c.mask va size ∨ (q.group.isSome ∧ traverse = false) then refuseBench s r.key
    else if q.cmd.isSome then settleSpin (chooseHold (holdSpin (ask s) r.key traverse) r.key) r.key
    else serveIdle (ask s) r.key

/-- A benchmark that waits is looked at again: taken where its boundary has come, refused where the command that it
waited for has gone without a run (R329). -/
def retryBench (s : State) (r : Run) : State :=
  if (r.spin.bind benchCmd).isNone ∧ !spinQueued s r ∧ (idleRun r).isNone then
    refuseBench (s.updRun r.key (fun x => { x with benchWait := none })) r.key
  else serveIdle (settleSpin (chooseHold s r.key) r.key) r.key

/-- The k-th BENCHMARK of a core takes the status of the RUN's k-th benchmark, or waits for it. -/
def takeBench (s : State) (h : Hart) (rd : BitVec 5) (k : RunKey) : State :=
  match s.findRun k with
  | none => s
  | some r =>
    match r.benches[(s.workAt h.core).benches]? with
    | some st => retireReg (s.updWork h.core (fun w => { w with benches := w.benches + 1 })) h rd (statusWord st)
    | none => waitYield s h .benchmark r

/-- BENCHMARK (R310, R328, R329). -/
def execBenchmark (h : Hart) (rd rs1 : BitVec 5) (arg : BitVec 8) (s : State) : Outcome State Fault Refusal :=
  .next (hartStep s h (fun r c =>
    let a := (regGet c rs1).toNat
    if 1 < arg.toNat then trapHart s h r 1 stBadOpcode 0
    else if a % 16 ≠ 0 then trapHart s h r 3 stBadField 0
    else if !inArea r a 16 then trapHart s h r 4 stPermFault 0
    else if h.cc then trapHart s h r 6 stBadField 0
    else
      let w := s.workAt h.core
      if w.benches < r.benches.length then takeBench s h rd r.key
      else if r.benchWait.isSome then takeBench (retryBench s r) h rd r.key
      else storeGuard s h r a 16
        (takeBench (requestBench s r (fieldOf (storeRead s h.core a 8) 0 8) (fieldOf (storeRead s h.core (a + 8) 8) 0 8)
          (decide (arg.toNat = 1))) h rd r.key)))

/-- END (R310, R332): waits as EDRAIN does, then stops its control core, which completes the barriers of cores that
waited for it (R320); a core that ends without a spin command that the others have issued ends the configured run
(R154). -/
def execEndProgram (h : Hart) (rs1 : BitVec 5) (s : State) : Outcome State Fault Refusal :=
  .next (hartStep s h (fun r c => drainStep s h r
    (let s1 := retireWith s h (c.pc + 4) (fun x => { x with mode := .ended, endStatus := reportStatus (regGet c rs1) })
     yieldCheck (gatherAnneal (gatherSpin (releaseBarriers s1 r) r.key []) r.key) r.key)))

/-- The RUN of a context whose spin command a snapshot takes: the lowest ring, then the lowest SLOT (R411). -/
def snapshotRun (s : State) (c : Nat) : Option Run :=
  let flying := s.runs.filter (fun r => decide (r.key.ctx = c) && (match r.spin with
    | some q => q.cmd.any SpinCmd.started
    | none => false))
  flying.foldl (fun best r =>
    match best with
    | none => some r
    | some b => if r.key.ring < b.key.ring ∨ (r.key.ring = b.key.ring ∧ r.key.slot < b.key.slot) then some r else best) none

/-- A snapshot request of a context (R411). -/
def requestSnapshot (s : State) (c : Nat) : State :=
  let x := s.ctxAt c
  let fail := s.updCtx c (fun x => { x with snapStatus := stBadField })
  if x.snapRun.isSome then s
  else
    match snapshotRun s c with
    | none => fail
    | some r =>
      match r.spin with
      | none => fail
      | some q =>
        if slotBad s c q ((q.cmd.map SpinCmd.mask).getD 0) x.snapAddr x.snapBytes then fail
        else
          let s1 := s.updCtx c (fun x => { x with snapRun := some r.key })
          let s2 := askHold (holdSpin (markT s1 c) r.key q.group.isSome) r.key
          if runActive s2 r then settleSpin s2 r.key else s2

/-- SNAPSHOT_REQUEST (R411). -/
def execSnapshotRequest (ctx : Nat) (s : State) : Outcome State Fault Refusal :=
  .next (if hostUp s ∧ ctx < 4096 then requestSnapshot (wakeChip s) ctx else s)

end Sys2Proof.Machine
end

