-- ==== Sys2Proof/Machine/Vector.lean ====
section
/-! DEFINITION. The commands of the vector engine (R211 to R214): COMBINE, CONVERT (R93 to R98), ROTATE, READOUT (R121),
ENERGY (R213), EXCHANGE (R172 to R175) and AXPY. -/

namespace Sys2Proof.Machine

open Host (Outcome)

/-! ### Working off -/

/-- Whether a SPIN_SCHEDULE or a DENSE_ANNEAL uses the vector engine of a RUN's cores (R214). -/
def vectorHeld (s : State) (r : Run) (core : Nat) : Bool :=
  (match r.spin with
   | some q => q.cmd.any (fun c => c.schedule && c.started)
   | none => false) || (annealHead (s.workAt core)).isSome

/-- Works off the vector unit's head command when it has the given opcode (R211, R214). -/
def vectorStep (s : State) (core op : Nat) (body : State → Run → List Byte → EngOut) : State :=
  match unitReady s core .vector with
  | none => s
  | some (r, q) =>
    if cmdOp q.bytes ≠ op then s
    else if vectorHeld s r core then s.updCore core (fun c => { c with vecMode := 2 })
    else
      let s1 := s.updCore core (fun c => { c with vecMode := 1 })
      engEnd s1 r core .vector (body s1 r q.bytes)

/-- The replica mask in PARAM and COUNT2 (R212). -/
def vecMask (bs : List Byte) : Nat := fieldOf bs 32 8

/-- Whether SEED, STREAM, STEP or the reserved end is not zero. -/
def vecTail (bs : List Byte) : Bool := nonzero bs 40 24

/-! ### COMBINE -/

/-- The checks of COMBINE's own fields (R68, R212). -/
def combineStatus (bs : List Byte) : Option Status :=
  let f := fieldOf bs
  let n := f 50 6 % 2 ^ 25
  if 1 < f 1 1 ∨ f 2 2 ≠ 0 then some stBadField
  else if f 4 4 = 0 then some stLenZero
  else if f 8 8 % 64 ≠ 0 ∨
      pastEnd (f 8 8) (f 4 4 * n * partStride (f 36 4) (if f 1 1 = 0 then 48 else 8)) ∨
      f 16 8 ≠ 0 ∨ f 24 8 % 64 ≠ 0 ∨ pastEnd (f 24 8) 64 then some stBadField
  else if f 36 4 = 0 then some stLenZero
  else if nonzero bs 40 10 ∨ f 50 6 / 2 ^ 25 ≠ 0 ∨ 2 ^ 24 < n then some stBadField
  else if n = 0 then some stLenZero
  else if nonzero bs 56 8 then some stBadField
  else none

/-- Negates a PAIR, exactly. -/
def pairNeg (p : Pair) : Pair := ⟨fpNegate p.v, fpNegate p.c⟩

/-- The sum of LACC partials in ascending index, those of the mask negated (R67, R212). -/
def combineLacc (neg : Nat) (l : List Lacc) : Lacc :=
  match (l.zipIdx.map (fun (p : Lacc × Nat) => if p.2 < 32 ∧ neg.testBit p.2 then laccNeg p.1 else p.1)) with
  | [] => .fin 0
  | x :: r => r.foldl laccAdd x

/-- The sum of PAIR partials. -/
def combinePair (neg : Nat) (l : List Pair) : Pair :=
  match (l.zipIdx.map (fun (p : Pair × Nat) => if p.2 < 32 ∧ neg.testBit p.2 then pairNeg p.1 else p.1)) with
  | [] => ⟨0, 0⟩
  | x :: r => r.foldl pairAdd x

/-- The combined value of an output (R67 to R69). -/
def combineCell (bs : List Byte) (imgs : List Byte) : OutVal :=
  let f := fieldOf bs
  if f 1 1 = 0 then
    ⟨laccNum (combineLacc (f 32 4) ((List.range (f 36 4)).map (fun j => laccOfImage ((imgs.drop (48 * j)).take 48)))), none⟩
  else
    let p := combinePair (f 32 4) ((List.range (f 36 4)).map (fun j => Pair.mk (fieldOf imgs (8 * j) 4) (fieldOf imgs (8 * j + 4) 4)))
    ⟨pairNum p, some p.v⟩

/-- The work of COMBINE (R67 to R71, R212). -/
def combineBody (core : Nat) (s : State) (r : Run) (bs : List Byte) : EngOut :=
  let c := r.key.ctx
  let f := fieldOf bs
  let N := f 50 6 % 2 ^ 25
  let S := partStride (f 36 4) (if f 1 1 = 0 then 48 else 8)
  match combineStatus bs with
  | some st => .done st s
  | none =>
    engRead s c (f 24 8) 64 (fun s1 ob =>
      match outStatus ob (f 4 4) N true with
      | some st => .done st s1
      | none =>
        let fa := fieldOf ob 16 8
        engRead s1 c fa (if fa = 0 then 0 else 4 * N) (fun s2 fs =>
          engRead s2 c (f 8 8) (f 4 4 * N * S) (fun s3 data =>
            let rows := (List.range (f 4 4)).map (fun i => (List.range N).map (fun j =>
              outCell ob (combineCell bs (data.drop ((i * N + j) * S)))
                (if fa = 0 then none else some (fieldOf fs (4 * j) 4))))
            outputStage s3 c core ob N rows)))

/-- COMBINE (R212). -/
def execCombine (core : Nat) (s : State) : Outcome State Fault Refusal :=
  .next (vectorStep s core 0x41 (combineBody core))

/-! ### CONVERT -/

/-- The checks of CONVERT's own fields (R212). -/
def convertStatus (bs : List Byte) : Option Status :=
  let f := fieldOf bs
  if 3 < f 1 1 ∨ 2 ≤ f 2 1 ∨ f 3 1 ≠ 0 then some stBadField
  else if f 4 4 = 0 then some stLenZero
  else if needBad (f 8 8) 64 (f 4 4 * rowPad (f 36 4) (8 * inBytes (f 1 1))) ∨ needBad (f 16 8) 64 0 ∨
      needBad (f 24 8) 64 64 ∨ f 32 4 ≠ 0 then some stBadField
  else if f 36 4 = 0 then some stLenZero
  else if vecTail bs then some stBadField
  else none

/-- Whether a conversion rotates: by the command or by the block (R89, R91, R212). -/
def convertRotates (bs q : List Byte) : Bool := bitOf (fieldOf bs 2 1) 0 || bitOf (fieldOf q 3 1) 0

/-- Whether CONVERT's block breaks a rule (R90 to R92, R212). -/
def activationBlkBad (bs q : List Byte) : Bool :=
  let f := fieldOf q
  let mode := f 2 1
  let rows := fieldOf bs 4 4
  let K := fieldOf bs 36 4
  qblkBad q [5, 6] || decide (2 < mode) ||
    (if mode = 1 then needBad (f 32 8) 128 128 else decide (f 32 8 ≠ 0)) || optBad (f 40 8) 16 16 ||
    (convertRotates bs q && decide (K % 128 ≠ 0)) || pastEnd (f 8 8) (4 * rows) || pastEnd (f 16 8) rows ||
    pastEnd (fieldOf bs 16 8) (rows * rowPad K (fmtWidth (f 0 1)))

/-- Whether a scale-history record breaks a rule (R97); nonzero reserved bytes do too (DESIGN CHOICE, log entry 72), as do
N above H and NEXT not below H (log entry 39). -/
def historyBad (h : List Byte) : Bool :=
  let f := fieldOf h
  decide (f 0 1 = 0 ∨ 8 < f 0 1 ∨ f 0 1 < f 1 1 ∨ f 0 1 ≤ f 2 1 ∨ 15 < f 3 1) || nonzero h 10 6 || nonzero h 96 32

/-- Whether a pair spans zero, as R93 requires of (hi, lo). -/
def spansZero (hi lo : Num) : Bool :=
  (match hi with | .fin d => decide (0 ≤ d.m) | .inf n => !n | .nan => false) &&
  (match lo with | .fin d => decide (d.m ≤ 0) | .inf n => n | .nan => false)

/-- The codes of every row: under CURRENT by its own range, under CARRIED by one pair, under GIVEN by its entries
(R93, R98). A record whose entries do not span zero gives no stated scale: it is a free value (log entry 22). -/
def convertRows (fresh : Nat) (q hist sc zp : List Byte) (rows : List (List Num)) : List RowCodes :=
  let fmt := qFmt q
  let mode := fieldOf q 2 1
  if mode = 2 then rows.zipIdx.map (fun p => convertGiven fmt (fieldOf sc (4 * p.2) 4) (fieldOf zp p.2 1) p.1 0)
  else if mode = 0 then rows.map (fun xs => convertRow fmt xs (rangeOf xs).1 (rangeOf xs).2)
  else
    let own := rangeOf rows.flatten
    let hl := if fieldOf hist 1 1 = 0 then own else histRange hist
    if spansZero hl.1 hl.2 then rows.map (fun xs => convertRow fmt xs hl.1 hl.2)
    else
      let w := (Config.word fresh).toNat
      rows.map (fun xs => convertGiven fmt (w % 2 ^ 32) (w / 2 ^ 32 % ((fmtMax fmt).toNat + 1)) xs 0)

/-- Converts rows and writes codes, scales, zero points, the record and the clip counts (R93, R96, R98). -/
def convertWrite (s : State) (c : Nat) (bs q hist sc zp src : List Byte) : EngOut :=
  let f := fieldOf bs
  let K := f 36 4
  let e := inBytes (f 1 1)
  let stride := rowPad K (8 * e)
  let w := fmtWidth (qFmt q)
  let rows := (List.range (f 4 4)).map (fun i =>
    let xs := (List.range K).map (fun k => inVal (f 1 1) ((src.drop (i * stride + k * e)).take e))
    if convertRotates bs q then rotated false xs else xs)
  let outs := convertRows s.fresh q hist sc zp rows
  let clipped := (outs.map RowCodes.clipped).foldl (· + ·) 0
  let own := rangeOf rows.flatten
  let codes := outs.zipIdx.map (fun p => (f 16 8 + p.2 * rowPad K w, packCodes w p.1.codes))
  let scales := if fieldOf q 2 1 = 2 then [] else
    [(fieldOf q 8 8, outs.flatMap (fun o => natLe 4 o.scale)), (fieldOf q 16 8, outs.flatMap (fun o => natLe 1 o.zp))]
  let record := if fieldOf q 2 1 = 1 then [(fieldOf q 32 8, histAfter hist own.1 own.2 clipped (f 4 4 * K))] else []
  engWrite s.tick c (codes ++ scales ++ record) (fun s1 =>
    clipAdd (scaleClamps s1 c ((outs.map RowCodes.clamps).foldl (· + ·) 0)) c (fieldOf q 40 8) clipped (f 4 4 * K)
      (fun s2 => .done stDone s2))

/-- The work of CONVERT (R87, R93, R98, R212). -/
def convertBody (s : State) (r : Run) (bs : List Byte) : EngOut :=
  let c := r.key.ctx
  let f := fieldOf bs
  match convertStatus bs with
  | some st => .done st s
  | none =>
    engRead s c (f 24 8) 64 (fun s1 q =>
      if activationBlkBad bs q then .done stBadField s1
      else
        let rest (s : State) (hist sc zp : List Byte) : EngOut :=
          engRead s c (f 8 8) (f 4 4 * rowPad (f 36 4) (8 * inBytes (f 1 1))) (fun s4 src =>
            convertWrite s4 c bs q hist sc zp src)
        if fieldOf q 2 1 = 1 then
          engRead s1 c (fieldOf q 32 8) 128 (fun s2 h => if historyBad h then .done stBadField s2 else rest s2 h [] [])
        else if fieldOf q 2 1 = 2 then
          readRows s1 c q (f 4 4) (fun s2 sc zp => rest s2 [] sc zp)
        else rest s1 [] [] [])

/-- CONVERT (R212). -/
def execConvert (core : Nat) (s : State) : Outcome State Fault Refusal :=
  .next (vectorStep s core 0x42 convertBody)

/-! ### ROTATE -/

/-- The checks of ROTATE (R212). -/
def rotateStatus (bs : List Byte) : Option Status :=
  let f := fieldOf bs
  if f 1 3 ≠ 0 then some stBadField
  else if f 4 4 = 0 then some stLenZero
  else if needBad (f 8 8) 64 (512 * f 4 4) ∨ nonzero bs 16 48 then some stBadField
  else none

/-- The work of ROTATE (R88, R212). -/
def rotateBody (s : State) (r : Run) (bs : List Byte) : EngOut :=
  let c := r.key.ctx
  let n := 128 * fieldOf bs 4 4
  match rotateStatus bs with
  | some st => .done st s
  | none =>
    engRead s c (fieldOf bs 8 8) (4 * n) (fun s1 data =>
      let out := rotateRow ((List.range n).map (fun i => fieldOf data (4 * i) 4))
      engWrite s1 c [(fieldOf bs 8 8, out.flatMap (natLe 4))] (fun s2 => .done stDone s2))

/-- ROTATE (R212). -/
def execRotate (core : Nat) (s : State) : Outcome State Fault Refusal :=
  .next (vectorStep s core 0x43 rotateBody)

/-! ### READOUT -/

/-- The checks of READOUT and ENERGY, with the greatest MODE (R212). AUX, which R212 names for ENERGY in dense mode only, is
taken and has no effect in plat mode (DESIGN CHOICE, log entry 92). -/
def maskStatus (bs : List Byte) (top : Nat) : Option Status :=
  let f := fieldOf bs
  if top < f 1 1 ∨ f 2 2 ≠ 0 ∨ f 4 4 ≠ 0 ∨ f 8 8 % 64 ≠ 0 ∨ f 16 8 % 64 ≠ 0 ∨ f 24 8 % 64 ≠ 0 then some stBadField
  else if vecMask bs = 0 then some stLenZero
  else if vecTail bs then some stBadField
  else none

/-- The record of a chain: its sites' bits in list order (R121). -/
def chainRecord (mode : Nat) (bits : List Bool) : Nat :=
  let ones := countTrue bits
  let first := bits.headD false
  let v := if mode = 1 then first else if bits.length < 2 * ones then true
           else if 2 * ones < bits.length then false else first
  bitNat v + 2 * bitNat (decide (0 < ones ∧ ones < bits.length)) + (if mode = 2 then ones * 65536 else 0)

/-- The site of a global index (R101). -/
def indexSite (g : Nat) : Site := ⟨g % 2 ^ 20, g / 2 ^ 20 % 2 ^ 20, g / 2 ^ 40⟩

/-- The records of one replica, its spin plane given (R121, R212). -/
def chainRecords (p : PlatInfo) (entries : List (Nat × Nat × Nat)) (sites : List Nat) (mode mask : Nat) : List Byte :=
  entries.flatMap (fun e =>
    natLe 4 (chainRecord mode (((sites.drop e.1).take e.2.1).map (fun g => mask.testBit (siteLin p (indexSite g))))))

/-- Reads the spin planes of replicas in turn, as masks, in ascending order. -/
def readPlanes (s : State) (c : Nat) (p : PlatInfo) (base : Nat) (ks : List Nat) (acc : List Nat)
    (k : State → List Nat → EngOut) : EngOut :=
  match ks with
  | [] => k s acc
  | n :: rest =>
    engRead s c (base + n * spinPlaneBytes p) (spinPlaneBytes p) (fun s1 bs =>
      readPlanes s1 c p base rest (acc ++ [readPlane p (fun i => bs.getD i 0) 0]) k)

/-- The plat of a READOUT or an ENERGY, checked by the whole of R118, which the spec says of a run's configuration only
(DESIGN CHOICE, log entry 73), and against the mask (R212); its header, scales and chains are operands. -/
def withPlat (s : State) (c va mask : Nat) (k : State → PlatInfo → PlatScales → EngOut) : EngOut :=
  match validatePlat s c va with
  | .refuse st => .done st s
  | .stop x => .stop x false
  | .ok p sc =>
    if 2 ^ p.replicas ≤ mask then .done stBadField s
    else engReads s c ((p.va, 256) :: (scaleReads p ++ chainReads p)) (fun s1 => k s1 p sc)

/-- The work of READOUT (R121, R182, R212). -/
def readoutBody (s : State) (r : Run) (bs : List Byte) : EngOut :=
  let c := r.key.ctx
  let f := fieldOf bs
  match maskStatus bs 2 with
  | some st => .done st s
  | none =>
    withPlat s c (if f 24 8 ≠ 0 then f 24 8 else f 8 8) (vecMask bs) (fun s0 p _ =>
      let base := if f 24 8 ≠ 0 then f 8 8 + 4096 else p.va + p.spinOff
      let es := chainEntries s c p
      let ss := chainSiteList s c p
      readPlanes s0 c p base (namedReplicas (vecMask bs)) [] (fun s1 masks =>
        let block := (4 * p.chains + 63) / 64 * 64
        engWrite s1 c (masks.zipIdx.map (fun m => (f 16 8 + m.2 * block, chainRecords p es ss (f 1 1) m.1)))
          (fun s2 => .done stDone s2)))

/-- READOUT (R212). -/
def execReadout (core : Nat) (s : State) : Outcome State Fault Refusal :=
  .next (vectorStep s core 0x44 readoutBody)

/-! ### ENERGY -/

/-- The plat of an ENERGY: a slab plat where the context is bound to a SLAB group whose plan it matches (R235, R237). -/
def energySlab (s : State) (c : Nat) (p : PlatInfo) : PlatInfo :=
  match groupOf s c with
  | some g => if (s.groupAt g).kind = 0 then (slabPlat s c (s.groupAt g) p).getD p else p
  | none => p

/-- The plan record that an ENERGY reads for a context bound to a SLAB group (R235). -/
def planReads (s : State) (c : Nat) : List (Nat × Nat) :=
  match ((groupOf s c).map s.groupAt).filter (fun G => decide (G.kind = 0)) with
  | some G => [(G.plan, 128)]
  | none => []

/-- A slab plat with its halo as sites of its own, so that their bits are read too. -/
def withHalo (p : PlatInfo) : PlatInfo :=
  { p with slabX0 := p.orgX, slabX1 := p.orgX + p.dimX, slabY0 := p.orgY, slabY1 := p.orgY + p.dimY }

/-- ENERGY in plat mode, which reads the spin planes and the coupling and bias planes; of a slab plat the datum, the
couplings that slab sites own and their biases (R213, R237). -/
def energyPlat (s : State) (c : Nat) (bs : List Byte) : EngOut :=
  let f := fieldOf bs
  let named := namedReplicas (vecMask bs)
  withPlat s c (f 8 8) (vecMask bs) (fun s0 p0 sc => engReads s0 c (planReads s c) (fun s1 =>
    let p := energySlab s c p0
    readPlanes s1 c (withHalo p) (p.va + p.spinOff) named [] (fun s2 masks => engReads s2 c (drawReads p) (fun s3 =>
      engWrite s3 c ((named.zip masks).map (fun m =>
        (f 16 8 + 48 * m.1, laccImage (platEnergy p sc (platByte s c p.va) m.2.testBit))))
        (fun s4 => .done stDone s4)))))

/-- u_i: the couplings of variable i to later variables (R213); in a bipartite problem those of a visible variable to the
hidden ones. -/
def upperField (bi : Bool) (na : Nat) (t : Problem) (mask i : Nat) : Lacc :=
  if bi then (if i < na then t.jt.field mask na i none else .fin 0)
  else
    let col := t.j
    let sp (k : Nat) : Int := if i < k then spinInt (mask.testBit k) else 0
    if qFmt col.q = 0 then
      (List.range col.k).foldl (fun x k =>
        if k ≤ i then x
        else
          match numMul (fpVal fmtBf (col.raw i k)) (.fin (dyInt (sp k))) with
          | .fin d => laccAdd x (laccOf (dyUnits d).1)
          | y => laccAdd x (numLacc y)) (.fin 0)
    else
      let G := qGroup col.q
      (List.range ((col.k + G - 1) / G)).foldl (fun x g =>
        laccAdd x (laccOf (dyUnits (dyMul (dyInt (groupSum sp (fun k => wgtVal (qFmt col.q) (col.raw i k)) (g * G)
          (min (g * G + G) col.k))) (col.scale g i))).1)) (.fin 0)

/-- An LACC value times a spin. -/
def spinTimes (b : Bool) (x : Lacc) : Lacc := if b then x else laccNeg x

/-- The energy of a dense state: the datum, each s_i u_i, each h_i s_i, in ascending i (R45, R213). -/
def denseEnergy (bi : Bool) (na n : Nat) (t : Problem) (datum : Lacc) (mask : Nat) : Lacc :=
  let e := (List.range n).foldl (fun x i => laccAdd x (spinTimes (mask.testBit i) (upperField bi na t mask i))) datum
  (List.range n).foldl (fun x i => laccAdd x (spinTimes (mask.testBit i) (biasTerm t.bias i))) e

/-- Products of the fields u_i of a dense-mode ENERGY for one replica (R213, R217). -/
def upperProducts (bi : Bool) (na nb : Nat) : Nat := if bi then na * nb else na * (na - 1) / 2

/-- The dense engine of a core has formed the fields of an ENERGY: MACS counts the products, and their array clocks are
charged at the rate of EXACT (R20, R217, R464). -/
def countUpper (s : State) (core n : Nat) : State :=
  (s.addCharge (65536 * ((n + 1023) / 1024))).updCore core (fun x => { x with macs := x.macs + BitVec.ofNat 64 n })

/-- ENERGY in dense mode (R213); its fields are EXACT (R57). A block with hidden variables is a bipartite problem. -/
def energyDense (s : State) (c core : Nat) (bs : List Byte) : EngOut :=
  let f := fieldOf bs
  let named := namedReplicas (vecMask bs)
  engRead s c (f 8 8) 64 (fun s1 ab =>
    let bi := decide (fieldOf ab 4 4 ≠ 0)
    let cmd : List Byte := [0x32, if bi then 0 else 2]
    match annealBlock cmd ab with
    | some st => .done st s1
    | none =>
      engRead s1 c (f 24 8) (if f 24 8 = 0 then 0 else 48) (fun s2 d =>
        readProblem s2 c core cmd ab (fun s3 t =>
          let n := annealVars cmd ab
          let stride := rowPad n 1
          engRead s3 c (fieldOf ab 56 8) ((named.getLastD 0 + 1) * stride) (fun s4 rows =>
            engWrite s4 c (named.map (fun k =>
              (f 16 8 + 48 * k, laccImage (denseEnergy bi (fieldOf ab 0 4) n t (laccOfImage d)
                (leNat ((rows.drop (k * stride)).take ((n + 7) / 8)))))))
              (fun s5 => .done stDone (countUpper s5 core
                (named.length * upperProducts bi (fieldOf ab 0 4) (fieldOf ab 4 4))))))))

/-- The work of ENERGY (R213). -/
def energyBody (core : Nat) (s : State) (r : Run) (bs : List Byte) : EngOut :=
  match maskStatus bs 1 with
  | some st => .done st s
  | none => if fieldOf bs 1 1 = 0 then energyPlat s r.key.ctx bs else energyDense s r.key.ctx core bs

/-- ENERGY (R212); `parity` tells of the banks, of the dense engine that forms the fields of a dense-mode ENERGY, that give a
parity error, and whether the recovery check agrees (R58, R213). -/
def execEnergy (core : Nat) (s : State) (parity : List (Nat × Bool) := []) : Outcome State Fault Refusal :=
  .next (let s1 := vectorStep s core 0x45 (energyBody core)
    match unitReady s core .vector with
    | some (r, _) =>
      if (s1.coreAt core).macs = (s.coreAt core).macs then s1
      else
        match denseCore s r.key.ctx core 0 with
        | some e => parityErrors s1 r.key.ctx 0 (parity.map (fun p => (e, p)))
        | none => s1
    | none => s1)

/-! ### EXCHANGE -/

/-- The checks of EXCHANGE's own fields (R212, R523). -/
def exchangeStatus (r : Run) (bs : List Byte) : Option Status :=
  let f := fieldOf bs
  let n := f 4 4
  if f 1 3 ≠ 0 then some stBadField
  else if n = 0 then some stLenZero
  else if 64 < n ∨ f 8 8 % 64 ≠ 0 then some stBadField
  else if outArea r (f 8 8) (48 * n) then some stPermFault
  else if outArea r (f 16 8) n then some stPermFault
  else if f 24 8 % 64 ≠ 0 then some stBadField
  else if outArea r (f 24 8) (4 * n) then some stPermFault
  else if 1 < f 32 4 ∨ f 36 4 ≠ 0 ∨ nonzero bs 56 8 then some stBadField
  else none

/-- The positions after a round with the counts of attempts, swaps and NaN results. -/
structure Round where
  pos      : List Nat
  attempts : Nat
  swaps    : Nat
  nans     : Nat
  deriving DecidableEq, Repr

/-- One pair of a round: `x` is the exchange table (R173, R175). -/
def roundPair (x : Memory) (bs : List Byte) (betas energies : List Nat) (t : Round) (a : Nat) : Round :=
  let f := fieldOf bs
  let ra := t.pos.findIdx (fun p => decide (p = a))
  let rb := t.pos.findIdx (fun p => decide (p = a + 1))
  let u := ctrWord (f 40 8) (f 48 2) 0 (f 50 6) a 2
  match exchangePair x (betas.getD ra 0) (betas.getD rb 0) (energies.getD ra 0) (energies.getD rb 0) u with
  | none => { t with attempts := t.attempts + 1, nans := t.nans + 1 }
  | some swap =>
    if swap then ⟨listUpd (listUpd t.pos ra (fun _ => a + 1)) rb (fun _ => a), t.attempts + 1, t.swaps + 1, t.nans⟩
    else { t with attempts := t.attempts + 1 }

/-- The work of EXCHANGE (R172 to R175, R212). -/
def exchangeBody (core : Nat) (s : State) (r : Run) (bs : List Byte) : EngOut :=
  let f := fieldOf bs
  let n := f 4 4
  match exchangeStatus r bs with
  | some st => .done st s
  | none =>
    match (storeBad s core (f 8 8) (48 * n)).or ((storeBad s core (f 24 8) (4 * n)).or (storeBad s core (f 16 8) n)) with
    | some l => .stop (.ue .coreStore l) false
    | none =>
      let pos := (storeRead s core (f 16 8) n).map BitVec.toNat
      if pos.any (fun p => decide (n ≤ p)) ∨ !decide pos.Nodup then .done stBadField s
      else
        let tb := storeRead s core (f 8 8) (48 * n)
        let bb := storeRead s core (f 24 8) (4 * n)
        let energies := (List.range n).map (fun k =>
          numRound fmt32 (laccNum (laccOfImage ((tb.drop (48 * k)).take 48))))
        let betas := (List.range n).map (fun k => fieldOf bb (4 * k) 4)
        let o := (roundPairs (f 32 4) n).foldl (roundPair (s.ctxAt r.key.ctx).exchTable bs betas energies) ⟨pos, 0, 0, 0⟩
        let s1 := storeWrite s core (f 16 8) (o.pos.flatMap (natLe 1))
        .done stDone (s1.updCore core (fun x => { x with
          exchAttempts := x.exchAttempts + BitVec.ofNat 64 o.attempts
          exchSwaps := x.exchSwaps + BitVec.ofNat 64 o.swaps
          exchNan := x.exchNan + BitVec.ofNat 64 o.nans }))

/-- EXCHANGE (R212). -/
def execExchange (core : Nat) (s : State) : Outcome State Fault Refusal :=
  .next (vectorStep s core 0x46 (exchangeBody core))

/-! ### AXPY -/

/-- Whether a field of AXPY is refused (R212). -/
def axpyBad (bs : List Byte) : Bool :=
  let f := fieldOf bs
  let n := f 4 4
  decide (f 1 3 ≠ 0) || optBad (f 8 8) 4 (4 * n) || optBad (f 16 8) 4 (4 * n) || decide (f 24 8 ≠ 0 ∨ f 36 4 ≠ 0) || vecTail bs

/-- The work of AXPY: y := RN(y + RN(a · x)) (R212). -/
def axpyBody (s : State) (r : Run) (bs : List Byte) : EngOut :=
  let c := r.key.ctx
  let f := fieldOf bs
  let n := f 4 4
  if axpyBad bs then .done stBadField s
  else if n = 0 then .done stDone s
  else
    engRead s c (f 8 8) (4 * n) (fun s1 xs =>
      engRead s1 c (f 16 8) (4 * n) (fun s2 ys =>
        let out := (List.range n).flatMap (fun i =>
          natLe 4 (fpAdd (fieldOf ys (4 * i) 4) (fpMul (f 32 4) (fieldOf xs (4 * i) 4))))
        engWrite s2 c [(f 16 8, out)] (fun s3 => .done stDone s3)))

/-- AXPY (R212). -/
def execAxpy (core : Nat) (s : State) : Outcome State Fault Refusal :=
  .next (vectorStep s core 0x47 axpyBody)

end Sys2Proof.Machine
end

