-- ==== Sys2Proof/Machine/Dma.lean ====
section
/-! DEFINITION. DMA commands (R316, R317), the completion of engine and DMA commands (R313 to R315), and the polling of
memory conditions (R318, R325, R350). -/

namespace Sys2Proof.Machine

open Host (Outcome)

/-! ### DMA -/

/-- ROWS of a DMA command. -/
def dmaRows (bs : List Byte) : Nat := if fieldOf bs 4 4 = 0 then 1 else fieldOf bs 4 4

/-- A pitch of a DMA command: LENGTH for zero. -/
def dmaPitch (bs : List Byte) (off : Nat) : Nat := if fieldOf bs off 8 = 0 then fieldOf bs 8 8 else fieldOf bs off 8

/-- One past the last byte of a side of a DMA command. -/
def dmaEnd (bs : List Byte) (base pitch : Nat) : Nat := base + (dmaRows bs - 1) * pitch + fieldOf bs 8 8

/-- Whether the source, and the destination, of a kind is virtual. -/
def dmaVirtual (kind : Nat) : Bool × Bool := (decide (kind = 0 ∨ kind = 3), decide (kind = 1 ∨ kind = 3))

/-- The first failing check of a DMA command (R316, R317); PEER is checked under every KIND, as R317's words say (log entry
100). -/
def dmaStatus (r : Run) (bs : List Byte) : Option Status :=
  let f := fieldOf bs
  let v := dmaVirtual (f 1 1)
  let side (virt : Bool) (fin : Nat) : Option Status :=
    if virt then (if 2 ^ 48 < fin then some stBadField else none)
    else if r.hdr.dataBytes < fin then some stPermFault else none
  if f 0 1 ≠ 1 then some stBadOpcode
  else if 3 < f 1 1 ∨ f 2 2 ≠ 0 ∨ f 8 8 % 8 ≠ 0 ∨ f 16 8 % 8 ≠ 0 ∨ f 24 8 % 8 ≠ 0 ∨ f 32 8 % 8 ≠ 0 ∨ f 40 8 % 8 ≠ 0 ∨
      r.cores.length ≤ f 48 4 ∨ nonzero bs 52 12 then some stBadField
  else if f 8 8 = 0 then none
  else (side v.1 (dmaEnd bs (f 16 8) (dmaPitch bs 32))).or (side v.2 (dmaEnd bs (f 24 8) (dmaPitch bs 40)))

/-- Whether a memory-to-memory command's source and destination overlap (R317). -/
def dmaOverlap (bs : List Byte) : Bool :=
  let f := fieldOf bs
  let n := f 8 8
  let rows := List.range (dmaRows bs)
  decide (f 1 1 = 3) && rows.any (fun i => rows.any (fun j =>
    overlaps (f 16 8 + i * dmaPitch bs 32) (f 24 8 + j * dmaPitch bs 40) n))

/-- Moves the bytes of a DMA command from the given one on, row by row, in pieces that cross no 4 KiB boundary of a
virtual side, each once its near bytes are paid for; answers the state, the bytes moved in all and what stopped it (R317,
R404, R464, R465). -/
def dmaLoop (fuel : Nat) (s : State) (c core peer : Nat) (bs : List Byte) (done : Nat) (free : Bool) :
    State × Nat × Option (Stop × Bool) :=
  match fuel with
  | 0 => (s, done, none)
  | k + 1 =>
    let f := fieldOf bs
    let n := f 8 8
    if dmaRows bs * n ≤ done then (s, done, none)
    else
      let v := dmaVirtual (f 1 1)
      let src := f 16 8 + done / n * dmaPitch bs 32 + done % n
      let dst := f 24 8 + done / n * dmaPitch bs 40 + done % n
      let m := min (n - done % n) (min (4096 - src % 4096) (4096 - dst % 4096))
      let stopRead := if v.1 then rangeStop s c src m false
        else (storeBad s core src m).map (fun l => Stop.ue .coreStore l)
      match stopRead with
      | some x => (s, done, some (x, false))
      | none =>
        match (if v.2 then rangeStop s c dst m true else none) with
        | some x => (s, done, some (x, true))
        | none =>
          let near := (if v.1 then nearBytes s c src m else 0) + (if v.2 then nearBytes s c dst m else 0)
          let p := payUnits s core .dma (nearCharge near)
          if p.2 = false then (p.1, done, none) else
          let data := if free then (List.range m).map (fun i => Config.byte s.fresh (done + i))
            else if v.1 then vaRead s c src m else storeRead s core src m
          let s1 := if v.1 then touch p.1 c src m else p.1
          let s2 := if v.2 then vaWrite (touch s1 c dst m) c dst data
            else storeWrite s1 (if f 1 1 = 2 then peer else core) dst data
          dmaLoop k s2 c core peer bs (done + m) free

/-- DMA_COMMAND (R316, R317): the DMA unit of a core works off its head command, or goes on with it, as far as its core's
credits go (R465). -/
def execDmaCommand (core : Nat) (s : State) : Outcome State Fault Refusal :=
  .next (match unitReady s core .dma with
    | none => s
    | some (r, q) =>
      match dmaStatus r q.bytes with
      | some st => setResult .dma st s core
      | none =>
        let n := fieldOf q.bytes 8 8
        let moved := (s.workAt core).dmaU.moved
        let p := dmaLoop (dmaRows q.bytes * (n / 2048 + 4) + 1) s r.key.ctx core (r.cores.getD (fieldOf q.bytes 48 4) core)
          q.bytes moved (dmaOverlap q.bytes)
        let s1 := State.tick (p.1.updWork core (fun w => { w with dmaU := { w.dmaU with running := true, moved := p.2.1 } }))
        match p.2.2 with
        | none => if dmaRows q.bytes * n ≤ p.2.1 then setResult .dma stDone s1 core else s1
        | some (x, w) => stopAccess s1 r.key.ctx x w 0 core r.key.ring r.key.slot (.engine core .dma))

/-! ### Completion -/

/-- Whether what a control core waits for of its core's commands has come: its ticket's command is complete or the ticket
live no more, every command is complete, the unit's queue has room (R313, R314, R319). -/
def unitWaitOver (w : Work) (c : CCore) : Bool :=
  match c.mode, c.wait with
  | .waiting, .ticket t => decide (ticketStatus w t.toNat ≠ some none)
  | .waiting, .drain => drained w
  | .waiting, .stall u => decide ((w.unitQ u).queue.length < 16)
  | _, _ => false

/-- Wakes a control core whose wait for commands is over: its instruction executes again from its start (R313, R333). -/
def wakeUnit (w : Work) (c : CCore) : CCore := if unitWaitOver w c then wakeCc c else c

/-- A core's work after the head command of a unit has completed (R313, R314). -/
def completeHead (u : EngineUnit) (n : Nat) (st : Status) (w : Work) : Work :=
  let q := w.unitQ u
  let w1 := w.setUnitQ u { q with queue := q.queue.drop 1, running := false, result := none, moved := 0, paid := 0,
                                  done := ((n, st) :: q.done).take 64 }
  let w2 := { w1 with since := w1.since.map (fun (e : EngineUnit × Nat × Option Status) => if e.1 = u ∧ e.2.1 = n then (e.1, e.2.1, some st) else e) }
  { w2 with cc0 := wakeUnit w2 w2.cc0, cc1 := wakeUnit w2 w2.cc1 }

/-- Completes the head command of a unit whose work is done. -/
def completeUnit (s : State) (core : Nat) (u : EngineUnit) : State :=
  let w := s.workAt core
  match s.runOf core, (w.unitQ u).queue, (w.unitQ u).result with
  | some r, q :: _, some st =>
    let s1 := s.updCore core (fun c => lastStatus u st { c with work := completeHead u q.ordinal st c.work })
    let s2 := if endsRun st ∧ r.status = none then
      s1.updRun r.key (fun x => { x with status := some st, phase := .stopping }) else s1
    if u = .spin then serveIdle s2 r.key else s2
  | _, _, _ => s

/-- COMMAND_COMPLETE (R313 to R315): what the command wrote may be what a control core or a WAIT waits for (R318). -/
def execCommandComplete (core : Nat) (unit : EngineUnit) (s : State) : Outcome State Fault Refusal :=
  .next (wakeWaits (completeUnit s core unit))

/-- WAIT_VALUE_POLL (R318, R325, R350). -/
def execWaitValuePoll (s : State) : Outcome State Fault Refusal :=
  .next (wakeWaits s)

end Sys2Proof.Machine
end

