-- ==== Sys2Proof/Machine/Runs.lean ====
section
/-! DEFINITION. RUN descriptors (R347, R348, R354, R355): start, dispatch (R304 to R307, R358), completion (R332, R359),
timeouts and the drain window (R326, R362 to R364), and the end of a time slice (R361). -/

namespace Sys2Proof.Machine

open Host (Outcome)

/-! ### Start -/

/-- A RUN as it starts, before its header has been read. -/
def newRun (k : RunKey) (bs : List Byte) (cores : List Nat) : Run :=
  { key := k
    persist := bitOf (fieldOf bs 1 1) 2
    cores := cores
    program := fieldOf bs 8 8
    param := fieldOf bs 16 8
    hdr := ⟨0, 0, 0, 0, 0, 0, 0, 0⟩
    phase := .waiting
    status := none
    detail := 0
    timedOut := false
    taken := []
    seeds := []
    seedWait := false
    spin := none
    benches := []
    issuedOps := []
    benchWait := none
    block := none
    ended := none }

/-- RUN (R347, R348, R354, R355): the next descriptor of the ring starts; it waits to be dispatched, while an earlier RUN
of the context holds one of its cores too. The checks of the plot and of the mask are made again at the start, the plot
having perhaps changed since the fetch. -/
def execRun (ctx ring : Nat) (s : State) : Outcome State Fault Refusal :=
  .next (match nextOf s ctx ring 1 [1] with
    | none => s
    | some d =>
      match checkRun s ctx d.bytes with
      | some st => finishNext s ctx ring st
      | none =>
        let s1 := startNext s ctx ring d
        { s1 with runs := s1.runs ++ [newRun ⟨ctx, ring, d.slot⟩ d.bytes (runCores s ctx d.bytes)] })

/-! ### Dispatch -/

/-- The fields of a program header (R304). -/
def parseHdr (h : List Byte) : ProgHdr :=
  { flags := fieldOf h 6 1
    codeBytes := fieldOf h 8 4
    crc := fieldOf h 12 4
    entry0 := fieldOf h 16 2
    entry1 := fieldOf h 18 2
    dataBytes := fieldOf h 20 4
    paramOff := fieldOf h 24 4
    paramBytes := fieldOf h 28 4 }

/-- The first failing check of a program header, in ascending byte order (R304, R305), then of the ranges that it gives
(R347, R394). -/
def hdrStatus (h : List Byte) (program param : Nat) : Option Status :=
  let p := parseHdr h
  if fieldOf h 0 4 ≠ 0x4C425244 ∨ fieldOf h 4 2 ≠ 1 ∨ 2 ≤ p.flags ∨ fieldOf h 7 1 ≠ 0 then some stBadField
  else if p.codeBytes = 0 then some stLenZero
  else if p.codeBytes % 4 ≠ 0 ∨ 65536 < p.codeBytes then some stBadField
  else if p.entry0 % 4 ≠ 0 ∨ p.codeBytes ≤ p.entry0 ∨ p.entry1 % 4 ≠ 0 ∨ p.codeBytes ≤ p.entry1 then some stBadField
  else if p.dataBytes % 64 ≠ 0 ∨ 8323072 < p.dataBytes then some stBadField
  else if p.paramOff % 64 ≠ 0 ∨ p.paramBytes % 64 ≠ 0 ∨ 65536 < p.paramBytes ∨ p.dataBytes < p.paramOff + p.paramBytes then
    some stBadField
  else if fieldOf h 32 32 ≠ 0 then some stBadField
  else if 2 ^ 48 < program + 64 + p.codeBytes then some stBadField
  else if p.paramBytes ≠ 0 ∧ (param = 0 ∨ 2 ^ 48 < param + p.paramBytes) then some stBadField
  else none

/-- A control core at its entry (R307). -/
def startCc (entry param rank n cc : Nat) : CCore :=
  { started := true
    mode := .running
    pc := BitVec.ofNat 64 entry
    regs := [(1, BitVec.ofNat 64 param), (2, BitVec.ofNat 64 rank), (3, BitVec.ofNat 64 n), (4, BitVec.ofNat 64 cc)] }

/-- One core at GO: its parameter copy, which gives the words it writes new check bits, and its control cores at their
entries (R22, R307, R358). -/
def goCore (r : Run) (p : ProgHdr) (params : List Byte) (s : State) (core : Nat) : State :=
  let n := r.cores.length
  let k := rankIn r.cores core
  State.updCore { s with badLines := rewritten core p.paramOff params.length s.badLines } core (fun c => { c with
    power := 0
    work :=
      { run := some r.key
        store := memWriteN c.work.store p.paramOff params
        cc0 := startCc p.entry0 r.param k n 0
        cc1 := if p.flags % 2 = 1 then startCc p.entry1 r.param k n 1 else {} } })

/-- What stops an access of the sequencers (R405). -/
def seqStop (s : State) (r : Run) (x : Stop) (core : Nat) : State :=
  stopAccess s r.key.ctx x false 5 core r.key.ring r.key.slot (.sequencer r.key)

/-- GO: every core takes its parameters and starts (R358). -/
def go (s : State) (r : Run) (p : ProgHdr) : State :=
  match rangeStop s r.key.ctx r.param p.paramBytes false with
  | some x => seqStop s r x (r.cores.headD 0)
  | none =>
    let s1 := markAccess (cachePages s r.key.ctx r.param p.paramBytes) r.key.ctx r.param p.paramBytes
    let s2 := r.cores.foldl (goCore r p (vaRead s1 r.key.ctx r.param p.paramBytes)) s1
    s2.updRun r.key (fun q => { q with phase := .dispatched, hdr := p })

/-- Loads the code where it is lacking, checks its CRC and goes on to GO (R305, R306, R358). A load is marked T by
R306, and breaks no timing by R286, which names the table of R282 alone: the read of the code does where that table has it, as
a DMA from HOST or by a page that is not locked (R393, R401; DEDUCED, log entry 94). -/
def loadAndGo (s : State) (r : Run) (p : ProgHdr) : State :=
  match coresLacking s r p with
  | [] => go s r p
  | n :: rest =>
    match rangeStop s r.key.ctx (r.program + 64) p.codeBytes false with
    | some x => seqStop s r x n
    | none =>
      let bs := vaRead s r.key.ctx (r.program + 64) p.codeBytes
      let good := decide (crc32c bs = p.crc)
      let s1 := markAccess (cachePages s r.key.ctx (r.program + 64) p.codeBytes) r.key.ctx (r.program + 64) p.codeBytes
      let s2 := loadCode s1 (codeWords p.codeBytes bs) (if good then some (imageKey r p) else none) (n :: rest)
      if good then go s2 r p else completeRun s2 r.key stBadField 0

/-- The die of a logical core. -/
def coreDie (s : State) (n : Nat) : Nat := (s.coreAt n).phys / 36

/-- The dies whose near memory the context of a plot has locked pages in (R286, R393, R395). -/
def memDies (s : State) (p : Nat) : List Nat :=
  let c := plotCtx s p
  (s.ctxAt c).locked.filterMap (fun page =>
    match xlate s c (page * 65536) false with
    | .ok .near off => some (nearChannel s off / 64)
    | _ => none)

/-- Whether a plot uses a core, a memory controller or a bridge of a die: a core of it lies there, near memory that its
context has locked does, or a transfer between two of these passes there, east or west first; the I/O die serves every plot
(R17, R286, R467; DEDUCED, log entry 94). -/
def plotUsesDie (s : State) (p d : Nat) : Bool :=
  let ends := (maskCores (s.plotAt p).mask).map (coreDie s) ++ memDies s p
  decide (d = 4) || ends.any (fun a => ends.any (fun b => decide (a / 2 * 2 + b % 2 = d)))

/-- A RUN is dispatched: what breaks the timing of its plot is counted anew, and a thermal throttle of a die that the plot
uses breaks it again while it holds (R286, R467). -/
def freshTiming (s : State) (plot : Nat) : State :=
  let s1 := s.updPlot plot (fun q => { q with broken := [] })
  if (List.range 5).any (fun d => s.power.clockThr.getD d false && plotUsesDie s plot d) then timingBroken s1 plot 1 else s1

/-- Whether a RUN may be dispatched now: its context is ACTIVE, and holds the plot or is the next to take it, the holder
being none or not runnable; no earlier RUN of the context has one of its cores (R355, R358, R361). -/
def mayDispatch (s : State) (r : Run) : Bool :=
  let p := s.plotAt (s.ctxAt r.key.ctx).plot
  let holds := decide (p.holder = some r.key.ctx)
  let free := (match p.holder with
    | none => true
    | some h => !ctxRunnable s h) && decide (nextHolder s (s.ctxAt r.key.ctx).plot = some r.key.ctx)
  chipRuns s && decide (r.phase = .waiting) && !runBlocked s r && decide ((s.ctxAt r.key.ctx).st = 1) && (holds || free) &&
    r.cores.all (fun n => decide ((s.coreAt n).quiesce = 0))

/-- RUN_DISPATCH (R304 to R307, R358, R386): the quota, the header, the code, GO. -/
def execRunDispatch (run : RunKey) (s : State) : Outcome State Fault Refusal :=
  .next (match s.findRun run with
    | none => s
    | some r =>
      if mayDispatch s r = false then s
      else if overQuota (s.ctxAt run.ctx) then completeRun (s.updCtx run.ctx markQuota) run stCapacityRefused 0
      else
        let s0 := switchPlot s (s.ctxAt run.ctx).plot run.ctx
        let s1 := freshTiming s0 (s0.ctxAt run.ctx).plot
        if (s1.ctxAt run.ctx).st ≠ 1 then s1 else
        match rangeStop s1 run.ctx r.program 64 false with
        | some x => seqStop s1 r x (r.cores.headD 0)
        | none =>
          let h := vaRead s1 run.ctx r.program 64
          let s2 := markAccess (cachePages s1 run.ctx r.program 64) run.ctx r.program 64
          match hdrStatus h r.program r.param with
          | some st => completeRun s2 run st 0
          | none => loadAndGo s2 r (parseHdr h))

/-! ### Completion -/

/-- The END statuses of a RUN's control cores by rank, control core 0 before 1 (R332). -/
def endStatuses (s : State) (r : Run) : List Status :=
  r.cores.flatMap (fun n =>
    let w := runWork s r n
    (if w.cc0.started then [w.cc0.endStatus] else []) ++ (if w.cc1.started then [w.cc1.endStatus] else []))

/-- The status that a RUN completes with, when it is over: a status or a trap that ended it, its timeout, its END
statuses, DONE (R332, R363). -/
def runEnd (s : State) (r : Run) : Option Status :=
  match r.status with
  | some st => some st
  | none =>
    if r.timedOut then some stTimeoutDrained
    else if (decide (r.phase = .dispatched ∨ r.phase = .preempted)) && r.cores.all (fun n => workEnded (runWork s r n)) then
      some (((endStatuses s r).find? (fun st => decide (st ≠ stDone))).getD stDone)
    else none

/-- Completes a RUN, or, while its context is being reset, discards it without a completion record (R359, R383). -/
def endRun (s : State) (k : RunKey) (st : Status) (detail : Nat) : State :=
  if (s.ctxAt k.ctx).st = 4 then dropRun s k stTimeoutKilled true else completeRun s k st detail

/-- RUN_COMPLETE (R332, R359, R363). -/
def execRunComplete (run : RunKey) (s : State) : Outcome State Fault Refusal :=
  .next (match s.findRun run with
    | none => s
    | some r =>
      match runEnd s r with
      | none => s
      | some st => endRun s run st r.detail)

/-! ### Timeouts -/

/-- Whether a RUN's context holds its plot. -/
def holdsPlot (s : State) (c : Nat) : Bool := decide ((s.plotAt (s.ctxAt c).plot).holder = some c)

/-- Whether a core's work waits in the WAIT_QUEUE that takes the next entry of its queue (R325, R326). -/
def waitsNext (r : Run) (w : Work) : Bool :=
  match w.cc0.mode, w.cc0.wait with
  | .waiting, .queue va =>
    decide (tabGet 0 w.wqs va.toNat = (r.taken.filter (fun q => decide (q.1 = va.toNat))).length)
  | _, _ => false

/-- Whether a stake's time counts: not while every core that has not ended waits in the WAIT_QUEUE that takes the next
entry, its other control core having ended or not been started (R326). -/
def timeCounts (s : State) (r : Run) : Bool :=
  !r.persist || r.cores.any (fun n =>
    let w := runWork s r n
    !workEnded w && !(waitsNext r w && (!w.cc1.started || decide (w.cc1.mode = .ended))))

/-- RUN_TIMEOUT (R326, R362, R363): the RUN's cores are ordered to stop. The time itself is the clock's, and does not pass
in D3hot (R462). -/
def execRunTimeout (run : RunKey) (s : State) : Outcome State Fault Refusal :=
  .next (match s.findRun run with
    | none => s
    | some r =>
      if s.boot.d3hot = false ∧ r.phase = .dispatched ∧ r.status = none ∧ holdsPlot s run.ctx ∧ (s.ctxAt run.ctx).st = 1 ∧ timeCounts s r then
        s.updRun run (fun q => { q with timedOut := true, phase := .stopping })
      else s)

/-- The bit of a unit in RST_UNIT.UNITS (R469). -/
def unitBit (u : EngineUnit) : BitVec 4 :=
  match u with
  | .dma => 1
  | .spin => 2
  | .dense => 4
  | .vector => 8

/-- Starts the engine reset of a unit: its port enters QUIESCE, and its status register takes the status of the
commands that it loses (R453, R457). -/
def startUnitReset (st : Status) (s : State) (p : Nat × EngineUnit) : State :=
  s.updCore p.1 (fun c =>
    let c1 := if (c.work.unitQ p.2).queue.isEmpty then c else lastStatus p.2 st c
    { c1 with quiesce := if c1.quiesce = 1 then 1 else 2, quiesceUnits := c1.quiesceUnits ||| unitBit p.2 })

/-- DRAIN_WINDOW_EXPIRY (R363, R364): with no unit left running the RUN completes with TIMEOUT_DRAINED; the units that have
not stopped are reset, the RUN completes with TIMEOUT_KILLED and its context becomes faulted, if it is not yet. While the
context is being reset, the RUN is discarded instead (R383). The time of the window does not pass in D3hot (R462). -/
def execDrainWindowExpiry (run : RunKey) (stuck : List (Nat × EngineUnit)) (s : State) : Outcome State Fault Refusal :=
  .next (match s.findRun run with
    | none => s
    | some r =>
      if r.timedOut = false ∨ s.boot.d3hot then s
      else
        match stuck.filter (fun p => decide (p.1 ∈ r.cores)) with
        | [] => endRun s run stTimeoutDrained 0
        | us =>
          let s1 := us.foldl (startUnitReset stTimeoutKilled) s
          if (s.ctxAt run.ctx).st = 4 then dropRun s1 run stTimeoutKilled true
          else if (s.ctxAt run.ctx).st ≠ 1 ∧ (s.ctxAt run.ctx).st ≠ 2 then endRun s1 run stTimeoutKilled 0
          else faultCtx s1 run.ctx (some (run.ring, run.slot, stTimeoutKilled)))

/-! ### Slices -/

/-- TIME_SLICE_END (R361, R391): the plot passes to the next runnable context. -/
def execTimeSliceEnd (plot : Nat) (s : State) : Outcome State Fault Refusal :=
  .next (match nextHolder s plot with
    | none => s
    | some c => if chipRuns s ∧ (s.plotAt plot).st ≠ 0 then switchPlot s plot c else s)

end Sys2Proof.Machine
end

