-- ==== Sys2Proof/Machine/Contexts.lean ====
section
/-! DEFINITION. Contexts: enabling, attachment, reset (R380 to R384, R390), translation caches and locks (R393, R399,
R400), translation faults resumed or aborted (R404 to R407). -/

namespace Sys2Proof.Machine

open Host (Outcome)

/-! ### Enabling and attachment -/

/-- Whether a context has a RUN that is dispatched, pre-empted or waiting to be dispatched (R382). -/
def hasRun (s : State) (c : Nat) : Bool := s.runs.any (fun r => decide (r.key.ctx = c))

/-- Whether every ring of a context is STOPPED and nothing of it is in flight (R382). -/
def ringsStopped (x : Ctx) : Bool :=
  x.rings.all (fun (p : Nat × Ring) => !p.2.configured && p.2.inflight.isEmpty && p.2.finished.isEmpty)

/-- A write of ENABLE (R380, R382): a DISABLED context becomes ACTIVE; ENABLE is cleared only on a context at rest, and
an ACTIVE one then becomes DISABLED. -/
def writeEnable (s : State) (c : Nat) (bit : Bool) : State :=
  let x := s.ctxAt c
  if bit then s.updCtx c (fun x => { x with enable := true, st := if x.st = 0 then 1 else x.st })
  else if ringsStopped x ∧ x.plotValid = false ∧ hasRun s c = false then
    s.updCtx c (fun x => { x with enable := false, st := if x.st = 1 then 0 else x.st })
  else s

/-- Detaches a context from its plot: its save areas are freed, and the plot no longer has it as its holder. -/
def detach (s : State) (c : Nat) : State :=
  let x := s.ctxAt c
  if x.plotValid then
    let s1 := s.updPlot x.plot (fun p => if p.holder = some c then { p with holder := none } else p)
    s1.updCtx c (fun x => { x with plotValid := false, saves := [], areas := [], locked := [] })
  else s

/-- A context with the save areas that its attachment to a plot allots: none while the plot is FREE (R390, R391). -/
def attachAreas (s : State) (c p : Nat) : Option State :=
  if (s.plotAt p).st = 1 then allotAreas s [c] (maskCores (s.plotAt p).mask) else some s

/-- Whether an attachment to a plot is refused (R390). -/
def attachRefused (s : State) (c p : Nat) : Bool :=
  decide ((s.plotAt p).st = 2) || decide (4096 ≤ (attachedTo s p).length) || (attachAreas s c p).isNone

/-- A write of PLOT_VALID and PLOT (R382, R390). A write that changes neither has no effect. -/
def writePlot (s : State) (c : Nat) (bit : Bool) (plot : Nat) : State :=
  let x := s.ctxAt c
  if (x.plotValid = bit ∧ x.plot = plot) ∨ hasRun s c then s
  else
    let s1 := (detach s c).updCtx c (fun x => { x with plot := plot })
    if bit = false then s1
    else if attachRefused s1 c plot then s1.updCtx c (fun x => { x with attachRefused := true })
    else ((attachAreas s1 c plot).getD s1).updCtx c (fun x => { x with plotValid := true })

/-! ### Context reset -/

/-- A ring after a context reset: STOPPED with cause RESET, HEAD kept, everything else of its work gone (R383). -/
def resetRing (q : Ring) : Ring :=
  { q with
    configured := false, stopping := false, full := false, keepsTail := false, stopCause := 4
    kept := 0, waitOn := false, fetched := [], inflight := [], finished := [], held := [] }

/-- Discards RUNs of a context without records (R383): run records of their spin commands are written as R186 has them,
no completion record is. -/
def discardRuns (s : State) (c : Nat) (p : Run → Bool) : State :=
  ((s.runs.filter (fun r => decide (r.key.ctx = c) && p r)).map Run.key).foldl
    (fun t k => dropRun t k stTimeoutKilled true) s

/-- Whether a RUN is on one of its cores now. -/
def onCores (s : State) (r : Run) : Bool := r.cores.any (fun n => decide ((s.workAt n).run = some r.key))

/-- A RUN of a context that is being reset is ordered to stop (R363, R383). -/
def stopForReset (c : Nat) (r : Run) : Run :=
  if r.key.ctx = c then { r with phase := .stopping, timedOut := true } else r

/-- A reset of the context of ACTIVE entries: the other members learn that this one is lost; those of a RUNNING entry do when
its run ends (R246). -/
def tellReset (c : Nat) (s : State) : State :=
  ((List.range 16).filter (fun g => decide ((s.groupAt g).st = 2 ∧ (s.groupAt g).context = c))).foldl
    (fun t g => sendStop t g stLinkLost (some s.fab.chip)) s

/-- A context reset up to its end (R246, R383, R432): RESETTING. Its RUNs that are on cores are ordered to stop, and the drain
window or the reset's end discards them; all its other work goes at once. -/
def resetCtx (s : State) (c : Nat) : State :=
  if (s.ctxAt c).st = 0 then s
  else
    let s1 := loseServices (discardRuns (tellReset c s) c (fun r => !onCores s r)) c
    let s2 := { s1 with
      pris := s1.pris.filter (fun q => decide (q.ctx ≠ c))
      runs := s1.runs.map (stopForReset c) }
    s2.updCtx c (fun x => { x with
      st := 4
      rings := (List.range 4).map (fun r => (r, resetRing (x.ringAt r)))
      inval := none, tlb := [], locked := [], fault := none, faultMore := 0, holders := [], ue := 0
      snapRun := none, accTable := [], exchTable := [], saves := [] })

/-- The end of a context reset: its RUNs have stopped and are discarded (R380, R383). -/
def endReset (s : State) (c : Nat) : State :=
  if (s.ctxAt c).st = 4 then
    (discardRuns s c (fun _ => true)).updCtx c (fun x => { x with st := if x.enable then 1 else 0 })
  else s

/-! ### Pending faults -/

/-- The context is ACTIVE again, its fault registers are clear, and its stopped RUNs go on where it holds its plot
(R405, R406). -/
def clearFault (s : State) (c : Nat) : State :=
  let s1 := s.updCtx c (fun x => { x with st := 1, fault := none, faultMore := 0, holders := [] })
  if holdsPlot s1 c then
    reloadRuns { s1 with runs := s1.runs.map (fun r =>
        if r.key.ctx = c ∧ r.phase = .preempted then { r with phase := .dispatched } else r) } c
  else s1

/-- RESUME of a pending fault (R406). -/
def resumeFault (s : State) (c : Nat) : State := if (s.ctxAt c).st = 2 then clearFault s c else s

/-- Aborts the head command of a unit of a core that holds work of a context (R404, R406). -/
def abortUnit (s : State) (c core : Nat) (u : EngineUnit) (st : Status) : State :=
  match s.runOf core with
  | none => s
  | some r =>
    if r.key.ctx ≠ c then s
    else match u with
    | .spin => if (spinHead (s.workAt core)).isSome then abortSpin s r st else setResult .spin st s core
    | .dense => if (annealHead (s.workAt core)).isSome then setAnnealResults s r st else setResult .dense st s core
    | _ => setResult u st s core

/-- Aborts what one holder of a faulted access was doing (R406). -/
def abortHolder (c : Nat) (s : State) (h : Holder × Nat) : State :=
  let st := faultStatus h.2
  match h.1 with
  | .engine core u => abortUnit s c core u st
  | .hart t =>
    match s.runOf t.core with
    | some r => if r.key.ctx = c then trapHart s t r 8 st 0 else s
    | none => s
  | .desc ring slot =>
    let q := s.ringAt c ring
    if q.inflight.any (fun d => decide (d.slot = slot)) then finishDesc s c ring slot st 0
    else
      match q.fetched with
      | d :: _ => if d.slot = slot then finishNext s c ring st else s
      | [] => s
  | .fetch ring slot =>
    if (s.ringAt c ring).configured ∧ (s.ringAt c ring).head = slot then
      s.updRing c ring (fun q => { q with
        head := (q.head + 1) % 2 ^ 32
        finished := q.finished ++ [⟨{ slot := slot, bytes := [], unread := true }, st, 0⟩] })
    else s
  | .sequencer k => if (s.findRun k).isSome then completeRun s k st 0 else s

/-- Whether a faulted access is one of a core's work. -/
def onCore (h : Holder × Nat) : Bool :=
  match h.1 with
  | .engine _ _ => true
  | .hart _ => true
  | .sequencer _ => true
  | .desc _ _ => false
  | .fetch _ _ => false

/-- Gives a plot back to the context that held it. -/
def giveBack (s : State) (p c : Nat) (old : Option Nat) : State :=
  match old with
  | some o => if o ≠ c then switchPlot s p o else s
  | none => s

/-- ABORT_FAULT of a pending fault (R406). A holder is named by its core, so the context's work is on its cores for
the moment of the abort; a plot that another context holds is given back to it. A context that an uncorrectable error
makes FAULTED meanwhile leaves that state by a reset only (R380, R413). -/
def abortFaults (s : State) (c : Nat) : State :=
  let x := s.ctxAt c
  let here := x.plotValid && x.holders.any onCore
  let s0 := if here then switchPlot s x.plot c else s
  if x.st ≠ 2 then s
  else if (s0.ctxAt c).st ≠ 2 then s0
  else
    let s1 := x.holders.foldl (abortHolder c) s0
    let s2 := if here then giveBack s1 x.plot c (s.plotAt x.plot).holder else s1
    if (s2.ctxAt c).st = 2 then clearFault s2 c else s2

/-! ### The commands of CTX_CTRL -/

/-- Whether the host may act on a context. -/
def hostCtx (s : State) (c : Nat) : Bool := hostUp s && decide (c < 4096)

/-- ENABLE (R380, R382). -/
def execEnable (ctx : Nat) (bit : Bool) (s : State) : Outcome State Fault Refusal :=
  .next (if hostCtx s ctx then writeEnable (wakeChip s) ctx bit else s)

/-- PLOT_VALID (R382, R390). -/
def execPlotValid (ctx : Nat) (bit : Bool) (plot : Nat) (s : State) : Outcome State Fault Refusal :=
  .next (if hostCtx s ctx then writePlot (wakeChip s) ctx bit (plot % 64) else s)

/-- RESET (R383). -/
def execReset (ctx : Nat) (s : State) : Outcome State Fault Refusal :=
  .next (if hostCtx s ctx then resetCtx (wakeChip s) ctx else s)

/-- CONTEXT_RESET_END (R380, R383). -/
def execContextResetEnd (ctx : Nat) (s : State) : Outcome State Fault Refusal := .next (endReset s ctx)

/-- ABORT_FAULT (R406). -/
def execAbortFault (ctx : Nat) (s : State) : Outcome State Fault Refusal :=
  .next (if hostCtx s ctx then abortFaults (wakeChip s) ctx else s)

/-- RESUME (R406). -/
def execResume (ctx : Nat) (s : State) : Outcome State Fault Refusal :=
  .next (if hostCtx s ctx then resumeFault (wakeChip s) ctx else s)

/-! ### Translation caches -/

/-- The valid leaf entries below one level-1 entry, as their first page and their pages. -/
def leavesUnder (s : State) (page e1 : Nat) : List (Nat × Nat) :=
  if e1 % 2 = 0 then []
  else if (e1 / 2) % 2 = 1 then (if leafBad s e1 (2 ^ 29) then [] else [(page, 8192)])
  else if pointerBad s e1 then []
  else (List.range 8192).filterMap (fun k =>
    let e2 := readEntry s (targetLevel (bitsOf e1 3 2)) (bitsOf e1 56 16 * 65536 + 8 * k)
    if e2 % 2 = 1 ∧ (e2 / 2) % 2 = 1 ∧ !leafBad s e2 65536 then some (page + k, 1) else none)

/-- The valid leaf entries below one level-0 entry. -/
def leavesBelow (s : State) (i e0 : Nat) : List (Nat × Nat) :=
  if e0 % 2 = 0 ∨ (e0 / 2) % 2 = 1 ∨ pointerBad s e0 then []
  else (List.range 8192).flatMap (fun j =>
    leavesUnder s (i * 2 ^ 26 + j * 8192)
      (readEntry s (targetLevel (bitsOf e0 3 2)) (bitsOf e0 56 16 * 65536 + 8 * j)))

/-- The valid leaf entries of a context's page tables, in ascending virtual address (R393). -/
def validLeaves (s : State) (c : Nat) : List (Nat × Nat) :=
  let root := (s.ctxAt c).ptRoot.toNat
  let rl := targetLevel (root % 4)
  let rb := bitsOf root 47 12 * 4096
  if 2 ≤ root % 4 ∨ bitsOf root 11 2 ≠ 0 ∨ bitsOf root 63 48 ≠ 0 ∨ !rangeOk s rl rb 512 then []
  else (List.range 64).flatMap (fun i => leavesBelow s i (readEntry s rl (rb + 8 * i)))

/-- The table that a pointer entry names, where it does. -/
def tableOf (s : State) (e : Nat) : List (Level × Nat) :=
  if e % 2 = 0 ∨ (e / 2) % 2 = 1 ∨ pointerBad s e then [] else [(targetLevel (bitsOf e 3 2), bitsOf e 56 16 * 65536)]

/-- The tables below one: its own and those that its entries point to. -/
def tablesBelow (s : State) (t : Level × Nat) : List (Level × Nat) :=
  t :: (List.range 8192).flatMap (fun k => tableOf s (readEntry s t.1 (t.2 + 8 * k)))

/-- The first line of a context's page tables with an uncorrectable error that a walk of all of them meets (R413). -/
def tablesUe (s : State) (c : Nat) : Option (Level × Nat) :=
  let root := (s.ctxAt c).ptRoot.toNat
  let rl := targetLevel (root % 4)
  let rb := bitsOf root 47 12 * 4096
  if 2 ≤ root % 4 ∨ bitsOf root 11 2 ≠ 0 ∨ bitsOf root 63 48 ≠ 0 ∨ !rangeOk s rl rb 512 then none
  else
    ((badLineIn s rl rb 512).map (fun n => (rl, n))).or
      ((List.range 64).findSome? (fun i => (tableOf s (readEntry s rl (rb + 8 * i))).findSome? (fun t =>
        (tablesBelow s t).findSome? (fun u => (badLineIn s u.1 u.2 65536).map (fun n => (u.1, n))))))

/-- Locks the first 4,096 valid leaf entries of a context in the translation caches (R393). A walk that meets an uncorrectable
error makes the context faulted instead, no descriptor having made it (R413; DEDUCED, log entry 95). -/
def lockLeaves (s : State) (c : Nat) : State :=
  match tablesUe s c with
  | some (l, n) => deviceUe s c l n
  | none =>
    let pages := ((validLeaves s c).take 4096).flatMap (fun (e : Nat × Nat) => (List.range e.2).map (· + e.1))
    let s1 := pages.foldl (fun t p => cachePages t c (p * 65536) 1) s
    s1.updCtx c (fun x => { x with locked := pages })

/-- Starts an invalidation: the pages given, joined with those of one that is still busy (R399). -/
def startInval (s : State) (c page count : Nat) : State :=
  let n := if count = 0 then 1 else count
  s.updCtx c (fun x => { x with inval := match x.inval with
    | none => some (page, n)
    | some (p, m) => some (min p page, max (p + m) (page + n) - min p page) })

/-- Whether a page lies in a 512 MiB block that a range of pages touches (R399). -/
def blockTouched (page n p : Nat) : Bool := decide (page / 8192 ≤ p / 8192 ∧ p / 8192 ≤ (page + n - 1) / 8192)

/-- The end of an invalidation: no translation of the range remains cached, nor any of a block that the range touches;
the context of a timed plot has its entries locked anew (R393, R399). -/
def endInval (s : State) (c : Nat) : State :=
  match (s.ctxAt c).inval with
  | none => s
  | some (page, n) =>
    let s1 := s.updCtx c (fun x => { x with
      inval := none
      tlb := x.tlb.filter (fun (e : Nat × Word) => !blockTouched page n e.1)
      locked := x.locked.filter (fun p => !blockTouched page n p) })
    let x := s.ctxAt c
    if x.plotValid ∧ (s.plotAt x.plot).st = 2 then lockLeaves s1 c else s1

/-- CTX_INVAL_PAGES (R399). -/
def execCtxInvalPages (ctx page count : Nat) (s : State) : Outcome State Fault Refusal :=
  .next (if hostCtx s ctx then startInval (wakeChip s) ctx (page % 2 ^ 32) (count % 2 ^ 14) else s)

/-- CTX_INVAL_ALL (R399). -/
def execCtxInvalAll (ctx : Nat) (s : State) : Outcome State Fault Refusal :=
  .next (if hostCtx s ctx then startInval (wakeChip s) ctx 0 (2 ^ 32) else s)

/-- INVALIDATION_COMPLETE (R393, R399). -/
def execInvalidationComplete (ctx : Nat) (s : State) : Outcome State Fault Refusal := .next (endInval s ctx)

/-- ATS_INVALIDATION (R400): the host changes a 4 KiB page of a context's host address space, and the translation
cached for it goes: 0 present, 1 not present, else denied. -/
def execAtsInvalidation (ctx page : Nat) (state : Nat) (s : State) : Outcome State Fault Refusal :=
  let v : HostPage := if state = 0 then .present else if state = 1 then .absent else .denied
  .next { s with hostPages := if v = .present then tabDel s.hostPages (ctx * 2 ^ 52 + page)
                              else tabSet s.hostPages (ctx * 2 ^ 52 + page) v }

/-! ### Scrub and repair -/

/-- Whether a line exists in a level: 64 bytes of near or far memory, a word of 64 bits of a core's store (R22). -/
def lineExists (s : State) (l : Level) (line : Nat) : Bool :=
  match l with
  | .near => nearExists s (line * 64) 64
  | .far => farExists s (line * 64) 64
  | .coreStore => s.coreEnabled (line / 2 ^ 20)
  | .host => false

/-- A line holds an uncorrectable error from now on. -/
def markBad (s : State) (l : Level) (line : Nat) : State :=
  if (l, line) ∈ s.badLines then s else { s with badLines := s.badLines ++ [(l, line)] }

/-- A patrol scrub reads a line (R412, R413, R415). A pass over near memory begins at line 0, and the counts of
corrected errors with it. The core store is not scrubbed: an uncorrectable error there stands until a read meets it, and a
corrected one counts where a strip meets it (R158). -/
def scrubLine (s : State) (l : Level) (line : Nat) (find : ScrubFind) : State :=
  let s0 := if l = .near ∧ line = 0 then
      { s with rowErrors := s.rowErrors.filter (fun (e : Nat × Nat) => decide (3 ≤ e.2)) } else s
  if lineExists s l line = false then s
  else
    match find with
    | .clean => s0
    | .corrected =>
      if l = .near then
        let k := rowKey (nearChannel s (line * 64)) (nearRow s (line * 64))
        { s0 with rowErrors := tabSet s0.rowErrors k (min 3 (tabGet 0 s0.rowErrors k + 1)) }
      else s0
    | .uncorrectable => if l = .coreStore then markBad s0 l line else noteUe (markBad s0 l line) l line

/-- The memory controllers run: brought up with the fast clocks running, and the memories not in self-refresh (R446, R460,
R463, R513). -/
def memRuns (s : State) : Bool :=
  s.boot.rails && s.boot.aonRst && s.boot.clocks && !s.boot.d3hot && decide (s.power.chip = 0)

/-- PATROL_SCRUB (R412, R413). -/
def execPatrolScrub (level : Level) (line : Nat) (find : ScrubFind) (s : State) : Outcome State Fault Refusal :=
  .next (if memRuns s then scrubLine s level line find else s)

/-- Whether a near line lies in a row of a channel. -/
def inRow (s : State) (chan row line : Nat) : Bool :=
  decide (nearChannel s (line * 64) = chan ∧ nearRow s (line * 64) = row)

/-- The open bytes of a repaired line: what could not be corrected is not copied (R415). -/
def openLine (s : State) (line : Nat) : State :=
  State.tick { s with near := memWriteN s.near (line * 64) ((List.range 64).map (Config.byte s.fresh)) }

/-- Post-package repair of a row that is due: the spare row takes its correctable contents, or the channel is retired
when no spare is left (R415). -/
def repairRow (s : State) (chan row : Nat) (spareLeft : Bool) : State :=
  if tabGet 0 s.rowErrors (rowKey chan row) < 3 then s
  else if spareLeft = false then retireChannel s chan (openDetail s)
  else
    let lines := (s.badLines.filter (fun p => decide (p.1 = .near) && inRow s chan row p.2)).map Prod.snd
    let s1 := { s with
      rowErrors := tabDel s.rowErrors (rowKey chan row)
      badLines := s.badLines.filter (fun p => !(decide (p.1 = .near) && inRow s chan row p.2)) }
    lines.foldl openLine s1

/-- POST_PACKAGE_REPAIR (R415). -/
def execPostPackageRepair (channel row : Nat) (spareLeft : Bool) (s : State) : Outcome State Fault Refusal :=
  .next (if memRuns s then repairRow s channel row spareLeft else s)

end Sys2Proof.Machine
end

