-- ==== Sys2Proof/Machine/Plots.lean ====
section
/-! DEFINITION. Plots: CONFIGURE, RELEASE and RECONFIGURE (R388 to R393, R451). -/

namespace Sys2Proof.Machine

open Host (Outcome)

/-- Sets REASON of a plot. -/
def plotReason (s : State) (p : Nat) (st : Status) : State := s.updPlot p (fun q => { q with reason := st })

/-- The cluster of a physical core (R18). -/
def clusterOf (phys : Nat) : Nat := phys / 4

/-- Whether clusters of the named cores hold enabled cores that are not named (R23, R389). -/
def splitsCluster (s : State) (mask : Nat) : Bool :=
  let phys (n : Nat) : Nat := s.boot.enabled.getD n 144
  let named := (maskCores mask).map (fun n => clusterOf (phys n))
  (List.range s.boot.enabled.length).any (fun n =>
    s.coreEnabled n && !mask.testBit n && decide (clusterOf (phys n) ∈ named))

/-- TIMED plots (R389). -/
def timedPlots (s : State) : Nat := (s.plots.filter (fun (q : Nat × Plot) => decide (q.2.st = 2))).length

/-- Checks 1 to 8 of CONFIGURE: the status of the first that fails (R389). -/
def configureStatus (s : State) (p : Nat) : Option Status :=
  let q := s.plotAt p
  let cores := maskCores q.mask
  let att := attachedTo s p
  if q.mask = 0 then some stLenZero
  else if cores.any (fun n => !s.coreEnabled n) then some stBadField
  else if cores.any (fun n => (s.coreAt n).plot.isSome) then some stCapacityRefused
  else if q.exclusive ∧ splitsCluster s q.mask then some stBadField
  else if q.timed ∧ (q.exclusive = false ∨ att.length ≠ 1) then some stBadField
  else if q.timed ∧ 8 ≤ timedPlots s then some stCapacityRefused
  else if q.timed ∧ 4096 < (validLeaves s (att.headD 0)).length then some stCapacityRefused
  else if (allotAreas s att cores).isNone then some stCapacityRefused
  else none

/-- Whether a logical core is the one that a survey pass tests now (R449). -/
def underTest (s : State) (n : Nat) : Bool := decide (s.power.survey.head? = some (s.boot.enabled.getD n 144))

/-- The test of the first core of the survey list begins: a core that is switched off or retained is powered for it (R449,
R460). -/
def beginTest (s : State) : State :=
  match s.power.survey.head?.bind (logicalOf s) with
  | none => s
  | some n =>
    State.updCore { s with power := { s.power with surveyWas := (s.coreAt n).power } } n (fun c => { c with power := 0 })

/-- Physical cores leave a survey round: a test of one of them is abandoned, and the next core's begins (R449). -/
def dropTests (s : State) (gone : Nat → Bool) : State :=
  let s1 := { s with power := { s.power with survey := s.power.survey.filter (fun p => !gone p) } }
  if s1.power.survey.head? = s.power.survey.head? then s1 else beginTest s1

/-- The power state of a core that CONFIGURE names: it leaves CORE_OFF, and CORE_RETAIN at a dispatch only; one under test
is in the state that it had before (R449, R460). -/
def plotPower (s : State) (n : Nat) : Nat :=
  let w := if underTest s n then s.power.surveyWas else (s.coreAt n).power
  if w = 2 then 0 else w

/-- A plot that has passed its checks is formed: the save areas of its contexts are allotted, its cores belong to it and
are powered (R389, R391, R460). A survey test of a named core is abandoned (R449). -/
def formPlot (s : State) (p : Nat) (a : Admission) : State :=
  let q := s.plotAt p
  let cores := maskCores q.mask
  let s0 := (allotAreas s (attachedTo s p) cores).getD s
  let s1 := cores.foldl (fun t n => t.updCore n (fun c => { c with plot := some p, power := plotPower s n })) s0
  let s2 := dropTests s1 (fun phys => cores.any (fun n => decide (s.boot.enabled.getD n 144 = phys)))
  s2.setPlot p { q with
    st := if q.timed then 2 else 1
    reason := stDone
    holder := none
    reservedMw := a.mw
    wcet := a.wcet
    declared := a.decl
    broken := [] }

/-- CONFIGURE of a FREE entry (R389). -/
def configurePlot (s : State) (p : Nat) : State :=
  let q := s.plotAt p
  if q.st ≠ 0 then s
  else
    match configureStatus s p with
    | some st => plotReason s p st
    | none =>
      if q.timed = false then formPlot s p (refusal stDone)
      else
        let c := (attachedTo s p).headD 0
        let a := admission s c q.admitVa 0 (maskCores q.mask) (2 ^ 64)
        let s1 := writeAdmission s c q.admitVa a
        if a.status = stDone then lockLeaves (formPlot s1 p a) c
        else plotReason (ueOf s1 c a.ue) p a.status

/-- Whether a RUN of a plot is dispatched, pre-empted or waiting to be dispatched (R392). -/
def plotBusy (s : State) (p : Nat) : Bool := (attachedTo s p).any (hasRun s)

/-- The pending units of a plot's cores (R450). -/
def plotPending (s : State) (cores : List Nat) : List (Nat × Nat) :=
  s.boot.pending.filter (fun q =>
    match unitCore s q.1 q.2 with
    | some n => decide (n ∈ cores)
    | none => false)

/-- RELEASE (R392, R450): contexts are detached, areas and reservations freed, pending units leave service. -/
def releasePlot (s : State) (p : Nat) : State :=
  let q := s.plotAt p
  if q.st = 0 then s
  else if plotBusy s p then plotReason s p stBadField
  else
    let cores := maskCores q.mask
    let pend := plotPending s cores
    let att := attachedTo s p
    let s1 := att.foldl (fun t c => detach (loseServices t c) c) s
    let s2 := s1.setPlot p { q with st := 0, reason := stDone, holder := none, reservedMw := 0, wcet := 0, declared := [],
                                    broken := [] }
    let s3 := cores.foldl (fun t n => t.updCore n (fun c => { c with plot := none })) s2
    if pend = [] then s3 else mapChanged (pend.foldl (fun t u => leaveService t u.1 u.2) s3)

/-- The spare that takes a retired core's place: the lowest of its die, else the lowest (R451). -/
def spareFor (s : State) (phys : Nat) : Option Nat :=
  let low (l : List Nat) : Option Nat := l.foldl (fun b x => match b with | some y => some (min x y) | none => some x) none
  (low (s.boot.spares.filter (fun x => decide (x / 36 = phys / 36)))).or (low s.boot.spares)

/-- The banks of a physical core in service (R216, R443). -/
def banksOf (s : State) (phys : Nat) : BitVec 12 :=
  BitVec.ofNat 12 (((List.range 12).filter (fun j => decide (12 * phys + j ∉ s.boot.outBanks))).map (fun j => 2 ^ j)).sum

/-- Replaces the retired core of a logical number by a spare, whose store holds no error (R22), or clears its bit of the plot
(R451). -/
def replaceCore (p : Nat) (s : State) (n : Nat) : State :=
  let phys := s.boot.enabled.getD n 144
  match spareFor s phys with
  | some x =>
    let b := { s.boot with
      enabled := listUpd s.boot.enabled n (fun _ => x)
      spares := s.boot.spares.filter (fun y => decide (y ≠ x))
      outCores := s.boot.outCores ++ [phys]
      pending := s.boot.pending.filter (fun q => decide (q ≠ (1, phys))) }
    (dropTests { s with boot := b, badLines := withoutStore n s.badLines } (fun y => decide (y = x))).setCore n { phys := x, plot := some p, bankGood := banksOf s x }
  | none =>
    let s1 := leaveService s 1 phys
    s1.updPlot p (fun q => { q with mask := if q.mask.testBit n then q.mask - 2 ^ n else q.mask })

/-- RECONFIGURE (R392, R451): retired cores are replaced, retired banks leave service. -/
def reconfigurePlot (s : State) (p : Nat) : State :=
  let q := s.plotAt p
  if q.st = 0 then s
  else if plotBusy s p then plotReason s p stBadField
  else
    let cores := maskCores q.mask
    let pend := plotPending s cores
    let banks := (pend.filter (fun u => decide (u.1 = 2))).foldl (fun t u => leaveService t u.1 u.2) s
    let dead := cores.filter (fun n => decide ((1, s.boot.enabled.getD n 144) ∈ pend))
    let s1 := dead.foldl (replaceCore p) banks
    plotReason (if pend = [] then s1 else mapChanged s1) p stDone

/-- Whether the host may act on a plot entry. -/
def hostPlot (s : State) (p : Nat) : Bool := hostUp s && decide (p < 64)

/-- CONFIGURE (R389). -/
def execConfigure (plot : Nat) (s : State) : Outcome State Fault Refusal :=
  .next (if hostPlot s plot then configurePlot (wakeChip s) plot else s)

/-- RELEASE (R392). -/
def execRelease (plot : Nat) (s : State) : Outcome State Fault Refusal :=
  .next (if hostPlot s plot then releasePlot (wakeChip s) plot else s)

/-- RECONFIGURE (R392, R451). -/
def execReconfigure (plot : Nat) (s : State) : Outcome State Fault Refusal :=
  .next (if hostPlot s plot then reconfigurePlot (wakeChip s) plot else s)

end Sys2Proof.Machine
end

