-- ==== Sys2Proof/Machine/Fabric.lean ====
section
/-! DEFINITION. The boundary fabric: links and flits (R218 to R223), identity, discovery and the topology map (R224 to
R228), groups and slab plans (R229 to R236), traffic of a run (R238, R239), loss (R243 to R246), lock-step digests
(R249, R250). -/

namespace Sys2Proof.Machine

open Host (Outcome)

/-! ### Topology map -/

/-- Boundary links that a grade enables (R218). -/
def gradeLinks (grade : Nat) : Nat := if grade = 2 then 4 else 8

/-- The chip's own link-state record; a link whose partner is lost stands in it no longer (R223, R227). -/
def ownRecord (s : State) : LinkState :=
  { chip := s.fab.chip, seq := s.fab.seq.toNat, grade := s.fuses.grade, arithRev := s.boot.fw.arithRev,
    cert := s.fuses.serial,
    links := s.fab.links.map (fun l =>
      if l.lost then { partner := 0, width := 0, up := false }
      else { partner := l.partner, width := l.width, up := decide (l.st = 3) }) }

/-- Puts a record into the topology map; FAB_MAP_GEN counts every change of what the map shows, a sequence number too
(R227, R228; log entry 28). What waited for a way goes where the map now leads (R243). -/
def putRecord (s : State) (r : LinkState) : State :=
  let old := s.fab.topo.find? (fun q => decide (q.chip = r.chip))
  drainFab { s with fab := { s.fab with
    topo := (s.fab.topo.filter (fun q => decide (q.chip ≠ r.chip))) ++ [r]
    mapGen := if old = some r then s.fab.mapGen else s.fab.mapGen + 1 } }

/-- Sends a record over every link in UP, on the CONTROL channel (R220, R227). -/
def floodRecord (s : State) (r : LinkState) : State :=
  ((List.range 8).filter (fun n => decide ((s.linkAt n).st = 3))).foldl
    (fun t n => transmit t n (t.linkAt n).partner (.linkState r)) s

/-- Floods the chip's own record; the first has sequence number 0 (R227, R228). -/
def floodOwn (s : State) : State :=
  if s.fab.valid then
    let r := ownRecord s
    floodRecord (putRecord { s with fab := { s.fab with seq := s.fab.seq + 1 } } r) r
  else s

/-- Whether a sequence number is newer than another (modulo 2^16). -/
def newerSeq (a b : Nat) : Bool := decide (0 < (a + 65536 - b) % 65536 ∧ (a + 65536 - b) % 65536 < 32768)

/-- LINK_STATE_REFRESH (R227). -/
def execLinkStateRefresh (s : State) : Outcome State Fault Refusal := .next (if s.boot.aonRst then floodOwn s else s)

/-- TOPOLOGY_RECORD_EXPIRY (R227). -/
def execTopologyRecordExpiry (chip : Nat) (s : State) : Outcome State Fault Refusal :=
  .next (if s.fab.topo.any (fun q => decide (q.chip = chip)) then
      drainFab { s with fab := { s.fab with
        topo := s.fab.topo.filter (fun q => decide (q.chip ≠ chip)), mapGen := s.fab.mapGen + 1 } }
    else s)

/-! ### Forming a group -/

/-- The lead moves a group to FAILED on every member that it reaches (R232). -/
def failGroup (s : State) (n : Nat) (st : Status) : State :=
  sendAll (s.updGroup n (fun g => { g with st := 4, reason := st })) n (.failed st)

/-- The lead looks at a FORMING group (R232): a conflicted identifier in its list fails it; it is ACTIVE once every listed
chip has joined and stands in the topology map. -/
def formCheck (s : State) (n : Nat) : State :=
  let g := s.groupAt n
  let known (m : Nat) : Bool := decide (m = s.fab.chip) || s.fab.topo.any (fun q => decide (q.chip = m))
  if g.st ≠ 1 ∨ g.lead ≠ s.fab.chip then s
  else if g.members.any (fun m => decide (m ∈ s.fab.conflicts)) then failGroup s n stBadField
  else if g.joined.length = g.members.length ∧ g.members.all known then
    sendAll (s.updGroup n (fun g => { g with st := 2, reason := stDone })) n .active
  else s

/-- Looks at every FORMING group after the map or its conflicts have changed. -/
def formAll (s : State) : State := (List.range 16).foldl formCheck s

/-- Whether a message of another chip can come: a link is UP (R222). -/
def fabHears (s : State) : Bool := s.fab.links.any (fun l => decide (l.st = 3))

/-- What a CONTROL message of another chip does: it wakes the chip from CHIP_IDLE (R222, R460). -/
def controlStep (s : State) (f : State → State) : State := if fabHears s then f (wakeIdle s) else s

/-- A link-state record that has come (R227): a newer one of another chip goes into the map and on over the links. -/
def takeRecord (rec : LinkState) (s : State) : State :=
  let old := s.fab.topo.find? (fun q => decide (q.chip = rec.chip))
  if (rec.chip = s.fab.chip ∧ s.fab.valid) ∨ old.any (fun o => !newerSeq rec.seq o.seq) then s
  else formAll (floodRecord (putRecord s rec) rec)

/-- LINK_STATE_RECORD (R227, R460). -/
def execLinkStateRecord (rec : LinkState) (s : State) : Outcome State Fault Refusal :=
  .next (controlStep s (takeRecord rec))

/-! ### Links -/

/-- The width code that good lanes allow: 3 for ×8, 2 for ×4, 1 for ×2, 0 for none (R221). -/
def laneWidth (l : BitVec 8) : Nat :=
  let all (m : Nat) : Bool := decide (l.toNat &&& m = m)
  if all 0xFF then 3 else if all 0x0F || all 0xF0 then 2
  else if all 0x03 || all 0x0C || all 0x30 || all 0xC0 then 1 else 0

/-- Whether the PHY of a link runs: brought up past step 7, not in recovery, with its reference clock (R438, R439, R468, R513,
R517). -/
def linksRun (s : State) (n : Nat) : Bool :=
  s.boot.rails && s.boot.aonRst && !s.boot.thermtrip && decide (s.boot.mode ≠ 2) && decide (7 ≤ s.boot.step) &&
    (if n < 4 then s.boot.linkClock0 else s.boot.linkClock1)

/-- A link leaves UP for a state: its record is flooded (R227). -/
def leaveUp (s : State) (n st : Nat) (f : Link → Link) : State :=
  let was := (s.linkAt n).st
  let s1 := s.updLink n (fun l => f { l with st := st })
  if was = 3 then floodOwn s1 else s1

/-- A link enters UP: what waited for a way goes out (R222, R227, R243). -/
def enterUp (s : State) (n : Nat) : State :=
  let s1 := s.updLink n (fun l => { l with st := 3, lost := false })
  drainFab (if s.fab.valid then floodOwn s1 else s1)

/-- A link enters IDENTIFY: with a valid identifier its nonce is drawn; the flit streams begin anew, and what a link with
another partner had not delivered takes another way (R219, R222, R224, R225, R243). -/
def enterIdentify (s : State) (n : Nat) : State :=
  let s1 := State.updLink (moveSending (s.updLink n (fun l => { l with st := 2 })) n) n (fun l => { l with
    st := 2, identifying := true, nonce := [], signs := [], sent := 0, expected := 0, replayBuf := [], replayRun := 0 })
  if s.fab.valid then requestNoise s1 (.nonce n) else s1

/-- A link goes DOWN: what it has not delivered takes another way (R222, R243). -/
def linkDown (s : State) (n : Nat) : State :=
  moveSending (leaveUp s n 0 (fun l => { l with width := 0, identifying := false })) n

/-- A link's training fails: it goes DOWN, and during bring-up the health log has a record of it (R222, R441, R448; DEDUCED,
log entry 96: what fails after BOOT_DONE is no failure of bring-up). -/
def trainingFails (s : State) (n : Nat) : State :=
  linkDown (if s.boot.mode = 0 then logEvent s 0x05 6 n (openDetail s) else s) n

/-- LINK_SIGNAL_DETECT (R222). -/
def execLinkSignalDetect (link : Nat) (s : State) : Outcome State Fault Refusal :=
  .next (if linksRun s link ∧ (s.linkAt link).st = 0 then s.updLink link (fun l => { l with st := 1 }) else s)

/-- LINK_DOWN_RETRY (R222). -/
def execLinkDownRetry (link : Nat) (signal : Bool) (s : State) : Outcome State Fault Refusal :=
  .next (if linksRun s link ∧ (s.linkAt link).st = 0 ∧ signal then s.updLink link (fun l => { l with st := 1 }) else s)

/-- LINK_TRAINING_COMPLETE (R221, R222): of the good lanes those that the width may use; it rises again only after a
retrain that host software requests, or a reset. -/
def execLinkTrainingComplete (link : Nat) (lanes : BitVec 8) (s : State) : Outcome State Fault Refusal :=
  .next (let l := s.linkAt link
    let good := lanes &&& l.lanes
    if l.st ≠ 1 then s
    else if laneWidth good = 0 then trainingFails s link
    else enterIdentify (s.updLink link (fun l => { l with lanes := good, width := laneWidth good })) link)

/-- LINK_TRAINING_TIMEOUT (R222, R441). -/
def execLinkTrainingTimeout (link : Nat) (s : State) : Outcome State Fault Refusal :=
  .next (if (s.linkAt link).st = 1 then trainingFails s link else if (s.linkAt link).st = 4 then linkDown s link else s)

/-- Whether an identifier conflicts: the chip's own, or one that the map holds under another certificate (R226). -/
def idConflicts (s : State) (chip cert : Nat) : Bool :=
  decide (chip = s.fab.chip) || s.fab.topo.any (fun q => decide (q.chip = chip ∧ q.cert ≠ cert))

/-- What the partner's part of the exchange leads to: UNTRUSTED, where its chain is not a package alias chain to the device CA
or its signature fails; ID_CONFLICT; UP (R225, R226, R475). That an identifier stays marked CONFLICT until a reset is a DESIGN
CHOICE (log entry 97: the spec does not say when the mark goes). -/
def identified (s : State) (link : Nat) (info : IdentifyInfo) : State :=
  if info.chainOk = false ∨ info.byAlias = false ∨ info.sigOk = false then s.updLink link (fun l => { l with st := 5 })
  else if idConflicts s info.chip info.cert then
    let s1 := s.updLink link (fun l => { l with st := 6, partner := info.chip, cert := info.cert })
    if info.chip ∈ s1.fab.conflicts then s1
    else formAll { s1 with fab := { s1.fab with conflicts := s1.fab.conflicts ++ [info.chip], mapGen := s1.fab.mapGen + 1 } }
  else enterUp (s.updLink link (fun l =>
    { l with partner := info.chip, partnerLink := info.link, cert := info.cert })) link

/-- IDENTIFY_EXCHANGE (R224 to R226): the partner's part has come, so that this chip signs what both have sent. In
ID_CONFLICT a partner that now reports another identifier brings the link back to TRAINING (R222). -/
def execIdentifyExchange (link : Nat) (info : IdentifyInfo) (s : State) : Outcome State Fault Refusal :=
  .next (let l := s.linkAt link
    if l.st = 6 ∧ info.chip ≠ l.partner then s.updLink link (fun l => { l with st := 1 })
    else if l.st ≠ 2 ∨ s.fab.valid = false ∨ l.identifying then s
    else
      let text := identifyText l.nonce info.nonce s.fab.chip info.chip link info.link
      identified (requestNoise (s.updLink link (fun l => { l with signs := text })) (.linkSign link)) link info)

/-- LOSS_OF_SIGNAL (R222). -/
def execLossOfSignal (link : Nat) (s : State) : Outcome State Fault Refusal :=
  .next (if 1 ≤ (s.linkAt link).st ∧ (s.linkAt link).st ≤ 4 then linkDown s link else s)

/-- A link replays or retrains: mark T in the contexts of the groups that run (R282, R286; that any link counts for every
running group is DEDUCED, log entry 28). -/
def markLinks (s : State) : State :=
  (s.fab.groups.filter (fun g => decide (g.st = 3))).foldl (fun t g => markT t g.context) s

/-- A link enters RETRAIN: it keeps its replay buffer; what is sent meanwhile waits or takes another way (R222, R243). -/
def enterRetrain (s : State) (n : Nat) (f : Link → Link) : State :=
  markLinks (leaveUp s n 4 (fun l => f { l with retrains := l.retrains + 1, replayRun := 0 }))

/-- LANE_LOSS (R221). -/
def execLaneLoss (link lane : Nat) (s : State) : Outcome State Fault Refusal :=
  .next (if (s.linkAt link).st = 3 ∧ lane < 8 then
      enterRetrain s link (fun l => { l with lanes := l.lanes &&& ~~~(1#8 <<< lane) })
    else s)

/-- A retrain that host software requests (R221, R222, R251): the width may rise again. -/
def retrainLink (s : State) (n : Nat) : State :=
  let st := (s.linkAt n).st
  if st = 3 then enterRetrain s n (fun l => { l with lanes := 0xFF })
  else if st = 5 ∨ st = 6 then s.updLink n (fun l => { l with st := 1, lanes := 0xFF })
  else s

/-- RETRAIN (R251). -/
def execRetrain (link : Nat) (s : State) : Outcome State Fault Refusal :=
  .next (if hostUp s then retrainLink (wakeChip s) link else s)

/-- RETRAIN_COMPLETE (R221, R222): `lanes` are those that are good. -/
def execRetrainComplete (link : Nat) (samePartner : Bool) (s : State) (lanes : BitVec 8 := 0xFF) : Outcome State Fault Refusal :=
  .next (let l := s.linkAt link
    let good := lanes &&& l.lanes
    if l.st ≠ 4 then s
    else if laneWidth good = 0 then linkDown s link
    else
      let s1 := s.updLink link (fun l => { l with lanes := good, width := laneWidth good })
      if samePartner then enterUp s1 link else enterIdentify s1 link)

/-- FLIT_RECEIVE (R219): the flit with the number due is taken, a second copy or one after a gap is not, so that each is
taken once and in order; a failed CRC asks for a replay from the flit due. The CRC covers bytes 0 to 247 and stands in
bytes 248 to 255, least significant byte first (log entry 26). -/
def execFlitReceive (link : Nat) (flit : List Byte) (corrected : Nat) (s : State) (number : Nat := 0) : Outcome State Fault Refusal :=
  .next (if (s.linkAt link).st ≠ 3 then s
    else
      let s1 := s.updLink link (fun l => { l with fecCorrected := l.fecCorrected + BitVec.ofNat 64 corrected })
      let next := (s.linkAt link).expected
      if flit.length = 256 ∧ crc64 (flit.take 248) = fieldOf flit 248 8 then
        s1.updLink link (fun l =>
          if number = next then { l with accepted := (flit.drop 8).take 240 :: l.accepted, expected := next + 1 } else l)
      else (s1.updLink link (fun l => { l with crcErrors := l.crcErrors + 1 })).emit (.nak link next))

/-- FLIT_NAK (R219, R222): the sender replays from the failed flit onward; the flits before it are known good; 32
replays of one flit in a row make the link retrain. -/
def execFlitNak (link : Nat) (failed : Nat) (s : State) : Outcome State Fault Refusal :=
  .next (let l := s.linkAt link
    if l.st ≠ 3 then s
    else
      let buf := l.replayBuf.filter (fun f => decide (failed ≤ f.1))
      let run := if l.lastReplay = failed ∧ l.replayRun ≠ 0 then l.replayRun + 1 else 1
      let s1 := s.updLink link (fun l =>
        Link.keepSending { l with replayBuf := buf, replays := l.replays + 1, lastReplay := failed, replayRun := run })
      let s2 := markLinks (buf.foldl (fun t f => t.emit (.flit link f.2)) s1)
      if 32 ≤ run then enterRetrain s2 link id else s2)

/-- PARTNER_LOST (R223): a link that has not been UP for a whole loss window leaves the topology map. -/
def execPartnerLost (link : Nat) (s : State) : Outcome State Fault Refusal :=
  .next (let l := s.linkAt link
    if l.st = 3 ∨ l.lost then s
    else floodOwn (raiseEvent ((s.updLink link (fun l => { l with lost := true })).emit
      (.partnerLostEvent false link)) evPartnerLost))

/-- A write of FAB_CHIP_ID (R222, R224). -/
def writeChipId (s : State) (valid : Bool) (chip : Nat) : State :=
  if s.fab.groups.any (fun g => decide (g.st ≠ 0)) then s
  else
    let s1 := { s with fab := { s.fab with valid := valid, chip := chip } }
    let free (t : State) (n : Nat) : State :=
      let l := t.linkAt n
      if l.st = 6 ∧ chip ≠ s.fab.chip then t.updLink n (fun l => { l with st := 1 })
      else if l.st = 2 ∧ valid ∧ s.fab.valid = false then enterIdentify t n
      else t
    (List.range 8).foldl free s1

/-- FAB_CHIP_ID (R224). -/
def execFabChipId (valid : Bool) (chip : Nat) (s : State) : Outcome State Fault Refusal :=
  .next (if hostUp s then writeChipId (wakeChip s) valid (chip % 1024) else s)

/-! ### Groups -/

/-- GRP_LIST: the address and the count (R230). -/
def Group.listVa (g : Group) : Nat := bitsOf g.list.toNat 47 0
/-- The member count. -/
def Group.count (g : Group) : Nat := bitsOf g.list.toNat 58 48

/-- The first failing check of ARM, by register (R230): a context of another entry in use is refused too (R229). -/
def armStatus (s : State) (n : Nat) : Option Status :=
  let g := s.groupAt n
  if 2 ≤ g.kind ∨ 9 ≤ g.relax ∨ (g.kind = 1 ∧ g.relax ≠ 0) ∨ (g.kind = 0 ∧ g.every ≠ 0) then some stBadField
  else if g.kind = 1 ∧ g.every = 0 then some stLenZero
  else if (List.range 16).any (fun m => decide (m ≠ n ∧ (s.groupAt m).st ≠ 0 ∧ (s.groupAt m).context = g.context)) then
    some stBadField
  else if g.count = 0 then some stLenZero
  else if 1024 < g.count ∨ (g.kind = 1 ∧ g.count ≠ 2) ∨ vaBad g.listVa (2 * g.count) then some stBadField
  else if vaBad g.plan 128 ∨ vaBad g.stopBench 1 then some stBadField
  else none

/-- What a JOIN carries of this chip's entry (R232). -/
def joinInfo (s : State) (g : Group) : JoinInfo :=
  { chip := s.fab.chip, groupId := bitsOf g.ctrl.toNat 63 48, kind := g.kind, relax := g.relax, lead := g.lead,
    lsEvery := g.every, arithRev := s.boot.fw.arithRev, members := g.members }

/-- Whether a JOIN agrees with the lead's entry, and the list is one that can form (R232). -/
def joinAgrees (s : State) (g : Group) (i : JoinInfo) : Bool :=
  let own := joinInfo s g
  decide ({ i with chip := own.chip } = own) && decide (i.chip ∈ g.members) && decide g.members.Nodup &&
    decide (g.lead ∈ g.members) && !g.members.any (fun m => decide (m ∈ s.fab.conflicts))

/-- The lead takes a JOIN into a FORMING group (R232). -/
def takeJoin (n : Nat) (s : State) (i : JoinInfo) : State :=
  let g := s.groupAt n
  if g.st ≠ 1 ∨ g.lead ≠ s.fab.chip then s
  else if joinAgrees s g i = false then failGroup s n stBadField
  else
    let joined := if i.chip ∈ g.joined then g.joined else g.joined ++ [i.chip]
    formCheck (s.updGroup n (fun g => { g with joined := joined })) n

/-- Sets REASON of a group entry. -/
def groupReason (s : State) (n : Nat) (st : Status) : State := s.updGroup n (fun g => { g with reason := st })

/-- A read of a group's list or plan request has been stopped: its status is REASON, and an uncorrectable error makes the
context faulted (R230, R233, R413). -/
def groupStopped (s : State) (n : Nat) (x : Stop) : State :=
  groupReason (ueOf s (s.groupAt n).context x.ue?) n (stopStatus x)

/-- ARM (R230, R232): the list is read, the entry is FORMING, and the member joins; JOINs that have come before the
lead's own ARM are taken now. -/
def armGroup (s : State) (n : Nat) : State :=
  let g := s.groupAt n
  if g.st ≠ 0 then s
  else
    match armStatus s n with
    | some st => groupReason s n st
    | none =>
      match rangeStop s g.context g.listVa (2 * g.count) false with
      | some x => groupStopped s n x
      | none =>
        let bs := vaRead s g.context g.listVa (2 * g.count)
        let ms := (List.range g.count).map (fun i => fieldOf bs (2 * i) 2)
        let s1 := s.updGroup n (fun g => { g with st := 1, reason := stDone, joined := [], members := ms, early := [] })
        let me := joinInfo s1 (s1.groupAt n)
        if g.lead = s.fab.chip then (me :: g.early).foldl (takeJoin n) s1
        else sendGroup (s1.updGroup n (fun g => { g with joined := [s.fab.chip] })) n [g.lead] (.joinMsg me)

/-- Whether the host may act on a group entry. -/
def hostGroup (s : State) (n : Nat) : Bool := hostUp s && decide (n < 16)

/-- ARM (R232). -/
def execArm (group : Nat) (s : State) : Outcome State Fault Refusal :=
  .next (if hostGroup s group then armGroup (wakeChip s) group else s)

/-- JOIN (R232): one that comes before the lead's own ARM is kept for it. -/
def execJoin (group : Nat) (info : JoinInfo) (s : State) : Outcome State Fault Refusal :=
  .next (controlStep s (fun s => if (s.groupAt group).st = 0 then
      s.updGroup group (fun g => { g with early := g.early.filter (fun i => decide (i.chip ≠ info.chip)) ++ [info] })
    else takeJoin group s info))

/-- An entry back in IDLE keeps its registers, and REASON: DISBAND is no ARM, PLAN or failure (R230 to R232). -/
def idleGroup (g : Group) : Group :=
  { ctrl := g.ctrl, list := g.list, plan := g.plan, stopBench := g.stopBench, reason := g.reason }

/-- DISBAND: from any state except RUNNING (R232). -/
def disbandGroup (s : State) (n : Nat) : State := if (s.groupAt n).st = 3 then s else s.updGroup n idleGroup

/-- DISBAND (R232). -/
def execDisband (group : Nat) (s : State) : Outcome State Fault Refusal :=
  .next (if hostGroup s group then disbandGroup (wakeChip s) group else s)

/-! ### Slab plans -/

/-- The first failing check of a plan request, in byte order (R233, R101, R108). -/
def planStatus (q : List Byte) : Option Status :=
  let f := fieldOf q
  if f 0 4 = 0 ∨ 2 ^ 20 < f 0 4 ∨ f 4 4 = 0 ∨ 2 ^ 20 < f 4 4 ∨ f 8 2 = 0 ∨ 256 < f 8 2 then some stLatticeRange
  else if 3 < f 10 1 ∨ 1 < f 11 1 then some stBadField
  else if f 12 1 = 0 then some stLenZero
  else if 64 < f 12 1 ∨ f 13 51 ≠ 0 then some stBadField
  else none

/-- Whether a chip may stand in the next cell after those placed: it is joined to its x− and y− neighbours. -/
def cellFits (s : State) (gx : Nat) (placed : List Nat) (c : Nat) : Bool :=
  let k := placed.length
  decide (c ∉ placed) && (decide (k % gx = 0) || chipsJoined s (placed.getD (k - 1) 0) c) &&
    (decide (k < gx) || chipsJoined s (placed.getD (k - gx) 0) c)

/-- The first placement that completes a partial one, the members tried in list order for each cell in turn (R234: a
search in a fixed order; DESIGN CHOICE, log entry 29). -/
def placeFrom (s : State) (gx : Nat) (members : List Nat) (cells : Nat) (p : List Nat) : Option (List Nat) :=
  match cells with
  | 0 => some p
  | k + 1 => (members.filter (cellFits s gx p)).findSome? (fun c => placeFrom s gx members k (p ++ [c]))

/-- Grids of n members within ZX and ZY, best first: least ⌈ZX/GX⌉ + ⌈ZY/GY⌉, then the larger GX (R234). -/
def gridOrder (n zx zy : Nat) : List (Nat × Nat) :=
  let all := ((List.range n).map (· + 1)).filterMap (fun gx =>
    if n % gx = 0 ∧ gx ≤ zx ∧ n / gx ≤ zy then some (gx, n / gx) else none)
  let cost (p : Nat × Nat) : Nat := ceilDiv zx p.1 + ceilDiv zy p.2
  all.mergeSort (fun a b => decide (cost a < cost b ∨ (cost a = cost b ∧ b.1 ≤ a.1)))

/-- The grid and the placement of a plan, the lead in cell (0, 0) (R234). -/
def choosePlan (s : State) (g : Group) (q : List Byte) : Option (Nat × Nat × List Nat) :=
  let zx := ceilDiv (fieldOf q 0 4) 64
  let zy := ceilDiv (fieldOf q 4 4) 64
  (gridOrder g.members.length zx zy).findSome? (fun p =>
    (placeFrom s p.1 g.members (g.members.length - 1) [g.lead]).map (fun l => (p.1, p.2, l)))

/-- The plan record of a cell, 64 bytes (R233, R234). -/
def planRecord (q : List Byte) (gx gy : Nat) (cells : List Nat) (gen cell : Nat) : List Byte :=
  let dx := fieldOf q 0 4
  let dy := fieldOf q 4 4
  let i := cell % gx
  let j := cell / gx
  let cutAt (i g z dim : Nat) : Nat := min (64 * (i * z / g)) dim
  let x0 := cutAt i gx (ceilDiv dx 64) dx
  let x1 := cutAt (i + 1) gx (ceilDiv dx 64) dx
  let y0 := cutAt j gy (ceilDiv dy 64) dy
  let y1 := cutAt (j + 1) gy (ceilDiv dy 64) dy
  let hx := x0 - 64
  let hy := y0 - 64
  let nb (ok : Bool) (k : Nat) : List Byte := natLe 2 (if ok then cells.getD k 0 else 0xFFFF)
  natLe 2 gx ++ natLe 2 gy ++ natLe 2 i ++ natLe 2 j ++ natLe 4 x0 ++ natLe 4 x1 ++ natLe 4 y0 ++ natLe 4 y1 ++
    natLe 4 hx ++ natLe 4 hy ++ natLe 4 (min (x1 + 64) dx - hx) ++ natLe 4 (min (y1 + 64) dy - hy) ++
    nb (decide (0 < i)) (cell - 1) ++ nb (decide (i + 1 < gx)) (cell + 1) ++
    nb (decide (0 < j)) (cell - gx) ++ nb (decide (j + 1 < gy)) (cell + gx) ++ natLe 4 gen ++ zeros 12

/-- Whether PLAN may act: an ACTIVE SLAB group on its lead (R231, R233). -/
def mayPlan (s : State) (g : Group) : Bool := decide (g.st = 2 ∧ g.kind = 0 ∧ g.lead = s.fab.chip)

/-- PLAN (R233, R234): the lead's area is written and the other members are sent theirs; the first plan's record has
PLAN_GEN 0. -/
def planGroup (s : State) (n : Nat) : State :=
  let g := s.groupAt n
  if mayPlan s g = false then s
  else
    match (rangeStop s g.context g.plan 64 false).or (rangeStop s g.context g.plan 128 true) with
    | some x => groupStopped s n x
    | none =>
      let q := vaRead s g.context g.plan 64
      match planStatus q with
      | some st => groupReason s n st
      | none =>
        match choosePlan s g q with
        | none => groupReason s n stCapacityRefused
        | some (gx, gy, cells) =>
          let area (k : Nat) : List Byte := q ++ planRecord q gx gy cells g.planGen.toNat k
          let s1 := vaWrite s g.context g.plan (area 0)
          let s2 := s1.updGroup n (fun g => { g with
            cells := cells, gx := gx, gy := gy, planGen := g.planGen + 1, reason := stDone, partials := [] })
          (cells.zipIdx.drop 1).foldl (fun t e => sendGroup t n [e.1] (.group (.plan (area e.2)))) s2

/-- PLAN (R233). The placement is a function of the map, the list and the request alone (R234), so that a
placement which the sender proposes is not read. -/
def execPlan (group : Nat) (_proposed : List Nat) (s : State) : Outcome State Fault Refusal :=
  .next (if hostGroup s group then planGroup (wakeChip s) group else s)

/-- The cells that a member knows from its plan record: its own and its neighbours' (R233). -/
def knownCells (s : State) (area : List Byte) : List Nat :=
  let f := fieldOf area
  let gx := f 64 2
  let cell := f 70 2 * gx + f 68 2
  (List.range (gx * f 66 2)).map (fun k =>
    if k = cell then s.fab.chip
    else if k + 1 = cell ∧ f 68 2 ≠ 0 then f 104 2
    else if k = cell + 1 ∧ f 68 2 + 1 < gx then f 106 2
    else if k + gx = cell then f 108 2
    else if k = cell + gx then f 110 2
    else 0xFFFF)

/-! ### Runs of a group -/

/-- The RUN that runs over a group. -/
def groupRun (s : State) (n : Nat) : Option Run := s.runs.find? (fun r => (r.spin.bind SpinRun.group) == some n)

/-- The RUN of a group's context whose cores wait with a spin command. -/
def waitingRun (s : State) (n : Nat) : Option Run :=
  s.runs.find? (fun r => decide (r.key.ctx = (s.groupAt n).context) && r.cores.any (fun c => (spinHead (runWork s r c)).isSome))

/-- Goes on with a group's run after something has come for it. -/
def groupGoesOn (s : State) (n : Nat) : State :=
  match waitingRun s n with
  | some r => settleSpin (gatherSpin s r.key []) r.key
  | none => s

/-- Where a member that has completed a command tells that it stands in it: past every step, so that the command ends before
its stop on the wall time would (R178; log entry 84). -/
def noStand : Nat := 2 ^ 64

/-- What a control message of a group does (R157, R178, R179, R232, R233, R236, R237, R247, R329, R411). -/
def takeMessage (s : State) (group : Nat) (msg : GroupMsg) : State :=
  let g := s.groupAt group
  let up (f : Group → Group) : State := s.updGroup group f
  match msg with
  | .active => if g.st = 1 then up (fun g => { g with st := 2, reason := stDone, joined := g.members }) else s
  | .failed st => if g.st = 1 ∨ g.st = 2 then up (fun g => { g with st := 4, reason := st }) else s
  | .plan area =>
    if g.st ≠ 2 ∨ g.kind ≠ 0 ∨ (rangeStop s g.context g.plan 128 true).isSome then s
    else (vaWrite s g.context g.plan (area.take 128)).updGroup group (fun g => { g with
      cells := knownCells s area, gx := fieldOf area 64 2, gy := fieldOf area 66 2
      planGen := BitVec.ofNat 32 (fieldOf area 112 4 + 1), partials := [] })
  | .cut command parcels =>
    if 2 ≤ g.st ∧ g.st ≤ 3 ∧ g.kind = 1 ∧ g.cmds ≤ command then
      groupGoesOn (up (fun g => { g with cuts := g.cuts ++ [(command, parcels)] })) group
    else s
  | .runStart betas tallies block digest command =>
    if 2 ≤ g.st ∧ g.st ≤ 3 ∧ g.cmds ≤ command then
      groupGoesOn (up (fun g => { g with runStart := some (betas, tallies, block, digest, command) })) group
    else s
  | .ready command chip =>
    if 2 ≤ g.st ∧ g.st ≤ 3 ∧ chip ∈ g.members ∧ g.cmds ≤ command ∧ (command, chip) ∉ g.readied then
      groupGoesOn (up (fun g => { g with readied := (command, chip) :: g.readied })) group
    else s
  | .go command =>
    if 2 ≤ g.st ∧ g.st ≤ 3 ∧ g.cmds ≤ command then groupGoesOn (up (fun g => { g with go := some command })) group else s
  | .refusal command st ends =>
    if 2 ≤ g.st ∧ g.st ≤ 3 ∧ g.cmds ≤ command then
      groupGoesOn (up (fun g => { g with refusals := g.refusals ++ [(command, st, ends)] })) group
    else s
  | .hold step => if g.st = 3 then up (fun g => { g with holdStep := some step }) else s
  | .ask =>
    match groupRun s group with
    | some r => settleSpin (chooseHold s r.key) r.key
    | none => s
  | .wall command chip stand =>
    if chip ∉ g.members ∨ g.walls.any (fun e => decide (e.1 = command ∧ e.2.1 = chip)) then s
    else if command < g.cmds then sendGroup s group [chip] (.group (.wall command s.fab.chip noStand))
    else groupGoesOn (up (fun g => { g with walls := g.walls ++ [(command, chip, stand)] })) group
  | .stopStep chip step =>
    if g.st ≠ 3 ∨ chip ∉ g.members ∨ g.stops.any (fun e => decide (e.1 = chip)) then s
    else
      let s1 := up (fun g => { g with stops := g.stops ++ [(chip, step)] })
      match groupRun s1 group with
      | some r => settleSpin (joinStops (heedStops s1 r.key) r.key) r.key
      | none => s1

/-- GROUP_MESSAGE (R232, R460). -/
def execGroupMessage (group : Nat) (msg : GroupMsg) (s : State) : Outcome State Fault Refusal :=
  .next (controlStep s (fun s => takeMessage s group msg))

/-- Whether a message belongs to a SLAB group that runs or may run (R238). -/
def slabOpen (g : Group) : Bool := decide ((g.st = 2 ∨ g.st = 3) ∧ g.kind = 0)

/-- The kept messages of a group without those of an earlier command that a start exchange leaves behind: the same
direction and replica (R238; DEDUCED, log entry 28). -/
def keepBand (l : List FabEasement) (m : FabEasement) : List FabEasement :=
  m :: (if m.step = startStep then l.filter (fun e => decide (e.dir ≠ m.dir ∨ e.replica ≠ m.replica)) else l)

/-- FABRIC_EASEMENT (R238): stored by its step, and the corner rows of a band along x relayed. One that comes before
the command has started on this chip is kept until it does. -/
def execFabricEasement (group : Nat) (msg : FabEasement) (s : State) : Outcome State Fault Refusal :=
  .next (let g := s.groupAt group
    if fabHears s = false ∨ slabOpen g = false ∨ msg.groupId ≠ bitsOf g.ctrl.toNat 63 48 ∨ 8 ≤ msg.dir ∨ 64 ≤ msg.replica then s
    else
      match (groupRun s group).bind (fun r => r.spin.map (fun q => (r, q))) with
      | some (r, q) =>
        if q.cmd.any SpinCmd.started then
          let s1 := s.updGroup group (fun g => { g with easements := msg :: g.easements })
          settleSpin (relayBand (s1.updRun r.key (fun x => { x with spin := x.spin.map (fun q => takeBand q msg) }))
            group q.plat msg) r.key
        else s.updGroup group (fun g => { g with easements := keepBand g.easements msg })
      | none => s.updGroup group (fun g => { g with easements := keepBand g.easements msg }))

/-- The value of a guarded-register image (R239). -/
def guardedValue (image : List Byte) : Int := signedOf 448 (leNat (image.take 56))

/-- TALLY_PARTIAL (R239): the image of a child cell joins the sum of its step. -/
def execTallyPartial (group step replica cell : Nat) (image : List Byte) (s : State) : Outcome State Fault Refusal :=
  .next (let g := s.groupAt group
    if fabHears s = false ∨ slabOpen g = false ∨ cell ∉ childCells g (ownCell s g) then s
    else
      let old := g.partials.filter (fun e => decide (e.1 ≠ step ∨ e.2.1 ≠ replica ∨ e.2.2.1 ≠ cell))
      let s1 := groupGoesOn (s.updGroup group (fun g => { g with partials := old ++ [(step, replica, cell, guardedValue image)] })) group
      match groupRun s1 group with
      | some r => settleSpin s1 r.key
      | none => s1)

/-- TALLY_BROADCAST (R239): kept for the boundary that waits for it, several of them at once where a boundary is held late,
or taken by the stop on an overflow that waits for it. -/
def execTallyBroadcast (group step : Nat) (tallies : List (List Byte)) (s : State) : Outcome State Fault Refusal :=
  .next (let g := s.groupAt group
    if fabHears s = false ∨ slabOpen g = false ∨ g.lead = s.fab.chip then s
    else
      let s1 := s.updGroup group (fun g => { g with broadcast := g.broadcast ++ [(step, tallies)] })
      match groupRun s1 group with
      | none => s1
      | some r => finishSpin s1 r.key)

/-- Whether a group's command in flight is already to stop with a status that a later STOP does not change: any, but for
a loss, which goes before an overflow or a divergence still to be completed (R244, R250). -/
def groupStopping (s : State) (n : Nat) (st : Status) : Bool :=
  match groupRun s n with
  | some r => (r.spin.bind SpinRun.cmd).any (fun c =>
      c.result.isSome && !(decide (st = stLinkLost) && decide (c.result = some stFieldOverflow ∨ c.result = some stDiverged)))
  | none => false

/-- The command whose state a group's run shows while none is in flight: its last, else the one that waits to start. -/
def heldCmd (s : State) (r : Run) (q : SpinRun) (n : Nat) : Option SpinCmd :=
  q.last.or (r.block.map (fun b => match presentStart (s.groupAt n) with
    | some d => newCmd r b.1 d.1 d.2.1 b.2
    | none => newCmd r b.1 [] [] b.2))

/-- A member is lost while no command of the run is in flight: the stop benchmark of the state at hand is written, and the
command that waits ends with its run record (R186, R236, R237, R244). -/
def stopWaiting (s : State) (r : Run) (q : SpinRun) (n : Nat) : State :=
  let bench := match heldCmd s r q n with
    | some c => stopWrites s q c stLinkLost (c.limit.getD c.step)
    | none => []
  writeThen s r (startWrites s r stLinkLost false ++ bench) (fun s1 =>
    endRefused (setSpinResults s1.tick r stLinkLost) r stLinkLost false true)

/-- The run of a RUNNING group stops with a status at its next step boundary; one whose command only waits to start ends
that command at once, and the group fails, under LINK_LOST, an ACTIVE one too (R157, R236, R244). -/
def groupStop (s : State) (n : Nat) (st : Status) : State :=
  let failed (t : State) : State := if st = stLinkLost then t.updGroup n (fun g => { g with st := 4, reason := st }) else t
  match groupRun s n with
  | none => groupGoesOn (failed s) n
  | some r =>
    match r.spin with
    | none => failed s
    | some q =>
      match q.cmd with
      | some c => requestStop (putCmd s r.key { c with result := none, limit := if c.result.isSome then none else c.limit }) r.key st
      | none => if st = stLinkLost then failed (stopWaiting s r q n) else s

/-- Whether a chip is a direct partner whose loss has not been reported (R223, R244). -/
def directPartner (s : State) (chip : Nat) : Bool := s.fab.links.any (fun l => decide (l.partner = chip) && !l.lost)

/-- A member of a RUNNING group is lost: PARTNER_LOST for a direct partner, the STOP to the others, and the stop of this
chip (R244, R246). -/
def memberLost (s : State) (group chip : Nat) : State :=
  if groupStopping s group stLinkLost then s
  else
    let s1 := if directPartner s chip then raiseEvent (s.emit (.partnerLostEvent false chip)) evPartnerLost else s
    groupStop (sendStop s1 group stLinkLost (some chip)) group stLinkLost

/-- MEMBER_LOST (R244): a member to which no way has led for a whole loss window. -/
def execMemberLost (group chip : Nat) (s : State) : Outcome State Fault Refusal :=
  .next (let g := s.groupAt group
    if g.st ≠ 3 ∨ chip ∉ g.members ∨ chip = s.fab.chip ∨ (routeTo s chip).isSome then s
    else memberLost s group chip)

/-- What a STOP of a group does (R239, R244, R246): one carrying LINK_LOST names the member that is lost, is forwarded, and
fails an ACTIVE group too; any other stops the run with its status. -/
def takeStop (group : Nat) (status : Status) (lost : Option Nat) (s : State) : State :=
  let g := s.groupAt group
  if (g.st ≠ 3 ∧ ¬(g.st = 2 ∧ status = stLinkLost)) ∨ groupStopping s group status then s
  else
    match lost with
    | some chip => if status = stLinkLost then memberLost s group chip else groupStop s group status
    | none => groupStop (if status = stLinkLost then sendStop s group status none else s) group status

/-- FABRIC_STOP (R239, R244, R246, R460). -/
def execFabricStop (group : Nat) (status : Status) (s : State) (lost : Option Nat := none) : Outcome State Fault Refusal :=
  .next (controlStep s (takeStop group status lost))

/-- Whether a command of a group is in flight on this chip, or its start has come (R236, R249). -/
def groupBegun (s : State) (n : Nat) : Bool :=
  (groupRun s n).any (fun r => r.spin.any (fun q => q.cmd.isSome)) || (presentStart (s.groupAt n)).isSome

/-- A digest of the other chip (R249, R250). One that comes before the command has begun on this chip is kept for it; one that
comes after it has completed here has no effect (DESIGN CHOICE, log entry 98: the spec does not say). -/
def takeDigest (group step : Nat) (digest : Nat) (parcels : List Nat) (s : State) : State :=
  let g := s.groupAt group
  if g.kind ≠ 1 ∨ (g.st ≠ 2 ∧ g.st ≠ 3) ∨ groupBegun s group = false then s
  else
    let s1 := s.updGroup group (fun g => { g with
      peerDigests := g.peerDigests ++ [(step, digest, parcels)], peerUpto := max g.peerUpto (step + 1) })
    match groupRun s1 group with
    | some r => settleSpin (lockCompare s1 group r.key) r.key
    | none => s1

/-- LOCKSTEP_DIGEST (R249, R250). -/
def execLockstepDigest (group step : Nat) (digest : Nat) (parcels : List Nat) (s : State) : Outcome State Fault Refusal :=
  .next (controlStep s (takeDigest group step digest parcels))

end Sys2Proof.Machine
end

