-- ==== Sys2Proof/Machine/Ports.lean ====
section
/-! DEFINITION. The field ports (R418, R419), their time (R420) and partners (R422, R423), service frames (R424), control
services and their period cycle (R425 to R432). -/

namespace Sys2Proof.Machine

open Host (Outcome)

/-! ### Ports -/

/-- Whether a field port is brought up: its PHY runs and has its reference clock, it is in service and has an address (R418,
R437, R438, R468, R513, R517). -/
def portRuns (s : State) (p : Nat) : Bool :=
  s.boot.rails && s.boot.aonRst && !s.boot.thermtrip && decide (s.boot.mode ≠ 2) && decide (7 ≤ s.boot.step) &&
    s.boot.fpClock && decide (p < 2) && decide ((s.portAt p).mac ≠ 0) && decide (p ∉ s.boot.outPorts)

/-- Whether a field port's link is up. -/
def portUp (s : State) (p : Nat) : Bool := portRuns s p && (s.portAt p).link

/-- The Announce message of a port that knows no grandmaster: priority1 255 (R420). Its form is that of IEEE 802.1AS, the rest
of it open (PRESUMED, log entry 99). -/
def announceFrame (s : State) (n : Nat) : List Byte :=
  natBe 6 0x0180C200000E ++ natBe 6 (s.portAt n).mac ++ natBe 2 0x88F7 ++ [0x1B, 0x02] ++ openBytes s.fresh 2 ++ [0x00] ++
    openBytes (s.fresh + 1) 42 ++ [0xFF] ++ openBytes (s.fresh + 2) 16

/-- PORT_LINK_UP (R420, R433): the end station of a port that comes up advertises itself. -/
def execPortLinkUp (port : Nat) (s : State) : Outcome State Fault Refusal :=
  .next (if portRuns s port ∧ (s.portAt port).link = false then
      (((s.updPort port (fun p => { p with link := true })).emit (.frame port (announceFrame s port))).tick).tick.tick
    else s)

/-- LLDP_MS as it acts (R422, R433). -/
def lldpMs (p : Port) : Nat := if p.lldpMs = 0 then 100 else max 10 (min 10000 p.lldpMs)

/-- A TLV of IEEE 802.1AB: type in 7 bits, length in 9 (log entry 10). -/
def tlv (type : Nat) (body : List Byte) : List Byte := natBe 2 (type * 512 + body.length) ++ body

/-- The LLDPDU of a port (R422). What the mandatory chassis and port identity hold the spec leaves open. -/
def lldpFrame (s : State) (n : Nat) : List Byte :=
  let p := s.portAt n
  natBe 6 0x0180C200000E ++ natBe 6 p.mac ++ natBe 2 0x88CC ++
    tlv 1 (openBytes s.fresh 7) ++ tlv 2 (openBytes (s.fresh + 1) 7) ++
    tlv 3 (natBe 2 (max 1 (ceilDiv (4 * lldpMs p) 1000))) ++
    tlv 127 (natBe 3 0x4C965A ++ [0x01, 0x00] ++ natBe 2 (lldpMs p) ++ natBe 2 s.fab.chip ++ natBe 1 n ++ zeros 2) ++
    tlv 0 []

/-- LLDP_TRANSMIT (R422). -/
def execLldpTransmit (port : Nat) (s : State) : Outcome State Fault Refusal :=
  .next (if portUp s port then ((s.emit (.frame port (lldpFrame s port))).tick).tick else s)

/-- Whether a received LLDPDU may make its sender the partner (R423). -/
def partnerTlv (u : Lldpdu) : Bool :=
  u.hasTlv && decide (u.role = 1) && decide (10 ≤ u.intervalMs ∧ u.intervalMs ≤ 10000)

/-- Whether an LLDPDU comes from a given partner: source address, chassis and port identity (R423). -/
def samePartner (a b : Lldpdu) : Bool := decide (a.mac = b.mac ∧ a.chassis = b.chassis ∧ a.portId = b.portId)

/-- A frame that a port drops is counted (R419). -/
def dropFrame (s : State) (port : Nat) : State := s.updPort port (fun p => { p with rxDropped := p.rxDropped + 1 })

/-- LLDPDU_RECEIVE (R419, R423): the first valid sender becomes the partner; every other sender is counted. -/
def execLldpduReceive (port : Nat) (pdu : Lldpdu) (s : State) : Outcome State Fault Refusal :=
  .next (if portUp s port = false then s
    else if pdu.fcsOk = false then dropFrame (wakeIdle s) port
    else
      (wakeIdle s).updPort port (fun p =>
        match p.partner with
        | none => if partnerTlv pdu then { p with partner := some pdu } else { p with lldpOther := p.lldpOther + 1 }
        | some q =>
          if samePartner q pdu then { p with partner := some (if partnerTlv pdu then pdu else q) }
          else { p with lldpOther := p.lldpOther + 1 }))

/-! ### Fields of a service block (R425) -/

/-- The port of a service. -/
def Service.port (v : Service) : Nat := fieldOf v.block 0 1
/-- SAFE_LATCH. -/
def Service.latch (v : Service) : Bool := bitOf (fieldOf v.block 1 1) 0
/-- MAX_MISSES. -/
def Service.maxMisses (v : Service) : Nat := fieldOf v.block 2 1
/-- T, in ns. -/
def Service.period (v : Service) : Nat := fieldOf v.block 8 4
/-- D, in ns. -/
def Service.deadline (v : Service) : Nat := fieldOf v.block 12 4
/-- DEST_MAC: the octet sent first is bits [47:40], as in FP_PORT_MAC (log entry 31). -/
def Service.destMac (v : Service) : Nat := fieldOf v.block 24 6
/-- MEAS_BYTES. -/
def Service.measBytes (v : Service) : Nat := fieldOf v.block 52 4
/-- DEC_BYTES. -/
def Service.decBytes (v : Service) : Nat := fieldOf v.block 68 4
/-- t_k (R425). -/
def Service.instant (v : Service) (k : Nat) : Nat := fieldOf v.block 16 8 + k * v.period
/-- s_k (R425). -/
def Service.decisionAt (v : Service) (k : Nat) : Nat := v.instant k + v.deadline

/-- The services that a port carries and that are started. -/
def portServices (s : State) (p : Nat) : List Nat :=
  (List.range 8).filter (fun n => decide ((s.svcAt n).st ≠ 0 ∧ (s.svcAt n).port = p))

/-! ### Decision frames -/

/-- A service frame without its FCS (R424); `head` is PERIOD and TIME. -/
def decisionFrame (s : State) (v : Service) (f : DueFrame) (head : List Byte) : List Byte :=
  let vlan := bitOf (fieldOf v.block 1 1) 1
  let tag := if vlan then natBe 2 0x8100 ++ natBe 2 (fieldOf v.block 3 1 * 8192 + fieldOf v.block 6 2 % 4096) else []
  let bs := natBe 6 v.destMac ++ natBe 6 (s.portAt v.port).mac ++ tag ++ natBe 2 0x88B5 ++
    [0x01] ++ natBe 1 f.kind ++ natBe 2 (fieldOf v.block 4 2) ++ head ++ natBe 2 f.payload.length ++
    natBe 1 (if f.kind = 3 then 1 else 0) ++ natBe 1 f.cause ++ natBe 4 f.misses ++ natBe 4 f.source ++ zeros 4 ++ f.payload
  bs ++ zeros (60 - bs.length)

/-- Transmits a decision frame of a service and counts it (R429, R433). -/
def sendDecision (s : State) (n : Nat) (f : DueFrame) (head : List Byte) : State :=
  let v := s.svcAt n
  let s1 := s.updSvc n (fun v => { v with
    holds := if f.kind = 3 then v.holds + 1 else v.holds
    safes := if f.kind = 4 then v.safes + 1 else v.safes })
  if portUp s v.port then s1.emit (.frame v.port (decisionFrame s v f head)) else s1

/-- A SAFE frame of a service for an instant. -/
def safeFrame (v : Service) (cause k : Nat) : DueFrame :=
  { kind := 4, cause := cause, k := k, time := v.decisionAt k, misses := v.misses, source := 0, payload := v.safe }

/-- One SAFE frame at once, with SAFE_SENT (R432, R462). It belongs to no instant, so its PERIOD and TIME are open. -/
def safeNow (s : State) (n cause : Nat) : State :=
  raiseEvent (sendDecision s n (safeFrame (s.svcAt n) cause 0) (openBytes s.fresh 12)).tick evSafeSent

/-- A service back in IDLE: its reservation is freed, nothing is due (R432). Its register and its counters stay. -/
def idleService (v : Service) : Service :=
  { v with st := 0, reservedMw := 0, declared := [], due := none, awaiting := false, contextLost := false, firstSafe := false, misses := 0 }

/-! ### Loss of the partner and of the time -/

/-- The RUNNING services of a port enter PARTNER_LOST (R432). -/
def servicesLosePartner (s : State) (p : Nat) : State :=
  (portServices s p).foldl (fun t n => t.updSvc n (fun v =>
    if v.st = 2 then { v with st := 4, firstSafe := true } else v)) s

/-- A port loses its partner (R423, R432). -/
def losePartner (s : State) (p : Nat) : State :=
  if (s.portAt p).partner = none then s
  else
    let s1 := (s.updPort p (fun q => { q with partner := none })).emit (.partnerLostEvent true p)
    servicesLosePartner (raiseEvent s1 evPartnerLost) p

/-- LLDP_PARTNER_LOSS (R423). -/
def execLldpPartnerLoss (port : Nat) (s : State) : Outcome State Fault Refusal :=
  .next (if portRuns s port then losePartner s port else s)

/-- PORT_LINK_DOWN (R423, R433). -/
def execPortLinkDown (port : Nat) (s : State) : Outcome State Fault Refusal :=
  .next (losePartner (s.updPort port (fun p => { p with link := false })) port)

/-- SYNC_RECEIVE (R419, R420): eight intervals in a row with the servo's offset below 50 ns lock the port. -/
def execSyncReceive (port : Nat) (offsetNs : Int) (timeNs : Nat) (s : State) (fcsOk : Bool := true) :
    Outcome State Fault Refusal :=
  .next (if portUp s port = false then s
    else if fcsOk = false then dropFrame (wakeIdle s) port
    else
      (wakeIdle s).updPort port (fun p =>
        let n := if offsetNs.natAbs < 50 then min 8 (p.goodSyncs + 1) else 0
        { p with goodSyncs := n, timeNs := timeNs, time := if n = 8 then 1 else p.time }))

/-- SYNC_TIMEOUT (R420). -/
def execSyncTimeout (port : Nat) (s : State) : Outcome State Fault Refusal :=
  .next (if (s.portAt port).time = 1 then s.updPort port (fun p => { p with time := 2, goodSyncs := 0 }) else s)

/-- A started service of a port that enters NO_TIME: one SAFE frame at once, then TIME_LOST (R432). -/
def loseTime (s : State) (n : Nat) : State :=
  if (s.svcAt n).st = 5 then s
  else (safeNow s n 3).updSvc n (fun v => { v with st := 5, due := none, awaiting := false })

/-- HOLDOVER_EXPIRY (R420, R432). -/
def execHoldoverExpiry (port : Nat) (s : State) : Outcome State Fault Refusal :=
  .next (if (s.portAt port).time = 2 then
      (portServices s port).foldl loseTime (s.updPort port (fun p => { p with time := 0, goodSyncs := 0 }))
    else s)

/-! ### Measurements -/

/-- Whether an address is a multicast address. -/
def isMulticast (mac : Nat) : Bool := mac.testBit 40

/-- Whether a port accepts a service frame by its destination (R419). -/
def addressed (s : State) (p dst : Nat) : Bool :=
  decide (dst = (s.portAt p).mac) ||
  (isMulticast dst && (portServices s p).any (fun n => decide ((s.svcAt n).destMac = dst)))

/-- A big-endian field of a service header (R424). -/
def beField (bs : List Byte) (off n : Nat) : Nat := beNat ((bs.drop off).take n)

/-- Bytes of a frame, with its addresses, tag, EtherType and FCS. -/
def frameLen (f : RxFrame) : Nat := 18 + (if f.tagged then 4 else 0) + f.bytes.length

/-- Whether a frame is good: its FCS, and at most 1,522 bytes (R418, R419). -/
def frameGood (f : RxFrame) : Bool := f.fcsOk && decide (frameLen f ≤ 1522)

/-- Whether a frame is an LLDPDU or an 802.1AS message, which a port receives whatever its destination (R419). -/
def netFrame (f : RxFrame) : Bool := decide (f.etherType = 0x88CC ∨ f.etherType = 0x88F7)

/-- Whether a frame is a good service frame whose fields are well formed (R419, R424). -/
def frameOk (f : RxFrame) : Bool :=
  frameGood f && decide (f.etherType = 0x88B5) && decide (32 ≤ f.bytes.length) && decide (beField f.bytes 0 1 = 1) &&
    decide (1 ≤ beField f.bytes 1 1 ∧ beField f.bytes 1 1 ≤ 4) &&
    decide (beField f.bytes 16 2 ≤ 1468 ∧ 32 + beField f.bytes 16 2 ≤ f.bytes.length)

/-- Whether a service accepts a MEASUREMENT frame that names it (R427). -/
def accepts (s : State) (v : Service) (f : RxFrame) : Bool :=
  decide (((s.portAt v.port).partner.map Lldpdu.mac) = some f.src) &&
    decide (v.measPeriod.getD 0 ≤ beField f.bytes 4 4) &&
    decide (1468 * (beField f.bytes 19 1 % 16) + beField f.bytes 16 2 ≤ v.measBytes)

/-- A service takes a MEASUREMENT frame: into its receive buffer, or into MEAS_DROPPED (R427). -/
def takeMeasurement (s : State) (f : RxFrame) (v : Service) : Service :=
  if accepts s v f = false then { v with measDropped := v.measDropped + 1 }
  else
    let per := beField f.bytes 4 4
    let i := beField f.bytes 19 1 % 16
    let mask := if v.measPeriod = some per then v.fragMask else 0
    { v with
      buffer := memWriteN v.buffer (1468 * i) ((f.bytes.drop 32).take (beField f.bytes 16 2))
      fragMask := mask ||| 2 ^ i
      measPeriod := some per
      measTime := beField f.bytes 8 8
      fresh := (v.fresh + 1) % 2 ^ 32 }

/-- A MEASUREMENT frame that names no started service of its port: each of them counts it in MEAS_DROPPED (R427; DESIGN
CHOICE, log entry 32: the spec does not say whose count it is). -/
def measLost (port : Nat) (s : State) : State :=
  (portServices s port).foldl (fun t n => t.updSvc n (fun v => { v with measDropped := v.measDropped + 1 })) s

/-- MEASUREMENT (R418, R419, R424, R427): a frame reaches a port. A decision frame of another sender has no effect, nor has
a good LLDPDU or 802.1AS message, whose effects are those of LLDPDU_RECEIVE and SYNC_RECEIVE. -/
def execMeasurement (port : Nat) (frame : RxFrame) (s : State) : Outcome State Fault Refusal :=
  .next (if portUp s port = false then s
    else
      let s0 := wakeIdle s
      if frameGood frame && netFrame frame then s0
      else if frameOk frame = false ∨ addressed s port frame.dst = false then dropFrame s0 port
      else if beField frame.bytes 1 1 ≠ 1 then s0
      else
        match (portServices s port).find? (fun n => decide (fieldOf (s.svcAt n).block 4 2 = beField frame.bytes 2 2)) with
        | none => measLost port s0
        | some n => s0.updSvc n (takeMeasurement s frame))

/-! ### The period cycle -/

/-- An access of a service to its context's memory that cannot be made: an uncorrectable error, whose read is tried again
(R412), ends the context (R413, log entry 33); anything else leaves the access out. -/
def portStop (s : State) (c : Nat) (x : Stop) : State :=
  match x with
  | .ue l n => deviceUe s c l n
  | _ => s

/-- Bytes 0 to 63 of the parameter block of the next instant (R428). -/
def paramHead (v : Service) : List Byte :=
  natLe 8 v.k ++ natLe 8 (v.instant v.k) ++ natLe 8 v.measTime ++ natLe 4 (v.measPeriod.getD 0) ++ natLe 4 v.fresh ++
    natLe 2 v.fragMask ++ zeros 30

/-- The parameter block of the m-th entry posted, m from 1 (R428). -/
def paramVa (v : Service) (log m : Nat) : Nat := fieldOf v.block 40 8 + (m - 1) % 2 ^ log * fieldOf v.block 48 4

/-- The post of an instant: the state, and whether an entry was posted (R428). A queue that is full, that is malformed or
that cannot be reached posts nothing. -/
def postEntry (s : State) (n : Nat) : State × Bool :=
  let v := s.svcAt n
  let c := v.ctx
  let q := fieldOf v.block 32 8
  match rangeStop s c q 64 false with
  | some x => (portStop s c x, false)
  | none =>
    let log := vaLoad s c (q + 16) 1
    let prod := vaLoad s c q 8
    let cons := vaLoad s c (q + 8) 8
    if 12 < log ∨ (prod + 2 ^ 64 - cons) % 2 ^ 64 = 2 ^ log then (s, false)
    else
      let m := v.posted + 1
      let blk := paramVa v log m
      match ((rangeStop s c blk (64 + v.measBytes) true).or (rangeStop s c (queueEntry q log prod) 16 true)).or
          (rangeStop s c q 8 true) with
      | some x => (portStop s c x, false)
      | none =>
        let s1 := vaWrite s c blk (paramHead v ++ memReadN v.buffer 0 v.measBytes)
        let s2 := vaWrite s1 c (queueEntry q log prod) (natLe 8 blk ++ natLe 6 v.k ++ zeros 2)
        let s3 := vaWrite s2 c q (natLe 8 (prod + 1))
        (s3.updSvc n (fun v => { v with posted := m, fresh := 0 }), true)

/-- The state of a service at an instant, once a partner is there (R431). -/
def partnerBack (s : State) (v : Service) : Service :=
  if (s.portAt v.port).partner = none ∨ v.contextLost then v
  else if v.st = 1 then { v with st := 2 }
  else if v.st = 4 then { v with st := if v.latch then 3 else 2, firstSafe := false }
  else v

/-- SERVICE_INSTANT (R428, R431): instant k of a service whose port has a time. -/
def execServiceInstant (svc : Nat) (s : State) : Outcome State Fault Refusal :=
  .next (if (s.svcAt svc).st = 0 ∨ (s.svcAt svc).st = 5 then s
    else
      let s1 := s.updSvc svc (partnerBack s)
      let v := s1.svcAt svc
      let p := if v.st = 2 ∧ v.contextLost = false then postEntry s1 svc else (s1, false)
      p.1.updSvc svc (fun v => { v with lastK := v.k, k := v.k + 1, lastPosted := p.2, awaiting := true }))

/-- What a miss at the read of an instant does (R429): HOLD below MAX_MISSES, SAFE from it on. -/
def missInstant (s : State) (n : Nat) : State :=
  let v := s.svcAt n
  let c := v.misses + 1
  let hold : DueFrame :=
    { kind := 3, cause := 1, k := v.lastK, time := v.decisionAt v.lastK, misses := c,
      source := v.decisionPeriod.getD 0xFFFF_FFFF, payload := v.decision }
  let f := if c < v.maxMisses then hold else { safeFrame v 1 v.lastK with misses := c }
  let s1 := s.updSvc n (fun v => { v with
    misses := c, missCount := v.missCount + 1, due := some f
    st := if c = v.maxMisses ∧ v.latch then 3 else v.st })
  if c = v.maxMisses then raiseEvent s1 evSafeSent else s1

/-- A solve that is on time (R429): its decision is read and is due. -/
def decideInstant (s : State) (n : Nat) : State :=
  let v := s.svcAt n
  let bs := vaRead s v.ctx (fieldOf v.block 72 8) v.decBytes
  let f : DueFrame :=
    { kind := 2, cause := 0, k := v.lastK, time := v.decisionAt v.lastK, misses := 0, source := 0, payload := bs }
  s.updSvc n (fun v => { v with misses := 0, decision := bs, decisionPeriod := some (v.lastK % 2 ^ 32), due := some f })

/-- Solves that have finished after their read, and those that are still due (R429): `done` have finished of those
posted. -/
def countLate (done : Nat) (v : Service) : Service :=
  let earlier := if v.lastPosted then v.posted - 1 else v.posted
  { v with
    late := v.late + BitVec.ofNat 64 (min done earlier - (earlier - v.lateDue))
    lateDue := v.posted - min done v.posted }

/-- The read of a RUNNING service (R429). A count or a decision that cannot be read is a miss (log entry 33). -/
def judgeInstant (s : State) (n : Nat) : State :=
  let v := s.svcAt n
  match rangeStop s v.ctx (fieldOf v.block 56 8) 8 false with
  | some x => missInstant (portStop s v.ctx x) n
  | none =>
    let rise := (vaLoad s v.ctx (fieldOf v.block 56 8) 8 + 2 ^ 64 - v.v0) % 2 ^ 64
    let step := fieldOf v.block 64 4
    let s1 := s.updSvc n (countLate (rise / step))
    if v.lastPosted ∧ step * v.posted % 2 ^ 64 ≤ rise then
      match rangeStop s v.ctx (fieldOf v.block 72 8) v.decBytes false with
      | some x => missInstant (portStop s1 v.ctx x) n
      | none => decideInstant s1 n
    else missInstant s1 n

/-- DECISION_READ (R429, R431): 2 µs before the decision instant of the last instant. -/
def execDecisionRead (svc : Nat) (s : State) : Outcome State Fault Refusal :=
  .next (let v := s.svcAt svc
    if v.awaiting = false then s
    else
      let s1 := s.updSvc svc (fun v => { v with awaiting := false })
      if v.contextLost then s1
      else if v.st = 2 then judgeInstant s1 svc
      else if v.st = 3 then s1.updSvc svc (fun v => { v with due := some (safeFrame v 5 v.lastK) })
      else if v.st = 4 then s1.updSvc svc (fun v => { v with due := some (safeFrame v 2 v.lastK) })
      else s1)

/-- Transmits the frame that is due of a service (R429, R432): the one SAFE frame of a lost context goes in its place,
and the service returns to IDLE. -/
def transmitDue (s : State) (n : Nat) : State :=
  let v := s.svcAt n
  if v.st = 0 then s
  else if v.contextLost then
    let s1 := if v.st = 5 then s
      else
        let f := safeFrame v 4 v.lastK
        raiseEvent (sendDecision s n f (natBe 4 f.k ++ natBe 8 f.time)) evSafeSent
    s1.updSvc n idleService
  else
    match v.due with
    | none => s
    | some f =>
      let s1 := sendDecision s n f (natBe 4 f.k ++ natBe 8 f.time)
      let first := decide (f.kind = 4 ∧ f.cause = 2) && v.firstSafe
      let s2 := s1.updSvc n (fun v => { v with due := none, firstSafe := if first then false else v.firstSafe })
      if first then raiseEvent s2 evSafeSent else s2

/-- The decision instant of the frame that a service is to transmit next, where it has one; the SAFE frame of a lost context
goes at the instant that the service would have served (R429, R432). -/
def dueTime (v : Service) : Option Nat :=
  if v.st = 0 then none
  else if v.contextLost then (if v.st = 5 then none else some (v.decisionAt v.lastK))
  else v.due.map DueFrame.time

/-- Lower entries of the same port whose frame is due at the same instant: they go first (R430). -/
def dueBefore (s : State) (n : Nat) : List Nat :=
  (List.range n).filter (fun m =>
    decide ((s.svcAt m).port = (s.svcAt n).port ∧ (dueTime (s.svcAt m)).isSome ∧ dueTime (s.svcAt m) = dueTime (s.svcAt n)))

/-- DECISION_TRANSMIT (R429, R430, R432). -/
def execDecisionTransmit (svc : Nat) (s : State) : Outcome State Fault Refusal :=
  .next ((dueBefore s svc ++ [svc]).foldl transmitDue s)

/-! ### Service commands -/

/-- Whether a structure of the block maps to HOST (R425). -/
def hostRange (s : State) (c a n : Nat) : Bool := rangeHost s c a n

/-- The first failing check of a service block, in byte order (R425). -/
def svcBlockStatus (s : State) (c : Nat) (b : List Byte) : Option Status :=
  let f := fieldOf b
  let bad (a n al : Nat) : Bool := decide (a = 0 ∨ a % al ≠ 0 ∨ 2 ^ 48 < a + n) || hostRange s c a n
  if 1 < f 0 1 ∨ 3 < f 1 1 then some stBadField
  else if f 2 1 = 0 then some stLenZero
  else if 7 < f 3 1 ∨ 4095 < f 6 2 then some stBadField
  else if f 8 4 = 0 then some stLenZero
  else if f 8 4 < 50000 ∨ 1000000000 < f 8 4 then some stBadField
  else if f 12 4 = 0 then some stLenZero
  else if f 12 4 < 5000 ∨ f 8 4 < f 12 4 then some stBadField
  else if f 24 6 = 0 ∨ f 30 2 ≠ 0 ∨ bad (f 32 8) 64 64 ∨ bad (f 40 8) (64 + f 52 4) 64 ∨
      f 48 4 = 0 ∨ f 48 4 % 64 ≠ 0 ∨ f 48 4 < 64 + f 52 4 ∨ 23488 < f 52 4 ∨ bad (f 56 8) 8 8 then some stBadField
  else if f 64 4 = 0 then some stLenZero
  else if 1468 < f 68 4 ∨ (f 68 4 ≠ 0 ∧ (bad (f 72 8) (f 68 4) 1 ∨ bad (f 80 8) (f 68 4) 1)) ∨ bad (f 88 8) 64 64 ∨
      f 96 32 ≠ 0 then some stBadField
  else none

/-- Whether the context of a service holds a TIMED plot (R283, R426). -/
def holdsTimed (s : State) (c : Nat) : Bool :=
  (s.ctxAt c).plotValid && decide ((s.plotAt (s.ctxAt c).plot).st = 2)

/-- Whether another started service uses the same port and identifier (R426). -/
def serviceTaken (s : State) (n : Nat) (b : List Byte) : Bool :=
  (portServices s (fieldOf b 0 1)).any (fun m => decide (m ≠ n ∧ fieldOf (s.svcAt m).block 4 2 = fieldOf b 4 2))

/-- A service as a successful START leaves it (R286, R426): the admitted declaration, V_0, the SAFE payload as the last
decision, the first instant. -/
def startedService (b : List Byte) (mw : Nat) (decl : List (Nat × Nat × Nat × Nat)) (v0 : Nat) (safe : List Byte) (now : Nat)
    (v : Service) : Service :=
  let w := { v with block := b }
  { w with
    st := 1, reason := stDone, safe := safe, decision := safe, decisionPeriod := none, v0 := v0, posted := 0
    k := ceilDiv (now + 100000 - fieldOf b 16 8) w.period
    lastK := 0, lastPosted := false, misses := 0, due := none, awaiting := false, firstSafe := false
    measPeriod := none, measTime := 0, fresh := 0, fragMask := 0, contextLost := false, reservedMw := mw, declared := decl, lateDue := 0 }

/-- Sets REASON of a service. -/
def svcReason (s : State) (n : Nat) (st : Status) : State := s.updSvc n (fun v => { v with reason := st })

/-- A read of START has been stopped: its status is REASON, and an uncorrectable error makes the context faulted (R413,
R426). -/
def svcStopped (s : State) (n : Nat) (x : Stop) : State := svcReason (portStop s (s.svcAt n).ctx x) n (stopStatus x)

/-- What START reads once its admission is given: the queue header, which it checks, then the SAFE payload and V_0 (R323,
R426). -/
def finishStart (s : State) (n : Nat) (b : List Byte) (a : Admission) (now : Nat) : State :=
  let c := (s.svcAt n).ctx
  let f := fieldOf b
  match rangeStop s c (f 32 8) 64 false with
  | some x => svcStopped s n x
  | none =>
    if 12 < vaLoad s c (f 32 8 + 16) 1 then svcReason s n stBadField
    else
      match (rangeStop s c (f 80 8) (f 68 4) false).or (rangeStop s c (f 56 8) 8 false) with
      | some x => svcStopped s n x
      | none => s.updSvc n (startedService b a.mw a.decl (vaLoad s c (f 56 8) 8) (vaRead s c (f 80 8) (f 68 4)) now)

/-- START of an IDLE service at an 802.1AS time of its port (R426). -/
def startService (s : State) (n now : Nat) : State :=
  let v := s.svcAt n
  let c := v.ctx
  if v.st ≠ 0 then s
  else if vaBad v.addr 128 then svcReason s n stBadField
  else
    match rangeStop s c v.addr 128 false with
    | some x => svcStopped s n x
    | none =>
      let b := vaRead s c v.addr 128
      match svcBlockStatus s c b with
      | some st => svcReason s n st
      | none =>
        if holdsTimed s c = false ∨ serviceTaken s n b then svcReason s n stBadField
        else if (s.portAt (fieldOf b 0 1)).time ≠ 1 then svcReason s n stDeadlineRefused
        else
          let cores := maskCores (s.plotAt (s.ctxAt c).plot).mask
          let a := admission s c (fieldOf b 88 8) 1 cores (min (fieldOf b 8 4) (fieldOf b 12 4 - 3000))
          let s1 := writeAdmission s c (fieldOf b 88 8) a
          if a.status = stDone then finishStart s1 n b a now else svcReason (ueOf s1 c a.ue) n a.status

/-- STOP from any state (R432). -/
def stopService (s : State) (n : Nat) : State := if (s.svcAt n).st = 0 then s else s.updSvc n idleService

/-- RESUME of a latched service (R431). -/
def resumeService (s : State) (n : Nat) : State :=
  if (s.svcAt n).st = 3 then s.updSvc n (fun v => { v with st := 2 }) else s

/-- Whether the host may act on a service entry. -/
def hostSvc (s : State) (n : Nat) : Bool := hostUp s && decide (n < 8)

/-- SVC_START (R426). -/
def execSvcStart (svc : Nat) (timeNs : Nat) (s : State) : Outcome State Fault Refusal :=
  .next (if hostSvc s svc then startService (wakeChip s) svc timeNs else s)

/-- SVC_STOP (R432). -/
def execSvcStop (svc : Nat) (s : State) : Outcome State Fault Refusal :=
  .next (if hostSvc s svc then stopService (wakeChip s) svc else s)

/-- SVC_RESUME (R431). -/
def execSvcResume (svc : Nat) (s : State) : Outcome State Fault Refusal :=
  .next (if hostSvc s svc then resumeService (wakeChip s) svc else s)

end Sys2Proof.Machine
end

