-- ==== Sys2Proof/Machine/Bringup.lean ====
section
/-! DEFINITION. Bring-up and the wide resets: the flash as it is read (R434 to R438), fuses, BIST and the runtime map
(R292, R293, R417, R439 to R445), cold and warm reset (R439, R446, R452), FLR (R455, R456), the reset lines and the
rails (R513, R514), D3cold (R460). -/

namespace Sys2Proof.Machine

open Host (Outcome)

/-! ### The flash -/

/-- Bytes 0 to 4,095 of the configuration region. -/
def cfgBytes (s : State) : List Byte := memReadN s.flash.cfg 0 4096

/-- Whether the bytes are a valid configuration block: its magic, its CRC, its reserved bytes (R437). -/
def cfgGood (bs : List Byte) : Bool :=
  decide (fieldOf bs 0 4 = 0x46474E43) &&
    decide (crc32c (bs.take 4 ++ zeros 4 ++ bs.drop 8) = fieldOf bs 4 4) && (bs.drop 25).all (fun b => decide (b = 0))

/-- Whether the device finds a valid configuration block (R437, R484). -/
def cfgFound (s : State) : Bool := s.flash.cfgValid && cfgGood (cfgBytes s)

/-- The configuration block as it acts: all zero when it is invalid (R437). -/
def cfgActs (s : State) : List Byte := if cfgFound s then cfgBytes s else zeros 4096

/-- CAUSE of BOOT_STATUS for the image in the flash: 0 accepted (R436, R469, R484). -/
def imageCause (s : State) : Nat :=
  if s.flash.imageValid = false then 1
  else if s.flash.image.cause ≠ 0 then s.flash.image.cause
  else if s.flash.image.secver < s.fuses.secMin then 4 else 0

/-- What the device finds in the bytes of the image region (R436): a length within the region and the digest that the image
carries, else DIGEST; a signature that verifies under its signer's key, and that key's under the firmware CA's, whose hash is
fused, else SIGNATURE. Where these parts stand in the image is open (log entry 59). -/
def imageOf (s : State) : Image :=
  let m := s.flash.imageBytes
  let part (i : Nat) : Nat := Config.imagePart i m
  let bytes := memReadN m 0 (min (part 0) 50331648)
  let digest := leNat (sha384 bytes)
  let ca := natBe 96 (part 4)
  let signer := natBe 96 (part 2)
  let signed := ecdsaVerify signer bytes (natBe 96 (part 3)) && decide (leNat (sha384 ca) = s.fuses.firmwareCa) &&
    ecdsaVerify ca signer (natBe 96 (part 5))
  { cause := if 50331648 < part 0 ∨ digest ≠ part 1 then 2 else if signed then 0 else 3
    secver := part 6 % 2 ^ 32, arithRev := part 7 % 2 ^ 16, build := part 8 % 2 ^ 32, digest := digest }

/-- What FW_ID, SECVER and FW_DIGEST hold after the image has been read: in recovery the digest of the region as read, or zero
with no image (R477, R495). -/
def imageRead (s : State) : Image :=
  if imageCause s = 0 then s.flash.image
  else { cause := imageCause s, secver := 0, arithRev := 0, build := 0,
         digest := if imageCause s = 1 then 0 else leNat (sha384 (memReadN s.flash.imageBytes 0 50331648)) }

/-- Reads directory, configuration block and image once (R435, R441), with the BOOT record and those of what is wrong,
and loads the settings that a reset takes from the configuration block (R437). -/
def readFlash (s : State) : State :=
  let s0 := { s with boot := { s.boot with boots := s.boot.boots + 1 } }
  let s1 := logEvent s0 0x01 0 0 (openDetail s0)
  let s2 := if cfgFound s1 then s1 else logEvent s1 0x02 0 0 (openDetail s1)
  let s3 := if imageCause s2 = 0 then s2 else logEvent s2 0x03 0 0 (openDetail s2)
  let c := cfgActs s3
  let cap := fieldOf c 22 2
  { s3.tick with
    boot := { s3.boot with fw := imageRead s3, cfg := memWriteN [] 0 (cfgBytes s3), cause := imageCause s3, aliasDraw := s3.fresh }
    fab := { s3.fab with valid := bitOf (fieldOf c 8 2) 15, chip := fieldOf c 8 2 % 1024 }
    ports := [{ mac := fieldOf c 10 6 }, { mac := fieldOf c 16 6 }]
    power := { s3.power with
      surveyH := fieldOf c 24 1
      capW := if cap = 0 then 1000 else max 400 (min 1000 cap)
      capNow := if cap = 0 then 1000 else max 400 (min 1000 cap) } }

/-! ### Units out of service -/

/-- Units of a kind in the retirement table (R443, R448). -/
def retiredUnits (s : State) (kind : Nat) : List Nat :=
  (s.flash.retire.filter (fun r => decide (r.kind = kind))).map HRec.unit

/-- Units that a bring-up leaves out, of one kind: fused, failing, retired. -/
structure OutUnits where
  fused   : List Nat
  failed  : List Nat
  retired : List Nat
  deriving DecidableEq, Repr

/-- Every unit that is out. -/
def OutUnits.all (o : OutUnits) : List Nat := o.fused ++ o.failed ++ o.retired

/-- Units that fail although fuses and retirement table allow them (R443). -/
def OutUnits.disagree (o : OutUnits) : List Nat := o.failed.filter (fun u => decide (u ∉ o.fused ∧ u ∉ o.retired))

/-- What bring-up finds, with the compute dies that the I/O die does not bind: each is sent the challenge, and its signature
fails under its certificate, or does not come (R473). -/
def bindDies (s : State) (f : BringUp) : BringUp :=
  let text := bindText s.boot.fw.digest s.boot.boots
  { f with noSign := (List.range 4).filter (fun d => decide (d ∈ f.noSign) || !dieBinds s text d) }

/-- Whether a die's units count as failing BIST (R441, R473). -/
def dieFails (f : BringUp) (d : Nat) : Bool := decide (d ∈ f.noPll) || (decide (d < 4) && decide (d ∈ f.noSign))

/-- Cores (R441, R443, R473). -/
def coreUnits (s : State) (f : BringUp) : OutUnits :=
  ⟨s.fuses.cores, (List.range 144).filter (fun p => decide (p ∈ f.badCores) || dieFails f (p / 36)), retiredUnits s 1⟩

/-- Dense banks, 12p + j. -/
def bankUnits (s : State) (f : BringUp) : OutUnits :=
  ⟨s.fuses.banks, (List.range 1728).filter (fun u => decide (u ∈ f.badBanks) || dieFails f (u / 432)), retiredUnits s 2⟩

/-- HBM4 channels, 32k + c, with those of retired stacks and of stacks that the grade disables (R16, R415). -/
def chanUnits (s : State) (f : BringUp) : OutUnits :=
  let dark := (List.range 256).filter (fun u => decide (u / 32 ∉ gradeStacks s.fuses.grade))
  ⟨s.fuses.chans ++ dark, (List.range 256).filter (fun u => decide (u ∈ f.badChans) || dieFails f (u / 64)),
   retiredUnits s 3 ++ (List.range 256).filter (fun u => decide (u / 32 ∈ retiredUnits s 4))⟩

/-- DDR5 channels before the in-service set is formed. -/
def ddrUnits (s : State) (f : BringUp) : OutUnits :=
  ⟨s.fuses.ddr, (List.range 24).filter (fun u => decide (u ∈ f.badDdr) || dieFails f 4), retiredUnits s 5⟩

/-- Boundary links (R510). -/
def linkUnits (s : State) (f : BringUp) : OutUnits :=
  ⟨s.fuses.links ++ (List.range 8).filter (fun u => decide (gradeLinks s.fuses.grade ≤ u)),
   (List.range 8).filter (fun u => decide (u ∈ f.badLinks) || dieFails f 4), retiredUnits s 6⟩

/-- Field ports. -/
def portUnits (s : State) (f : BringUp) : OutUnits :=
  ⟨s.fuses.ports, (List.range 2).filter (fun u => decide (u ∈ f.badPorts) || dieFails f 4), retiredUnits s 7⟩

/-- Units that disagree one by one: a die that only fails its signature has one record of its own (R443, R473). -/
def disagreements (s : State) (f : BringUp) : List (Nat × Nat) :=
  let g : BringUp := { f with noSign := [] }
  let k (n : Nat) (o : OutUnits) : List (Nat × Nat) := o.disagree.map (fun u => (n, u))
  k 1 (coreUnits s g) ++ k 2 (bankUnits s g) ++ k 3 (chanUnits s g) ++ k 5 (ddrUnits s g) ++ k 6 (linkUnits s g) ++
    k 7 (portUnits s g)

/-- One MAP_DISAGREE record (R443). -/
def logDisagree (s : State) (u : Nat × Nat) : State :=
  let s1 := logEvent s 0x04 u.1 u.2 (openDetail s)
  { s1 with boot := { s1.boot with disagree := s1.boot.disagree + 1 } }

/-- The MAP_DISAGREE record of a die whose signature fails (R473). -/
def logUnsigned (s : State) (d : Nat) : State :=
  let s1 := logEvent s 0x04 0 0 d
  { s1 with boot := { s1.boot with disagree := s1.boot.disagree + 1 } }

/-- The records and the event of the failing units (R443, R473). -/
def logFailures (s : State) (f : BringUp) : State :=
  let us := disagreements s f
  let ds := f.noSign.filter (fun d => decide (d < 4))
  let s1 := ds.foldl logUnsigned (us.foldl logDisagree s)
  if us = [] ∧ ds = [] then s1 else raiseEvent s1 evMapDisagree

/-! ### The runtime map -/

/-- The good cores of a die, ascending. -/
def dieGood (good : List Nat) (d : Nat) : List Nat := good.filter (fun p => decide (p / 36 = d))

/-- The enabled cores, ascending: q per die, the shortfall from the rest in ascending order (R444). -/
def selectCores (grade : Nat) (good : List Nat) : List Nat :=
  let q := gradeCores grade / 4
  let first := (List.range 4).flatMap (fun d => (dieGood good d).take q)
  let rest := (good.filter (fun p => decide (p ∉ first))).take (gradeCores grade - first.length)
  good.filter (fun p => decide (p ∈ first ∨ p ∈ rest))

/-- Good cores of a bring-up. -/
def goodCores (s : State) (f : BringUp) : List Nat :=
  (List.range 144).filter (fun p => decide (p ∉ (coreUnits s f).all))

/-- The cores of a map, by logical number (R19, R503). -/
def mapCores (s : State) : Tab Core :=
  (s.boot.enabled.zipIdx.filter (fun e => decide (e.1 < 144))).map (fun e =>
    (e.2, { phys := e.1, bankGood := banksOf s e.1 }))

/-- Channels that each stack is laid out over (R395, R416). -/
def layoutOf (out : List Nat) : List Nat :=
  (List.range 8).map (fun k => 32 - ((List.range 32).filter (fun c => decide (32 * k + c ∈ out))).length)

/-- Links at a reset: those out of service are DISABLED (R222, R251). -/
def freshLinks (out : List Nat) : List Link :=
  (List.range 8).map (fun n => if n ∈ out then { st := 7 } else {})

/-- Forms the runtime map from fuses, BIST and the retirement table (R443 to R445). -/
def formMap (s : State) (f : BringUp) : State :=
  let good := goodCores s f
  let en := selectCores s.fuses.grade good
  let b := { s.boot with
    outCores := (coreUnits s f).all.dedup
    outBanks := (bankUnits s f).all.dedup
    outChans := (chanUnits s f).all.dedup
    outLinks := (linkUnits s f).all.dedup
    outPorts := (portUnits s f).all.dedup
    enabled := en
    spares := good.filter (fun p => decide (p ∉ en))
    pending := []
    lostChans := []
    mapGood := true
    retained := false
    degraded := decide (en.length < gradeCores s.fuses.grade) }
  let s1 := { s with boot := b }
  { s1 with
    cores := mapCores s1
    ports := s1.ports.zipIdx.map (fun e => if e.2 ∈ b.outPorts then { e.1 with mac := 0 } else e.1)
    fab := { s1.fab with links := freshLinks b.outLinks } }

/-! ### DDR5 population -/

/-- A channel's modules keep to the table (R417). -/
def dimmOk (d : Dimm) : Bool := d.ok && decide (1 ≤ d.count ∧ d.count ≤ 2 ∧ 32 ≤ d.gb ∧ d.gb ≤ 512)

/-- Whether two channels have the same population. -/
def dimmSame (a b : Dimm) : Bool := decide (a.count = b.count ∧ a.gb = b.gb ∧ a.ranks = b.ranks)

/-- The populated channels that the grade enables and that are neither fused, failing nor retired, ascending. -/
def dimmsFitted (s : State) (f : BringUp) : List Dimm :=
  ((gradeDdr s.fuses.grade).filter (fun c => decide (c ∉ (ddrUnits s f).all))).filterMap (fun c =>
    f.dimms.find? (fun d => decide (d.chan = c ∧ d.count ≠ 0)))

/-- The population that the most channels share, on a tie the larger capacity (R417). -/
def bestDimm (ds : List Dimm) : Option Dimm :=
  let n (d : Dimm) : Nat := (ds.filter (dimmSame d)).length
  ds.foldl (fun b d =>
    match b with
    | none => some d
    | some e => if n e < n d ∨ (n e = n d ∧ e.count * e.gb < d.count * d.gb) then some d else some e) none

/-- Forms the in-service set of far memory: what is left out is logged (R417, R441). -/
def formFar (s : State) (f : BringUp) : State :=
  let fitted := dimmsFitted s f
  let cand := fitted.filter dimmOk
  let best := bestDimm cand
  let keep := cand.filter (fun d => match best with | some e => dimmSame d e | none => false)
  let out := fitted.filter (fun d => decide (d ∉ keep))
  let bad := keep.filter (fun d => decide (d.chan ∈ f.noTrainDdr))
  let serve := keep.filter (fun d => decide (d.chan ∉ f.noTrainDdr))
  let s1 := out.foldl (fun t d => logEvent t 0x06 5 d.chan (openDetail t)) s
  let s2 := bad.foldl (fun t d => logEvent t 0x05 5 d.chan (openDetail t)) s1
  { s2 with boot := { s2.boot with
    outDdr := (List.range 24).filter (fun c => decide (c ∉ serve.map Dimm.chan))
    dimms := match serve with | d :: _ => d.count | [] => 0
    dimmGb := match serve with | d :: _ => d.gb | [] => 0 } }

/-- Trains near memory: a channel that fails is left out (R441), and the stacks are laid out (R395, R416). -/
def formNear (s : State) (f : BringUp) : State :=
  let bad := (List.range 256).filter (fun c => decide (c ∈ f.noTrain ∧ c ∉ s.boot.outChans))
  let s1 := bad.foldl (fun t c => logEvent t 0x05 3 c (openDetail t)) s
  let out := s1.boot.outChans ++ bad
  { s1 with boot := { s1.boot with outChans := out, stackChans := layoutOf out } }

/-- Whether every channel of a stack is fuse-disabled, so that its absence is no failure (R442, R445). -/
def stackFused (s : State) (k : Nat) : Bool := (List.range 32).all (fun c => decide (32 * k + c ∈ s.fuses.chans))

/-- Whether a stack, a populated DDR5 channel or a link that the grade enables is out through a failure (R445). -/
def unitsMissing (s : State) (f : BringUp) : Bool :=
  (gradeStacks s.fuses.grade).any (fun k =>
    decide (s.boot.stackChans.getD k 0 = 0) && !stackFused s k) ||
  f.dimms.any (fun d => decide (d.count ≠ 0 ∧ d.chan ∈ gradeDdr s.fuses.grade ∧ d.chan ∉ s.fuses.ddr) &&
    decide (d.chan ∈ f.noTrainDdr ∨ d.chan ∈ (ddrUnits s f).failed ∨ d.chan ∈ (ddrUnits s f).retired)) ||
  s.boot.outLinks.any (fun l => decide (l < gradeLinks s.fuses.grade ∧ l ∉ s.fuses.links))

/-- Steps 4 to 8 of bring-up (R439); a compute die that fails its challenge is not bound to the package (R473, R474). -/
def bringUnits (s : State) (found : BringUp) : State :=
  let f := bindDies s found
  let s1 := logFailures s f
  let s2 := formFar (formNear (formMap s1 f) f) f
  { s2 with boot := { s2.boot with
    unbound := f.noSign.filter (fun d => decide (d < 4))
    clocks := true, step := 8, degraded := s2.boot.degraded || unitsMissing s2 f } }

/-- The runtime-map image (R292): a bank of a core that is not in service is not in service. -/
def mapImage (s : State) : List Byte :=
  let b := s.boot
  let coreOut (p : Nat) : Bool := decide (p ∉ b.enabled)
  let bits (n : Nat) (f : Nat → Bool) : List Byte :=
    natLe (n / 8) (((List.range n).map (fun i => if f i then 2 ^ i else 0)).sum)
  bits 144 coreOut ++
    bits 1728 (fun u => decide (u ∈ b.outBanks) || coreOut (u / 12)) ++
    bits 256 (fun c => decide (c ∈ b.outChans ∨ c ∈ b.lostChans)) ++
    bits 24 (fun c => decide (c ∉ ddrInService s)) ++
    bits 8 (fun l => decide (l ∈ b.outLinks)) ++
    bits 8 (fun p => decide (p < 2 ∧ p ∈ b.outPorts)) ++ zeros 241

/-- The reproducibility fingerprint (R293). -/
def fingerprint (s : State) : List Byte :=
  sha256 ([0x5A, 0x4C, 0x52, 0x46] ++ natLe 4 s.boot.fw.arithRev ++ natLe 4 s.boot.fw.build ++ mapImage s)

/-! ### Resets -/

/-- The package with everything lost that a reset of it loses; flash, fuses and what lies outside stay. -/
def blankState (s : State) (b : Boot) (r : Rng) (m : Mgmt) : State :=
  { pending := s.pending, fresh := s.fresh, out := s.out, host := s.host, hostPages := s.hostPages, flash := s.flash,
    fuses := s.fuses, boot := b, rng := r, mgmt := m }

/-- Recovery mode (R438): only the I/O die's clocks run, and BOOT_DONE is raised. -/
def enterRecovery (s : State) : State :=
  { s with boot := { s.boot with mode := 2, step := 3, bootDone := true, link := s.boot.perst } }

/-- Bring-up of R439 on a blank package: none without REFCLK_AON (R517). -/
def bringUp (s : State) (f : BringUp) : State :=
  if f.aonClock = false then s
  else if f.fuseOk = false then { s with boot := { s.boot with step := 1, fuseFault := true } }
  else
    let s1 := readFlash s
    if s1.boot.cause ≠ 0 then enterRecovery s1
    else if f.sysClock = false then { s1 with boot := { s1.boot with step := 3 } }
    else bringUnits s1 f

/-- The boot part with the reference clocks that a bring-up finds running (R517). -/
def foundClocks (f : BringUp) (b : Boot) : Boot :=
  { b with aonClock := f.aonClock, linkClock0 := f.linkClock0, linkClock1 := f.linkClock1, fpClock := f.fpClock }

/-- The boot part as a cold reset begins. -/
def coldBoot (s : State) (f : BringUp) : Boot :=
  foundClocks f { aonRst := true, perst := s.boot.perst, boots := s.boot.boots }

/-- COLD_RESET (R439, R452): AON_RST_N is released with the rails good; a thermal trip holds the package (R468). -/
def execColdReset (found : BringUp) (s : State) : Outcome State Fault Refusal :=
  .next (if s.boot.aonRst ∨ s.boot.thermtrip then s
    else bringUp (blankState s (coldBoot s found) {} {}) found)

/-- BOOT_DONE (R439, R440): steps 9 and 10; PCIe trains once PERST_N is released. -/
def execBootDone (s : State) : Outcome State Fault Refusal :=
  .next (if s.boot.aonRst ∧ s.boot.rails ∧ s.boot.thermtrip = false ∧ s.boot.mode = 0 ∧ s.boot.step = 8 then
      { s with boot := { s.boot with mode := 1, step := 10, bootDone := true, link := s.boot.perst } }
    else s)

/-- PERST_RELEASE (R440, R514): without effect while AON_RST_N is low. -/
def execPerstRelease (s : State) : Outcome State Fault Refusal :=
  .next (if s.boot.aonRst then
      { s with boot := { s.boot with perst := true, link := s.boot.bootDone && s.boot.rails && !s.boot.thermtrip } }
    else { s with boot := { s.boot with perst := true } })

/-- The parts of sideband and attestation that the always-on domain keeps across a warm reset (R446, R480). -/
def keptMgmt (m : Mgmt) : Mgmt := { eid := m.eid, dynAddr := m.dynAddr, tid := m.tid, sensors := m.sensors, mctp := { m.mctp with busy := 0, body := [], asked := [] } }

/-- The RNG after a warm reset: the sources keep running, all else is cleared (R274). -/
def warmRng (r : Rng) : Rng := { settled := r.settled }

/-- Stacks whose layout changes between two lists of channels (R416). -/
def movedStacks (old new : List Nat) : List Nat := (List.range 8).filter (fun k => decide (old.getD k 0 ≠ new.getD k 0))

/-- Near memory without the contents of the stacks of given numbers (R416, R446). -/
def dropStacks (s : State) (ks : List Nat) (m : Memory) : Memory :=
  m.filter (fun c => decide ((gradeStacks s.fuses.grade).getD (c.1 / stackBytes) 8 ∉ ks))

/-- A unit of the retirement table or pending leaves the retained map (R446). -/
def retireFromMap (s : State) (u : Nat × Nat) : State :=
  if (u.1 = 1 ∧ u.2 ∈ s.boot.outCores) ∨ (u.1 = 2 ∧ u.2 ∈ s.boot.outBanks) then s else leaveService s u.1 u.2

/-- The retained map with the retirement table, the pending units and the lost channels added; cores, links and ports
start afresh (R446). -/
def retainMap (s : State) : State :=
  let us := s.boot.pending ++ (retiredUnits s 1).map (fun u => (1, u)) ++ (retiredUnits s 2).map (fun u => (2, u))
  let s1 := us.foldl retireFromMap s
  let dark := (List.range 256).filter (fun u => decide (u / 32 ∈ retiredUnits s 4))
  let out := (s1.boot.outChans ++ s1.boot.lostChans ++ retiredUnits s 3 ++ dark).dedup
  let links := (s1.boot.outLinks ++ retiredUnits s 6).dedup
  let new := layoutOf out
  let moved := movedStacks s1.boot.stackChans new
  let b := { s1.boot with
    outChans := out, outLinks := links, stackChans := new, lostChans := [], pending := [], retained := true
    clocks := true, step := 8
    degraded := s1.boot.degraded || (gradeStacks s.fuses.grade).any (fun k => decide (new.getD k 0 = 0) && !stackFused s k) ||
      links.any (fun l => decide (l ∉ s1.boot.outLinks)) }
  let s2 := { s1 with boot := b }
  { s2 with
    near := dropStacks s2 moved s2.near
    badLines := s2.badLines.filter (fun p => decide (p.1 ≠ .near ∨
      (gradeStacks s2.fuses.grade).getD (p.2 * 64 / stackBytes) 8 ∉ moved))
    rowErrors := s2.rowErrors.filter (fun (p : Nat × Nat) => decide (p.1 / 2 ^ 32 / 32 ∉ moved))
    cores := mapCores s2
    ports := s2.ports.zipIdx.map (fun e => if e.2 ∈ b.outPorts then { e.1 with mac := 0 } else e.1)
    fab := { s2.fab with links := freshLinks links } }

/-- The boot part as a warm reset begins: the runtime map is kept in the always-on domain (R446). -/
def warmBoot (b : Boot) : Boot :=
  { b with perst := false, bootDone := false, link := false, d3hot := false, clocks := false, mode := 0, step := 2,
           cause := 0, disagree := 0, retained := false }

/-- A package after the reset of its switched domains, the memories in self-refresh (R446). -/
def selfRefresh (s t : State) : State :=
  { t with
    near := s.near, far := s.far, rowErrors := s.rowErrors
    badLines := s.badLines.filter (fun p => decide (p.1 ≠ .coreStore)) }

/-- A warm reset: the fast path with the retained map, else bring-up from step 4 with the memories lost (R446). In recovery,
and without REFCLK_SYS, the memories stay in self-refresh (R438, R517); without REFCLK_AON no step begins (R517). -/
def warmUp (s : State) (f : BringUp) : State :=
  let s0 := blankState s (foundClocks f (warmBoot s.boot)) (warmRng s.rng) (keptMgmt s.mgmt)
  let s1 := readFlash s0
  let kept := selfRefresh s s1
  if f.aonClock = false then selfRefresh s s0
  else if s1.boot.cause ≠ 0 then enterRecovery kept
  else if f.sysClock = false then { kept with boot := { kept.boot with step := 3 } }
  else if s1.boot.mapGood then retainMap kept
  else bringUnits s1 f

/-- WARM_RESET (R440, R446, R514): PERST_N is asserted, BOOT_DONE is low from then on. In the fuse-fault state the package
stays in its always-on domain (R441); after a rail failure or a thermal trip it waits (R468, R513). -/
def execWarmReset (found : BringUp) (s : State) : Outcome State Fault Refusal :=
  .next (if s.boot.aonRst = false ∨ s.boot.perst = false ∨ s.boot.rails = false ∨ s.boot.thermtrip ∨ s.boot.fuseFault then
      { s with boot := { s.boot with perst := false, bootDone := false, link := false } }
    else warmUp s found)

/-! ### FLR -/

/-- A group entry at an FLR: this chip is lost for the other members of a RUNNING or ACTIVE one (R246, R455). -/
def flrGroup (s : State) (n : Nat) : State :=
  let g := s.groupAt n
  if g.st ≠ 2 ∧ g.st ≠ 3 then s
  else sendStop s n stLinkLost (some s.fab.chip)

/-- A core at an FLR: its stores are zeroed and invalid, its counters and its work gone, CORE_POWER at its reset value; what
it is stays (R455, R456, R503). -/
def flrCore (c : Core) : Core := { phys := c.phys, pendingRetire := c.pendingRetire, bankGood := c.bankGood }

/-- A link at an FLR: it stays as it is, its counters return to zero (R455, R456). -/
def flrLink (l : Link) : Link := { l with crcErrors := 0, replays := 0, fecCorrected := 0, retrains := 0 }

/-- Whether a waiting request of the RNG outlives an FLR: link nonces and the sideband's (R274, R455). -/
def flrWaits (w : NoiseFor) : Bool :=
  match w with
  | .nonce _ => true
  | .linkSign _ => true
  | .security .mctp => true
  | .sign .mctp => true
  | _ => false

/-- FLR (R455, R456): host-visible state returns to reset, memory, map, links, RNG and power stay. Units that were
pending in a plot leave service, no plot being left (R450). -/
def flrState (s : State) : State :=
  let s0 := (List.range 16).foldl flrGroup s
  let s1 := { s0 with
    pris := [], ctxs := [], plots := [], runs := []
    badLines := s0.badLines.filter (fun p => decide (p.1 ≠ Level.coreStore))
    cores := List.map (fun (p : Nat × Core) => (p.1, flrCore p.2)) s0.cores
    rng := { s0.rng with waiting := s0.rng.waiting.filter flrWaits }
    fab := { s0.fab with links := s0.fab.links.map flrLink, groups := List.replicate 16 {}, mapGen := 0 }
    ports := s0.ports.map (fun (p : Port) => ({ mac := p.mac } : Port))
    services := List.replicate 8 {}
    mgmt := { s0.mgmt with doe := {} }
    power := { s0.power with
      rstBusy := none, credits := [], telemDie := List.replicate 5 0, hbmTemp := List.replicate 8 0 }
    boot := { s0.boot with d3hot := false }
    ats := true
    badAccess := false, badOffset := 0, poolNear := 0, poolFar := 0, bar4Near := 0, bar4Far := 0, bar4Log2 := 36
    msixTable := [], msixPending := [] }
  s1.boot.pending.foldl (fun (t : State) (u : Nat × Nat) => leaveService t u.1 u.2) s1

/-- FLR (R452, R455): a Function Level Reset, a hot reset, or the loss of the PCIe link. -/
def execFlr (s : State) : Outcome State Fault Refusal :=
  .next (if s.boot.link then flrState (if s.power.chip = 0 then s else wakeFully s) else s)

/-! ### Reset lines and rails -/

/-- AON_RST_N_ASSERT (R260, R514): everything is discarded; THERMTRIP_N stays as it is, and the RNG OFF without power. -/
def execAonRstNAssert (s : State) : Outcome State Fault Refusal :=
  .next (blankState s { aonPower := s.boot.aonPower, rails := s.boot.rails, perst := s.boot.perst, thermtrip := s.boot.thermtrip,
                        boots := s.boot.boots } (if s.boot.aonPower then {} else { st := 0 }) {})

/-- RAIL_FAILURE (R513): fast clocks and PHYs stop, BOOT_DONE is low, the memories are lost, nothing is logged, and the device
keeps no state but what its pins show. -/
def execRailFailure (s : State) : Outcome State Fault Refusal :=
  .next (if s.boot.aonPower = false then s
    else blankState s { aonPower := true, rails := false, aonRst := s.boot.aonRst, perst := s.boot.perst,
                        thermtrip := s.boot.thermtrip, boots := s.boot.boots } {} {})

/-- D3COLD (R274, R460, R515): all rails are removed; the RNG is OFF and THERMTRIP_N released. -/
def execD3cold (s : State) : Outcome State Fault Refusal :=
  .next (blankState s { aonPower := false, rails := false, boots := s.boot.boots } { st := 0 } {})

end Sys2Proof.Machine
end

