-- ==== Sys2Proof/Machine/Power.lean ====
section
/-! DEFINITION. Unit resets (R453, R454, R457), power states (R460 to R462), the governor and the thermal throttle (R464 to
R468), survey passes (R449, R450). -/

namespace Sys2Proof.Machine

open Host (Outcome)

/-! ### Core and engine resets -/

/-- Sets REASON of RST_STATUS. -/
def rstReason (s : State) (st : Status) : State := { s with power := { s.power with rstReason := st } }

/-- A request of RST_UNIT is taken: BUSY until QUIESCE ends. -/
def rstTake (s : State) (core : Nat) : State := { s with power := { s.power with rstBusy := some core, rstReason := stDone } }

/-- Discards a RUN's waiting request of the RNG (R274). -/
def dropSeed (s : State) (k : RunKey) : State :=
  State.updRun { s with rng := { s.rng with waiting := s.rng.waiting.filter (fun w => decide (w ≠ NoiseFor.seed k)) } } k
    (fun q => { q with seedWait := false })

/-- A core reset begins (R454, R457): the RUN that holds the core ends on all its cores with UNIT_RESET. -/
def startCoreReset (s : State) (core : Nat) : State :=
  if s.power.rstBusy.isSome then s
  else if s.coreEnabled core = false then rstReason s stBadField
  else
    let s1 := (rstTake s core).updCore core (fun c => { c with quiesce := 1 })
    match s.runOf core with
    | none => s1
    | some r => endRunWith (dropSeed s1 r.key) r.key stUnitReset

/-- The units of a mask (R469). -/
def maskUnits (m : BitVec 4) : List EngineUnit :=
  ([.dma, .spin, .dense, .vector] : List EngineUnit).filter (fun u => decide (m &&& unitBit u ≠ 0))

/-- An engine reset begins (R453, R454, R457). It resets no core, so the seed request of the core's program stays: R274
discards those of the reset core's programs (DEDUCED, log entry 107). -/
def startEngineReset (s : State) (core : Nat) (units : BitVec 4) : State :=
  if s.power.rstBusy.isSome then s
  else if s.coreEnabled core = false then rstReason s stBadField
  else if units = 0 then rstReason s stLenZero
  else (maskUnits units).foldl (fun t u => startUnitReset stUnitReset t (core, u)) (rstTake s core)

/-- CORE_RESET (R454). -/
def execCoreReset (core : Nat) (s : State) : Outcome State Fault Refusal :=
  .next (if hostUp s ∧ core < 128 then startCoreReset (wakeChip s) core else s)

/-- ENGINE_RESET (R453). -/
def execEngineReset (core : Nat) (units : BitVec 4) (s : State) : Outcome State Fault Refusal :=
  .next (if hostUp s ∧ core < 128 then startEngineReset (wakeChip s) core units else s)

/-- Completes every command of a unit's queue with a status; the count bounds the recursion (R453). -/
def flushUnit (fuel : Nat) (u : EngineUnit) (st : Status) (w : Work) : Work :=
  match fuel with
  | 0 => w
  | k + 1 =>
    match (w.unitQ u).queue with
    | [] => w
    | q :: _ => flushUnit k u st (completeHead u q.ordinal st w)

/-- A core after one of its units has been reset: the unit's state is lost (R453). -/
def loseUnitState (u : EngineUnit) (c : Core) : Core :=
  match u with
  | .dma => c
  | .spin => { c with spinBusy := 0, headPhase := 0, work := { c.work with spinMode := 0 } }
  | .dense => c
  | .vector => { c with vecMode := 0 }

/-- A unit of a core is reset (R453, R158): a spin or dense annealing run that loses it ends on every core, and the
unit's command in progress and queued commands complete with UNIT_RESET. -/
def resetUnit (core : Nat) (s : State) (u : EngineUnit) : State :=
  let s1 := match s.runOf core, u with
    | some r, .spin => if (spinHead (s.workAt core)).isSome then abortSpin s r stUnitReset else s
    | some r, .dense => if (annealHead (s.workAt core)).isSome then setAnnealResults s r stUnitReset else s
    | _, _ => s
  s1.updCore core (fun c =>
    let c1 := if (c.work.unitQ u).queue.isEmpty then c else lastStatus u stUnitReset c
    loseUnitState u { c1 with work := flushUnit 17 u stUnitReset c1.work })

/-- A core after its reset: stores zeroed and invalid, counters zero, units and control cores idle; it stays what and
where it is (R454). -/
def resetCore (c : Core) : Core :=
  { phys := c.phys, power := c.power, gen := c.gen + 1, pendingRetire := c.pendingRetire, plot := c.plot,
    bankGood := c.bankGood }

/-- QUIESCE of a core ends: what is being reset is reset, and its tag generation counts (R453, R454, R457, R458). -/
def endQuiesce (s : State) (core : Nat) : State :=
  let c := s.coreAt core
  if c.quiesce = 0 then s
  else
    let s1 := if c.quiesce = 1 then
        State.updCore { s with badLines := withoutStore core s.badLines } core resetCore
      else
        ((maskUnits c.quiesceUnits).foldl (resetUnit core) s).updCore core (fun c =>
          { c with gen := c.gen + 1, quiesce := 0, quiesceUnits := 0 })
    { s1 with power := { s1.power with rstBusy := if s1.power.rstBusy = some core then none else s1.power.rstBusy } }

/-- QUIESCE_END (R457). -/
def execQuiesceEnd (core : Nat) (s : State) : Outcome State Fault Refusal := .next (endQuiesce s core)

/-! ### The cap and the governor -/

/-- A write of CAP_W (R466, R469). -/
def writeCap (s : State) (w : Nat) : State := { s with power := { s.power with capW := capOf s w } }

/-- CAP_W (R466, R469). -/
def execCapW (watts : Nat) (s : State) : Outcome State Fault Refusal :=
  .next (if hostUp s then writeCap (wakeChip s) (watts % 1024) else s)

/-- The cores that the governor serves, with their caps (R465): those outside an admitted reservation that hold a spin,
dense or DMA command. -/
def creditCores (s : State) : List (Nat × Nat) :=
  (s.cores.filter (fun (p : Nat × Core) => decide (fullDraw s p.2.work ≠ 0) && !reservedCore s p.1)).map
    (fun p => (p.1, fullDraw s p.2.work))

/-- Equal shares, capped, the excess divided again until no share exceeds its cap; the count bounds the recursion
(R465). Budget, shares and caps are in the parts of `creditUnit`, of which every share is a whole number (R10; log entry
56). -/
def divideBudget (fuel : Nat) (budget : Nat) (cs : List (Nat × Nat)) : Tab Nat :=
  match fuel with
  | 0 => []
  | k + 1 =>
    let share := budget / max 1 cs.length
    let full := cs.filter (fun (p : Nat × Nat) => decide (p.2 ≤ share))
    if full.isEmpty then cs.map (fun (p : Nat × Nat) => (p.1, share))
    else full ++ divideBudget k (budget - (full.map Prod.snd).sum) (cs.filter (fun (p : Nat × Nat) => decide (share < p.2)))

/-- The budget of a period: 10 µs of a milliwatt are 10^4 pJ (R464). -/
def periodBudget (s : State) : Nat := (s.power.capNow * 1000 - 215000 - reservedMw s) * 400000 * creditUnit

/-- CREDIT_PERIOD (R464 to R467): the cap holds from now on, and the budget is divided; a die in CREDIT gets its part
halved. -/
def execCreditPeriod (s : State) : Outcome State Fault Refusal :=
  .next (if chipRuns s = false then s
    else
      let s1 := { s with power := { s.power with capNow := capInEffect s } }
      let cs := creditCores s1
      let t := divideBudget (cs.length + 1) (periodBudget s1) cs
      let cut (p : Nat × Nat) : Nat × Nat := (p.1, p.2 / 2 ^ (s1.power.halvings.getD (coreDie s1 p.1) 0))
      { s1 with power := { s1.power with credits := (t.map cut).foldl (fun a p => tabSet a p.1 p.2) [] } })

/-! ### Thermal throttle -/

/-- TIMING_BROKEN with cause THERMAL for every timed plot that uses a die (R467). -/
def thermalBroken (d : Nat) (s : State) : State :=
  ((s.plots.map Prod.fst).filter (fun p => plotUsesDie s p d)).foldl (fun t p => timingBroken t p 1) s

/-- The sensors of one die are read (R467). -/
def readDie (s : State) (d t : Nat) : State :=
  let p := s.power
  let hot := if 100 ≤ t ∧ p.halvings.getD d 0 = 4 then p.hotReads.getD d 0 + 1 else 0
  let cool := if t < 95 then min 100 (p.coolReads.getD d 0 + 1) else 0
  let credit := decide (100 ≤ t)
  let clock := decide (103 ≤ t ∨ 100 ≤ hot)
  let wasCredit := p.creditThr.getD d false
  let wasClock := p.clockThr.getD d false
  let s1 := { s with power := { p with
    dieTemp := listUpd p.dieTemp d (fun _ => t)
    telemDie := listUpd p.telemDie d (fun _ => t)
    hotReads := listUpd p.hotReads d (fun _ => hot)
    coolReads := listUpd p.coolReads d (fun _ => cool)
    creditThr := listUpd p.creditThr d (fun b => b || credit)
    clockThr := listUpd p.clockThr d (fun b => (b || clock) && decide (cool < 100)) } }
  let s2 := if credit && !wasCredit then raiseEvent (logEvent s1 0x08 0 d (openDetail s1)) evThermal else s1
  if clock && !wasClock then thermalBroken d s2 else s2

/-- A thermal trip (R468): THERMTRIP_N is asserted, fast clocks and PHYs stop, the record is written. -/
def thermTrip (s : State) (d : Nat) : State :=
  let s1 := logEvent s 0x22 0 d (openDetail s)
  { s1 with
    boot := { s1.boot with thermtrip := true, clocks := false, link := false }
    fab := { s1.fab with links := s1.fab.links.map (fun l => if l.st = 7 then l else { l with st := 0, width := 0, identifying := false }) }
    ports := s1.ports.map (fun p => { p with link := false }) }

/-- THERMAL_SENSOR_READ (R467, R468). -/
def execThermalSensorRead (dies : List Nat) (s : State) : Outcome State Fault Refusal :=
  .next (if s.boot.aonRst = false ∨ s.boot.rails = false ∨ s.boot.thermtrip then s
    else
      let s1 := (dies.take 5).zipIdx.foldl (fun t e => readDie t e.2 e.1) s
      match (dies.take 5).zipIdx.find? (fun e => decide (115 ≤ e.1)) with
      | some e => thermTrip s1 e.2
      | none => s1)

/-- THROTTLE_STEP (R467): in CREDIT the die's unreserved budget halves, down to 1/16; in recovery, the clock being
restored, it doubles. -/
def execThrottleStep (die : Nat) (s : State) : Outcome State Fault Refusal :=
  .next (let p := s.power
    if p.creditThr.getD die false = false then s
    else if 100 ≤ p.coolReads.getD die 0 then
      { s with power := { p with
        halvings := listUpd p.halvings die (fun h => h - 1)
        creditThr := listUpd p.creditThr die (fun _ => decide (1 < p.halvings.getD die 0)) } }
    else if 100 ≤ p.dieTemp.getD die 0 then { s with power := { p with halvings := listUpd p.halvings die (fun h => min 4 (h + 1)) } }
    else s)

/-! ### Power states -/

/-- Whether a core lies in a TIMED plot. -/
def inTimed (s : State) (c : Core) : Bool := match c.plot with | some p => decide ((s.plotAt p).st = 2) | none => false

/-- CORE_RETAIN (R460, R461): a core without a dispatched RUN, and not under test (R449). -/
def execCoreRetain (core : Nat) (s : State) : Outcome State Fault Refusal :=
  .next (let c := s.coreAt core
    if chipRuns s ∧ s.coreEnabled core ∧ c.power = 0 ∧ c.work.run = none ∧ c.quiesce = 0 ∧ inTimed s c = false ∧
       underTest s core = false then
      s.updCore core (fun c => { c with power := 1 })
    else s)

/-- A core that is switched off: its stores are lost (R460). -/
def offCore (c : Core) : Core := { c with power := 2, code := [], image := none, work := {} }

/-- CORE_OFF (R460, R461): an idle core of no plot; a spare is off already. -/
def execCoreOff (core : Nat) (s : State) : Outcome State Fault Refusal :=
  .next (let c := s.coreAt core
    if chipRuns s ∧ s.coreEnabled core ∧ c.power ≠ 2 ∧ c.work.run = none ∧ c.quiesce = 0 ∧ c.plot = none ∧
       underTest s core = false then
      State.updCore { s with badLines := withoutStore core s.badLines } core offCore
    else s)

/-- Whether a ring has work other than a WAIT (R461). -/
def ringBusy (q : Ring) : Bool :=
  !q.inflight.isEmpty || !q.finished.isEmpty ||
    (match q.fetched with | d :: _ => decide (descType d ≠ 2) | [] => false)

/-- The conditions of R461. -/
def mayIdle (s : State) : Bool :=
  chipRuns s && s.cores.all (fun (p : Nat × Core) => decide (p.2.power = 1 ∨ p.2.power = 2)) &&
    s.ctxs.all (fun (p : Nat × Ctx) => p.2.rings.all (fun (e : Nat × Ring) => !ringBusy e.2)) &&
    s.rng.waiting.isEmpty && s.services.all (fun v => decide (v.st = 0)) &&
    s.fab.groups.all (fun g => decide (g.st ≠ 1 ∧ g.st ≠ 3)) && decide (timedPlots s = 0) && s.power.survey.isEmpty

/-- Whether the store of a core is saved as the chip enters DEEP_IDLE: a context holds its plot (R460, R462). -/
def storeSaved (s : State) (c : Core) : Bool := match c.plot with | some p => (s.plotAt p).holder.isSome | none => false

/-- A core as the chip enters DEEP_IDLE (R460, R462): the store of a plot with a holder is saved, any other is lost; the
instruction store is reloaded for a held RUN only. -/
def sleepCore (s : State) (c : Core) : Core :=
  if storeSaved s c then (if c.work.run.isSome then { c with power := 2 } else { c with power := 2, code := [], image := none })
  else offCore c

/-- The store of an occupied core is saved as the chip enters DEEP_IDLE: an uncorrectable error, in the store or in the save
area, makes the context that holds the plot faulted (R391, R413, R415, R462). -/
def sleepUe (s : State) (n : Nat) : State :=
  match (s.coreAt n).plot.bind (fun p => (s.plotAt p).holder) with
  | none => s
  | some c =>
    match ((storeBad s n 0 8388608).map (fun l => (Level.coreStore, l))).or (areaLost s c n), (s.workAt n).run with
    | none, _ => s
    | some (l, line), some k => memUe s c l line k.ring k.slot
    | some (l, line), none => deviceUe s c l line

/-- Enters DEEP_IDLE, or its D3hot form (R462). Every core store is written anew when its core is powered again (R22, R460).
-/
def enterDeep (s : State) (chip : Nat) : State :=
  let s1 := (s.cores.map Prod.fst).foldl sleepUe s
  { s1 with
    cores := List.map (fun (p : Nat × Core) => (p.1, sleepCore s1 p.2)) s1.cores
    badLines := s1.badLines.filter (fun l => decide (l.1 ≠ .coreStore))
    power := { s1.power with chip := chip }
    boot := { s1.boot with clocks := false } }

/-- A write of DEEP_IDLE (R462). -/
def writeDeepIdle (s : State) (bit : Bool) : State :=
  let s1 := { s with power := { s.power with deepIdle := bit } }
  if bit ∧ mayIdle s1 then enterDeep s1 2 else s1

/-- DEEP_IDLE (R460, R462). -/
def execDeepIdle (bit : Bool) (s : State) : Outcome State Fault Refusal :=
  .next (if hostUp s then writeDeepIdle (wakeChip s) bit else s)

/-- CHIP_IDLE (R461, R462): with DEEP_IDLE requested the chip enters DEEP_IDLE. -/
def execChipIdle (s : State) : Outcome State Fault Refusal :=
  .next (if mayIdle s = false then s
    else if s.power.deepIdle then enterDeep s 2
    else { s with power := { s.power with chip := 1 }, boot := { s.boot with clocks := false } })

/-- CHIP_WAKE (R460, R461). -/
def execChipWake (s : State) : Outcome State Fault Refusal := .next (wakeChip s)

/-- A started service at the entry of D3hot: one SAFE frame with CAUSE CONTEXT, then IDLE (R462). -/
def sleepService (s : State) (n : Nat) : State :=
  if (s.svcAt n).st = 0 then s else (safeNow s n 4).updSvc n idleService

/-- TIMING_BROKEN for the timed plots whose RUN the entry of D3hot pre-empts (R462). -/
def sleepTimed (s : State) : State :=
  ((s.plots.map Prod.fst).filter (fun p => s.runs.any (fun r =>
    decide (r.phase = .dispatched ∧ (s.ctxAt r.key.ctx).plot = p)))).foldl (fun t p => timingBroken t p 2) s

/-- D3HOT (R462): nothing is fetched and everything is held from now on. -/
def execD3hot (s : State) : Outcome State Fault Refusal :=
  .next (if s.boot.link = false ∨ s.boot.d3hot then s
    else
      let s1 := (List.range 8).foldl sleepService (sleepTimed s)
      let s2 := enterDeep s1 3
      { s2 with boot := { s2.boot with d3hot := true } })

/-- D0 (R462): the held work goes on. -/
def execD0 (s : State) : Outcome State Fault Refusal :=
  .next (if s.boot.d3hot ∧ s.boot.thermtrip = false then wakeFully { s with boot := { s.boot with d3hot := false } } else s)

/-! ### Survey passes -/

/-- The cores of a survey round: spares, and enabled cores of no plot, in ascending physical order (R449). -/
def surveyList (s : State) : List Nat :=
  (List.range 144).filter (fun p => decide (p ∈ s.boot.spares) ||
    (match logicalOf s p with | some n => (s.coreAt n).plot.isNone | none => false))

/-- SURVEY_ROUND (R449): the first core's test begins. -/
def execSurveyRound (s : State) : Outcome State Fault Refusal :=
  .next (if chipRuns s ∧ s.power.surveyH ≠ 0 ∧ s.power.survey = [] then
      beginTest { s with power := { s.power with survey := surveyList s } }
    else s)

/-- The test of the first core of the survey list ends: the core returns to its previous power state, and the next core's test
begins (R449). -/
def endTest (s : State) : State :=
  let s1 := match s.power.survey.head?.bind (logicalOf s) with
    | none => s
    | some n => s.updCore n (fun c => { c with power := s.power.surveyWas })
  beginTest { s1 with power := { s1.power with survey := s1.power.survey.drop 1, surveyTests := s1.power.surveyTests + 1 } }

/-- SURVEY_TEST_COMPLETE (R449, R450): the core under test, by its physical number, has passed or failed. -/
def execSurveyTestComplete (core : Nat) (pass : Bool) (s : State) : Outcome State Fault Refusal :=
  .next (match s.power.survey with
    | [] => s
    | p :: _ =>
      if p ≠ core ∨ chipRuns s = false then s
      else
        let s1 := endTest s
        if pass then s1
        else
          let s2 := logEvent s1 0x07 1 p (openDetail s1)
          retireUnit s2 1 p (openDetail s2))

end Sys2Proof.Machine
end

