-- ==== Sys2Proof/Machine/RegRead.lean ====
section
/-! DEFINITION. What a read of a BAR0 register returns (R490 to R504 and the register tables of the other chapters):
one value of the whole register, without a side effect. RNG_DATA and RNG_RAW, whose reads have one, are commands of their
own (Machine/Rng.lean). A WO field, a reserved field and an offset that is not assigned read as zero. -/

namespace Sys2Proof.Machine

/-- A register from its fields: low bit, width, value. -/
def regWord (fs : List (Nat × Nat × Nat)) : Word :=
  BitVec.ofNat 64 (fs.map (fun f => f.2.2 % 2 ^ f.2.1 * 2 ^ f.1)).sum

/-- A bit of a register. -/
def regBit (lo : Nat) (b : Bool) : Nat × Nat × Nat := (lo, 1, bitNat b)

/-- Eight bytes of a structure as a register. -/
def bytesWord (bs : List Byte) (off : Nat) : Word := BitVec.ofNat 64 (fieldOf bs off 8)

/-- A set of numbers below 8 as bits. -/
def bitSet (l : List Bool) : Nat := (l.zipIdx.map (fun e => bitNat e.1 * 2 ^ e.2)).sum

/-! ### Identity and recovery window (R294, R485, R495) -/

/-- The runtime map has been formed since the last reset (R439). -/
def mapped (s : State) : Bool := decide (6 ≤ s.boot.step) && decide (s.boot.mode ≠ 2)

/-- DEVICE (R495). -/
def regDevice (s : State) : Word :=
  regWord [(40, 2, s.fuses.grade), (32, 8, 0xA1), (16, 16, 0x9601 + s.fuses.grade), (0, 16, 0x1F3A)]

/-- FW_ID (R294). -/
def regFwId (s : State) : Word := regWord [(32, 32, s.boot.fw.build), (0, 16, s.boot.fw.arithRev)]

/-- SECVER (R495). -/
def regSecver (s : State) : Word := regWord [(32, 32, s.fuses.secMin), (0, 32, s.boot.fw.secver)]

/-- REC_STATUS (R485); a command is done in one step, so that BUSY reads as zero. -/
def regRecStatus (s : State) : Word :=
  let u := s.mgmt.update
  regWord [(60, 3, u.st), (58, 2, u.owner), (32, 16, u.reason.toNat), (0, 32, u.written)]

/-- The identity block (R495). -/
def readIdentity (s : State) (off : Nat) : Word :=
  if off = 0 then regDevice s
  else if off = 8 then 0x4C965A
  else if off = 0x10 then regFwId s
  else if off = 0x18 then regSecver s
  else if off = 0x20 ∨ off = 0x28 then bytesWord (natLe 16 s.fuses.serial) (off - 0x20)
  else if 0x40 ≤ off ∧ off < 0x60 then (if mapped s then bytesWord (fingerprint s) (off - 0x40) else 0)
  else if 0x60 ≤ off ∧ off < 0x90 then bytesWord (natLe 48 s.boot.fw.digest) (off - 0x60)
  else if off = 0x8008 then regWord [(0, 26, s.mgmt.update.offset)]
  else if off = 0x8010 then regRecStatus s
  else if 0x9000 ≤ off ∧ off < 0xA000 then BitVec.ofNat 64 (memLoad s.mgmt.update.buffer (off - 0x9000) 8)
  else 0

/-! ### Front end and plots (R388, R496) -/

/-- Contexts that are not DISABLED (R496). -/
def activeContexts (s : State) : Nat := (s.ctxs.filter (fun (p : Nat × Ctx) => decide (p.2.st ≠ 0))).length

/-- FE_STATUS (R496). -/
def regFeStatus (s : State) : Word := regWord [regBit 63 s.badAccess, (32, 26, s.badOffset), (0, 13, activeContexts s)]

/-- PLOT_STATUS (R388). -/
def regPlotStatus (s : State) (p : Nat) : Word :=
  regWord [(60, 4, (s.plotAt p).st), (32, 16, (s.plotAt p).reason.toNat), (0, 13, (attachedTo s p).length)]

/-- A register of a plot entry (R388). -/
def readPlot (s : State) (p r : Nat) : Word :=
  let q := s.plotAt p
  match r with
  | 0x00 => BitVec.ofNat 64 q.mask
  | 0x08 => BitVec.ofNat 64 (q.mask / 2 ^ 64)
  | 0x10 => regWord [regBit 33 q.timed, regBit 32 q.exclusive, (0, 17, q.sliceUs)]
  | 0x18 => regWord [(0, 48, q.admitVa)]
  | 0x28 => regPlotStatus s p
  | _ => 0

/-- The front-end block (R494, R496). -/
def readFrontEnd (s : State) (off : Nat) : Word :=
  if off = 0x0 then regFeStatus s
  else if off = 0x40 then regWord [(0, 32, s.poolNear)]
  else if off = 0x48 then regWord [(0, 32, s.poolFar)]
  else if off = 0x50 then regWord [(0, 32, s.bar4Near)]
  else if off = 0x58 then regWord [(0, 32, s.bar4Far)]
  else if 0x1000 ≤ off ∧ off < 0x2000 then readPlot s ((off - 0x1000) / 0x40) (off % 0x40)
  else 0

/-! ### RNG (R275 to R278) -/

/-- RNG_STATUS (R275). -/
def regRngStatus (s : State) : Word :=
  let r := s.rng
  regWord [(40, 8, bitSet (r.sources.map Source.latched)), (32, 8, bitSet (r.sources.map Source.retest)), (4, 4, r.st),
    regBit 0 (decide (r.st = 2))]

/-- RNG_CTRL (R276). -/
def regRngCtrl (s : State) : Word := regWord [(4, 3, s.rng.tapSrc), regBit 0 s.rng.rawTap]

/-- RNG_SRC_EST0 (R278). -/
def regEst0 (x : Source) : Word :=
  let e (i : Nat) : Nat := (x.est.getD i 0).toNat
  regWord [(48, 16, e 3), (32, 16, e 2), (16, 16, e 1), (0, 16, e 0)]

/-- RNG_SRC_EST1 (R278). -/
def regEst1 (x : Source) : Word :=
  regWord [(48, 16, x.aptFails.toNat), (32, 16, x.rctFails.toNat), (16, 2, x.consec), (0, 16, (x.est.getD 4 0).toNat)]

/-- The RNG block, apart from the two registers whose reads have a side effect. -/
def readRng (s : State) (off : Nat) : Word :=
  if off = 0 then regRngStatus s
  else if off = 8 then regRngCtrl s
  else if off = 0x10 then regWord [(0, 16, s.rng.timeoutMs)]
  else if 0x100 ≤ off ∧ off < 0x180 then
    (if off % 16 = 0 then regEst0 (s.rng.src ((off - 0x100) / 16)) else regEst1 (s.rng.src ((off - 0x100) / 16)))
  else 0

/-! ### Power and reset (R469, R470) -/

/-- PWR_CAP (R299, R469). -/
def regPwrCap (s : State) : Word := regWord [(32, 10, floorW s), (0, 10, capInEffect s)]

/-- PWR_STATUS (R469). -/
def regPwrStatus (s : State) : Word :=
  let p := s.power
  regWord [(48, 16, p.powerW), (40, 8, p.dieTemp.foldl max 0), (35, 5, bitSet p.clockThr), (30, 5, bitSet p.creditThr),
    (0, 3, p.chip)]

/-- PWR_CTRL (R469). -/
def regPwrCtrl (s : State) : Word :=
  let p := s.power
  regWord [(48, 11, p.eventVector), regBit 32 p.deepIdle, (16, 16, p.offMs), (0, 16, p.retainUs)]

/-- RST_STATUS (R469). -/
def regRstStatus (s : State) : Word := regWord [regBit 63 s.power.rstBusy.isSome, (32, 16, s.power.rstReason.toNat)]

/-- An HBM4 stack is in service: it is one of the grade's and has a channel left (R395, R415, R469). -/
def stackServes (s : State) (k : Nat) : Bool :=
  decide (k ∈ gradeStacks s.fuses.grade) && decide (s.boot.stackChans.getD k 0 ≠ 0) && !stackGone s.boot k

/-- HBM4 stacks in service (R469). -/
def stacksInService (s : State) : Nat := ((List.range 8).filter (stackServes s)).length

/-- MAP_STATUS (R469). -/
def regMapStatus (s : State) : Word :=
  let b := s.boot
  if mapped s then
    regWord [regBit 63 b.degraded, regBit 62 b.retained, (48, 8, s.coreCount), (40, 8, b.spares.length),
      (36, 4, stacksInService s), (31, 5, (ddrInService s).length),
      (27, 4, (s.fab.links.filter (fun l => decide (l.st ≠ 7))).length), (16, 11, b.pending.length), (0, 16, b.disagree.toNat)]
  else 0

/-- BOOT_STATUS (R469). -/
def regBootStatus (s : State) : Word :=
  regWord [(60, 4, s.boot.mode), (56, 4, s.boot.step), (40, 8, s.boot.cause), (0, 32, s.boot.boots)]

/-- SURVEY_STATUS (R469). -/
def regSurveyStatus (s : State) : Word :=
  regWord [regBit 63 (!s.power.survey.isEmpty), (48, 8, s.power.survey.headD 0), (0, 32, s.power.surveyTests.toNat)]

/-- EVT_TIMING (R470). -/
def regEvtTiming (s : State) : Word :=
  let p := s.power
  regWord [(48, 16, p.evtTimingCount.toNat), (40, 3, p.evtTimingCause), (32, 6, p.evtTimingPlot), (0, 12, p.evtTimingCtx)]

/-- EVT_SCALE (R470). -/
def regEvtScale (s : State) : Word := regWord [(48, 16, s.power.evtScaleCount.toNat), (0, 12, s.power.evtScaleCtx)]

/-- The power and reset block. -/
def readPower (s : State) (off : Nat) : Word :=
  if off = 0x00 then regPwrCap s
  else if off = 0x08 then regPwrStatus s
  else if off = 0x10 then regPwrCtrl s
  else if off = 0x20 then regRstStatus s
  else if off = 0x28 then regMapStatus s
  else if off = 0x30 then regBootStatus s
  else if off = 0x38 then regWord [(0, 8, s.power.surveyH)]
  else if off = 0x40 then regSurveyStatus s
  else if off = 0x48 then regWord [(0, 6, s.power.events.toNat)]
  else if off = 0x50 then regEvtTiming s
  else if off = 0x58 then regEvtScale s
  else if 0x200 ≤ off ∧ off < 0x400 then (if mapped s then bytesWord (mapImage s) (off - 0x200) else 0)
  else 0

/-! ### Fabric (R228, R230, R231, R251, R499, R500) -/

/-- FAB_LINK_STATUS (R251). -/
def regLinkStatus (l : Link) : Word :=
  regWord [(48, 10, l.partner), (44, 3, l.partnerLink), (40, 4, l.st), (38, 2, l.width), (0, 32, l.retrains.toNat)]

/-- GRP_STATUS (R231). -/
def regGrpStatus (g : Group) : Word := regWord [(60, 4, g.st), (32, 16, g.reason.toNat), (0, 11, g.joined.length)]

/-- A register of a group entry (R500). -/
def readGroup (g : Group) (r : Nat) : Word :=
  match r with
  | 0x00 => g.ctrl
  | 0x08 => g.list
  | 0x10 => regWord [(0, 48, g.plan)]
  | 0x18 => regWord [(0, 48, g.stopBench)]
  | 0x20 => regGrpStatus g
  | _ => 0

/-- A link of a topology-map entry (R228). -/
def linkHalf (l : LinkRec) : List Byte :=
  natLe 2 (l.partner % 1024 + l.width % 4 * 1024 + bitNat l.up * 32768)

/-- Whether a chip without a record is present all the same: this chip itself, or the partner of a link in ID_CONFLICT, whose
conflict the map marks (R226, R499; DEDUCED, log entry 97). -/
def chipSeen (s : State) (chip : Nat) : Bool :=
  (s.fab.valid && decide (s.fab.chip = chip)) || s.fab.links.any (fun l => decide (l.st = 6 ∧ l.partner = chip))

/-- A topology-map entry (R228, R499): zero while the chip is not present; an identifier in conflict is marked so (R226). -/
def topoBytes (s : State) (chip : Nat) : List Byte :=
  match s.fab.topo.find? (fun q => decide (q.chip = chip)) with
  | none => natLe 2 (if chip ∈ s.fab.conflicts ∧ chipSeen s chip then chip + 8192 else 0) ++ zeros 30
  | some q =>
    natLe 2 (chip + 4096 + bitNat (decide (chip ∈ s.fab.conflicts)) * 8192 + q.grade % 4 * 16384) ++ natLe 2 q.seq ++
      natLe 4 q.arithRev ++ (q.links.take 8).flatMap linkHalf ++ zeros (2 * (8 - q.links.length)) ++ zeros 8

/-- The fabric block. -/
def readFabric (s : State) (off : Nat) : Word :=
  if off = 0x00 then regWord [regBit 31 s.fab.valid, (0, 10, s.fab.chip)]
  else if off = 0x08 then regWord [(0, 10, s.fab.lostMs)]
  else if off = 0x10 then regWord [(0, 32, s.fab.mapGen.toNat)]
  else if 0x100 ≤ off ∧ off < 0x200 then
    let l := s.linkAt ((off - 0x100) / 0x20)
    match off % 0x20 with
    | 0x00 => regLinkStatus l
    | 0x08 => l.crcErrors
    | 0x10 => l.replays
    | _ => l.fecCorrected
  else if 0x400 ≤ off ∧ off < 0x800 then readGroup (s.groupAt ((off - 0x400) / 0x40)) (off % 0x40)
  else if 0x8000 ≤ off then bytesWord (topoBytes s ((off - 0x8000) / 32)) (off % 32)
  else 0

/-! ### Field ports (R433, R501) -/

/-- FP_PORT_STATUS (R433). -/
def regPortStatus (p : Port) : Word :=
  regWord [(52, 4, p.time), regBit 51 p.partner.isSome, regBit 50 p.link,
    (0, 48, match p.partner with | some u => u.mac | none => 0)]

/-- SVC_STATUS (R433). -/
def regSvcStatus (v : Service) : Word := regWord [(60, 4, v.st), (32, 16, v.reason.toNat), (0, 8, min 255 v.misses)]

/-- A register of a service entry (R501). -/
def readService (v : Service) (r : Nat) : Word :=
  match r with
  | 0x00 => regWord [(48, 12, v.ctx), (0, 48, v.addr)]
  | 0x10 => regSvcStatus v
  | 0x18 => v.missCount
  | 0x20 => v.holds
  | 0x28 => v.safes
  | 0x30 => v.late
  | 0x38 => v.measDropped
  | _ => 0

/-- A register of a port (R501). -/
def readPort (p : Port) (r : Nat) : Word :=
  match r with
  | 0x00 => regWord [(16, 2, p.fec), (0, 14, p.lldpMs)]
  | 0x08 => regPortStatus p
  | 0x10 => regWord [(0, 48, p.mac)]
  | 0x18 => p.rxDropped
  | 0x20 => p.lldpOther
  | _ => 0

/-- The field-port block. -/
def readPorts (s : State) (off : Nat) : Word :=
  if off < 0x80 then readPort (s.portAt (off / 0x40)) (off % 0x40)
  else if 0x400 ≤ off ∧ off < 0x600 then readService (s.svcAt ((off - 0x400) / 0x40)) (off % 0x40)
  else 0

/-! ### Health (R447, R502) and MSI-X (R498) -/

/-- A record of the health log (R447). -/
def hrecBytes (r : HRec) : List Byte :=
  let b := natLe 2 r.type ++ natLe 1 r.kind ++ zeros 1 ++ natLe 4 r.unit ++ natLe 4 r.boot ++ natLe 8 r.timeNs ++
    natLe 8 r.detail
  b ++ natLe 4 (crc32c b)

/-- The health block. -/
def readHealth (s : State) (off : Nat) : Word :=
  if off = 0 then BitVec.ofNat 64 s.flash.eventCount
  else if off = 8 then regWord [(0, 13, s.flash.retire.length)]
  else if off = 0x10 then regWord (s.power.telemDie.zipIdx.map (fun e => (8 * e.2, 8, e.1)))
  else if off = 0x18 then regWord (s.power.hbmTemp.zipIdx.map (fun e => (8 * e.2, 8, e.1)))
  else if 0x1000 ≤ off ∧ off < 0x2000 then
    match s.flash.events[(off - 0x1000) / 32]? with
    | some r => bytesWord (hrecBytes r) (off % 32)
    | none => 0
  else 0

/-- The MSI-X table and pending bits (R498). -/
def readMsix (s : State) (off : Nat) : Word :=
  if off < 0x8000 then BitVec.ofNat 64 (leNat ((List.range 8).map (fun i => msixByte s (off + i))))
  else if off < 0x8100 then
    BitVec.ofNat 64 ((List.range 64).map (fun i => bitNat (decide (8 * (off - 0x8000) + i ∈ s.msixPending)) * 2 ^ i)).sum
  else 0

/-! ### Core status array (R159 to R161, R216, R217, R336 to R338, R503) -/

/-- CORE_ID (R503). -/
def regCoreId (c : Core) : Word :=
  regWord [(48, 8, c.phys), (42, 6, clusterOf c.phys), (40, 2, c.phys / 36), regBit 39 c.plot.isSome, (32, 6, c.plot.getD 0),
    regBit 31 c.pendingRetire]

/-- CORE_POWER (R503). -/
def regCorePower (c : Core) : Word := regWord [(16, 8, c.gen.toNat), regBit 8 (decide (c.quiesce ≠ 0)), (0, 3, c.power)]

/-- SPIN_STATE.MODE: that of the command of the RUN that holds the core, none for a RUN that does not run; 3 while the
strips of a command that is to stop or to hold at a step boundary, or of a RUN or core being stopped, run out (R157, R159;
DEDUCED, log entry 36). -/
def spinModeOf (s : State) (core : Nat) : Nat :=
  let c := s.coreAt core
  match s.runOf core with
  | some r =>
    if r.phase ≠ .dispatched ∧ r.phase ≠ .stopping then 0
    else if c.work.spinMode ≠ 0 ∧ ((r.spin.bind SpinRun.cmd).any (fun d => d.limit.isSome || d.result.isSome) ∨
        r.phase = .stopping ∨ c.quiesce ≠ 0) then 3
    else c.work.spinMode
  | none => 0

/-- SPIN_STATE (R159). -/
def regSpinState (s : State) (core : Nat) : Word :=
  let c := s.coreAt core
  regWord [(48, 8, c.spinBusy.toNat), (42, 6, c.headPhase), (40, 2, spinModeOf s core), (0, 16, c.spinLast.toNat)]

/-- DENSE_STATE (R216). -/
def regDenseState (s : State) (core : Nat) : Word :=
  let c := s.coreAt core
  regWord [(40, 12, c.bankGood.toNat), (38, 2, denseModeOf s core), (36, 2, c.vecMode), (16, 16, c.vecLast.toNat),
    (0, 16, c.denseLast.toNat)]

/-- The mode of a control core as a number (R336). -/
def ccModeNum (m : CcMode) : Nat :=
  match m with
  | .idle => 0
  | .running => 1
  | .waiting => 2
  | .ended => 3

/-- DRABEL_STATE (R336). -/
def regDrabelState (c : Core) : Word :=
  regWord [(36, 12, match c.work.run with | some k => k.ctx | none => 0), (34, 2, ccModeNum c.work.cc1.mode),
    (32, 2, ccModeNum c.work.cc0.mode), (16, 16, c.work.cc1.pc.toNat), (0, 16, c.work.cc0.pc.toNat)]

/-- A register of a core's entry (R503). -/
def readCore (s : State) (core : Nat) (r : Nat) : Word :=
  let c := s.coreAt core
  match r with
  | 0x000 => regCoreId c
  | 0x008 => regCorePower c
  | 0x040 => regSpinState s core
  | 0x048 => regWord [(0, 48, c.headStep)]
  | 0x050 => c.siteUpdates
  | 0x058 => c.flips
  | 0x060 => c.collisions
  | 0x068 => c.yieldedFlips
  | 0x070 => c.flagWaitClk
  | 0x078 => c.streamStallClk
  | 0x080 => c.csCorrected
  | 0x0C0 => regDenseState s core
  | 0x0C8 => c.macs
  | 0x0D0 => c.lowRound
  | 0x0D8 => c.nonfinite
  | 0x0E0 => c.parityErr
  | 0x0E8 => c.denseFlips
  | 0x0F0 => c.exchAttempts
  | 0x0F8 => c.exchSwaps
  | 0x100 => regDrabelState c
  | 0x108 => c.trap0
  | 0x110 => c.trap1
  | 0x118 => c.retired
  | 0x120 => c.waitCc
  | 0x128 => c.stallCc
  | 0x130 => c.exchNan
  | _ => 0

/-! ### Context control blocks (R375 to R377, R381, R384, R387, R397, R399, R405, R411, R414, R504) -/

/-- CTX_STATUS (R384). -/
def regCtxStatus (s : State) (c : Nat) : Word :=
  let x := s.ctxAt c
  regWord [regBit 15 x.attachRefused, regBit 14 (x.plotValid && holdsPlot s c), regBit 10 x.quotaLinkHit, regBit 9 x.quotaMemHit,
    regBit 8 x.quotaEngineHit, (0, 3, x.st)]

/-- CTX_FAULT (R405). -/
def regCtxFault (x : Ctx) : Word :=
  match x.fault with
  | none => 0
  | some f => regWord [(63, 1, 1), (60, 3, f.kind), regBit 59 f.write, (56, 3, f.unit), (48, 8, x.faultMore), (40, 8, f.core),
      (32, 2, f.ring), (0, 32, f.slot)]

/-- RING_STATUS (R377). -/
def regRingStatus (q : Ring) : Word :=
  regWord [(32, 32, q.head), (28, 4, q.stopCause), regBit 25 q.dbBad, regBit 24 q.dbPending, (16, 5, q.inflight.length),
    (8, 7, q.held.length), (0, 3, ringState q)]

/-- A register of a ring (R376, R377). -/
def readRing (q : Ring) (r : Nat) : Word :=
  match r with
  | 0x00 => q.base
  | 0x08 => q.cfg
  | 0x10 => q.cqBase
  | 0x18 => q.cqCfg
  | 0x28 => regRingStatus q
  | 0x30 => regWord [(32, 32, q.cqTail), (0, 32, q.cqHead)]
  | _ => 0

/-- A register of a context control block (R504). -/
def readCtx (s : State) (c r : Nat) : Word :=
  let x := s.ctxAt c
  if 0x100 ≤ r ∧ r < 0x200 then readRing (x.ringAt ((r - 0x100) / 0x40)) (r % 0x40)
  else
    match r with
    | 0x000 => regWord [(40, 11, x.faultVector), regBit 39 x.plotValid, (32, 6, x.plot), regBit 0 x.enable]
    | 0x008 => regCtxStatus s c
    | 0x010 => x.ptRoot
    | 0x018 => regWord [regBit 63 x.inval.isSome]
    | 0x020 => regCtxFault x
    | 0x028 => regWord [(0, 48, match x.fault with | some f => f.va | none => 0)]
    | 0x030 => x.ue
    | 0x038 => regWord [(48, 16, x.snapStatus.toNat), regBit 1 x.snapRun.isSome]
    | 0x040 => regWord [(0, 48, x.snapAddr)]
    | 0x048 => BitVec.ofNat 64 x.snapBytes
    | 0x080 => regWord [regBit 48 (decide (x.st = 3)), (32, 11, x.errVector), (16, 16, x.priTimeoutUs), (0, 16, x.drainUs)]
    | 0x200 => x.quotaEngine
    | 0x208 => x.quotaMem
    | 0x210 => x.quotaLink
    | 0x218 => x.quotaPool
    | 0x220 => x.acctEngine
    | 0x228 => x.acctMem
    | 0x230 => x.acctLink
    | 0x238 => BitVec.ofNat 64 (placedBytes s c (fun _ => true))
    | 0x240 => x.scaleClamp
    | _ => 0

/-! ### BAR0 -/

/-- Offsets that recovery mode decodes (R493). -/
def recoveryOffset (off : Nat) : Bool := decide (off < 0x10000 ∨ (0x70000 ≤ off ∧ off < 0x78100))

/-- The value of the BAR0 register at an offset that is a multiple of 8 (R494). -/
def readReg (s : State) (off : Nat) : Word :=
  if s.boot.mode = 2 ∧ recoveryOffset off = false then 0
  else if off < 0x10000 then readIdentity s off
  else if off < 0x12000 then readFrontEnd s (off - 0x10000)
  else if 0x20000 ≤ off ∧ off < 0x20200 then readRng s (off - 0x20000)
  else if 0x30000 ≤ off ∧ off < 0x30400 then readPower s (off - 0x30000)
  else if 0x40000 ≤ off ∧ off < 0x50000 then readFabric s (off - 0x40000)
  else if 0x50000 ≤ off ∧ off < 0x50600 then readPorts s (off - 0x50000)
  else if 0x60000 ≤ off ∧ off < 0x62000 then readHealth s (off - 0x60000)
  else if 0x70000 ≤ off ∧ off < 0x78100 then readMsix s (off - 0x70000)
  else if 0x80000 ≤ off ∧ off < 0x90000 then
    (if (off - 0x80000) / 0x200 < s.coreCount then readCore s ((off - 0x80000) / 0x200) (off % 0x200) else 0)
  else if 0x1000000 ≤ off ∧ off < 0x2000000 then readCtx s ((off - 0x1000000) / 0x1000) (off % 0x1000)
  else 0

/-- A BAR0 read of 4 or 8 aligned bytes: the bytes addressed; of another size, zeros (R491; DEDUCED for the other sizes). -/
def readBar0 (s : State) (off size : Nat) : List Byte :=
  if (size = 4 ∨ size = 8) ∧ off % size = 0 ∧ off < 2 ^ 26 then
    ((natLe 8 (readReg s (off / 8 * 8)).toNat).drop (off % 8)).take size
  else zeros size

/-- A read of a doorbell page: the count last accepted (R341). -/
def readBar2 (s : State) (ctx off : Nat) : Nat :=
  if s.boot.mode = 2 then 0
  else if off % 8 ≠ 0 then 0
  else if off < 0x20 then (s.ringAt ctx (off / 8)).tail
  else if off < 0x40 then (s.ringAt ctx ((off - 0x20) / 8)).cqHead
  else 0

end Sys2Proof.Machine
end

