-- ==== Sys2Proof/Machine/Mgmt.lean ====
section
/-! DEFINITION. Identity, security and management (16): the SPDM responder (R475 to R478), the sideband and its PLDM
commands (R479 to R482, R488), flash update over both paths (R483 to R485). Codes and layouts that DMTF's documents give
and the spec only names are PRESUMED (log entry 10). -/

namespace Sys2Proof.Machine

open Host (Outcome)

/-! ### SPDM connections -/

/-- The sideband answers: from step 1 of bring-up on, in every power state but D3cold (R480). -/
def sidebandUp (s : State) : Bool := s.boot.aonPower && s.boot.aonRst && decide (1 ≤ s.boot.step ∨ s.boot.rails = false)

/-- A transport of SPDM reaches the responder: DOE while the PCIe link is up, MCTP while the sideband answers and offers
more than the fuse-fault state does (R440, R476, R480). -/
def spdmUp (s : State) (p : SpdmPort) : Bool :=
  match p with
  | .doe => s.boot.link && s.boot.rails
  | .mctp => sidebandUp s && !s.boot.fuseFault

/-- Sends an SPDM response. -/
def spdmSay (s : State) (p : SpdmPort) (code : Nat) (data : List Byte) : State := s.emit (.spdm p (spdmFrom s p) code data)

/-- A request and the response to it, in the order in which signatures cover them; VERSION is of version 1.0 (DSP0274). -/
def spdmPair (request : List Byte) (code : Nat) (data : List Byte) : List Byte :=
  request ++ spdmMsg (if code = 0x04 then 0x10 else 0x12) code 0 0 data

/-- Answers a request of a connection's first phase, to which `old` has led; certificates and measurements count anew. -/
def spdmOpen (s : State) (p : SpdmPort) (stage : Nat) (old request : List Byte) (code : Nat) (data : List Byte) : State :=
  spdmSay (s.setConn p { stage := stage, vca := old ++ spdmPair request code data }) p code data

/-- Answers a request for digests or certificates: it joins what CHALLENGE signs and ends a row of measurements. -/
def spdmCerts (s : State) (p : SpdmPort) (request : List Byte) (code : Nat) (data : List Byte) : State :=
  spdmSay (s.setConn p { (s.conn p) with certs := (s.conn p).certs ++ spdmPair request code data, meas := [] }) p code data

/-- Answers a measurement request that is not signed: it joins what the next signed one signs. -/
def spdmMeas (s : State) (p : SpdmPort) (request : List Byte) (data : List Byte) : State :=
  spdmSay (s.setConn p { (s.conn p) with meas := (s.conn p).meas ++ spdmPair request 0x60 data }) p 0x60 data

/-- Sends an SPDM ERROR with its code: 0x01 InvalidRequest, 0x03 Busy, 0x04 UnexpectedRequest, 0x05 Unspecified, 0x07
UnsupportedRequest (R476, R478). -/
def spdmError (s : State) (p : SpdmPort) (code : Byte) : State := spdmSay s p 0x7F [code, 0]

/-- The frame of every SPDM request: a transport that is down takes nothing, one whose draw waits answers Busy, one that
has not come as far as the request needs answers UnexpectedRequest (R476, R478). -/
def spdmRequest (s : State) (p : SpdmPort) (stage : Nat) (body : State) : State :=
  if spdmUp s p = false then s
  else if (s.conn p).busy ≠ 0 then spdmError s p 0x03
  else if (s.conn p).stage < stage then spdmError s p 0x04
  else body

/-- GET_VERSION (R476): SPDM 1.2; the connection starts anew. A request of another code is one that is not supported:
sessions, KEY_EXCHANGE, PSK, mutual authentication, SET_CERTIFICATE and any other (R476; log entry 111). -/
def execGetVersion (port : SpdmPort) (s : State) (code : Nat := 0x84) : Outcome State Fault Refusal :=
  .next (spdmRequest s port 0
    (if code = 0x84 then spdmOpen s port 1 [] (spdmMsg 0x10 0x84 0 0 []) 0x04 [0, 1, 0x00, 0x12]
     else spdmError s port 0x07))

/-- GET_CAPABILITIES (R476): CERT_CAP, CHAL_CAP and MEAS_CAP with signature. -/
def execGetCapabilities (port : SpdmPort) (s : State) (rest : List Byte := []) : Outcome State Fault Refusal :=
  .next (spdmRequest s port 1 (spdmOpen s port 2 (s.conn port).vca (spdmMsg 0x12 0xE1 0 0 rest) 0x61 [0x16, 0, 0, 0]))

/-- NEGOTIATE_ALGORITHMS (R476): TPM_ALG_SHA_384 for measurements, TPM_ALG_ECDSA_ECC_NIST_P384 for signing, TPM_ALG_SHA_384
for hashing. -/
def execNegotiateAlgorithms (port : SpdmPort) (s : State) (rest : List Byte := []) : Outcome State Fault Refusal :=
  .next (spdmRequest s port 2 (spdmOpen s port 3 (s.conn port).vca (spdmMsg 0x12 0xE3 0 0 rest) 0x63
    (natLe 4 0x4 ++ natLe 4 0x80 ++ natLe 4 0x2)))

/-! ### Certificates -/

/-- GET_DIGESTS (R475, R476): slot 0 alone. -/
def execGetDigests (port : SpdmPort) (s : State) : Outcome State Fault Refusal :=
  .next (spdmRequest s port 3 (spdmCerts s port (spdmMsg 0x12 0x81 0 0 []) 0x01 ([1] ++ sha384 (chainBytes s))))

/-- GET_CERTIFICATE (R475): a part of the chain of slot 0, its length and what remains; no other slot is supported
(R476). -/
def execGetCertificate (port : SpdmPort) (slot offset length : Nat) (s : State) : Outcome State Fault Refusal :=
  let chain := chainBytes s
  let n := min length (chain.length - offset)
  .next (spdmRequest s port 3
    (if slot ≠ 0 then spdmError s port 0x07
     else if chain.length ≤ offset then spdmError s port 0x01
     else spdmCerts s port (spdmMsg 0x12 0x82 0 0 (natLe 2 offset ++ natLe 2 length)) 0x02
       (natLe 2 n ++ natLe 2 (chain.length - offset - n) ++ (chain.drop offset).take n)))

/-- A response that waits for its nonce, and the messages up to its request that its signature covers (R264, R476, R478). -/
def spdmSign (s : State) (p : SpdmPort) (kind : Nat) (asked body : List Byte) : State :=
  requestNoise (s.setConn p { (s.conn p) with busy := kind, body := body, asked := asked }) (.security p)

/-- What the signature of CHALLENGE_AUTH covers up to the request: the first phase, the certificates, the request (DSP0274;
PRESUMED, log entry 10). -/
def challengeText (c : Spdm) (nonce : List Byte) : List Byte := c.vca ++ c.certs ++ spdmMsg 0x12 0x83 0 0 nonce

/-- GET_MEASUREMENTS as sent: bit 0 of its first parameter asks for a signature, which a nonce and the slot follow (DSP0274;
PRESUMED, log entry 10). -/
def measRequest (index : Nat) (signed : Bool) (nonce : List Byte) : List Byte :=
  spdmMsg 0x12 0xE0 (if signed then 1 else 0) index (if signed then nonce ++ [0] else [])

/-- What the signature of MEASUREMENTS covers up to the request: the first phase, and every measurement request since the last
other request or signature. -/
def measText (c : Spdm) (index : Nat) (nonce : List Byte) : List Byte := c.vca ++ c.meas ++ measRequest index true nonce

/-- CHALLENGE (R475, R476, R478): signed with the alias key, in recovery with the I/O die's; slot 0 alone. -/
def execChallenge (port : SpdmPort) (slot : Nat) (nonce : List Byte) (s : State) : Outcome State Fault Refusal :=
  .next (spdmRequest s port 3
    (if slot ≠ 0 then spdmError s port 0x07
     else spdmSign s port 1 (challengeText (s.conn port) nonce) (sha384 (chainBytes s))))

/-! ### Measurements -/

/-- The value of a measurement and its type: a digest, or raw with bit 7 of the type (R477). Indices 6 and 7 hold zeros while
no runtime map has been formed, as the registers of both do (R292, R295; log entry 58). -/
def measurement (s : State) (index : Nat) : Nat × List Byte :=
  match index with
  | 1 => (0x01, natLe 48 s.boot.fw.digest)
  | 2 => (0x03, sha384 (memReadN s.boot.cfg 0 4096))
  | 3 => (0x86, natLe 8 (regFwId s).toNat)
  | 4 => (0x87, natLe 4 s.boot.fw.secver)
  | 5 => (0x82, natLe 1 s.fuses.grade ++ natLe 4 s.fuses.secMin ++ natLe 16 s.fuses.serial)
  | 6 => (0x82, if mapped s then fingerprint s else zeros 32)
  | 7 => (0x82, if mapped s then mapImage s else zeros 512)
  | _ => (0x85, natLe 1 s.boot.mode ++ natLe 1 s.boot.cause)

/-- A measurement block. -/
def measBlock (s : State) (index : Nat) : List Byte :=
  let m := measurement s index
  natLe 1 index ++ [1] ++ natLe 2 (m.2.length + 3) ++ natLe 1 m.1 ++ natLe 2 m.2.length ++ m.2

/-- What GET_MEASUREMENTS asks for: the number of blocks, one block, or all of one copy (R477, R478). -/
def measBody (s : State) (index : Nat) : Option (List Byte) :=
  if index = 0 then some [8]
  else if index ≤ 8 then some (measBlock s index)
  else if index = 0xFF then some ((List.range 8).flatMap (fun i => measBlock s (i + 1)))
  else none

/-- GET_MEASUREMENTS (R477, R478). -/
def execGetMeasurements (port : SpdmPort) (index : Nat) (signed : Bool) (nonce : List Byte) (s : State) :
    Outcome State Fault Refusal :=
  .next (spdmRequest s port 3
    (match measBody s index with
     | none => spdmError s port 0x01
     | some b =>
       if signed then spdmSign s port 2 (measText (s.conn port) index nonce) b
       else spdmMeas s port (measRequest index false []) b))

/-! ### The sideband -/

/-- Whether the endpoint accepts an MCTP message type: MCTP control, PLDM and SPDM; others are dropped (R479). -/
def mctpAccepts (type : Nat) : Bool := decide (type = 0x00 ∨ type = 0x01 ∨ type = 0x05)

/-- SET_ENDPOINT_ID (R479): an MCTP control message. A message of a type that the endpoint does not accept is dropped, and
PLDM and SPDM requests have rows of their own (log entry 111). -/
def execSetEndpointId (eid : Nat) (s : State) (type : Nat := 0) : Outcome State Fault Refusal :=
  .next (if sidebandUp s ∧ mctpAccepts type ∧ type = 0x00 then { s with mgmt := { s.mgmt with eid := eid % 256 } } else s)

/-- DYNAMIC_ADDRESS (R479): from now on an I3C Basic target. -/
def execDynamicAddress (address : Nat) (s : State) : Outcome State Fault Refusal :=
  .next (if sidebandUp s then { s with mgmt := { s.mgmt with dynAddr := some (address % 128) } } else s)

/-- The temperature of a stack as its sensor reports it: not present while the stack is out of service (R481). -/
def stackTemp (s : State) (temps : List Nat) (k : Nat) : Option Nat :=
  if stackServes s k then some (temps.getD k 0) else none

/-- What a read of state sensor 100 reports: MAP_STATUS.DEGRADED (R481). -/
def stateSensor (s : State) : Bool := (regMapStatus s).getLsbD 63

/-- The sensors are read anew (R469, R481, R502): the numeric sensors 1 to 16, and TELEM_HBM_TEMP, which holds zero for a
stack out of service. -/
def refreshSensors (s : State) (temps stackTemps : List Nat) (powerW : Nat) : State :=
  if (sidebandUp s && s.boot.rails && decide (4 ≤ s.boot.step)) = false then s
  else
    let stackT := (List.range 8).map (stackTemp s stackTemps)
    { s with
      power := { s.power with powerW := powerW, hbmTemp := stackT.map (fun t => t.getD 0) }
      mgmt := { s.mgmt with sensors :=
        [some powerW] ++ (List.range 5).map (fun d => some (temps.getD d 0)) ++ stackT ++
          [some (capInEffect s), some s.coreCount] } }

/-- Sends a PLDM response. -/
def pldmSay (s : State) (code : Nat) (data : List Byte) : State := s.emit (.pldm s.sender code data)

/-- The frame of every PLDM command: no answer while the sideband is down; in the fuse-fault state the health-log
commands alone; ERROR_NOT_READY where the block it needs does not run (R480). -/
def pldmRequest (s : State) (health ready : Bool) (body : State) : State :=
  if sidebandUp s = false then s
  else if s.boot.fuseFault ∧ health = false then pldmSay s 0x05 []
  else if ready = false then pldmSay s 0x04 []
  else body

/-- Bits of a bitmap of n bytes. -/
def bitmap (n : Nat) (bits : List Nat) : List Byte := natLe n ((bits.map (fun b => 2 ^ b)).sum)

/-- PLDM types that the sideband offers: 0, 2, 5 and 63; in the fuse-fault state 0 and, for the health log, 63 (R480, R481).
-/
def pldmTypes (s : State) : List Nat := if s.boot.fuseFault then [0, 63] else [0, 2, 5, 63]

/-- Commands of a type: of Type 0 SetTID, GetTID, GetPLDMVersion, GetPLDMTypes and GetPLDMCommands, of Type 2 the two sensor
reads, of Type 5 RequestUpdate, ActivateFirmware and CancelUpdate, of Type 63 those of R482; in the fuse-fault state the
health-log commands alone of Type 63 (R480 to R482; codes PRESUMED, log entry 10). -/
def pldmCommands (s : State) (type : Nat) : List Nat :=
  match type with
  | 0 => [1, 2, 3, 4, 5]
  | 2 => [0x11, 0x21]
  | 5 => [0x10, 0x1A, 0x1D]
  | _ => if s.boot.fuseFault then [1, 2] else [1, 2, 3, 4, 5, 6, 7]

/-- A PLDM request of Type 0, which is offered in the fuse-fault state too, or of Type 2, whose sensors answer once they can
be read (R480, R481; response layouts PRESUMED from DSP0240 and DSP0248, log entry 10). A sensor that is not present is
unavailable, one that does not exist INVALID_SENSOR_ID; the version of a type and its check sum are open. -/
def pldmAnswer (s : State) (a : PldmAsk) : State :=
  match a with
  | .setTid t => pldmRequest s true true (pldmSay { s with mgmt := { s.mgmt with tid := t % 256 } } 0 [])
  | .getTid => pldmRequest s true true (pldmSay s 0 (natLe 1 s.mgmt.tid))
  | .types => pldmRequest s true true (pldmSay s 0 (bitmap 8 (pldmTypes s)))
  | .version t => pldmRequest s true true
      (if t ∈ pldmTypes s then pldmSay s.tick 0 (natLe 4 0 ++ [5] ++ openBytes s.fresh 8) else pldmSay s 0x83 [])
  | .commands t => pldmRequest s true true
      (if t ∈ pldmTypes s then pldmSay s 0 (bitmap 32 (pldmCommands s t)) else pldmSay s 0x83 [])
  | .sensor i => pldmRequest s false (s.boot.rails && decide (4 ≤ s.boot.step))
      (if i = 0 ∨ 16 < i then pldmSay s 0x80 []
       else match s.mgmt.sensors.getD (i - 1) none with
         | some v => pldmSay s 0 ([4, 0] ++ natLe 4 v)
         | none => pldmSay s 0 ([4, 2] ++ natLe 4 0))
  | .stateSensor i => pldmRequest s false (mapped s)
      (if i ≠ 100 then pldmSay s 0x80 [] else pldmSay s 0 [1, 0, if stateSensor s then 1 else 0])

/-- SENSOR_REFRESH (R469, R481, R502): the sensors are read anew, or a request for what they report is answered (R481; log
entry 111). -/
def execSensorRefresh (temps : List Nat) (stackTemps : List Nat) (powerW : Nat) (s : State)
    (ask : Option PldmAsk := none) : Outcome State Fault Refusal :=
  .next (match ask with
    | none => refreshSensors s temps stackTemps powerW
    | some a => pldmAnswer s a)

/-- GET_EVENT_LOG (R482): records from the newest on. -/
def execGetEventLog (first count : Nat) (s : State) : Outcome State Fault Refusal :=
  .next (pldmRequest s true s.boot.rails
    (if count = 0 ∨ 32 < count then pldmSay s 0x02 []
     else pldmSay s 0 (((s.flash.events.drop first).take count).flatMap hrecBytes)))

/-- GET_RETIREMENT_TABLE (R482). -/
def execGetRetirementTable (first count : Nat) (s : State) : Outcome State Fault Refusal :=
  .next (pldmRequest s true s.boot.rails
    (if count = 0 ∨ 32 < count ∨ 4096 ≤ first then pldmSay s 0x02 []
     else pldmSay s 0 (((s.flash.retire.drop first).take count).flatMap hrecBytes)))

/-- A write of TAP_SRC and RAW_TAP (R269, R482). -/
def writeTap (s : State) (rawTap : Bool) (source : Nat) : State :=
  let s1 := setTapSrc s source
  if rawTap then enterRawTap s1 else exitRawTap s1

/-- SET_RAW_TAP (R482, R488): as a write through BAR0; the response is RNG_CTRL. -/
def execSetRawTap (rawTap : Bool) (source : Nat) (s : State) : Outcome State Fault Refusal :=
  .next (pldmRequest s false (decide (s.rng.st ≠ 0))
    (if 8 ≤ source then pldmSay s 0x02 []
     else pldmSay (writeTap s rawTap source) 0 (natLe 8 (regRngCtrl (writeTap s rawTap source)).toNat)))

/-- Successive reads of RNG_RAW. -/
def rawReads (s : State) (n : Nat) : State × List Byte :=
  match n with
  | 0 => (s, [])
  | k + 1 =>
    let p := readRngRaw s
    let q := rawReads p.1 k
    (q.1, natLe 8 p.2.toNat ++ q.2)

/-- READ_RAW_SAMPLES (R482). -/
def execReadRawSamples (reads : Nat) (s : State) : Outcome State Fault Refusal :=
  .next (pldmRequest s false (decide (s.rng.st ≠ 0))
    (if reads = 0 ∨ 32 < reads then pldmSay s 0x02 []
     else pldmSay (rawReads s reads).1 0 (rawReads s reads).2))

/-- GET_MAP (R482): MAP_STATUS and the runtime-map image. -/
def execGetMap (s : State) : Outcome State Fault Refusal :=
  .next (pldmRequest s false (mapped s) (pldmSay s 0 (natLe 8 (regMapStatus s).toNat ++ mapImage s)))

/-- SET_POWER_CAP (R466, R482, R488): as a write through BAR0; the response is PWR_CAP after it. -/
def execSetPowerCap (watts : Nat) (s : State) : Outcome State Fault Refusal :=
  .next (pldmRequest s false (s.boot.rails && decide (4 ≤ s.boot.step) && decide (s.boot.mode ≠ 2))
    (if 1024 ≤ watts then pldmSay s 0x02 []
     else pldmSay (writeCap s watts) 0 (natLe 8 (regPwrCap (writeCap s watts)).toNat)))

/-- GET_BOOT_STATUS (R482). -/
def execGetBootStatus (s : State) : Outcome State Fault Refusal :=
  .next (pldmRequest s false true (pldmSay s 0 (natLe 8 (regBootStatus s).toNat ++ natLe 8 (regFwId s).toNat)))

/-! ### Flash update -/

/-- Bytes of a component's region: 48 MiB and 60 KiB (R434). -/
def regionBytes (component : Nat) : Nat := if component = 1 then 50331648 else 61440

/-- Replaces the open update. -/
def State.setUpdate (s : State) (u : Update) : State := { s with mgmt := { s.mgmt with update := u } }

/-- Marks a component's directory entry (R484). -/
def markEntry (s : State) (component : Nat) (valid : Bool) : State :=
  { s with flash := if component = 1 then { s.flash with imageValid := valid } else { s.flash with cfgValid := valid } }

/-- Opens an update: the directory entry is invalid from now on (R483, R484). -/
def openUpdate (s : State) (owner component : Nat) : State :=
  (markEntry s component false).setUpdate { s.mgmt.update with
    st := 1, owner := owner, component := component, written := 0, erased := [] }

/-- The bytes of a component's region. -/
def Flash.region (f : Flash) (component : Nat) : Memory := if component = 1 then f.imageBytes else f.cfg

/-- Replaces the bytes of a component's region. -/
def Flash.setRegion (f : Flash) (component : Nat) (m : Memory) : Flash :=
  if component = 1 then { f with imageBytes := m } else { f with cfg := m }

/-- Erases a sector of 4 KiB (R484). -/
def eraseSector (m : Memory) (sector : Nat) : Memory := memWriteN m (4096 * sector) (List.replicate 4096 0xFF)

/-- Sectors that a write reaches. -/
def sectorsOf (off n : Nat) : List Nat := (List.range ((off + n + 4095) / 4096 - off / 4096)).map (· + off / 4096)

/-- Programs bytes of the component being updated; a sector is erased when a write first reaches it (R484). -/
def programFlash (s : State) (off : Nat) (bs : List Byte) : State :=
  let u := s.mgmt.update
  let new := (sectorsOf off bs.length).filter (fun k => decide (k ∉ u.erased))
  let m := memWriteN (new.foldl eraseSector (s.flash.region u.component)) off bs
  State.setUpdate { s with flash := s.flash.setRegion u.component m }
    { u with written := u.written + bs.length, erased := u.erased ++ new }

/-- Verifies the component: its directory entry becomes valid only on success, and the update ends (R436, R437, R483,
R484). -/
def verifyUpdate (s : State) : State :=
  let u := s.mgmt.update
  let img := imageOf s
  let ok := if u.component = 1 then decide (img.cause = 0 ∧ s.fuses.secMin ≤ img.secver) else cfgGood (cfgBytes s)
  let s1 : State := if u.component = 1 then { s with flash := { s.flash with image := img } } else s
  if ok then (markEntry s1 u.component true).setUpdate { u with st := 2, owner := 0 }
  else s1.setUpdate { u with st := 3, owner := 0 }

/-- Whether the component of the open update verifies. -/
def updateFailed (s : State) : Bool := decide (s.mgmt.update.st = 3)

/-- Abandons the open update: the component stays invalid (R484). -/
def abortUpdate (s : State) : State := s.setUpdate { s.mgmt.update with st := 0, owner := 0 }

/-- An update is open for an owner. -/
def updateOpen (s : State) (owner : Nat) : Bool := decide (s.mgmt.update.st = 1 ∧ s.mgmt.update.owner = owner)

/-- REQUEST_UPDATE (R483, R484). -/
def execRequestUpdate (component : Nat) (s : State) : Outcome State Fault Refusal :=
  .next (pldmRequest s false s.boot.rails
    (if s.mgmt.update.owner ≠ 0 then pldmSay s 0x81 []
     else if component ≠ 1 ∧ component ≠ 2 then pldmSay s 0x02 []
     else pldmSay (openUpdate s 2 component) 0 []))

/-- FIRMWARE_TRANSFER (R484). -/
def execFirmwareTransfer (offset : Nat) (data : List Byte) (s : State) : Outcome State Fault Refusal :=
  .next (pldmRequest s false s.boot.rails
    (if updateOpen s 2 = false then pldmSay s 0x80 []
     else if regionBytes s.mgmt.update.component < offset + data.length then pldmSay s 0x82 []
     else pldmSay (programFlash s offset data) 0 []))

/-- VERIFY_COMPLETE (R484): the verification's result. -/
def execVerifyComplete (s : State) : Outcome State Fault Refusal :=
  .next (pldmRequest s false s.boot.rails
    (if updateOpen s 2 = false then pldmSay s 0x80 []
     else pldmSay (verifyUpdate s) 0 [if updateFailed (verifyUpdate s) then 1 else 0]))

/-- ACTIVATE_FIRMWARE (R484): no self-contained activation. -/
def execActivateFirmware (s : State) : Outcome State Fault Refusal :=
  .next (pldmRequest s false s.boot.rails (pldmSay s 0x8C []))

/-- UPDATE_ABORT (R483, R484). -/
def execUpdateAbort (s : State) : Outcome State Fault Refusal :=
  .next (pldmRequest s false s.boot.rails
    (if updateOpen s 2 = false then pldmSay s 0x80 [] else pldmSay (abortUpdate s) 0 []))

/-! ### Recovery window -/

/-- Sets REASON of REC_STATUS. -/
def recReason (s : State) (st : Status) : State := s.setUpdate { s.mgmt.update with reason := st }

/-- The frame of every command of the recovery window: it wakes the chip, and REASON takes its status. -/
def recCommand (s : State) (check : State → Option Status) (body : State → State) : State :=
  if recUp s = false then s
  else
    let s1 := wakeChip s
    match check s1 with
    | some st => recReason s1 st
    | none => body (recReason s1 stDone)

/-- Why OPEN is refused (R483, R485). -/
def openRefused (component : Nat) (s : State) : Option Status :=
  if (component ≠ 1 ∧ component ≠ 2) ∨ s.mgmt.update.owner ≠ 0 then some stBadField else none

/-- Why WRITE is refused (R485): LENGTH zero; not a multiple of 256, above 4,096, an offset that is no multiple of 256, a
range past the region, or no update of the host's open. -/
def writeRefused (length : Nat) (s : State) : Option Status :=
  let u := s.mgmt.update
  if length = 0 then some stLenZero
  else if length % 256 ≠ 0 ∨ 4096 < length ∨ u.offset % 256 ≠ 0 ∨ updateOpen s 1 = false then some stBadField
  else if regionBytes u.component < u.offset + length then some stBadField else none

/-- Why VERIFY and ABORT are refused: no update of the host's is open. -/
def notOwner (s : State) : Option Status := if updateOpen s 1 then none else some stBadField

/-- OPEN of the recovery window. -/
def recOpenStep (s : State) (component : Nat) : State :=
  recCommand s (openRefused component) (fun t => openUpdate t 1 component)

/-- WRITE of the recovery window: buffer bytes go to REC_OFFSET of the component. -/
def recWriteStep (s : State) (length : Nat) : State :=
  recCommand s (writeRefused length) (fun t => programFlash t t.mgmt.update.offset (memReadN t.mgmt.update.buffer 0 length))

/-- A status that the spec leaves open: some code of its table other than DONE (R378; log entry 2). -/
def openStatus (s : State) : Status :=
  let codes : List Status := [stLenZero, stBadOpcode, stBadField, stScaleRange, stLatticeRange, stXlateFault, stPermFault,
    stMemUe, stTimeoutDrained, stTimeoutKilled, stUnitReset, stLinkLost, stDiverged, stNoiseFault, stNoiseNotReady,
    stDeadlineRefused, stPowerRefused, stCapacityRefused, stFieldOverflow, stCtxFaulted]
  codes.getD (openDetail s % 20) stBadField

/-- VERIFY of the recovery window; the status of a component that fails is open. -/
def recVerifyStep (s : State) : State :=
  recCommand s notOwner (fun t =>
    let t1 := verifyUpdate t
    if updateFailed t1 then recReason t1.tick (openStatus t1) else t1)

/-- ABORT of the recovery window. -/
def recAbortStep (s : State) : State := recCommand s notOwner abortUpdate

/-- REC_OPEN (R483 to R485). -/
def execRecOpen (component : Nat) (s : State) : Outcome State Fault Refusal := .next (recOpenStep s component)

/-- REC_WRITE (R484, R485). -/
def execRecWrite (length : Nat) (s : State) : Outcome State Fault Refusal := .next (recWriteStep s (length % 8192))

/-- REC_VERIFY (R484, R485). -/
def execRecVerify (s : State) : Outcome State Fault Refusal := .next (recVerifyStep s)

/-- REC_ABORT (R484, R485). -/
def execRecAbort (s : State) : Outcome State Fault Refusal := .next (recAbortStep s)

end Sys2Proof.Machine
end

