-- ==== Sys2Proof/Machine/Bar.lean ====
section
/-! DEFINITION. Writes of BAR0 registers (R491, R493 to R504 and the register tables of the other chapters), and accesses
through BAR4 (R487, R497). A write of a field that a command of its own writes acts as that command. -/

namespace Sys2Proof.Machine

open Host (Outcome)

/-- Bits [hi:lo] of a written value. -/
def wbits (v : Word) (hi lo : Nat) : Nat := bitsOf v.toNat hi lo

/-! ### Identity block: the recovery window (R485) -/

/-- A write of REC_CTRL. -/
def writeRecCtrl (s : State) (v : Word) : State :=
  match wbits v 63 60 with
  | 1 => recOpenStep s (wbits v 57 56)
  | 2 => recWriteStep s (wbits v 12 0)
  | 3 => recVerifyStep s
  | 4 => recAbortStep s
  | _ => s

/-- The identity block. -/
def writeIdentity (s : State) (off : Nat) (v : Word) : State :=
  let u := s.mgmt.update
  if off = 0x8000 then writeRecCtrl s v
  else if off = 0x8008 then s.setUpdate { u with offset := wbits v 25 0 }
  else if 0x9000 ≤ off ∧ off < 0xA000 then s.setUpdate { u with buffer := memStore u.buffer (off - 0x9000) 8 v.toNat }
  else s

/-! ### Front end and plots (R388, R402, R496) -/

/-- A write of PLOT_CMD. -/
def writePlotCmd (s : State) (p : Nat) (v : Word) : State :=
  if v = 1 then configurePlot s p else if v = 2 then releasePlot s p else if v = 3 then reconfigurePlot s p else s

/-- A register of a plot entry: masks and PLOT_CFG only in FREE. -/
def writePlotReg (s : State) (p r : Nat) (v : Word) : State :=
  let q := s.plotAt p
  match r with
  | 0x00 => if q.st = 0 then s.setPlot p { q with mask := q.mask / 2 ^ 64 * 2 ^ 64 + v.toNat } else s
  | 0x08 => if q.st = 0 then s.setPlot p { q with mask := q.mask % 2 ^ 64 + v.toNat * 2 ^ 64 } else s
  | 0x10 =>
    if q.st = 0 then
      s.setPlot p { q with timed := bitOf v.toNat 33, exclusive := bitOf v.toNat 32, sliceUs := wbits v 16 0 }
    else s
  | 0x18 => s.setPlot p { q with admitVa := wbits v 47 0 }
  | 0x20 => writePlotCmd s p v
  | _ => s

/-- The front-end block; the pools only while every context is DISABLED, and no larger than what they lie in: a far pool above
the capacity is all of it, its last unit counted whole (R496). -/
def writeFrontEnd (s : State) (off : Nat) (v : Word) : State :=
  if off = 0x0 then (if bitOf v.toNat 63 then { s with badAccess := false } else s)
  else if off = 0x40 then (if activeContexts s = 0 then { s with poolNear := min (wbits v 31 0) (stackBytes / 65536) } else s)
  else if off = 0x48 then (if activeContexts s = 0 then { s with poolFar := min (wbits v 31 0) (ceilDiv (farBytes s) 65536) } else s)
  else if off = 0x50 then { s with bar4Near := wbits v 31 0 }
  else if off = 0x58 then { s with bar4Far := wbits v 31 0 }
  else if 0x1000 ≤ off ∧ off < 0x2000 then writePlotReg s ((off - 0x1000) / 0x40) (off % 0x40) v
  else s

/-! ### RNG (R269, R276) -/

/-- A write of RNG_CTRL: the tapped source and RAW_TAP, then RESEED in READY. -/
def writeRngCtrl (s : State) (v : Word) : State :=
  let s1 := writeTap s (bitOf v.toNat 0) (wbits v 6 4)
  if bitOf v.toNat 8 then startReseed s1 else s1

/-- The RNG block. -/
def writeRng (s : State) (off : Nat) (v : Word) : State :=
  if off = 8 then writeRngCtrl s v
  else if off = 0x10 then s.setRng { s.rng with timeoutMs := wbits v 15 0 }
  else s

/-! ### Power and reset (R454, R462, R466, R469) -/

/-- A write of PWR_CTRL. -/
def writePwrCtrl (s : State) (v : Word) : State :=
  writeDeepIdle { s with power := { s.power with
    eventVector := wbits v 58 48, offMs := wbits v 31 16, retainUs := wbits v 15 0 } } (bitOf v.toNat 32)

/-- A write of RST_UNIT. -/
def writeRstUnit (s : State) (v : Word) : State :=
  if wbits v 63 60 = 1 then startCoreReset s (wbits v 6 0)
  else if wbits v 63 60 = 2 then startEngineReset s (wbits v 6 0) (BitVec.ofNat 4 (wbits v 11 8))
  else s

/-- The power and reset block. -/
def writePower (s : State) (off : Nat) (v : Word) : State :=
  if off = 0x00 then writeCap s (wbits v 9 0)
  else if off = 0x10 then writePwrCtrl s v
  else if off = 0x18 then writeRstUnit s v
  else if off = 0x38 then { s with power := { s.power with surveyH := wbits v 7 0 } }
  else if off = 0x48 then { s with power := { s.power with events := s.power.events &&& ~~~(v.setWidth 6) } }
  else s

/-! ### Fabric (R230, R251, R499, R500) -/

/-- A write of GRP_CMD. -/
def writeGrpCmd (s : State) (g : Nat) (v : Word) : State :=
  match wbits v 1 0 with
  | 1 => armGroup s g
  | 2 => planGroup s g
  | 3 => disbandGroup s g
  | _ => s

/-- A register of a group entry: the four that describe it only in IDLE. -/
def writeGroupReg (s : State) (g r : Nat) (v : Word) : State :=
  if r = 0x28 then writeGrpCmd s g v
  else if (s.groupAt g).st ≠ 0 then s
  else s.updGroup g (fun x =>
    match r with
    | 0x00 => { x with ctrl := v &&& 0xFFFFFFFFFFF0FFFF }
    | 0x08 => { x with list := v &&& 0x07FFFFFFFFFFFFFF }
    | 0x10 => { x with plan := wbits v 47 0 }
    | 0x18 => { x with stopBench := wbits v 47 0 }
    | _ => x)

/-- The fabric block. -/
def writeFabric (s : State) (off : Nat) (v : Word) : State :=
  if off = 0x00 then writeChipId s (bitOf v.toNat 31) (wbits v 9 0)
  else if off = 0x08 then { s with fab := { s.fab with lostMs := min 1000 (wbits v 9 0) } }
  else if off = 0x18 then ((List.range 8).filter (fun n => bitOf v.toNat n)).foldl retrainLink s
  else if 0x400 ≤ off ∧ off < 0x800 then writeGroupReg s ((off - 0x400) / 0x40) (off % 0x40) v
  else s

/-! ### Field ports (R433, R501) -/

/-- A write of SVC_CMD; the time at which a service starts is open. -/
def writeSvcCmd (s : State) (n : Nat) (v : Word) : State :=
  match wbits v 1 0 with
  | 1 => startService s.tick n (Config.timeNs s.fresh).toNat
  | 2 => stopService s n
  | 3 => resumeService s n
  | _ => s

/-- A register of a service entry: SVC_BLOCK only in IDLE. -/
def writeSvcReg (s : State) (n r : Nat) (v : Word) : State :=
  if r = 0x00 then
    (if (s.svcAt n).st = 0 then s.updSvc n (fun x => { x with ctx := wbits v 59 48, addr := wbits v 47 0 }) else s)
  else if r = 0x08 then writeSvcCmd s n v
  else s

/-- The field-port block; a FEC of 3 is taken as 2 (R418). -/
def writePorts (s : State) (off : Nat) (v : Word) : State :=
  if off < 0x80 then
    (if off % 0x40 = 0 then s.updPort (off / 0x40) (fun p => { p with fec := min 2 (wbits v 17 16), lldpMs := wbits v 13 0 })
     else s)
  else if 0x400 ≤ off ∧ off < 0x600 then writeSvcReg s ((off - 0x400) / 0x40) (off % 0x40) v
  else s

/-! ### Context control blocks (R374 to R377, R381, R382, R384, R387, R397, R399, R411, R504) -/

/-- A write of CTX_CTRL: its fields act in the order of R382. -/
def writeCtxCtrl (s : State) (c : Nat) (v : Word) : State :=
  let b (i : Nat) : Bool := bitOf v.toNat i
  let s1 := s.updCtx c (fun x => { x with faultVector := wbits v 50 40 })
  let s2 := writePlot s1 c (b 39) (wbits v 37 32)
  let s3 := writeEnable s2 c (b 0)
  let s4 := if b 1 then resetCtx s3 c else s3
  let s5 := if b 3 then abortFaults s4 c else s4
  if b 2 then resumeFault s5 c else s5

/-- A write of CTX_STATUS: bits that are written as 1 clear. -/
def writeCtxStatus (x : Ctx) (v : Word) : Ctx :=
  { x with
    attachRefused := x.attachRefused && !bitOf v.toNat 15
    quotaLinkHit := x.quotaLinkHit && !bitOf v.toNat 10
    quotaMemHit := x.quotaMemHit && !bitOf v.toNat 9
    quotaEngineHit := x.quotaEngineHit && !bitOf v.toNat 8 }

/-- A write of CTX_INVAL. -/
def writeInval (s : State) (c : Nat) (v : Word) : State :=
  if bitOf v.toNat 62 then startInval s c 0 (2 ^ 32) else startInval s c (wbits v 31 0) (wbits v 61 48)

/-- A write of RING_CTRL: STOP, RETRY_COMPLETIONS, START in this order (R374). -/
def writeRingCtrl (s : State) (c r : Nat) (v : Word) : State :=
  let s1 := if bitOf v.toNat 1 then ringStop s c r else s
  let s2 := if bitOf v.toNat 2 then ringRetry s1 c r else s1
  if bitOf v.toNat 0 then ringStart s2 c r else s2

/-- A write of RING_STATUS: DB_BAD clears, HEAD is taken in STOPPED (R377). -/
def writeRingStatus (s : State) (c r : Nat) (v : Word) : State :=
  ringHead (s.updRing c r (fun q => { q with dbBad := q.dbBad && !bitOf v.toNat 25 })) c r (wbits v 63 32)

/-- A register of a ring: configuration only in STOPPED (R374, R376). -/
def writeRing (s : State) (c r reg : Nat) (v : Word) : State :=
  let set (f : Ring → Ring) : State := if (s.ringAt c r).configured then s else s.updRing c r f
  match reg with
  | 0x00 => set (fun q => { q with base := v &&& 0x0000FFFFFFFFF000 })
  | 0x08 => set (fun q => { q with cfg := v &&& 0x000007FFFFFF001F })
  | 0x10 => set (fun q => { q with cqBase := v &&& 0xFFFFFFFFFFFFF000 })
  | 0x18 => set (fun q => { q with cqCfg := v &&& 0x1F })
  | 0x20 => writeRingCtrl s c r v
  | 0x28 => writeRingStatus s c r v
  | _ => s

/-- Quotas and accounts: a write sets them (R386, R387). -/
def writeAccount (x : Ctx) (r : Nat) (v : Word) : Ctx :=
  match r with
  | 0x200 => markQuota { x with quotaEngine := v }
  | 0x208 => markQuota { x with quotaMem := v }
  | 0x210 => markQuota { x with quotaLink := v }
  | 0x218 => { x with quotaPool := v }
  | 0x220 => markQuota { x with acctEngine := v }
  | 0x228 => markQuota { x with acctMem := v }
  | 0x230 => markQuota { x with acctLink := v }
  | 0x240 => { x with scaleClamp := v }
  | _ => x

/-- A register of a context control block. -/
def writeCtx (s : State) (c r : Nat) (v : Word) : State :=
  if 0x100 ≤ r ∧ r < 0x200 then writeRing s c ((r - 0x100) / 0x40) (r % 0x40) v
  else
    match r with
    | 0x000 => writeCtxCtrl s c v
    | 0x008 => s.updCtx c (fun x => writeCtxStatus x v)
    | 0x010 => s.updCtx c (fun x => { x with ptRoot := v &&& 0x0000FFFFFFFFF003 })
    | 0x018 => writeInval s c v
    | 0x038 => if bitOf v.toNat 0 then requestSnapshot s c else s
    | 0x040 => s.updCtx c (fun x => { x with snapAddr := wbits v 47 0 })
    | 0x048 => s.updCtx c (fun x => { x with snapBytes := v.toNat })
    | 0x080 => s.updCtx c (fun x => { x with errVector := wbits v 42 32, priTimeoutUs := wbits v 31 16, drainUs := wbits v 15 0 })
    | _ => s.updCtx c (fun x => writeAccount x r v)

/-! ### BAR0 -/

/-- A whole-register write at an offset that is a multiple of 8 (R494). -/
def writeReg (s : State) (off : Nat) (v : Word) : State :=
  if off < 0x10000 then writeIdentity s off v
  else if off < 0x12000 then writeFrontEnd s (off - 0x10000) v
  else if 0x20000 ≤ off ∧ off < 0x20200 then writeRng s (off - 0x20000) v
  else if 0x30000 ≤ off ∧ off < 0x30400 then writePower s (off - 0x30000) v
  else if 0x40000 ≤ off ∧ off < 0x50000 then writeFabric s (off - 0x40000) v
  else if 0x50000 ≤ off ∧ off < 0x50600 then writePorts s (off - 0x50000) v
  else if 0x70000 ≤ off ∧ off < 0x78000 then msixWrite s (off - 0x70000) (natLe 8 v.toNat)
  else if 0x1000000 ≤ off ∧ off < 0x2000000 then writeCtx s ((off - 0x1000000) / 0x1000) (off % 0x1000) v
  else s

/-- A BAR0 write: one that is not 8 aligned bytes is dropped and recorded (R491), where recovery mode decodes it (R493). -/
def barWrite (s : State) (off size : Nat) (v : Word) : State :=
  if s.boot.mode = 2 ∧ recoveryOffset off = false then s
  else if size ≠ 8 ∨ off % 8 ≠ 0 then { s with badAccess := true, badOffset := off }
  else writeReg s off v

/-- A write to the function's configuration space, which no row of the table names: the size of BAR4 by its logarithm, of
those it can take (R490, R497), and the enable of ATS (R400). Offsets from the end of BAR0 on stand for the two registers
(DESIGN CHOICE, log entry 66). -/
def configWrite (s : State) (off : Nat) (v : Word) : State :=
  if off = 2 ^ 26 then (if 30 ≤ v.toNat ∧ v.toNat ≤ 46 then { s with bar4Log2 := v.toNat } else s)
  else if off = 2 ^ 26 + 8 then { s with ats := bitOf v.toNat 0 }
  else s

/-- REGISTER_WRITE (R491), of BAR0 and beyond its end of configuration space (log entry 66). -/
def execRegisterWrite (off size : Nat) (value : Word) (s : State) : Outcome State Fault Refusal :=
  .next (if recUp s = false then s
    else if off < 2 ^ 26 then barWrite (wakeChip s) off size value
    else configWrite s off value)

/-! ### BAR4 (R487, R497) -/

/-- Where a byte of a BAR4 access goes: its level and offset, none where it is out of range. -/
def bar4Target (s : State) (o : Nat) : Option (Level × Nat) :=
  let h := 2 ^ (s.bar4Log2 - 1)
  if o < h then
    (let a := s.bar4Near * h + o
     if nearExists s a 1 && !nearPool s a 1 then some (.near, a) else none)
  else if o < 2 * h then
    (let a := s.bar4Far * h + (o - h)
     if farExists s a 1 && !farPool s a 1 then some (.far, a) else none)
  else none

/-- A byte that a BAR4 read returns; a byte of a line with an uncorrectable error is open (R413). -/
def bar4Byte (s : State) (o : Nat) : Byte :=
  match bar4Target s o with
  | none => 0
  | some (l, a) => if lineBad s l (a / 64) then Config.byte s.fresh o else memRead (levelMem s l) a

/-- Writes one byte through BAR4. -/
def bar4Store (s : State) (o : Nat) (b : Byte) : State :=
  match bar4Target s o with
  | none => s
  | some (l, a) => setLevel s l (memWrite (levelMem s l) a b)

/-- A BAR4 read of a normal device: the bytes go to the host. -/
def bar4Read (s : State) (off len : Nat) : State :=
  (s.emit (.bytes ((List.range len).map (fun i => bar4Byte s (off + i))))).tick

/-- A BAR4 write. -/
def bar4Write (s : State) (off : Nat) (data : List Byte) : State :=
  data.zipIdx.foldl (fun t e => bar4Store t (off + e.2) e.1) s

/-- BAR4_ACCESS (R487, R493, R497): in recovery mode reads return zeros and writes have no effect. -/
def execBar4Access (write : Bool) (off len : Nat) (data : List Byte) (s : State) : Outcome State Fault Refusal :=
  .next (if hostUp s then (if write then bar4Write (wakeChip s) off data else bar4Read (wakeChip s) off len)
    else if recUp s ∧ write = false then s.emit (.bytes (zeros len))
    else s)

/-! ### Registers of the RNG block -/

/-- A write of a register of the RNG block: it wakes the chip; in recovery it is ignored (R460, R493). -/
def rngWrite (s : State) (f : State → State) : State := if hostUp s then f (wakeChip s) else s

/-- A read of a register of the RNG block: in recovery it gives zero (R460, R493). -/
def rngReadReg (s : State) (f : State → State × Word) : State :=
  if hostUp s then
    let p := f (wakeChip s)
    p.1.emit (.value p.2)
  else if recUp s then s.emit (.value 0)
  else s

/-- RESEED (R276): RNG_CTRL.RESEED forces a reseed in READY. -/
def execReseed (s : State) : Outcome State Fault Refusal := .next (rngWrite s startReseed)

/-- RAW_TAP_ENTER (R269). -/
def execRawTapEnter (s : State) : Outcome State Fault Refusal := .next (rngWrite s enterRawTap)

/-- RAW_TAP_EXIT (R269). -/
def execRawTapExit (s : State) : Outcome State Fault Refusal := .next (rngWrite s exitRawTap)

/-- TAP_SRC (R269). -/
def execTapSrc (source : Nat) (s : State) : Outcome State Fault Refusal := .next (rngWrite s (fun t => setTapSrc t source))

/-- RNG_DATA (R266). -/
def execRngData (s : State) : Outcome State Fault Refusal := .next (rngReadReg s readRngData)

/-- RNG_RAW (R277). -/
def execRngRaw (s : State) : Outcome State Fault Refusal := .next (rngReadReg s readRngRaw)

end Sys2Proof.Machine
end

