-- ==== Sys2Proof/Machine/CcAlu.lean ====
section
/-! DEFINITION. The arithmetic instructions of the control cores (R310): each writes one value to rd and moves on. -/

namespace Sys2Proof.Machine

open Host (Outcome)

/-- ADD (R310): the sum, modulo 2^64. -/
def execAdd (h : Hart) (rd rs1 rs2 : BitVec 5) (s : State) : Outcome State Fault Refusal :=
  .next (aluStep s h rd (fun c => regGet c rs1 + regGet c rs2))

/-- SUB (R310): the difference. -/
def execSub (h : Hart) (rd rs1 rs2 : BitVec 5) (s : State) : Outcome State Fault Refusal :=
  .next (aluStep s h rd (fun c => regGet c rs1 - regGet c rs2))

/-- AND (R310): bitwise and. -/
def execAnd (h : Hart) (rd rs1 rs2 : BitVec 5) (s : State) : Outcome State Fault Refusal :=
  .next (aluStep s h rd (fun c => regGet c rs1 &&& regGet c rs2))

/-- OR (R310): bitwise or. -/
def execOr (h : Hart) (rd rs1 rs2 : BitVec 5) (s : State) : Outcome State Fault Refusal :=
  .next (aluStep s h rd (fun c => regGet c rs1 ||| regGet c rs2))

/-- XOR (R310): bitwise exclusive or. -/
def execXor (h : Hart) (rd rs1 rs2 : BitVec 5) (s : State) : Outcome State Fault Refusal :=
  .next (aluStep s h rd (fun c => regGet c rs1 ^^^ regGet c rs2))

/-- SHL (R310): left by rs2[5:0]. -/
def execShl (h : Hart) (rd rs1 rs2 : BitVec 5) (s : State) : Outcome State Fault Refusal :=
  .next (aluStep s h rd (fun c => regGet c rs1 <<< ((regGet c rs2).toNat % 64)))

/-- SHR (R310): logical right by rs2[5:0]. -/
def execShr (h : Hart) (rd rs1 rs2 : BitVec 5) (s : State) : Outcome State Fault Refusal :=
  .next (aluStep s h rd (fun c => regGet c rs1 >>> ((regGet c rs2).toNat % 64)))

/-- SAR (R310): arithmetic right by rs2[5:0]. -/
def execSar (h : Hart) (rd rs1 rs2 : BitVec 5) (s : State) : Outcome State Fault Refusal :=
  .next (aluStep s h rd (fun c => (regGet c rs1).sshiftRight ((regGet c rs2).toNat % 64)))

/-- SLT (R310): 1 if rs1 < rs2 signed. -/
def execSlt (h : Hart) (rd rs1 rs2 : BitVec 5) (s : State) : Outcome State Fault Refusal :=
  .next (aluStep s h rd (fun c => boolWord ((regGet c rs1).slt (regGet c rs2))))

/-- SLTU (R310): 1 if rs1 < rs2 unsigned. -/
def execSltu (h : Hart) (rd rs1 rs2 : BitVec 5) (s : State) : Outcome State Fault Refusal :=
  .next (aluStep s h rd (fun c => boolWord ((regGet c rs1).ult (regGet c rs2))))

/-- MUL (R310): bits [63:0] of the product. -/
def execMul (h : Hart) (rd rs1 rs2 : BitVec 5) (s : State) : Outcome State Fault Refusal :=
  .next (aluStep s h rd (fun c => regGet c rs1 * regGet c rs2))

/-- MULH (R310): bits [127:64] of the signed product. -/
def execMulh (h : Hart) (rd rs1 rs2 : BitVec 5) (s : State) : Outcome State Fault Refusal :=
  .next (aluStep s h rd (fun c => BitVec.ofInt 64 (((regGet c rs1).toInt * (regGet c rs2).toInt) / 2 ^ 64)))

/-- MULHU (R310): bits [127:64] of the unsigned product. -/
def execMulhu (h : Hart) (rd rs1 rs2 : BitVec 5) (s : State) : Outcome State Fault Refusal :=
  .next (aluStep s h rd (fun c => BitVec.ofNat 64 (((regGet c rs1).toNat * (regGet c rs2).toNat) / 2 ^ 64)))

/-- DIVU (R310): the unsigned quotient; all ones when rs2 is zero. -/
def execDivu (h : Hart) (rd rs1 rs2 : BitVec 5) (s : State) : Outcome State Fault Refusal :=
  .next (aluStep s h rd (fun c => if regGet c rs2 = 0 then BitVec.allOnes 64 else regGet c rs1 / regGet c rs2))

/-- REMU (R310): the unsigned remainder; rs1 when rs2 is zero. -/
def execRemu (h : Hart) (rd rs1 rs2 : BitVec 5) (s : State) : Outcome State Fault Refusal :=
  .next (aluStep s h rd (fun c => if regGet c rs2 = 0 then regGet c rs1 else regGet c rs1 % regGet c rs2))

/-- MINU (R310): the lesser, unsigned. -/
def execMinu (h : Hart) (rd rs1 rs2 : BitVec 5) (s : State) : Outcome State Fault Refusal :=
  .next (aluStep s h rd (fun c => if (regGet c rs1).ult (regGet c rs2) then regGet c rs1 else regGet c rs2))

/-- MAXU (R310): the greater, unsigned. -/
def execMaxu (h : Hart) (rd rs1 rs2 : BitVec 5) (s : State) : Outcome State Fault Refusal :=
  .next (aluStep s h rd (fun c => if (regGet c rs1).ult (regGet c rs2) then regGet c rs2 else regGet c rs1))

/-- POPC (R310): ones in rs1. -/
def execPopc (h : Hart) (rd rs1 : BitVec 5) (s : State) : Outcome State Fault Refusal :=
  .next (aluStep s h rd (fun c =>
    BitVec.ofNat 64 ((List.range 64).filter (fun i => (regGet c rs1).toNat.testBit i)).length))

/-- CLZ (R310): leading zeros of rs1, 64 for zero. -/
def execClz (h : Hart) (rd rs1 : BitVec 5) (s : State) : Outcome State Fault Refusal :=
  .next (aluStep s h rd (fun c =>
    let v := (regGet c rs1).toNat
    BitVec.ofNat 64 (if v = 0 then 64 else 63 - Nat.log2 v)))

/-- ADDI (R310): rs1 + sext(imm16). -/
def execAddi (h : Hart) (rd rs1 : BitVec 5) (imm : BitVec 16) (s : State) : Outcome State Fault Refusal :=
  .next (aluStep s h rd (fun c => regGet c rs1 + sext16 imm))

/-- ANDI (R310): rs1 AND zext(imm16). -/
def execAndi (h : Hart) (rd rs1 : BitVec 5) (imm : BitVec 16) (s : State) : Outcome State Fault Refusal :=
  .next (aluStep s h rd (fun c => regGet c rs1 &&& zext16 imm))

/-- ORI (R310): rs1 OR zext(imm16). -/
def execOri (h : Hart) (rd rs1 : BitVec 5) (imm : BitVec 16) (s : State) : Outcome State Fault Refusal :=
  .next (aluStep s h rd (fun c => regGet c rs1 ||| zext16 imm))

/-- XORI (R310): rs1 XOR zext(imm16). -/
def execXori (h : Hart) (rd rs1 : BitVec 5) (imm : BitVec 16) (s : State) : Outcome State Fault Refusal :=
  .next (aluStep s h rd (fun c => regGet c rs1 ^^^ zext16 imm))

/-- SHLI (R310): left by imm16[5:0]. -/
def execShli (h : Hart) (rd rs1 : BitVec 5) (sh : BitVec 6) (s : State) : Outcome State Fault Refusal :=
  .next (aluStep s h rd (fun c => regGet c rs1 <<< sh.toNat))

/-- SHRI (R310): logical right by imm16[5:0]. -/
def execShri (h : Hart) (rd rs1 : BitVec 5) (sh : BitVec 6) (s : State) : Outcome State Fault Refusal :=
  .next (aluStep s h rd (fun c => regGet c rs1 >>> sh.toNat))

/-- SARI (R310): arithmetic right by imm16[5:0]. -/
def execSari (h : Hart) (rd rs1 : BitVec 5) (sh : BitVec 6) (s : State) : Outcome State Fault Refusal :=
  .next (aluStep s h rd (fun c => (regGet c rs1).sshiftRight sh.toNat))

/-- SLTI (R310): 1 if rs1 < sext(imm16) signed. -/
def execSlti (h : Hart) (rd rs1 : BitVec 5) (imm : BitVec 16) (s : State) : Outcome State Fault Refusal :=
  .next (aluStep s h rd (fun c => boolWord ((regGet c rs1).slt (sext16 imm))))

/-- SLTIU (R310): 1 if rs1 < sext(imm16) unsigned. -/
def execSltiu (h : Hart) (rd rs1 : BitVec 5) (imm : BitVec 16) (s : State) : Outcome State Fault Refusal :=
  .next (aluStep s h rd (fun c => boolWord ((regGet c rs1).ult (sext16 imm))))

/-- LDK (R310): rd := sext(imm21). -/
def execLdk (h : Hart) (rd : BitVec 5) (imm : BitVec 21) (s : State) : Outcome State Fault Refusal :=
  .next (aluStep s h rd (fun _ => sext21 imm))

/-- APK (R310): rd shifted left by 16 with the constant appended. -/
def execApk (h : Hart) (rd : BitVec 5) (imm : BitVec 16) (s : State) : Outcome State Fault Refusal :=
  .next (aluStep s h rd (fun c => (regGet c rd <<< 16) ||| zext16 imm))

end Sys2Proof.Machine
end

