-- ==== Sys2Proof/Machine/CcMem.lean ====
section
/-! DEFINITION. Loads, stores, the atomic addition, branches and jumps of the control cores (R308, R310, R330), and the undefined instruction (R309). -/

namespace Sys2Proof.Machine

open Host (Outcome)

/-- LDB (R310): loads a zero-extended byte. -/
def execLdb (h : Hart) (rd rs1 : BitVec 5) (imm : BitVec 16) (s : State) : Outcome State Fault Refusal :=
  .next (loadStep s h rd rs1 imm 1 (BitVec.ofNat 64))

/-- LDH (R310): loads a zero-extended halfword. -/
def execLdh (h : Hart) (rd rs1 : BitVec 5) (imm : BitVec 16) (s : State) : Outcome State Fault Refusal :=
  .next (loadStep s h rd rs1 imm 2 (BitVec.ofNat 64))

/-- LDW (R310): loads a zero-extended word. -/
def execLdw (h : Hart) (rd rs1 : BitVec 5) (imm : BitVec 16) (s : State) : Outcome State Fault Refusal :=
  .next (loadStep s h rd rs1 imm 4 (BitVec.ofNat 64))

/-- LDWS (R310): loads a sign-extended word. -/
def execLdws (h : Hart) (rd rs1 : BitVec 5) (imm : BitVec 16) (s : State) : Outcome State Fault Refusal :=
  .next (loadStep s h rd rs1 imm 4 (fun v => (BitVec.ofNat 32 v).signExtend 64))

/-- LDD (R310): loads a doubleword. -/
def execLdd (h : Hart) (rd rs1 : BitVec 5) (imm : BitVec 16) (s : State) : Outcome State Fault Refusal :=
  .next (loadStep s h rd rs1 imm 8 (BitVec.ofNat 64))

/-- STB (R310): stores rd[7:0]. -/
def execStb (h : Hart) (rd rs1 : BitVec 5) (imm : BitVec 16) (s : State) : Outcome State Fault Refusal :=
  .next (storeStep s h rd rs1 imm 1)

/-- STH (R310): stores rd[15:0]. -/
def execSth (h : Hart) (rd rs1 : BitVec 5) (imm : BitVec 16) (s : State) : Outcome State Fault Refusal :=
  .next (storeStep s h rd rs1 imm 2)

/-- STW (R310): stores rd[31:0]. -/
def execStw (h : Hart) (rd rs1 : BitVec 5) (imm : BitVec 16) (s : State) : Outcome State Fault Refusal :=
  .next (storeStep s h rd rs1 imm 4)

/-- STD (R310): stores rd. -/
def execStd (h : Hart) (rd rs1 : BitVec 5) (imm : BitVec 16) (s : State) : Outcome State Fault Refusal :=
  .next (storeStep s h rd rs1 imm 8)

/-- AMOADD (R310): rd := 8 bytes at rs1; those bytes := rd + rs2, indivisibly. -/
def execAmoadd (h : Hart) (rd rs1 rs2 : BitVec 5) (s : State) : Outcome State Fault Refusal :=
  .next (areaStep s h (fun c => regGet c rs1) 8 true (fun c a =>
    let old : Word := BitVec.ofNat 64 (leNat (storeRead s h.core a 8))
    retireReg (storeWrite s h.core a (natLe 8 (old + regGet c rs2).toNat)) h rd old))

/-- BEQ (R310): branches when equal. -/
def execBeq (h : Hart) (rs1 rs2 : BitVec 5) (off : BitVec 16) (s : State) : Outcome State Fault Refusal :=
  .next (branchStep s h off (fun c => decide (regGet c rs1 = regGet c rs2)))

/-- BNE (R310): branches when different. -/
def execBne (h : Hart) (rs1 rs2 : BitVec 5) (off : BitVec 16) (s : State) : Outcome State Fault Refusal :=
  .next (branchStep s h off (fun c => decide (regGet c rs1 ≠ regGet c rs2)))

/-- BLT (R310): branches when less, signed. -/
def execBlt (h : Hart) (rs1 rs2 : BitVec 5) (off : BitVec 16) (s : State) : Outcome State Fault Refusal :=
  .next (branchStep s h off (fun c => (regGet c rs1).slt (regGet c rs2)))

/-- BGE (R310): branches when not less, signed. -/
def execBge (h : Hart) (rs1 rs2 : BitVec 5) (off : BitVec 16) (s : State) : Outcome State Fault Refusal :=
  .next (branchStep s h off (fun c => !(regGet c rs1).slt (regGet c rs2)))

/-- BLTU (R310): branches when less, unsigned. -/
def execBltu (h : Hart) (rs1 rs2 : BitVec 5) (off : BitVec 16) (s : State) : Outcome State Fault Refusal :=
  .next (branchStep s h off (fun c => (regGet c rs1).ult (regGet c rs2)))

/-- BGEU (R310): branches when not less, unsigned. -/
def execBgeu (h : Hart) (rs1 rs2 : BitVec 5) (off : BitVec 16) (s : State) : Outcome State Fault Refusal :=
  .next (branchStep s h off (fun c => !(regGet c rs1).ult (regGet c rs2)))

/-- JAL (R310): rd := PC + 4, then the jump. -/
def execJal (h : Hart) (rd : BitVec 5) (off : BitVec 21) (s : State) : Outcome State Fault Refusal :=
  .next (hartStep s h (fun _ c => retireWith s h (jumpTo c off) (fun x => regSet x rd (c.pc + 4))))

/-- JALR (R310): rd := PC + 4; PC := rs1 + sext(imm16), which must be a multiple of 4. -/
def execJalr (h : Hart) (rd rs1 : BitVec 5) (imm : BitVec 16) (s : State) : Outcome State Fault Refusal :=
  .next (hartStep s h (fun r c =>
    if (effAddr c rs1 imm).toNat % 4 ≠ 0 then trapHart s h r 3 stBadField 0
    else retireWith s h (effAddr c rs1 imm) (fun x => regSet x rd (c.pc + 4))))

/-- UNDEFINED_INSTRUCTION (R309, R310, R330): a fetch beyond CODE_BYTES traps with PC_RANGE, an undefined word with
UNDEFINED; a defined word is no undefined instruction, and the event does nothing. -/
def execUndefinedInstruction (h : Hart) (s : State) : Outcome State Fault Refusal :=
  .next (hartStep s h (fun r c =>
    if drabelDefined (fetchWord (s.coreAt h.core) c.pc.toNat) then s else trapHart s h r 1 stBadOpcode 0))

end Sys2Proof.Machine
end

