-- ==== Sys2Proof/Machine/Dispatch.lean ====
section
/-! DEFINITION. One arm for each command of the table: a direct call of its meaning. -/

namespace Sys2Proof.Machine

def exec (i : Instr) (s : State) : Host.Outcome State Fault Refusal :=
  match i with
  | .add h rd rs1 rs2 => Sys2Proof.Machine.execAdd h rd rs1 rs2 s
  | .sub h rd rs1 rs2 => Sys2Proof.Machine.execSub h rd rs1 rs2 s
  | .and h rd rs1 rs2 => Sys2Proof.Machine.execAnd h rd rs1 rs2 s
  | .or h rd rs1 rs2 => Sys2Proof.Machine.execOr h rd rs1 rs2 s
  | .xor h rd rs1 rs2 => Sys2Proof.Machine.execXor h rd rs1 rs2 s
  | .shl h rd rs1 rs2 => Sys2Proof.Machine.execShl h rd rs1 rs2 s
  | .shr h rd rs1 rs2 => Sys2Proof.Machine.execShr h rd rs1 rs2 s
  | .sar h rd rs1 rs2 => Sys2Proof.Machine.execSar h rd rs1 rs2 s
  | .slt h rd rs1 rs2 => Sys2Proof.Machine.execSlt h rd rs1 rs2 s
  | .sltu h rd rs1 rs2 => Sys2Proof.Machine.execSltu h rd rs1 rs2 s
  | .mul h rd rs1 rs2 => Sys2Proof.Machine.execMul h rd rs1 rs2 s
  | .mulh h rd rs1 rs2 => Sys2Proof.Machine.execMulh h rd rs1 rs2 s
  | .mulhu h rd rs1 rs2 => Sys2Proof.Machine.execMulhu h rd rs1 rs2 s
  | .divu h rd rs1 rs2 => Sys2Proof.Machine.execDivu h rd rs1 rs2 s
  | .remu h rd rs1 rs2 => Sys2Proof.Machine.execRemu h rd rs1 rs2 s
  | .minu h rd rs1 rs2 => Sys2Proof.Machine.execMinu h rd rs1 rs2 s
  | .maxu h rd rs1 rs2 => Sys2Proof.Machine.execMaxu h rd rs1 rs2 s
  | .popc h rd rs1 => Sys2Proof.Machine.execPopc h rd rs1 s
  | .clz h rd rs1 => Sys2Proof.Machine.execClz h rd rs1 s
  | .addi h rd rs1 imm => Sys2Proof.Machine.execAddi h rd rs1 imm s
  | .andi h rd rs1 imm => Sys2Proof.Machine.execAndi h rd rs1 imm s
  | .ori h rd rs1 imm => Sys2Proof.Machine.execOri h rd rs1 imm s
  | .xori h rd rs1 imm => Sys2Proof.Machine.execXori h rd rs1 imm s
  | .shli h rd rs1 sh => Sys2Proof.Machine.execShli h rd rs1 sh s
  | .shri h rd rs1 sh => Sys2Proof.Machine.execShri h rd rs1 sh s
  | .sari h rd rs1 sh => Sys2Proof.Machine.execSari h rd rs1 sh s
  | .slti h rd rs1 imm => Sys2Proof.Machine.execSlti h rd rs1 imm s
  | .sltiu h rd rs1 imm => Sys2Proof.Machine.execSltiu h rd rs1 imm s
  | .ldk h rd imm => Sys2Proof.Machine.execLdk h rd imm s
  | .apk h rd imm => Sys2Proof.Machine.execApk h rd imm s
  | .ldb h rd rs1 imm => Sys2Proof.Machine.execLdb h rd rs1 imm s
  | .ldh h rd rs1 imm => Sys2Proof.Machine.execLdh h rd rs1 imm s
  | .ldw h rd rs1 imm => Sys2Proof.Machine.execLdw h rd rs1 imm s
  | .ldws h rd rs1 imm => Sys2Proof.Machine.execLdws h rd rs1 imm s
  | .ldd h rd rs1 imm => Sys2Proof.Machine.execLdd h rd rs1 imm s
  | .stb h rd rs1 imm => Sys2Proof.Machine.execStb h rd rs1 imm s
  | .sth h rd rs1 imm => Sys2Proof.Machine.execSth h rd rs1 imm s
  | .stw h rd rs1 imm => Sys2Proof.Machine.execStw h rd rs1 imm s
  | .std h rd rs1 imm => Sys2Proof.Machine.execStd h rd rs1 imm s
  | .amoadd h rd rs1 rs2 => Sys2Proof.Machine.execAmoadd h rd rs1 rs2 s
  | .beq h rs1 rs2 off => Sys2Proof.Machine.execBeq h rs1 rs2 off s
  | .bne h rs1 rs2 off => Sys2Proof.Machine.execBne h rs1 rs2 off s
  | .blt h rs1 rs2 off => Sys2Proof.Machine.execBlt h rs1 rs2 off s
  | .bge h rs1 rs2 off => Sys2Proof.Machine.execBge h rs1 rs2 off s
  | .bltu h rs1 rs2 off => Sys2Proof.Machine.execBltu h rs1 rs2 off s
  | .bgeu h rs1 rs2 off => Sys2Proof.Machine.execBgeu h rs1 rs2 off s
  | .jal h rd off => Sys2Proof.Machine.execJal h rd off s
  | .jalr h rd rs1 imm => Sys2Proof.Machine.execJalr h rd rs1 imm s
  | .undefinedInstruction h => Sys2Proof.Machine.execUndefinedInstruction h s
  | .issue h rd rs1 => Sys2Proof.Machine.execIssue h rd rs1 s
  | .dma h rd rs1 => Sys2Proof.Machine.execDma h rd rs1 s
  | .ewait h rd rs1 => Sys2Proof.Machine.execEwait h rd rs1 s
  | .epoll h rd rs1 => Sys2Proof.Machine.execEpoll h rd rs1 s
  | .edrain h rd => Sys2Proof.Machine.execEdrain h rd s
  | .fence h => Sys2Proof.Machine.execFence h s
  | .waitValue h rd rs1 rs2 test => Sys2Proof.Machine.execWaitValue h rd rs1 rs2 test s
  | .signal h rd rs1 rs2 add => Sys2Proof.Machine.execSignal h rd rs1 rs2 add s
  | .cbarrier h => Sys2Proof.Machine.execCbarrier h s
  | .rbarrier h => Sys2Proof.Machine.execRbarrier h s
  | .enqueue h rd rs1 imm => Sys2Proof.Machine.execEnqueue h rd rs1 imm s
  | .waitQueue h rd rs1 rs2 => Sys2Proof.Machine.execWaitQueue h rd rs1 rs2 s
  | .qpost h rd rs1 rs2 => Sys2Proof.Machine.execQpost h rd rs1 rs2 s
  | .seed h rd => Sys2Proof.Machine.execSeed h rd s
  | .readTime h rd arg => Sys2Proof.Machine.execReadTime h rd arg s
  | .rdid h rd arg => Sys2Proof.Machine.execRdid h rd arg s
  | .benchmark h rd rs1 arg => Sys2Proof.Machine.execBenchmark h rd rs1 arg s
  | .yieldSlice h => Sys2Proof.Machine.execYieldSlice h s
  | .trap h rs1 arg => Sys2Proof.Machine.execTrap h rs1 arg s
  | .endProgram h rs1 => Sys2Proof.Machine.execEndProgram h rs1 s
  | .spinTraverse core cut => Sys2Proof.Machine.execSpinTraverse core cut s
  | .tableLoad core => Sys2Proof.Machine.execTableLoad core s
  | .spinSchedule core cut => Sys2Proof.Machine.execSpinSchedule core cut s
  | .exchTableLoad core => Sys2Proof.Machine.execExchTableLoad core s
  | .stripIssue core replica step strip resolve corrected => Sys2Proof.Machine.execStripIssue core replica step strip resolve s corrected
  | .easementMessage dst src step replica kind => Sys2Proof.Machine.execEasementMessage dst src step replica kind s
  | .traverseBoundary run wallReached => Sys2Proof.Machine.execTraverseBoundary run wallReached s
  | .denseMatmul core parity => Sys2Proof.Machine.execDenseMatmul core parity s
  | .denseAnneal core parity => Sys2Proof.Machine.execDenseAnneal core s parity
  | .denseConvert core => Sys2Proof.Machine.execDenseConvert core s
  | .combine core => Sys2Proof.Machine.execCombine core s
  | .convert core => Sys2Proof.Machine.execConvert core s
  | .rotate core => Sys2Proof.Machine.execRotate core s
  | .readout core => Sys2Proof.Machine.execReadout core s
  | .energy core parity => Sys2Proof.Machine.execEnergy core s parity
  | .exchange core => Sys2Proof.Machine.execExchange core s
  | .axpy core => Sys2Proof.Machine.execAxpy core s
  | .dmaCommand core => Sys2Proof.Machine.execDmaCommand core s
  | .commandComplete core unit => Sys2Proof.Machine.execCommandComplete core unit s
  | .waitValuePoll => Sys2Proof.Machine.execWaitValuePoll s
  | .tailDoorbell ctx ring value => Sys2Proof.Machine.execTailDoorbell ctx ring value s
  | .cqHeadDoorbell ctx ring value => Sys2Proof.Machine.execCqHeadDoorbell ctx ring value s
  | .descriptorFetch ctx ring => Sys2Proof.Machine.execDescriptorFetch ctx ring s
  | .nop ctx ring => Sys2Proof.Machine.execNop ctx ring s
  | .run ctx ring => Sys2Proof.Machine.execRun ctx ring s
  | .runDispatch run => Sys2Proof.Machine.execRunDispatch run s
  | .runComplete run => Sys2Proof.Machine.execRunComplete run s
  | .wait ctx ring => Sys2Proof.Machine.execWait ctx ring s
  | .signalDescriptor ctx ring => Sys2Proof.Machine.execSignalDescriptor ctx ring s
  | .copy ctx ring => Sys2Proof.Machine.execCopy ctx ring s
  | .fenceDescriptor ctx ring => Sys2Proof.Machine.execFenceDescriptor ctx ring s
  | .descriptorComplete ctx ring slot => Sys2Proof.Machine.execDescriptorComplete ctx ring slot s
  | .priResponse ctx page ok => Sys2Proof.Machine.execPriResponse ctx page ok s
  | .priTimeout ctx page => Sys2Proof.Machine.execPriTimeout ctx page s
  | .start ctx ring => Sys2Proof.Machine.execStart ctx ring s
  | .stop ctx ring => Sys2Proof.Machine.execStop ctx ring s
  | .retryCompletions ctx ring => Sys2Proof.Machine.execRetryCompletions ctx ring s
  | .ringHeadWrite ctx ring head => Sys2Proof.Machine.execRingHeadWrite ctx ring head s
  | .runTimeout run => Sys2Proof.Machine.execRunTimeout run s
  | .drainWindowExpiry run stuck => Sys2Proof.Machine.execDrainWindowExpiry run stuck s
  | .timeSliceEnd plot => Sys2Proof.Machine.execTimeSliceEnd plot s
  | .enable ctx bit => Sys2Proof.Machine.execEnable ctx bit s
  | .plotValid ctx bit plot => Sys2Proof.Machine.execPlotValid ctx bit plot s
  | .reset ctx => Sys2Proof.Machine.execReset ctx s
  | .abortFault ctx => Sys2Proof.Machine.execAbortFault ctx s
  | .resume ctx => Sys2Proof.Machine.execResume ctx s
  | .ctxInvalPages ctx page count => Sys2Proof.Machine.execCtxInvalPages ctx page count s
  | .ctxInvalAll ctx => Sys2Proof.Machine.execCtxInvalAll ctx s
  | .invalidationComplete ctx => Sys2Proof.Machine.execInvalidationComplete ctx s
  | .atsInvalidation ctx page state => Sys2Proof.Machine.execAtsInvalidation ctx page state s
  | .snapshotRequest ctx => Sys2Proof.Machine.execSnapshotRequest ctx s
  | .patrolScrub level line find => Sys2Proof.Machine.execPatrolScrub level line find s
  | .postPackageRepair channel row spareLeft => Sys2Proof.Machine.execPostPackageRepair channel row spareLeft s
  | .configure plot => Sys2Proof.Machine.execConfigure plot s
  | .release plot => Sys2Proof.Machine.execRelease plot s
  | .reconfigure plot => Sys2Proof.Machine.execReconfigure plot s
  | .bar4Access write off len data => Sys2Proof.Machine.execBar4Access write off len data s
  | .registerWrite off size value => Sys2Proof.Machine.execRegisterWrite off size value s
  | .linkSignalDetect link => Sys2Proof.Machine.execLinkSignalDetect link s
  | .linkDownRetry link signal => Sys2Proof.Machine.execLinkDownRetry link signal s
  | .linkTrainingComplete link lanes => Sys2Proof.Machine.execLinkTrainingComplete link lanes s
  | .linkTrainingTimeout link => Sys2Proof.Machine.execLinkTrainingTimeout link s
  | .identifyExchange link info => Sys2Proof.Machine.execIdentifyExchange link info s
  | .lossOfSignal link => Sys2Proof.Machine.execLossOfSignal link s
  | .laneLoss link lane => Sys2Proof.Machine.execLaneLoss link lane s
  | .retrain link => Sys2Proof.Machine.execRetrain link s
  | .retrainComplete link samePartner lanes => Sys2Proof.Machine.execRetrainComplete link samePartner s lanes
  | .flitReceive link flit corrected number => Sys2Proof.Machine.execFlitReceive link flit corrected s number
  | .flitNak link failed => Sys2Proof.Machine.execFlitNak link failed s
  | .linkStateRecord rec => Sys2Proof.Machine.execLinkStateRecord rec s
  | .linkStateRefresh => Sys2Proof.Machine.execLinkStateRefresh s
  | .topologyRecordExpiry chip => Sys2Proof.Machine.execTopologyRecordExpiry chip s
  | .partnerLost link => Sys2Proof.Machine.execPartnerLost link s
  | .memberLost group chip => Sys2Proof.Machine.execMemberLost group chip s
  | .arm group => Sys2Proof.Machine.execArm group s
  | .join group info => Sys2Proof.Machine.execJoin group info s
  | .plan group proposed => Sys2Proof.Machine.execPlan group proposed s
  | .disband group => Sys2Proof.Machine.execDisband group s
  | .fabricEasement group msg => Sys2Proof.Machine.execFabricEasement group msg s
  | .tallyPartial group step replica cell image => Sys2Proof.Machine.execTallyPartial group step replica cell image s
  | .fabricStop group status lost => Sys2Proof.Machine.execFabricStop group status s lost
  | .lockstepDigest group step digest parcels => Sys2Proof.Machine.execLockstepDigest group step digest parcels s
  | .entropySample source bit => Sys2Proof.Machine.execEntropySample source bit s
  | .estimateWindow source => Sys2Proof.Machine.execEstimateWindow source s
  | .conditionerBlock => Sys2Proof.Machine.execConditionerBlock s
  | .rngSettlingEnd => Sys2Proof.Machine.execRngSettlingEnd s
  | .drbgReseedDue => Sys2Proof.Machine.execDrbgReseedDue s
  | .reseed => Sys2Proof.Machine.execReseed s
  | .rawTapEnter => Sys2Proof.Machine.execRawTapEnter s
  | .rawTapExit => Sys2Proof.Machine.execRawTapExit s
  | .tapSrc source => Sys2Proof.Machine.execTapSrc source s
  | .rngData => Sys2Proof.Machine.execRngData s
  | .rngRaw => Sys2Proof.Machine.execRngRaw s
  | .rngRequestTimeout => Sys2Proof.Machine.execRngRequestTimeout s
  | .coldReset found => Sys2Proof.Machine.execColdReset found s
  | .bootDone => Sys2Proof.Machine.execBootDone s
  | .perstRelease => Sys2Proof.Machine.execPerstRelease s
  | .warmReset found => Sys2Proof.Machine.execWarmReset found s
  | .flr => Sys2Proof.Machine.execFlr s
  | .coreReset core => Sys2Proof.Machine.execCoreReset core s
  | .engineReset core units => Sys2Proof.Machine.execEngineReset core units s
  | .quiesceEnd core => Sys2Proof.Machine.execQuiesceEnd core s
  | .capW watts => Sys2Proof.Machine.execCapW watts s
  | .deepIdle bit => Sys2Proof.Machine.execDeepIdle bit s
  | .d3hot => Sys2Proof.Machine.execD3hot s
  | .d0 => Sys2Proof.Machine.execD0 s
  | .coreRetain core => Sys2Proof.Machine.execCoreRetain core s
  | .coreOff core => Sys2Proof.Machine.execCoreOff core s
  | .chipIdle => Sys2Proof.Machine.execChipIdle s
  | .chipWake => Sys2Proof.Machine.execChipWake s
  | .creditPeriod => Sys2Proof.Machine.execCreditPeriod s
  | .thermalSensorRead dies => Sys2Proof.Machine.execThermalSensorRead dies s
  | .throttleStep die => Sys2Proof.Machine.execThrottleStep die s
  | .railFailure => Sys2Proof.Machine.execRailFailure s
  | .surveyRound => Sys2Proof.Machine.execSurveyRound s
  | .surveyTestComplete core pass => Sys2Proof.Machine.execSurveyTestComplete core pass s
  | .lldpTransmit port => Sys2Proof.Machine.execLldpTransmit port s
  | .lldpduReceive port pdu => Sys2Proof.Machine.execLldpduReceive port pdu s
  | .lldpPartnerLoss port => Sys2Proof.Machine.execLldpPartnerLoss port s
  | .portLinkDown port => Sys2Proof.Machine.execPortLinkDown port s
  | .syncReceive port offsetNs timeNs fcsOk => Sys2Proof.Machine.execSyncReceive port offsetNs timeNs s fcsOk
  | .syncTimeout port => Sys2Proof.Machine.execSyncTimeout port s
  | .holdoverExpiry port => Sys2Proof.Machine.execHoldoverExpiry port s
  | .measurement port frame => Sys2Proof.Machine.execMeasurement port frame s
  | .serviceInstant svc => Sys2Proof.Machine.execServiceInstant svc s
  | .decisionRead svc => Sys2Proof.Machine.execDecisionRead svc s
  | .decisionTransmit svc => Sys2Proof.Machine.execDecisionTransmit svc s
  | .svcStart svc timeNs => Sys2Proof.Machine.execSvcStart svc timeNs s
  | .svcStop svc => Sys2Proof.Machine.execSvcStop svc s
  | .svcResume svc => Sys2Proof.Machine.execSvcResume svc s
  | .getVersion port code => Sys2Proof.Machine.execGetVersion port s code
  | .getCapabilities port rest => Sys2Proof.Machine.execGetCapabilities port s rest
  | .negotiateAlgorithms port rest => Sys2Proof.Machine.execNegotiateAlgorithms port s rest
  | .getDigests port => Sys2Proof.Machine.execGetDigests port s
  | .getCertificate port slot offset length => Sys2Proof.Machine.execGetCertificate port slot offset length s
  | .challenge port slot nonce => Sys2Proof.Machine.execChallenge port slot nonce s
  | .getMeasurements port index signed nonce => Sys2Proof.Machine.execGetMeasurements port index signed nonce s
  | .setEndpointId eid type => Sys2Proof.Machine.execSetEndpointId eid s type
  | .sensorRefresh temps stackTemps powerW ask => Sys2Proof.Machine.execSensorRefresh temps stackTemps powerW s ask
  | .getEventLog first count => Sys2Proof.Machine.execGetEventLog first count s
  | .getRetirementTable first count => Sys2Proof.Machine.execGetRetirementTable first count s
  | .setRawTap rawTap source => Sys2Proof.Machine.execSetRawTap rawTap source s
  | .readRawSamples reads => Sys2Proof.Machine.execReadRawSamples reads s
  | .getMap => Sys2Proof.Machine.execGetMap s
  | .setPowerCap watts => Sys2Proof.Machine.execSetPowerCap watts s
  | .getBootStatus => Sys2Proof.Machine.execGetBootStatus s
  | .requestUpdate component => Sys2Proof.Machine.execRequestUpdate component s
  | .firmwareTransfer offset data => Sys2Proof.Machine.execFirmwareTransfer offset data s
  | .verifyComplete => Sys2Proof.Machine.execVerifyComplete s
  | .activateFirmware => Sys2Proof.Machine.execActivateFirmware s
  | .recOpen component => Sys2Proof.Machine.execRecOpen component s
  | .recWrite length => Sys2Proof.Machine.execRecWrite length s
  | .recVerify => Sys2Proof.Machine.execRecVerify s
  | .recAbort => Sys2Proof.Machine.execRecAbort s
  | .portLinkUp port => Sys2Proof.Machine.execPortLinkUp port s
  | .fabChipId valid chip => Sys2Proof.Machine.execFabChipId valid chip s
  | .aonRstNAssert => Sys2Proof.Machine.execAonRstNAssert s
  | .d3cold => Sys2Proof.Machine.execD3cold s
  | .contextResetEnd ctx => Sys2Proof.Machine.execContextResetEnd ctx s
  | .groupMessage group msg => Sys2Proof.Machine.execGroupMessage group msg s
  | .tallyBroadcast group step tallies => Sys2Proof.Machine.execTallyBroadcast group step tallies s
  | .dynamicAddress address => Sys2Proof.Machine.execDynamicAddress address s
  | .updateAbort => Sys2Proof.Machine.execUpdateAbort s

end Sys2Proof.Machine
end

