-- ==== Sys2Proof/Safety.lean ====
section
/-! DEFINITION. The terms in which statements about the block are made: what it means that a control core executes, what a
command leaves alone, the results of the arithmetic instructions as the tables of the spec give them, and the invariant
that every command keeps. -/

namespace Sys2Proof.Safety

open Sys2Proof.Machine

/-! ### Control cores -/

/-- A control core executes its next instruction for a RUN: it may execute (`hartReady`) and its PC lies in the code. -/
abbrev Executes (s : State) (h : Hart) (r : Run) : Prop :=
  hartReady s h = some r ∧ (s.hart h).pc.toNat < r.hdr.codeBytes

/-- A general register of a control core, g0 reading as zero. -/
def reg (s : State) (h : Hart) (k : BitVec 5) : Word := regGet (s.hart h) k

/-- Nothing changes but one control core and the RETIRED count of its core. -/
def OnlyHart (s t : State) (h : Hart) : Prop :=
  t = { s with cores := t.cores } ∧
  (∀ n, n ≠ h.core → t.coreAt n = s.coreAt n) ∧
  t.coreAt h.core = { s.coreAt h.core with
    work := (s.workAt h.core).setCc h.cc (t.hart h)
    retired := (s.coreAt h.core).retired + 1 }

/-- Nothing changes but one control core, the RETIRED count of its core, that core's store and which of its words hold an
uncorrectable error. -/
def OnlyHartAndStore (s t : State) (h : Hart) : Prop :=
  t = { s with cores := t.cores, badLines := t.badLines } ∧
  (∀ n, n ≠ h.core → t.coreAt n = s.coreAt n) ∧
  t.coreAt h.core = { s.coreAt h.core with
    work := { (s.workAt h.core).setCc h.cc (t.hart h) with store := (t.workAt h.core).store }
    retired := (s.coreAt h.core).retired + 1 }

/-- An instruction has gone on to `pc` and written no register but `rd`. -/
def WentOn (s t : State) (h : Hart) (rd : BitVec 5) (pc : Word) : Prop :=
  (∀ k, k ≠ rd ∨ k = 0 → reg t h k = reg s h k) ∧
  t.hart h = { s.hart h with regs := (t.hart h).regs, pc := pc, mode := .running, wait := .none }

/-! ### Results of the arithmetic instructions (R310) -/

/-- The bits of a value, counted. -/
def ones (a : Word) : Nat := (List.range 64).countP (fun i => a.getLsbD i)

/-- `v` is the number of leading zeros of `a`, 64 for zero. -/
def LeadingZeros (a v : Word) : Prop :=
  v.toNat ≤ 64 ∧ (∀ i, 64 ≤ i + v.toNat → a.getLsbD i = false) ∧ (v.toNat < 64 → a.getLsbD (63 - v.toNat) = true)

/-- Sums, differences, bitwise operations and constants (R310): the control core, the destination and what its new value
`v` satisfies. -/
def basicResult (s : State) (i : Instr) (v : Word) : Option (Hart × BitVec 5 × Prop) :=
  match i with
  | .add h rd a b => some (h, rd, v.toNat = ((reg s h a).toNat + (reg s h b).toNat) % 2 ^ 64)
  | .sub h rd a b => some (h, rd, (v.toNat + (reg s h b).toNat) % 2 ^ 64 = (reg s h a).toNat)
  | .and h rd a b => some (h, rd, ∀ k, v.getLsbD k = ((reg s h a).getLsbD k && (reg s h b).getLsbD k))
  | .or h rd a b => some (h, rd, ∀ k, v.getLsbD k = ((reg s h a).getLsbD k || (reg s h b).getLsbD k))
  | .xor h rd a b => some (h, rd, ∀ k, v.getLsbD k = ((reg s h a).getLsbD k ^^ (reg s h b).getLsbD k))
  | .addi h rd a imm => some (h, rd, v = BitVec.ofInt 64 ((reg s h a).toInt + imm.toInt))
  | .andi h rd a imm => some (h, rd, v.toNat = (reg s h a).toNat &&& imm.toNat)
  | .ori h rd a imm => some (h, rd, v.toNat = (reg s h a).toNat ||| imm.toNat)
  | .xori h rd a imm => some (h, rd, v.toNat = (reg s h a).toNat ^^^ imm.toNat)
  | .ldk h rd imm => some (h, rd, v.toInt = imm.toInt)
  | .apk h rd imm => some (h, rd, v.toNat = ((reg s h rd).toNat * 2 ^ 16 + imm.toNat) % 2 ^ 64)
  | _ => none

/-- Shifts, comparisons and extrema (R310). -/
def compareResult (s : State) (i : Instr) (v : Word) : Option (Hart × BitVec 5 × Prop) :=
  match i with
  | .shl h rd a b => some (h, rd, v.toNat = (reg s h a).toNat * 2 ^ ((reg s h b).toNat % 64) % 2 ^ 64)
  | .shr h rd a b => some (h, rd, v.toNat = (reg s h a).toNat / 2 ^ ((reg s h b).toNat % 64))
  | .sar h rd a b => some (h, rd, v.toInt = (reg s h a).toInt / 2 ^ ((reg s h b).toNat % 64))
  | .slt h rd a b => some (h, rd, v = if (reg s h a).toInt < (reg s h b).toInt then 1 else 0)
  | .sltu h rd a b => some (h, rd, v = if (reg s h a).toNat < (reg s h b).toNat then 1 else 0)
  | .minu h rd a b => some (h, rd, v.toNat = min (reg s h a).toNat (reg s h b).toNat)
  | .maxu h rd a b => some (h, rd, v.toNat = max (reg s h a).toNat (reg s h b).toNat)
  | .shli h rd a sh => some (h, rd, v.toNat = (reg s h a).toNat * 2 ^ sh.toNat % 2 ^ 64)
  | .shri h rd a sh => some (h, rd, v.toNat = (reg s h a).toNat / 2 ^ sh.toNat)
  | .sari h rd a sh => some (h, rd, v.toInt = (reg s h a).toInt / 2 ^ sh.toNat)
  | .slti h rd a imm => some (h, rd, v = if (reg s h a).toInt < imm.toInt then 1 else 0)
  | .sltiu h rd a imm => some (h, rd, v = if (reg s h a).toNat < (imm.toInt % 2 ^ 64).toNat then 1 else 0)
  | _ => none

/-- Products, quotients and bit counts (R310). -/
def productResult (s : State) (i : Instr) (v : Word) : Option (Hart × BitVec 5 × Prop) :=
  match i with
  | .mul h rd a b => some (h, rd, v.toNat = (reg s h a).toNat * (reg s h b).toNat % 2 ^ 64)
  | .mulh h rd a b => some (h, rd, v.toInt = (reg s h a).toInt * (reg s h b).toInt / 2 ^ 64)
  | .mulhu h rd a b => some (h, rd, v.toNat = (reg s h a).toNat * (reg s h b).toNat / 2 ^ 64)
  | .divu h rd a b => some (h, rd, if reg s h b = 0 then v = BitVec.allOnes 64
      else v.toNat = (reg s h a).toNat / (reg s h b).toNat)
  | .remu h rd a b => some (h, rd, if reg s h b = 0 then v = reg s h a
      else v.toNat = (reg s h a).toNat % (reg s h b).toNat)
  | .popc h rd a => some (h, rd, v.toNat = ones (reg s h a))
  | .clz h rd a => some (h, rd, LeadingZeros (reg s h a) v)
  | _ => none

/-- The result of an instruction, whose destination value `v` satisfies what the table gives: it completes, the
destination takes `v` (g0 takes nothing), the control core goes on to the next instruction, and nothing else changes. -/
def ResultStatement (result : State → Instr → Word → Option (Hart × BitVec 5 × Prop)) : Prop :=
  ∀ (s : State) (i : Instr) (h : Hart) (rd : BitVec 5) (r : Run),
    (∃ P, result s i 0 = some (h, rd, P)) → Executes s h r →
    ∃ t v, exec i s = .next t ∧ (∃ P, result s i v = some (h, rd, P) ∧ P) ∧
      reg t h rd = (if rd = 0 then 0 else v) ∧ WentOn s t h rd ((s.hart h).pc + 4) ∧ OnlyHart s t h

/-! ### Loads, stores, branches and traps -/

/-- The offset that a load, store or JALR addresses: rs1 + sext(imm16), modulo 2^64 (R309, R310). -/
def dataAddr (s : State) (h : Hart) (rs1 : BitVec 5) (imm : BitVec 16) : Nat :=
  (((reg s h rs1).toInt + imm.toInt) % 2 ^ 64).toNat

/-- A byte of a core's store. -/
def storeByte (s : State) (core a : Nat) : Byte := memRead (s.workAt core).store a

/-- `n` bytes of a core's store from an offset, as a number, the least significant first. -/
def storeNat (s : State) (core a n : Nat) : Nat := leNat (memReadN (s.workAt core).store a n)

/-- An access of `n` bytes of the data area is allowed: aligned, inside DATA_BYTES, no word with an uncorrectable error (R22,
R308, R330, R413). -/
abbrev AreaOk (s : State) (h : Hart) (r : Run) (a n : Nat) : Prop :=
  a % n = 0 ∧ a + n ≤ r.hdr.dataBytes ∧ storeBad s h.core a n = none

/-- Size, and what the value that a load brings satisfies, by the number `x` that its bytes spell (R310). -/
def loadShape (i : Instr) (x : Nat) (v : Word) : Option (Hart × BitVec 5 × BitVec 5 × BitVec 16 × Nat × Prop) :=
  match i with
  | .ldb h rd rs1 imm => some (h, rd, rs1, imm, 1, v.toNat = x)
  | .ldh h rd rs1 imm => some (h, rd, rs1, imm, 2, v.toNat = x)
  | .ldw h rd rs1 imm => some (h, rd, rs1, imm, 4, v.toNat = x)
  | .ldws h rd rs1 imm => some (h, rd, rs1, imm, 4, v.toInt = if x < 2 ^ 31 then (x : Int) else (x : Int) - 2 ^ 32)
  | .ldd h rd rs1 imm => some (h, rd, rs1, imm, 8, v.toNat = x)
  | _ => none

/-- A store: its control core, source, base, displacement and size (R310). -/
def storeShape (i : Instr) : Option (Hart × BitVec 5 × BitVec 5 × BitVec 16 × Nat) :=
  match i with
  | .stb h rd rs1 imm => some (h, rd, rs1, imm, 1)
  | .sth h rd rs1 imm => some (h, rd, rs1, imm, 2)
  | .stw h rd rs1 imm => some (h, rd, rs1, imm, 4)
  | .std h rd rs1 imm => some (h, rd, rs1, imm, 8)
  | _ => none

/-- A conditional branch: its control core, its offset and its condition (R310). -/
def branchShape (s : State) (i : Instr) : Option (Hart × BitVec 16 × Prop) :=
  match i with
  | .beq h a b off => some (h, off, reg s h a = reg s h b)
  | .bne h a b off => some (h, off, reg s h a ≠ reg s h b)
  | .blt h a b off => some (h, off, (reg s h a).toInt < (reg s h b).toInt)
  | .bge h a b off => some (h, off, (reg s h b).toInt ≤ (reg s h a).toInt)
  | .bltu h a b off => some (h, off, (reg s h a).toNat < (reg s h b).toNat)
  | .bgeu h a b off => some (h, off, (reg s h b).toNat ≤ (reg s h a).toNat)
  | _ => none

/-- A trap has ended the RUN of a control core (R331, R337, R366): its trap register holds status, cause, code, PC and
context; the RUN has the status and the record's DETAIL; no control core of the RUN's cores executes any more; the
registers and PC of the control core are as they were, and nothing outside the cores and RUNs changes. -/
def Trapped (s t : State) (h : Hart) (r : Run) (cause : Nat) (st : Status) (code : Nat) : Prop :=
  t = { s with cores := t.cores, runs := t.runs } ∧
  (if h.cc then (t.coreAt h.core).trap1 else (t.coreAt h.core).trap0) =
    trapWord st cause code (s.hart h).pc.toNat r.key.ctx ∧
  t.hart h = { s.hart h with mode := .ended, wait := .none } ∧
  (t.workAt h.core).store = (s.workAt h.core).store ∧
  t.findRun r.key = some { r with
    status := some st, phase := .stopping, detail := cause % 256 + code % 256 * 256 + h.core * 65536 } ∧
  (∀ x : Hart, (s.workAt x.core).run = some r.key → hartReady t x = none)

/-- The control core of an instruction of a program, and none for any other command. -/
def hartOf (i : Instr) : Option Hart :=
  match i with
  | .add h _ _ _ | .sub h _ _ _ | .and h _ _ _ | .or h _ _ _ | .xor h _ _ _ | .shl h _ _ _ | .shr h _ _ _
  | .sar h _ _ _ | .slt h _ _ _ | .sltu h _ _ _ | .mul h _ _ _ | .mulh h _ _ _ | .mulhu h _ _ _ | .divu h _ _ _
  | .remu h _ _ _ | .minu h _ _ _ | .maxu h _ _ _ | .popc h _ _ | .clz h _ _ | .addi h _ _ _ | .andi h _ _ _
  | .ori h _ _ _ | .xori h _ _ _ | .shli h _ _ _ | .shri h _ _ _ | .sari h _ _ _ | .slti h _ _ _ | .sltiu h _ _ _
  | .ldk h _ _ | .apk h _ _ | .ldb h _ _ _ | .ldh h _ _ _ | .ldw h _ _ _ | .ldws h _ _ _ | .ldd h _ _ _
  | .stb h _ _ _ | .sth h _ _ _ | .stw h _ _ _ | .std h _ _ _ | .amoadd h _ _ _ | .beq h _ _ _ | .bne h _ _ _
  | .blt h _ _ _ | .bge h _ _ _ | .bltu h _ _ _ | .bgeu h _ _ _ | .jal h _ _ | .jalr h _ _ _
  | .undefinedInstruction h | .issue h _ _ | .dma h _ _ | .ewait h _ _ | .epoll h _ _ | .edrain h _ | .fence h
  | .waitValue h _ _ _ _ | .signal h _ _ _ _ | .cbarrier h | .rbarrier h | .enqueue h _ _ _ | .waitQueue h _ _ _
  | .qpost h _ _ _ | .seed h _ | .readTime h _ _ | .rdid h _ _ | .benchmark h _ _ _ | .yieldSlice h | .trap h _ _
  | .endProgram h _ => some h
  | _ => none

/-- The memories that a command leaves are those of another state. -/
def SameMemories (t m : State) : Prop := t.near = m.near ∧ t.far = m.far ∧ t.host = m.host

/-- The store of a core, and its save area in the context that holds its plot, where one does, hold no uncorrectable error, so
that its save at the entry of DEEP_IDLE meets none (R413, R462). -/
def SaveClean (s : State) (n : Nat) : Prop :=
  ∀ c, (s.coreAt n).plot.bind (fun p => (s.plotAt p).holder) = some c →
    storeBad s n 0 8388608 = none ∧ areaLost s c n = none

/-- An access of `n` bytes of a RUN's context at a virtual address is neither denied nor absent nor uncorrectable. -/
abbrev Reaches (s : State) (r : Run) (va n : Nat) (write : Bool) : Prop := rangeStop s r.key.ctx va n write = none

/-- Bytes of virtual addresses that an engine can read: below 2^48 and reached (R394, R403, R413). -/
abbrev Fetches (s : State) (r : Run) (va n : Nat) : Prop := va + n ≤ 2 ^ 48 ∧ Reaches s r va n false

/-- Writes that an engine can make. -/
abbrev Delivers (s : State) (r : Run) (ws : List (Nat × List Byte)) : Prop :=
  ∀ w, w ∈ ws → w.1 + w.2.length ≤ 2 ^ 48 ∧ Reaches s r w.1 w.2.length true

/-- The state after an engine has transferred ranges, whose leaves it has cached (R385, R399). -/
def touched (s : State) (c : Nat) (l : List (Nat × Nat)) : State := l.foldl (fun u p => touch u c p.1 p.2) s

/-- The state after an engine has written ranges in turn. -/
def written (s : State) (c : Nat) (ws : List (Nat × List Byte)) : State :=
  ws.foldl (fun u w => vaWrite (touch u c w.1 w.2.length) c w.1 w.2) s

/-- A timed plot sees nothing of an access of `n` bytes of a RUN's context: it uses locked pages alone, and no page of host
memory (R393, R401). -/
abbrev Quiet (s : State) (r : Run) (va n : Nat) : Prop :=
  (s.plotAt (s.ctxAt r.key.ctx).plot).timed = false ∨
  rangeHost s r.key.ctx va n = false ∧ ∀ p, p ∈ rangePieces va n → p.1 / 65536 ∈ (s.ctxAt r.key.ctx).locked

/-- The state that an instruction leaves which has written memory, by the state `u` with its own effect: what waits on
memory is evaluated (R318, R325, R350), and a timed plot sees its accesses (R393, R401), the last of them first. -/
def afterAccesses (u : State) (c : Nat) (l : List (Nat × Nat)) : State :=
  l.foldr (fun p t => markAccess t c p.1 p.2) (wakeWaits u)

/-- A control core that waited has gone on behind its instruction (R318, R320). -/
def WentPast (s t : State) (h : Hart) : Prop :=
  t.hart h = { s.hart h with pc := (s.hart h).pc + 4, mode := .running, wait := .none }

/-- A ring whose next descriptor has started: it is no more among the fetched ones, and with it held records and descriptors
in flight may be 64 (R354, R370). -/
def startedRing (q : Ring) : Ring :=
  { q with fetched := q.fetched.drop 1, kept := q.kept - 1, waitOn := false
           full := q.full || decide (64 ≤ q.held.length + q.inflight.length + 1) }

/-- A message for another chip has gone out on a link, on its channel, or waits for a way there (R220, R222, R243). -/
def Sent (t : State) (chip : Nat) (m : FabMsg) : Prop :=
  (∃ link, .fabric link (fabChannel m) chip m ∈ t.out) ∨ (chip, m) ∈ t.fab.waiting

/-- A message has gone out to the partner of every link in UP. -/
def Flooded (s t : State) (m : FabMsg) : Prop :=
  ∀ n, n < 8 → (s.linkAt n).st = 3 → .fabric n (fabChannel m) (s.linkAt n).partner m ∈ t.out

/-- A link is as given but for what has been sent on it. -/
def SameLink (l l' : Link) : Prop := l = { l' with sent := l.sent, replayBuf := l.replayBuf, sending := l.sending }

/-- Whether a member of a group is this chip or stands in the topology map. -/
def Known (s : State) (m : Nat) : Prop := m = s.fab.chip ∨ ∃ q, q ∈ s.fab.topo ∧ q.chip = m

/-- A unit's head command has its status and waits to complete; the queues, tickets and control cores of the core are
those of another state. -/
def EndsUnit (s t : State) (core : Nat) (u : EngineUnit) (st : Status) : Prop :=
  ((t.workAt core).unitQ u) = { (s.workAt core).unitQ u with
    running := true, result := some st, paid := ((t.workAt core).unitQ u).paid } ∧
  (∀ w, w ≠ u → (t.workAt core).unitQ w = (s.workAt core).unitQ w) ∧
  (t.workAt core).cc0 = (s.workAt core).cc0 ∧ (t.workAt core).cc1 = (s.workAt core).cc1

/-- What the work of an engine's command costs its core in credits (R464). -/
def runUp (o : EngOut) : Nat :=
  match o with
  | .done _ t => t.power.charge * creditUnit
  | .stop _ _ => 0

/-- A command that its core's credits do not cover waits: what there is of them is paid, and nothing else has happened
(R465). -/
def WaitsUnpaid (i : Instr) (s v : State) (core : Nat) (u : EngineUnit) (cost : Nat) : Prop :=
  (payUnits v core u cost).2 = false → exec i s = .next (payUnits v core u cost).1

/-! ### The invariant -/

/-- Every memory that State holds has its one canonical form. -/
def MemoriesCanonical (s : State) : Prop :=
  memWf s.near = true ∧ memWf s.far = true ∧ memWf s.host = true ∧ memWf s.msixTable = true ∧
  memWf s.flash.imageBytes = true ∧ memWf s.flash.cfg = true ∧ memWf s.boot.cfg = true ∧
  memWf s.mgmt.update.buffer = true ∧ (∀ v, v ∈ s.services → memWf v.buffer = true) ∧
  (∀ p, p ∈ s.cores → memWf p.2.work.store = true) ∧
  (∀ p, p ∈ s.ctxs → memWf p.2.accTable = true ∧ memWf p.2.exchTable = true ∧
    ∀ w, w ∈ p.2.saves → memWf w.2.store = true)

end Sys2Proof.Safety
end

