-- ==== Sys2Proof/Certificates/Slice0/Obligations.lean ====
section
/-! DEFINITION. The statements for the provers. A statement that says of a command that it completes gives the state it
leaves, under conditions on the state and the operands alone. -/

open Sys2Proof Sys2Proof.Machine Sys2Proof.Safety

/-! ### The queue -/

/-- A step takes the command at the front of the queue and runs it on the state with the queue's rest; with nothing
waiting the block idles (the model's choice, log entry 1). -/
def Obligations.StepRunsTheFrontCommand : Prop :=
  (∀ (s : State) (c : Instr) (rest : List Instr),
    step { s with pending := c :: rest } = exec c { s with pending := rest }) ∧
  (∀ s : State, s.pending = [] → step s = .next s)

/-! ### Control cores (11) -/

/-- R310: every arithmetic, logical, shift, comparison, product, quotient, counting and constant instruction completes with
the table's result in rd, division by zero among them; nothing else but PC and RETIRED changes, and a write to g0 is
discarded (R301). -/
def Obligations.ArithmeticCompletes : Prop :=
  (ResultStatement basicResult) ∧
  (ResultStatement compareResult) ∧
  (ResultStatement productResult)

/-- R308, R310: a load from an allowed offset completes with the bytes of the core store there, zero- or sign-extended, in
rd; nothing else but PC and RETIRED changes, so every byte of every memory reads as before. -/
def Obligations.LoadsComplete : Prop :=
  ∀ (s : State) (i : Instr) (h : Hart) (rd rs1 : BitVec 5) (imm : BitVec 16) (n : Nat) (r : Run),
    (∃ P, loadShape i 0 0 = some (h, rd, rs1, imm, n, P)) → Executes s h r → AreaOk s h r (dataAddr s h rs1 imm) n →
    ∃ t v, exec i s = .next t ∧
      (∃ P, loadShape i (storeNat s h.core (dataAddr s h rs1 imm) n) v = some (h, rd, rs1, imm, n, P) ∧ P) ∧
      reg t h rd = (if rd = 0 then 0 else v) ∧ WentOn s t h rd ((s.hart h).pc + 4) ∧ OnlyHart s t h

/-- R22, R308, R310: a store to an allowed offset completes; the stored bytes of the core store are the low bytes of rd,
every other byte of it reads as before, and nothing else but PC and RETIRED changes: STD, which reads nothing, also where
its word holds an uncorrectable error, which the whole word's write ends. AMOADD completes; rd takes the 8 bytes at rs1,
those bytes become their sum with rs2, and nothing else changes. -/
def Obligations.StoresAndAtomicAddComplete : Prop :=
  (∀ (s : State) (i : Instr) (h : Hart) (rd rs1 : BitVec 5) (imm : BitVec 16) (n : Nat) (r : Run),
     storeShape i = some (h, rd, rs1, imm, n) → memWf (s.workAt h.core).store = true → Executes s h r →
     dataAddr s h rs1 imm % n = 0 → dataAddr s h rs1 imm + n ≤ r.hdr.dataBytes →
     (n ≠ 8 → storeBad s h.core (dataAddr s h rs1 imm) n = none) →
     ∃ t, exec i s = .next t ∧ WentOn s t h 0 ((s.hart h).pc + 4) ∧ OnlyHartAndStore s t h ∧
       (∀ p, p ∈ t.badLines ↔
         p ∈ s.badLines ∧ ¬ (n = 8 ∧ p = (Level.coreStore, h.core * 2 ^ 20 + dataAddr s h rs1 imm / 8))) ∧
       ∀ a, storeByte t h.core a =
         if dataAddr s h rs1 imm ≤ a ∧ a < dataAddr s h rs1 imm + n
         then BitVec.ofNat 8 ((reg s h rd).toNat / 256 ^ (a - dataAddr s h rs1 imm))
         else storeByte s h.core a) ∧
  (∀ (s : State) (h : Hart) (rd rs1 rs2 : BitVec 5) (r : Run),
     memWf (s.workAt h.core).store = true → Executes s h r → AreaOk s h r (reg s h rs1).toNat 8 →
     ∃ t, exec (.amoadd h rd rs1 rs2) s = .next t ∧
       (rd ≠ 0 → (reg t h rd).toNat = storeNat s h.core (reg s h rs1).toNat 8) ∧
       WentOn s t h rd ((s.hart h).pc + 4) ∧ OnlyHartAndStore s t h ∧ t.badLines = s.badLines ∧
       storeNat t h.core (reg s h rs1).toNat 8 =
         (storeNat s h.core (reg s h rs1).toNat 8 + (reg s h rs2).toNat) % 2 ^ 64 ∧
       ∀ a, a < (reg s h rs1).toNat ∨ (reg s h rs1).toNat + 8 ≤ a → storeByte t h.core a = storeByte s h.core a)

/-- R309, R310: a conditional branch goes to PC + 4 · sext(offset) when its condition holds and to PC + 4 when it does not;
JAL, and JALR to a multiple of 4, put PC + 4 into rd and go to their target; nothing else but RETIRED changes. -/
def Obligations.BranchesAndJumpsComplete : Prop :=
  (∀ (s : State) (i : Instr) (h : Hart) (off : BitVec 16) (P : Prop) (r : Run),
     branchShape s i = some (h, off, P) → Executes s h r →
     ∃ t, exec i s = .next t ∧ OnlyHart s t h ∧
       (P → WentOn s t h 0 (BitVec.ofInt 64 ((s.hart h).pc.toInt + 4 * off.toInt))) ∧
       (¬ P → WentOn s t h 0 ((s.hart h).pc + 4))) ∧
  ((∀ (s : State) (h : Hart) (rd : BitVec 5) (off : BitVec 21) (r : Run), Executes s h r →
     ∃ t, exec (.jal h rd off) s = .next t ∧ OnlyHart s t h ∧ reg t h rd = (if rd = 0 then 0 else (s.hart h).pc + 4) ∧
       WentOn s t h rd (BitVec.ofInt 64 ((s.hart h).pc.toInt + 4 * off.toInt))) ∧
   (∀ (s : State) (h : Hart) (rd rs1 : BitVec 5) (imm : BitVec 16) (r : Run), Executes s h r →
     dataAddr s h rs1 imm % 4 = 0 →
     ∃ t, exec (.jalr h rd rs1 imm) s = .next t ∧ OnlyHart s t h ∧
       reg t h rd = (if rd = 0 then 0 else (s.hart h).pc + 4) ∧
       WentOn s t h rd (BitVec.ofNat 64 (dataAddr s h rs1 imm))))

/-- R330, R331: TRAP ends its RUN with the status of rs1, a status outside the table of R378 as BAD_FIELD, cause 7 and the
argument as code; UNDEFINED_INSTRUCTION, with an undefined word at the PC, ends its RUN with BAD_OPCODE and cause 1. -/
def Obligations.TrapsEndTheirRun : Prop :=
  (∀ (s : State) (h : Hart) (rs1 : BitVec 5) (arg : BitVec 8) (r : Run), Executes s h r →
    ∃ t, exec (.trap h rs1 arg) s = .next t ∧
      Trapped s t h r 7
        (if (reg s h rs1).truncate 16 ∈ statusTable then (reg s h rs1).truncate 16 else stBadField) arg.toNat) ∧
  (∀ (s : State) (h : Hart) (r : Run), Executes s h r →
    drabelDefined (fetchWord (s.coreAt h.core) (s.hart h).pc.toNat) = false →
    ∃ t, exec (.undefinedInstruction h) s = .next t ∧ Trapped s t h r 1 stBadOpcode 0)

/-- R330: where a load, a store or AMOADD traps: MISALIGNED with BAD_FIELD before AREA with PERM_FAULT; a JALR whose target
is no multiple of 4 traps with MISALIGNED; and any instruction at a PC beyond CODE_BYTES traps with PC_RANGE. -/
def Obligations.BadAccessesTrap : Prop :=
  (∀ (s : State) (i : Instr) (h : Hart) (rd rs1 : BitVec 5) (imm : BitVec 16) (n : Nat) (r : Run),
    ((∃ P, loadShape i 0 0 = some (h, rd, rs1, imm, n, P)) ∨ storeShape i = some (h, rd, rs1, imm, n)) →
    Executes s h r →
    (dataAddr s h rs1 imm % n ≠ 0 → ∃ t, exec i s = .next t ∧ Trapped s t h r 3 stBadField 0) ∧
    (dataAddr s h rs1 imm % n = 0 → r.hdr.dataBytes < dataAddr s h rs1 imm + n →
      ∃ t, exec i s = .next t ∧ Trapped s t h r 4 stPermFault 0)) ∧
  (∀ (s : State) (h : Hart) (rd rs1 rs2 : BitVec 5) (r : Run), Executes s h r →
    ((reg s h rs1).toNat % 8 ≠ 0 → ∃ t, exec (.amoadd h rd rs1 rs2) s = .next t ∧ Trapped s t h r 3 stBadField 0) ∧
    ((reg s h rs1).toNat % 8 = 0 → r.hdr.dataBytes < (reg s h rs1).toNat + 8 →
      ∃ t, exec (.amoadd h rd rs1 rs2) s = .next t ∧ Trapped s t h r 4 stPermFault 0)) ∧
  (∀ (s : State) (h : Hart) (rd rs1 : BitVec 5) (imm : BitVec 16) (r : Run), Executes s h r →
    dataAddr s h rs1 imm % 4 ≠ 0 → ∃ t, exec (.jalr h rd rs1 imm) s = .next t ∧ Trapped s t h r 3 stBadField 0) ∧
  (∀ (s : State) (i : Instr) (h : Hart) (r : Run), hartOf i = some h → hartReady s h = some r →
    r.hdr.codeBytes ≤ (s.hart h).pc.toNat → ∃ t, exec i s = .next t ∧ Trapped s t h r 2 stBadOpcode 0)

/-- R331, R333, R361, R404: while a control core may not execute (its RUN stopped, pre-empted or trapped, its context not
ACTIVE or not the holder of the plot, not started, ended, or its core in power saving or reset), an instruction sent for
it changes nothing. -/
def Obligations.OnlyReadyControlCoresExecute : Prop :=
  ∀ (s : State) (i : Instr) (h : Hart), hartOf i = some h → hartReady s h = none → exec i s = .next s

/-- R312 to R314: ISSUE of an opcode that a unit takes, and DMA, copy the 64 bytes at rs1 into their unit's queue and
return the ticket of the next ordinal; the other queues and the core store are as before. -/
def Obligations.IssueAndDmaComplete : Prop :=
  ∀ (s : State) (h : Hart) (rd rs1 : BitVec 5) (r : Run) (u : EngineUnit) (i : Instr),
    (i = .issue h rd rs1 ∧ unitOf (storeNat s h.core (reg s h rs1).toNat 1) = some u ∨ i = .dma h rd rs1 ∧ u = .dma) →
    Executes s h r → AreaOk s h r (reg s h rs1).toNat 64 → ((s.workAt h.core).unitQ u).queue.length < 16 →
    ∃ t, exec i s = .next t ∧
      ((t.workAt h.core).unitQ u).issued = ((s.workAt h.core).unitQ u).issued + 1 ∧
      ((t.workAt h.core).unitQ u).queue = ((s.workAt h.core).unitQ u).queue ++
        [⟨((s.workAt h.core).unitQ u).issued + 1, memReadN (s.workAt h.core).store (reg s h rs1).toNat 64⟩] ∧
      (∀ w, w ≠ u → (t.workAt h.core).unitQ w = (s.workAt h.core).unitQ w) ∧
      (t.workAt h.core).store = (s.workAt h.core).store ∧
      reg t h rd = (if rd = 0 then 0 else
        BitVec.ofNat 64 (unitNum u * 2 ^ 60 + (((s.workAt h.core).unitQ u).issued + 1))) ∧
      WentOn s t h rd ((s.hart h).pc + 4) ∧ SameMemories t s

/-- R310, R314, R319: EWAIT on a ticket whose command has completed returns its status; EPOLL returns the status, or all
ones while the command has not completed; with every command of the core completed, EDRAIN returns the earliest status
other than DONE since the last EDRAIN and FENCE goes on. -/
def Obligations.TicketWaitsComplete : Prop :=
  (∀ (s : State) (h : Hart) (rd rs1 : BitVec 5) (r : Run) (st : Status), Executes s h r →
    ticketStatus (s.workAt h.core) (reg s h rs1).toNat = some (some st) →
    ∃ t, exec (.ewait h rd rs1) s = .next t ∧ reg t h rd = (if rd = 0 then 0 else st.zeroExtend 64) ∧
      WentOn s t h rd ((s.hart h).pc + 4) ∧ OnlyHart s t h) ∧
  (∀ (s : State) (h : Hart) (rd rs1 : BitVec 5) (r : Run) (x : Option Status), Executes s h r →
    ticketStatus (s.workAt h.core) (reg s h rs1).toNat = some x →
    ∃ t, exec (.epoll h rd rs1) s = .next t ∧
      reg t h rd = (if rd = 0 then 0 else match x with | some st => st.zeroExtend 64 | none => BitVec.allOnes 64) ∧
      WentOn s t h rd ((s.hart h).pc + 4) ∧ OnlyHart s t h) ∧
  (∀ (s : State) (h : Hart) (rd : BitVec 5) (r : Run), Executes s h r → (∀ u, ((s.workAt h.core).unitQ u).queue = []) →
    (∃ t, exec (.edrain h rd) s = .next t ∧ (t.workAt h.core).since = [] ∧
      reg t h rd = (if rd = 0 then 0 else (earliestBad (s.workAt h.core)).zeroExtend 64) ∧
      WentOn s t h rd ((s.hart h).pc + 4)) ∧
    (∃ t, exec (.fence h) s = .next t ∧ WentOn s t h 0 ((s.hart h).pc + 4) ∧ OnlyHart s t h))

/-- R310, R318, R319, R350: WAIT_VALUE whose condition holds goes on; SIGNAL, with every command of its core completed, writes
rs2 or adds it to the 8 bytes at rs1 and returns the old value; its own effect changes only those bytes and its core, and
then what waits on memory is evaluated. A poll completes the WAIT_VALUE of a control core that may execute and whose memory
meets the condition; with no WAIT descriptor to evaluate, no memory, ring or RUN changes. -/
def Obligations.WaitValueAndSignalComplete : Prop :=
  ((∀ (s : State) (h : Hart) (rd rs1 rs2 : BitVec 5) (test : WaitTest) (r : Run), Executes s h r →
     (reg s h rs1).toNat % 8 = 0 → Reaches s r (reg s h rs1).toNat 8 false → Quiet s r (reg s h rs1).toNat 8 →
     (let v := vaLoad s r.key.ctx (reg s h rs1).toNat 8
      match test with
      | .ge => (reg s h rs2).toNat ≤ v
      | .eq => v = (reg s h rs2).toNat
      | .masked => v &&& (reg s h rd).toNat = (reg s h rs2).toNat &&& (reg s h rd).toNat) →
     ∃ t, exec (.waitValue h rd rs1 rs2 test) s = .next t ∧ WentOn s t h 0 ((s.hart h).pc + 4) ∧ OnlyHart s t h) ∧
   (∀ (s : State) (h : Hart) (rd rs1 rs2 : BitVec 5) (add : Bool) (r : Run), Executes s h r →
     (reg s h rs1).toNat % 8 = 0 → (∀ u, ((s.workAt h.core).unitQ u).queue = []) →
     Reaches s r (reg s h rs1).toNat 8 false → Reaches s r (reg s h rs1).toNat 8 true →
     (let a := (reg s h rs1).toNat
      let old := vaLoad s r.key.ctx a 8
      ∃ u, exec (.signal h rd rs1 rs2 add) s = .next (afterAccesses u r.key.ctx [(a, 8), (a, 8)]) ∧
       SameMemories u (vaWrite s r.key.ctx a
         (natLe 8 (if add then (old + (reg s h rs2).toNat) % 2 ^ 64 else (reg s h rs2).toNat))) ∧
       reg u h rd = (if rd = 0 then 0 else BitVec.ofNat 64 old) ∧ WentOn s u h rd ((s.hart h).pc + 4) ∧
       u = { s with cores := u.cores, near := u.near, far := u.far, host := u.host }))) ∧
  (∀ (s : State) (h : Hart) (r : Run) (va threshold mask : Word) (test : WaitTest), hartReady s h = some r →
     h.core ∈ r.cores → (s.hart h).mode = .waiting → (s.hart h).wait = .value va threshold mask test →
     Reaches s r va.toNat 8 false → meets test (BitVec.ofNat 64 (vaLoad s r.key.ctx va.toNat 8)) threshold mask = true →
     (∀ c n, nextOf s c n 2 [1, 2] = none) →
     ∃ t, exec .waitValuePoll s = .next t ∧ WentPast s t h ∧ SameMemories t s ∧ t.runs = s.runs ∧
       (∀ c n, t.ringAt c n = s.ringAt c n))

/-- R320: the CBARRIER of one control core goes on when the other has reached as many, was not started or has ended; the
RBARRIER of control core 0 goes on when every core of the RUN has reached as many or has ended. With the last arrival the
control cores that waited at that barrier go on too. -/
def Obligations.BarriersComplete : Prop :=
  (∀ (s : State) (h : Hart) (r : Run), Executes s h r → (s.hart h).mode = .running →
    (let o : Hart := ⟨h.core, !h.cc⟩
     (s.hart h).cbars + 1 ≤ (s.hart o).cbars ∨ (s.hart o).started = false ∨ (s.hart o).mode = .ended →
     ∃ t, exec (.cbarrier h) s = .next t ∧ (t.hart h).cbars = (s.hart h).cbars + 1 ∧
      (t.hart h).pc = (s.hart h).pc + 4 ∧ (t.hart h).regs = (s.hart h).regs ∧ SameMemories t s ∧
      (h.core ∈ r.cores → hartReady s o = some r → (s.hart o).mode = .waiting → (s.hart o).wait = .cbarrier →
       (s.hart o).cbars = (s.hart h).cbars + 1 → WentPast s t o))) ∧
  (∀ (s : State) (h : Hart) (r : Run), Executes s h r → h.cc = false → (s.hart h).mode = .running → h.core ∈ r.cores →
    (∀ k, k ∈ r.cores → k ≠ h.core →
      (s.workAt h.core).rbars + 1 ≤ (runWork s r k).rbars ∨ workEnded (runWork s r k) = true) →
    ∃ t, exec (.rbarrier h) s = .next t ∧ (t.workAt h.core).rbars = (s.workAt h.core).rbars + 1 ∧
      (t.hart h).pc = (s.hart h).pc + 4 ∧ (t.hart h).regs = (s.hart h).regs ∧ SameMemories t s ∧
      ∀ k, k ∈ r.cores → hartReady s ⟨k, false⟩ = some r → (s.hart ⟨k, false⟩).mode = .waiting →
        (s.hart ⟨k, false⟩).wait = .rbarrier → (s.workAt k).rbars = (s.workAt h.core).rbars + 1 →
        WentPast s t ⟨k, false⟩)

/-- R321, R344: ENQUEUE into a configured ring with room, every command of the core completed, writes the 64 bytes at rs1
into the slot of the tail, advances the tail and sets DB_PENDING, and returns 0, and then what waits on memory is
evaluated; a full ring gives 1 and a ring that is not configured 2, and both place nothing. -/
def Obligations.EnqueueCompletes : Prop :=
  ∀ (s : State) (h : Hart) (rd rs1 : BitVec 5) (imm : BitVec 16) (r : Run), Executes s h r → imm.toNat < 4 →
    AreaOk s h r (reg s h rs1).toNat 64 → (∀ u, ((s.workAt h.core).unitQ u).queue = []) →
    (let q := s.ringAt r.key.ctx imm.toNat
     (q.configured = true → ringCount q ≠ 2 ^ ringLog q → Reaches s r (slotVa q q.tail) 64 true →
      ∃ u, exec (.enqueue h rd rs1 imm) s = .next (afterAccesses u r.key.ctx [(slotVa q q.tail, 64)]) ∧
        SameMemories u (vaWrite s r.key.ctx (slotVa q q.tail)
          (memReadN (s.workAt h.core).store (reg s h rs1).toNat 64)) ∧
        u.ringAt r.key.ctx imm.toNat = { q with tail := (q.tail + 1) % 2 ^ 32, dbPending := true } ∧
        reg u h rd = 0 ∧ WentOn s u h rd ((s.hart h).pc + 4)) ∧
     (q.configured = true → ringCount q = 2 ^ ringLog q →
      ∃ t, exec (.enqueue h rd rs1 imm) s = .next t ∧ reg t h rd = (if rd = 0 then 0 else 1) ∧ OnlyHart s t h) ∧
     (q.configured = false →
      ∃ t, exec (.enqueue h rd rs1 imm) s = .next t ∧ reg t h rd = (if rd = 0 then 0 else 2) ∧ OnlyHart s t h))

/-- R323 to R325: WAIT_QUEUE on a queue that holds an entry, which no core of the RUN has taken before this one, takes it:
the consumer count advances, the entry goes to rs2 in the core store, its PARAM (zero here, so no parameter copy) to
rd; QPOST into a queue with room writes the entry and then the producer count, and returns 0, and then what waits on
memory is evaluated. -/
def Obligations.StakeQueuesComplete : Prop :=
  (∀ (s : State) (h : Hart) (rd rs1 rs2 : BitVec 5) (r : Run), Executes s h r → h.cc = false →
    (reg s h rs1).toNat % 64 = 0 → (reg s h rs2).toNat % 16 = 0 → (reg s h rs2).toNat + 16 ≤ r.hdr.dataBytes →
    r.taken = [] →
    tabGet 0 (s.workAt h.core).wqs (reg s h rs1).toNat = 0 →
    Reaches s r (reg s h rs1).toNat 64 false → Reaches s r ((reg s h rs1).toNat + 8) 8 true →
    (let q := (reg s h rs1).toNat
     let log := vaLoad s r.key.ctx (q + 16) 1
     let cons := vaLoad s r.key.ctx (q + 8) 8
     let slot := q + 64 + 16 * (cons % 2 ^ log)
     let e := vaRead s r.key.ctx slot 16
     log ≤ 12 → vaLoad s r.key.ctx q 8 ≠ cons → Reaches s r slot 16 false → fieldOf e 0 8 = 0 →
     ∃ t, exec (.waitQueue h rd rs1 rs2) s = .next t ∧
      SameMemories t (vaWrite s r.key.ctx (q + 8) (natLe 8 (cons + 1))) ∧
      (t.workAt h.core).store = memWriteN (s.workAt h.core).store (reg s h rs2).toNat e ∧
      tabGet 0 (t.workAt h.core).wqs q = 1 ∧ reg t h rd = 0 ∧ WentOn s t h rd ((s.hart h).pc + 4))) ∧
  (∀ (s : State) (h : Hart) (rd rs1 rs2 : BitVec 5) (r : Run), Executes s h r →
    (reg s h rs1).toNat % 64 = 0 → AreaOk s h r (reg s h rs2).toNat 16 →
    Reaches s r (reg s h rs1).toNat 64 false → Reaches s r (reg s h rs1).toNat 8 true →
    (let q := (reg s h rs1).toNat
     let log := vaLoad s r.key.ctx (q + 16) 1
     let prod := vaLoad s r.key.ctx q 8
     let slot := q + 64 + 16 * (prod % 2 ^ log)
     log ≤ 12 → (prod + 2 ^ 64 - vaLoad s r.key.ctx (q + 8) 8) % 2 ^ 64 ≠ 2 ^ log → Reaches s r slot 16 true →
     ∃ u, exec (.qpost h rd rs1 rs2) s = .next (afterAccesses u r.key.ctx [(q, 64), (q, 8), (slot, 16)]) ∧
      SameMemories u (vaWrite (vaWrite s r.key.ctx slot (memReadN (s.workAt h.core).store (reg s h rs2).toNat 16))
        r.key.ctx q (natLe 8 (prod + 1))) ∧
      reg u h rd = 0 ∧ WentOn s u h rd ((s.hart h).pc + 4) ∧
      (u.workAt h.core).store = (s.workAt h.core).store))

/-- R310, R328, R329: the k-th SEED of a core that has issued nothing returns the k-th seed drawn for its RUN, and the
k-th BENCHMARK the status of the RUN's k-th benchmark; RDID returns the identity that its selector names; READ_TIME of
a port without time returns all ones, and of the device time or a port with time an open value (log entry 2). -/
def Obligations.IdentitySeedAndTimeReadsComplete : Prop :=
  (∀ (s : State) (h : Hart) (rd : BitVec 5) (r : Run) (v : Word), Executes s h r → h.cc = false →
    (s.workAt h.core).issuedAny = false → r.seeds[(s.workAt h.core).seeds]? = some v →
    ∃ t, exec (.seed h rd) s = .next t ∧ reg t h rd = (if rd = 0 then 0 else v) ∧
      (t.workAt h.core).seeds = (s.workAt h.core).seeds + 1 ∧ WentOn s t h rd ((s.hart h).pc + 4) ∧ SameMemories t s) ∧
  (∀ (s : State) (h : Hart) (rd rs1 : BitVec 5) (arg : BitVec 8) (r : Run) (st : Status), Executes s h r → h.cc = false →
    arg.toNat ≤ 1 → (reg s h rs1).toNat % 16 = 0 → (reg s h rs1).toNat + 16 ≤ r.hdr.dataBytes →
    s.findRun r.key = some r → r.benches[(s.workAt h.core).benches]? = some st →
    ∃ t, exec (.benchmark h rd rs1 arg) s = .next t ∧ reg t h rd = (if rd = 0 then 0 else st.zeroExtend 64) ∧
      (t.workAt h.core).benches = (s.workAt h.core).benches + 1 ∧ WentOn s t h rd ((s.hart h).pc + 4) ∧
      SameMemories t s) ∧
  (∀ (s : State) (h : Hart) (rd : BitVec 5) (arg : BitVec 8) (r : Run), Executes s h r → arg.toNat ≤ 7 → rd ≠ 0 →
    ∃ t, exec (.rdid h rd arg) s = .next t ∧ OnlyHart s t h ∧ WentOn s t h rd ((s.hart h).pc + 4) ∧
      some (reg t h rd) = (([(r.cores.takeWhile (fun k => decide (k ≠ h.core))).length, r.cores.length,
        if h.cc then 1 else 0, r.key.ctx, s.fab.chip, h.core, r.hdr.dataBytes, s.boot.fw.arithRev][arg.toNat]?).map
        (BitVec.ofNat 64))) ∧
  (∀ (s : State) (h : Hart) (rd : BitVec 5) (arg : BitVec 8) (r : Run), Executes s h r → arg.toNat ≤ 2 →
    ∃ t, exec (.readTime h rd arg) s = .next t ∧ WentOn s t h rd ((s.hart h).pc + 4) ∧ SameMemories t s ∧
      (1 ≤ arg.toNat → (s.portAt (arg.toNat - 1)).time = 0 → rd ≠ 0 → reg t h rd = BitVec.allOnes 64))

/-- R332, R334: END with every command of the RUN's cores completed and no spin run configured stops its control core with
the status of rs1; YIELD_SLICE while no other context of the plot is runnable has no effect but its own retirement. That
END moves the PC on: log entry 68. -/
def Obligations.EndAndYieldComplete : Prop :=
  (∀ (s : State) (h : Hart) (rs1 : BitVec 5) (r : Run), Executes s h r → r.spin = none →
    (∀ n u, ((s.workAt n).unitQ u).queue = []) → nextHolder s (s.ctxAt r.key.ctx).plot = none →
    ∃ t, exec (.endProgram h rs1) s = .next t ∧
      t.hart h = { s.hart h with
        pc := (s.hart h).pc + 4, mode := .ended, wait := .none
        endStatus := if (reg s h rs1).truncate 16 ∈ statusTable then (reg s h rs1).truncate 16 else stBadField } ∧
      SameMemories t s) ∧
  (∀ (s : State) (h : Hart) (r : Run), Executes s h r → nextHolder s (s.ctxAt r.key.ctx).plot = none →
    holdsPlot s r.key.ctx = true → ∃ t, exec (.yieldSlice h) s = .next t ∧ OnlyHart s t h ∧
      t.hart h = { s.hart h with pc := (s.hart h).pc + 4, mode := .running, wait := .none, yielded := true })

/-! ### Spin commands (05, 06) -/

/-- R155, R174: TABLE_LOAD, and EXCH_TABLE_LOAD, whose SRC_OFF is a multiple of 64 and whose 32,768 bytes lie in the data
area copies those bytes of the core store into its context's acceptance table, or exchange table, and ends DONE; the
other table, every memory and the core store are as before. -/
def Obligations.TableLoadsComplete : Prop :=
  ∀ (s : State) (core : Nat) (r : Run) (q : Cmd), unitReady s core .spin = some (r, q) →
    turnOf (s.workAt core) .spin q.ordinal = true → fieldOf q.bytes 1 7 = 0 → fieldOf q.bytes 12 52 = 0 →
    fieldOf q.bytes 8 4 % 64 = 0 → fieldOf q.bytes 8 4 + 32768 ≤ r.hdr.dataBytes →
    storeBad s core (fieldOf q.bytes 8 4) 32768 = none →
    (cmdOp q.bytes = 0x22 → ∃ t, exec (.tableLoad core) s = .next t ∧
      (∀ i, i < 32768 → memRead (t.ctxAt r.key.ctx).accTable i = storeByte s core (fieldOf q.bytes 8 4 + i)) ∧
      (t.ctxAt r.key.ctx).exchTable = (s.ctxAt r.key.ctx).exchTable ∧ EndsUnit s t core .spin stDone ∧
      SameMemories t s ∧ (t.workAt core).store = (s.workAt core).store) ∧
    (cmdOp q.bytes = 0x24 → ∃ t, exec (.exchTableLoad core) s = .next t ∧
      (∀ i, i < 32768 → memRead (t.ctxAt r.key.ctx).exchTable i = storeByte s core (fieldOf q.bytes 8 4 + i)) ∧
      (t.ctxAt r.key.ctx).accTable = (s.ctxAt r.key.ctx).accTable ∧ EndsUnit s t core .spin stDone ∧
      SameMemories t s ∧ (t.workAt core).store = (s.workAt core).store)

/-- R122, R145, R152 to R154, R164 to R171, R180, R186, R187: a SPIN_TRAVERSE or a SPIN_SCHEDULE that every core of its RUN
has issued alike, on a configured run of one chip, with its checks passed, starts, with a traverse to run and finite
starting tallies, at its STEP, or at the run block's, with its own mask, seed and tallies, its start messages on their way;
no spin and no memory changes yet. With TRAVERSES zero the SPIN_TRAVERSE ends DONE at once on every core and writes nothing;
with ENTRY equal to ENTRY_COUNT the SPIN_SCHEDULE ends DONE at once and writes BENCH_NEXT and its run record, SCHEDULE END
the reason, no traverse run. What its start and its end transfer of near memory its RUN's lowest core has the credits for
(R464, R465; log entry 56). BENCH_NEXT of a finished schedule: log entry 42. -/
def Obligations.SpinCommandsStart : Prop :=
  ∀ (s : State) (core : Nat) (cut : List Parcel) (r : Run) (q : Cmd) (Q : SpinRun),
    let s1 := s.updWork core (fun w => { w with spinU := { w.spinU with running := true } })
    let finite := ∀ k, k ∈ namedReplicas (fieldOf q.bytes 16 8) →
      laccFinite (laccOfImage ((tallyArray s1 (r.cores.headD 0) q.bytes).getD k [])) = true
    let start (blk : List Byte) : Nat := nearCost s1 r.key.ctx (startReads s1 Q q.bytes blk)
    let covered (n : Nat) : Prop := affords s1 (r.cores.headD 0) n = true
    let allDone (t : State) : Prop := ∀ n, n ∈ r.cores → (s1.workAt n).run = some r.key →
      (t.workAt n).spinU.result = some stDone ∧ (t.workAt n).store = (s1.workAt n).store
    unitReady s core .spin = some (r, q) → turnOf (s.workAt core) .spin q.ordinal = true → r.cores ≠ [] →
    (∀ n, n ∈ r.cores → spinHead (runWork s1 r n) = some q.bytes) → armStoreBad s1 r q.bytes = none →
    r.spin = some Q → Q.cmd = none → Q.group = none → groupOf s r.key.ctx = none →
    (Q.plat.spinInit = false ∨ Q.last.isSome = true) →
    (cmdOp q.bytes = 0x21 → travFirst r q.bytes (betaArray s1 (r.cores.headD 0) q.bytes) = none →
      travSecond Q.plat q.bytes = none → covered (start []) →
      (finite → fieldOf q.bytes 4 4 ≠ 0 →
        ∃ t Q' c, exec (.spinTraverse core cut) s = .next t ∧
        t.findRun r.key = some { r with spin := some Q', block := none } ∧
        Q'.cmd = some c ∧ Q'.plat = Q.plat ∧ Q'.spins = Q.spins ∧ c.started = true ∧ c.result = none ∧
        c.mail = startMail Q c.mask ∧
        c.step = fieldOf q.bytes 32 6 ∧ c.remaining = fieldOf q.bytes 4 4 ∧ c.mask = fieldOf q.bytes 16 8 ∧
        c.seed = BitVec.ofNat 64 (fieldOf q.bytes 40 8) ∧ c.tallies = tallyArray s1 (r.cores.headD 0) q.bytes ∧
        SameMemories t s) ∧
      (fieldOf q.bytes 4 4 = 0 →
        ∃ t c, exec (.spinTraverse core cut) s = .next t ∧ SameMemories t s ∧ allDone t ∧
        t.findRun r.key = some { r with spin := some { Q with last := some c }, block := none } ∧ c.result = some stDone ∧
        c.traversesRun = 0)) ∧
    (∀ blk, cmdOp q.bytes = 0x23 → schedFirst s1 r q.bytes = none → checkSecond s1 r Q.plat q.bytes none = .ok blk →
      (blockCaptures q.bytes blk = false ∨ Q.shadow = true) → covered (start blk) →
      (finite → (nextEntry (parseBlock blk) (fieldOf blk 128 2) (fieldOf blk 132 4)).1 < (parseBlock blk).entries.length →
        ∃ t Q' c, exec (.spinSchedule core cut) s = .next t ∧
        t.findRun r.key = some { r with spin := some Q', block := none } ∧
        Q'.cmd = some c ∧ Q'.plat = Q.plat ∧ Q'.spins = Q.spins ∧ c.started = true ∧ c.result = none ∧
        c.mail = startMail Q c.mask ∧
        c.step = fieldOf blk 136 6 ∧ c.block = some (parseBlock blk) ∧ c.mask = fieldOf q.bytes 16 8 ∧
        c.pos = (List.range 64).map (fun k => fieldOf blk (144 + k) 1) ∧
        c.tallies = tallyArray s1 (r.cores.headD 0) q.bytes ∧ SameMemories t s) ∧
      (fieldOf blk 128 2 = fieldOf blk 0 2 → recordOk s r.key.ctx (fieldOf blk 32 8) = true →
        Reaches s r (fieldOf q.bytes 24 8 + 130) 2 true → Reaches s r (fieldOf blk 32 8) 128 true →
        covered (start blk + nearCost s1 r.key.ctx [(fieldOf q.bytes 24 8 + 130, 2), (fieldOf blk 32 8, 128)]) →
        ∃ t c e, exec (.spinSchedule core cut) s = .next t ∧ allDone t ∧
        t.findRun r.key = some { r with spin := some { Q with last := some c }, block := none } ∧ c.result = some stDone ∧
        c.stopReason = 1 ∧ c.traversesRun = 0 ∧ c.benchCount = 0 ∧ c.step = fieldOf blk 136 6 ∧
        SameMemories t (vaWrite
          (vaWrite s r.key.ctx (fieldOf q.bytes 24 8 + 130)
            (natLe 2 (if fieldOf blk 130 2 < fieldOf blk 52 2 then fieldOf blk 130 2 else 0)))
          r.key.ctx (fieldOf blk 32 8)
          (recordImage q.bytes (some c) Q.plat.order stDone c.step c.step s.boot.fw.arithRev e))))

/-- What a strip counts: the sites that it decides, the corrected errors that its reads met, its credits, and nothing in any
memory (R158, R161, R464). -/
def StripCounts (s u : State) (core sites corrected cost : Nat) : Prop :=
  (u.coreAt core).siteUpdates = (s.coreAt core).siteUpdates + BitVec.ofNat 64 sites ∧
  (u.coreAt core).csCorrected = (s.coreAt core).csCorrected + BitVec.ofNat 64 corrected ∧
  u.power.credits = (spend s core cost).power.credits ∧ SameMemories u s

/-- R132, R137 to R141, R144, R158, R161, R464, R465: a strip that may issue, that is ready and that its core's credits
cover. Under CHROMATIC, of the present traverse or the next, of a run alone or of a group's, it decides its sites: each new
bit of its replica is the decision unit's from the site's field, β, the acceptance table and the site's ACCEPT word; the
other replicas' bits stay. What follows is what settleSpin makes of that: in a run alone, while the phase is still
incomplete, nothing, and the tallies stay. Under SYNC a decide strip of a run alone keeps which of its sites flip and writes
no bit, and a resolve strip flips those that had decided to, but a site that yields: under policy 1 one with a coupled
neighbour of lower index that flips too. SITE_UPDATES counts the sites decided, CS_CORRECTED the corrected errors, and no
memory changes. A strip that is not ready leaves its core waiting, one that the credits do not cover changes nothing. MODE
of a strip that waits: log entry 67; what a core's credits pay for: log entry 56. -/
def Obligations.StripsDecideTheirSites : Prop :=
  ∀ (s : State) (core replica step strip : Nat) (resolve : Bool) (corrected : Nat) (r : Run) (q : SpinRun) (c : SpinCmd)
    (par : Parcel) (sites : List Site),
    let i := Instr.stripIssue core replica step strip resolve corrected
    let phase := step - c.step
    let P := platSteps q.plat
    let rd := platByte s r.key.ctx q.plat.va
    let turn := if phase < P then c else nextTurn c
    let lin := siteLin q.plat
    let cost := stripCost s r.key.ctx q c core replica sites.length resolve
    let new (masks : List Nat) (x : Site) : Bool := decideBit turn.rule (turn.betas.getD replica 0).toNat (s.ctxAt r.key.ctx).accTable
      (.fin ⟨siteField q.plat q.scales rd (fun k => readSpin q masks core replica step (siteOfLin q.plat k)) x, -200⟩)
      (maskBit masks replica (lin x)) (acceptWord turn x replica step)
    s.runOf core = some r → r.spin = some q → q.cmd = some c → q.cut.find? (fun t => decide (t.core = core)) = some par →
    mayStrip s r q c par replica step resolve = true → c.limit = none → c.result = none → replica < q.spins.length →
    replica < (decidedOf q c phase).length → replica < c.flipping.length →
    (parcelStrips q.plat par (phase % P))[strip]? = some sites → (sites.map lin).Nodup → armBad s r core = none →
    placeLost s r.key.ctx q core = none → readsStop s r.key.ctx (stripReads q.plat sites) = none →
    (affords s core cost = false → exec i s = .next s) ∧
    (affords s core cost = true → stripGoes s q c core replica step sites resolve = false →
     ∃ t, exec i s = .next t ∧ t = { s with cores := t.cores } ∧ t.workAt core = { s.workAt core with spinMode := 2 } ∧
       (t.coreAt core).spinBusy = 0) ∧
    (affords s core cost = true → stripGoes s q c core replica step sites resolve = true →
     (q.plat.order = 0 →
      (∃ u Q' c', exec i s = .next (settleSpin u r.key) ∧ u.findRun r.key = some { r with spin := some Q' } ∧ Q'.cmd = some c' ∧
        (∀ x, x ∈ sites → maskBit Q'.spins replica (lin x) = new q.spins x ∧
          maskBit (decidedOf Q' c' phase) replica (lin x) = true) ∧
        (∀ k, k ≠ replica → Q'.spins.getD k 0 = q.spins.getD k 0) ∧ c'.tallies = c.tallies ∧
        (u.coreAt core).headStep = step ∧ StripCounts s u core sites.length corrected cost) ∧
      (q.group = none → (∀ c', (applyStrip q c phase replica (decideStrip q turn rd (s.ctxAt r.key.ctx).accTable core replica step
          sites)).cmd = some c' → phaseDone q c' c.tallied = false) →
       ∃ t Q' c', exec i s = .next t ∧ t.findRun r.key = some { r with spin := some Q' } ∧ Q'.cmd = some c' ∧
        c'.tallies = c.tallies ∧ (∀ x, x ∈ sites → maskBit Q'.spins replica (lin x) = new q.spins x) ∧
        StripCounts s t core sites.length corrected cost)) ∧
     (q.plat.order ≠ 0 → resolve = false → q.group = none →
      ∃ t Q' c', exec i s = .next t ∧ t.findRun r.key = some { r with spin := some Q' } ∧ Q'.cmd = some c' ∧
        Q'.spins = q.spins ∧ c'.tallies = c.tallies ∧
        (∀ x, x ∈ sites → maskBit c'.decided replica (lin x) = true ∧
          maskBit c'.flipping replica (lin x) = (new c.before x != maskBit c.before replica (lin x))) ∧
        StripCounts s t core sites.length corrected cost) ∧
     (q.plat.order ≠ 0 → resolve = true →
      ∃ u Q' c', exec i s = .next (settleSpin u r.key) ∧ u.findRun r.key = some { r with spin := some Q' } ∧ Q'.cmd = some c' ∧
        (∀ x, x ∈ sites →
          (let yields := (bondsOf q.plat x).any (fun b => decidedFlip q c replica b.partner && decide (bondCode q.plat rd b ≠ 0) &&
             decide (siteIndex b.partner.x b.partner.y b.partner.z < siteIndex x.x x.y x.z))
           maskBit Q'.spins replica (lin x) =
             (maskBit c.before replica (lin x) != (decidedFlip q c replica x && !(decide (c.policy ≠ 0) && yields))))) ∧
        (∀ k, k ≠ replica → Q'.spins.getD k 0 = q.spins.getD k 0) ∧
        StripCounts s u core 0 corrected cost))

/-- R25, R125, R138, R146, R457, R459: of the easement messages between two cores of a run that have not arrived, the one sent
first comes, whatever is asked for: it sets its flag; a start message brings the band's bits from before the command, a
message of a step the bits that the step has given, one of decisions no bit of a spin. No spin and no memory changes. To a
core whose spin unit is being reset it brings the run's end with UNIT_RESET. -/
def Obligations.EasementMessagesComplete : Prop :=
  ∀ (s : State) (dst src step replica bits : Nat) (kind : EasementKind) (r : Run) (q : SpinRun) (c : SpinCmd) (a b : Parcel),
    let p := q.plat
    let n := match kind with | .start => 0 | .bits => 1 | .decisions => 2
    let m := ((dst, src, step, replica, n), bits)
    let band := bandSites p a b
    let col := if p.order = 0 then band.filter (fun i => decide (siteColour i.x i.y i.z = step % platSteps p)) else band
    s.runOf dst = some r → r.spin = some q → q.cmd = some c → q.cut.find? (fun t => decide (t.core = src)) = some a →
    q.cut.find? (fun t => decide (t.core = dst)) = some b →
    c.mail.find? (fun e => decide (e.1.1 = dst ∧ e.1.2.1 = src)) = some m →
    (unitQuiet (s.coreAt dst) .spin = true →
      ∃ t Q' c', exec (.easementMessage dst src step replica kind) s = .next t ∧
        t.findRun r.key = some { r with spin := some Q' } ∧ Q'.cmd = some c' ∧ c'.flags = m.1 :: c.flags ∧
        c'.mail = c.mail.erase m ∧ Q'.spins = q.spins ∧ SameMemories t s ∧
        (kind = .start → ∀ i, i ∈ band →
          (tabGet 0 Q'.easement (easeKey p dst replica c.firstStep)).testBit (siteLin p i) = bits.testBit (siteLin p i)) ∧
        (kind = .bits → ∀ i, i ∈ col →
          (tabGet 0 Q'.easement (easeKey p dst replica (step + 1))).testBit (siteLin p i) = bits.testBit (siteLin p i)) ∧
        (kind = .decisions → Q'.easement = q.easement)) ∧
    (∀ step' replica' kind', (step', replica', kind') ≠ (step, replica, kind) →
      exec (.easementMessage dst src step' replica' kind') s = .next s) ∧
    (unitQuiet (s.coreAt dst) .spin = false → groupOf s r.key.ctx = none → q.group = none →
      ∃ t, exec (.easementMessage dst src step replica kind) s = .next t ∧
        ∀ k, k ∈ r.cores → (s.workAt k).run = some r.key → (spinHead (s.workAt k)).isSome = true →
          (t.workAt k).spinU.result = some stUnitReset)

/-- R134, R143, R152, R176, R180, R185: the boundary after a traverse of a SPIN_TRAVERSE whose steps are all complete, no
benchmark or snapshot waiting and no WAIT descriptor to evaluate. With a traverse still to run it begins the next one: the
step moves on by the steps of a traverse, one traverse fewer remains, no site is decided, and the spins, the tallies and
every memory are as before. After the last one the command ends DONE: the named replicas' planes go into the plat, the
tallies into the TALLY_OFF array of every core, and every core that has taken the command up has its status; the RUN's lowest
core has the credits for the planes' bytes of near memory (R464, R465; log entry 56). Padding of the planes: log entry 14. -/
def Obligations.TraverseBoundariesComplete : Prop :=
  ∀ (s : State) (k : RunKey) (wall : Bool) (r : Run) (q : SpinRun) (c : SpinCmd),
    s.findRun k = some r → runActive s r = true → r.benchWait = none → (s.ctxAt k.ctx).snapRun ≠ some k →
    (∀ x n, nextOf s x n 2 [1, 2] = none) → r.spin = some q → q.group = none → q.cmd = some c → c.block = none →
    c.started = true → c.result = none → c.limit = none → platSteps q.plat ≤ c.tallied →
    (2 ≤ c.remaining → (∀ i, c.ahead.getD i 0 = 0) → phaseMask q.plat 0 ≠ 0 → namedReplicas c.mask ≠ [] →
     ∃ t Q' c', exec (.traverseBoundary k wall) s = .next t ∧ t.findRun k = some { r with spin := some Q' } ∧
      Q'.cmd = some c' ∧ Q'.spins = q.spins ∧ c'.step = c.step + platSteps q.plat ∧ c'.remaining = c.remaining - 1 ∧
      c'.traversesRun = c.traversesRun + 1 ∧ c'.tallies = c.tallies ∧ (∀ i, c'.decided.getD i 0 = 0) ∧ SameMemories t s) ∧
    (let ws := (namedReplicas c.mask).map (planeWrite s k.ctx q.plat q.spins)
     c.remaining = 1 → c.schedule = false → (∀ w, w ∈ ws → rangeStop s k.ctx w.1 w.2.length true = none) →
     (∀ m, m ∈ namedReplicas c.mask → (c.tallies.getD m []).length = 48) →
     affords s (r.cores.headD 0) (nearCost s k.ctx (writeRanges ws)) = true →
     ∃ t c', exec (.traverseBoundary k wall) s = .next t ∧
      t.findRun k = some { r with spin := some { q with cmd := none, last := some c' } } ∧ c'.result = some stDone ∧
      c'.step = c.step + platSteps q.plat ∧ c'.tallies = c.tallies ∧
      SameMemories t (ws.foldl (fun u w => vaWrite u k.ctx w.1 w.2) s) ∧
      ∀ n, n ∈ r.cores → (s.workAt n).run = some k → (spinHead (s.workAt n)).isSome = true →
        (t.workAt n).spinU.result = some stDone ∧
        (memWf (s.workAt n).store = true → ∀ m, m ∈ namedReplicas c.mask →
          storeRead t n (c.tallyOff + 48 * m) 48 = c.tallies.getD m []))

/-! ### Dense and vector engines, DMA (07, 11) -/

/-- R154, R190 to R209, R313, R465: DENSE_MATMUL, DENSE_CONVERT and DENSE_ANNEAL, each at the head of its unit's queue, and
covered by its cores' credits. DENSE_MATMUL of BF16 operands in one partition, on an engine with all banks, to
floating-point outputs writes the output step's value of each cell's sum and adds its M · N · K products to MACS;
DENSE_CONVERT with computed scales writes the codes, the second-level and the first-level scales of every column;
DENSE_ANNEAL in SYNC_KEEP mode on a BF16 problem without biases, issued alike by every core of its RUN, writes the rows that
its traverses leave. All end DONE, and write nothing else, whatever parity errors its tiles meet. In every other case a
command leaves the memories and takes the status that its work gives (matmulBody and the others state the work by these
rules); the command stays at the head until it completes. One that the credits do not cover pays what there is, and waits.
That a command ends DONE where no engine of its RUN has the banks left after a parity error is the model's choice, log entry
75. Padding of rows: log entries 14 and 17; several cores: log entry 37; an open pitch: log entry 89; what pays for what:
log entry 56. -/
def Obligations.EngineCommandsComplete : Prop :=
  (∀ (s : State) (core : Nat) (parity : List (Nat × Bool)) (r : Run) (q : Cmd),
     let c := r.key.ctx
     let f := fieldOf q.bytes
     let m := f 4 4
     let n := f 8 4
     let k := f 12 4
     let opb := vaRead s c (f 24 8) 64
     let ob := vaRead s c (fieldOf opb 32 8) 64
     let na := storedBytes (bitOf (f 2 1) 0) m k 16
     let nw := storedBytes (bitOf (f 2 1) 1) n k 16
     let x : MatIn := ⟨q.bytes, [], [], [], [], [], [], vaRead s c (fieldOf opb 0 8) na, vaRead s c (fieldOf opb 16 8) nw⟩
     let cells := (List.range m).map (fun i => (List.range n).map (fun j =>
       outCell ob ⟨laccNum (cellBf (x.aRaw i) (x.wRaw j) 0 k).1, none⟩ (some 0x3F80_0000)))
     unitReady s core .dense = some (r, q) → cmdOp q.bytes = 0x31 → matmulStatus q.bytes = none → f 1 1 % 4 = 0 → f 16 4 = 0 →
     (s.coreAt core).bankGood = 0xFFF → Fetches s r (f 24 8) 64 → operandBad opb = false →
     fieldOf opb 8 8 = 0 → fieldOf opb 24 8 = 0 → fieldOf opb 32 8 ≠ 0 → fieldOf opb 40 8 = 0 →
     Fetches s r (fieldOf opb 32 8) 64 → outStatus ob m n false = none → fieldOf ob 0 1 ≤ 2 →
     Fetches s r (fieldOf opb 0 8) na → Fetches s r (fieldOf opb 16 8) nw → Delivers s r (outWrites ob n cells) →
     affords s core (runUp (chargeDense s r q.bytes (matmulBody s core r q.bytes))) = true →
     ∃ t, exec (.denseMatmul core parity) s = .next t ∧ EndsUnit s t core .dense stDone ∧
       SameMemories t (written (touched s c [(f 24 8, 64), (fieldOf opb 32 8, 64), (fieldOf opb 0 8, na),
         (fieldOf opb 16 8, nw)]) c (outWrites ob n cells)) ∧
       (t.coreAt core).macs = (s.coreAt core).macs + BitVec.ofNat 64 (m * n * k)) ∧
  (∀ (s : State) (core : Nat) (r : Run) (q : Cmd),
     let c := r.key.ctx
     let f := fieldOf q.bytes
     let k := f 4 4
     let n := f 8 4
     let e := inBytes (f 1 1)
     let b := vaRead s c (f 24 8) 64
     let g := (k + qGroup b - 1) / qGroup b
     let nsrc := if bitOf (f 2 1) 0 then k * rowPad n (8 * e) else n * rowPad k (8 * e)
     let cols := (sourceColumns (f 1 1) k n (bitOf (f 2 1) 0) (vaRead s c (f 16 8) nsrc)).map (fun xs =>
       if bitOf (fieldOf b 3 1) 0 then rotated true xs else xs)
     let outs := cols.zipIdx.map (fun p => convertColumn (qFmt b) (qGroup b) p.2 p.1)
     let ws := outs.zipIdx.map (fun p => (f 32 8 + p.2 * rowPad k (fmtWidth (qFmt b)), packCodes (fmtWidth (qFmt b)) p.1.codes)) ++
       [(fieldOf b 24 8, outs.flatMap (fun o => natLe 4 o.s2)),
        (fieldOf b 8 8, (List.range g).flatMap (fun i => outs.flatMap (fun o => natLe 1 (o.scales.getD i 0))))]
     unitReady s core .dense = some (r, q) → cmdOp q.bytes = 0x33 → convertCmdStatus q.bytes = none →
     Fetches s r (f 24 8) 64 → weightBlkBad b k = false → fieldOf b 2 1 = 0 → fieldOf b 40 8 = 0 →
     f 32 8 + n * rowPad k (fmtWidth (qFmt b)) ≤ 2 ^ 48 → fieldOf b 8 8 + g * n ≤ 2 ^ 48 → fieldOf b 24 8 + 4 * n ≤ 2 ^ 48 →
     Fetches s r (f 16 8) nsrc → Delivers s r ws →
     affords s core (runUp (chargeDense s r q.bytes (denseConvertBody s r q.bytes))) = true →
     ∃ t, exec (.denseConvert core) s = .next t ∧ EndsUnit s t core .dense stDone ∧
       SameMemories t (written (touched s c [(f 24 8, 64), (f 16 8, nsrc)]) c ws)) ∧
  (∀ (s : State) (core : Nat) (parity : List (Nat × Nat × Bool)) (r : Run) (q : Cmd),
     let c := r.key.ctx
     let f := fieldOf q.bytes
     let low := r.cores.headD 0
     let s1 := s.updWork core (fun w => { w with denseU := { w.denseU with running := true } })
     let ab := vaRead s c (f 8 8) 64
     let n := fieldOf ab 0 4
     let named := namedReplicas (f 16 8)
     let nj := n * rowPad n 16
     let nx := (named.getLastD 0 + 1) * rowPad n 1
     let old := vaRead s c (fieldOf ab 56 8) nx
     let row (k : Nat) : List Byte := (old.drop (k * rowPad n 1)).take ((n + 7) / 8)
     let tallies := (tallyArray s low q.bytes).map laccOfImage
     let x : StepIn := ⟨q.bytes, n, ⟨⟨[], [], [], vaRead s c (fieldOf ab 8 8) nj, n, n⟩, noCodes, noCodes⟩,
       betaArray s low q.bytes, (s.ctxAt c).accTable⟩
     let o := annealAll x 0 1 ⟨(List.range 64).map (fun k => leNat (row k) % 2 ^ n), tallies, 0, 0, false⟩
     let ws := named.map (fun k => (fieldOf ab 56 8 + k * rowPad n 1, rowImage n (o.rows.getD k 0) (row k)))
     unitReady s core .dense = some (r, q) → cmdOp q.bytes = 0x32 → turnOf (s.workAt core) .dense q.ordinal = true →
     r.cores ≠ [] → (∀ n, n ∈ r.cores → annealHead (runWork s1 r n) = some q.bytes) →
     annealFirst r q.bytes (betaArray s low q.bytes) = none → storeBad s low (f 24 4) 256 = none →
     storeBad s low (f 28 4) 3072 = none → f 1 1 = 2 → f 4 4 ≠ 0 → (s.coreAt low).bankGood = 0xFFF →
     Fetches s r (f 8 8) 64 → annealBlock q.bytes ab = none → annealSecond q.bytes ab = false →
     fieldOf ab 16 8 = 0 → fieldOf ab 40 8 = 0 → Fetches s r (fieldOf ab 8 8) nj → Fetches s r (fieldOf ab 56 8) nx →
     (∀ k, k ∈ named → laccFinite (tallies.getD k (.fin 0)) = true) → o.full = false → Delivers s r ws →
     (∀ st v, annealBody s1 r q.bytes = .done st v → ∀ n, n ∈ r.cores → affords s1 n (annealCost s1 v r q.bytes n) = true) →
     ∃ t, exec (.denseAnneal core parity) s = .next t ∧
       SameMemories t (written (touched s c [(f 8 8, 64), (fieldOf ab 8 8, nj), (fieldOf ab 56 8, nx)]) c ws) ∧
       (∀ n, n ∈ r.cores → (s.workAt n).run = some r.key → (t.workAt n).denseU.result = some stDone)) ∧
  (∀ (s : State) (core : Nat) (parity : List (Nat × Bool)) (r : Run) (q : Cmd) (st : Status) (u : State),
     let cost := runUp (chargeDense s r q.bytes (.done st u))
     unitReady s core .dense = some (r, q) →
       (cmdOp q.bytes = 0x31 → matmulBody s core r q.bytes = .done st u →
         (affords s core cost = true →
           ∃ t, exec (.denseMatmul core parity) s = .next t ∧ EndsUnit u t core .dense st ∧ SameMemories t u) ∧
         WaitsUnpaid (.denseMatmul core parity) s s core .dense cost) ∧
       (cmdOp q.bytes = 0x33 → denseConvertBody s r q.bytes = .done st u →
         (affords s core cost = true →
           ∃ t, exec (.denseConvert core) s = .next t ∧ EndsUnit u t core .dense st ∧ SameMemories t u) ∧
         WaitsUnpaid (.denseConvert core) s s core .dense cost)) ∧
  (∀ (s : State) (core : Nat) (pairs : List (Nat × Nat × Bool)) (r : Run) (q : Cmd) (st : Status) (u : State),
     let s1 := s.updWork core (fun w => { w with denseU := { w.denseU with running := true } })
     unitReady s core .dense = some (r, q) → cmdOp q.bytes = 0x32 → turnOf (s.workAt core) .dense q.ordinal = true →
     r.cores ≠ [] → (∀ n, n ∈ r.cores → annealHead (runWork s1 r n) = some q.bytes) →
     annealBody s1 r q.bytes = .done st u → (∀ n, n ∈ r.cores → affords s1 n (annealCost s1 u r q.bytes n) = true) →
     ∃ t, exec (.denseAnneal core pairs) s = .next t ∧ SameMemories t u ∧
       (∀ n, n ∈ r.cores → (s.workAt n).run = some r.key → (t.workAt n).denseU.result = some st))

/-- R67 to R71, R88, R93, R121, R172 to R175, R211 to R213, R465: the vector commands, each at the head of its unit's queue
while no SPIN_SCHEDULE and no DENSE_ANNEAL uses the vector engine, and covered by its core's credits. AXPY with COUNT not
zero writes RN(y + RN(α · x)) for each element to Y, ROTATE the rotated rows over its rows, COMBINE the output step's value
of each output's combined partials, CONVERT under CURRENT the codes of each row by its own range with its scale and zero
point, READOUT the chain records of each named replica, ENERGY in plat mode the energy of each; EXCHANGE whose fields pass
its checks, on positions that are a permutation, writes the positions after the round's pairs back and adds the round's
attempts, swaps and NaN results to the counters. All end DONE and write nothing else. In every other case COMBINE, CONVERT,
READOUT and ENERGY leave the memories and take the status that their work gives. One that the credits do not cover pays what
there is, and waits. Padding of rows and records: log entry 17; what pays for what: log entry 56. -/
def Obligations.VectorResultsComplete : Prop :=
  (∀ (s : State) (core : Nat) (r : Run) (q : Cmd),
     let f := fieldOf q.bytes
     let c := r.key.ctx
     let v := s.updCore core (fun c => { c with vecMode := 1 })
     let covered (o : EngOut) : Prop := affords v core (runUp o) = true
     unitReady s core .vector = some (r, q) → vectorHeld s r core = false →
     (let x := vaRead s c (f 8 8) (4 * f 4 4)
      let y := vaRead s c (f 16 8) (4 * f 4 4)
      cmdOp q.bytes = 0x47 → axpyBad q.bytes = false → f 4 4 ≠ 0 → Fetches s r (f 8 8) (4 * f 4 4) →
      Fetches s r (f 16 8) (4 * f 4 4) → Reaches s r (f 16 8) (4 * f 4 4) true →
      covered (axpyBody v r q.bytes) →
      ∃ t, exec (.axpy core) s = .next t ∧ EndsUnit s t core .vector stDone ∧
        SameMemories t (written (touched s c [(f 8 8, 4 * f 4 4), (f 16 8, 4 * f 4 4)]) c [(f 16 8,
          (List.range (f 4 4)).flatMap (fun i =>
            natLe 4 (fpAdd (fieldOf y (4 * i) 4) (fpMul (f 32 4) (fieldOf x (4 * i) 4)))))])) ∧
     (let x := vaRead s c (f 8 8) (512 * f 4 4)
      cmdOp q.bytes = 0x43 → rotateStatus q.bytes = none →
      Reaches s r (f 8 8) (512 * f 4 4) false → Reaches s r (f 8 8) (512 * f 4 4) true →
      covered (rotateBody v r q.bytes) →
      ∃ t, exec (.rotate core) s = .next t ∧ EndsUnit s t core .vector stDone ∧
        SameMemories t (written (touched s c [(f 8 8, 512 * f 4 4)]) c [(f 8 8,
          (rotateRow ((List.range (128 * f 4 4)).map (fun i => fieldOf x (4 * i) 4))).flatMap (natLe 4))])) ∧
     (let n := f 50 6 % 2 ^ 25
      let d := partStride (f 36 4) (if f 1 1 = 0 then 48 else 8)
      let ob := vaRead s c (f 24 8) 64
      let fa := fieldOf ob 16 8
      let nf := if fa = 0 then 0 else 4 * n
      let fs := vaRead s c fa nf
      let x := vaRead s c (f 8 8) (f 4 4 * n * d)
      let ws := outWrites ob n ((List.range (f 4 4)).map (fun i => (List.range n).map (fun j =>
        outCell ob (combineCell q.bytes (x.drop ((i * n + j) * d))) (if fa = 0 then none else some (fieldOf fs (4 * j) 4)))))
      cmdOp q.bytes = 0x41 → combineStatus q.bytes = none → Fetches s r (f 24 8) 64 → outStatus ob (f 4 4) n true = none →
      (fieldOf ob 0 1 ≤ 2 ∨ fieldOf ob 40 8 = 0) → Fetches s r fa nf → Fetches s r (f 8 8) (f 4 4 * n * d) → Delivers s r ws →
      covered (combineBody core v r q.bytes) →
      ∃ t, exec (.combine core) s = .next t ∧ EndsUnit s t core .vector stDone ∧
        SameMemories t (written (touched s c [(f 24 8, 64), (fa, nf), (f 8 8, f 4 4 * n * d)]) c ws)) ∧
     (let k := f 36 4
      let e := inBytes (f 1 1)
      let d := rowPad k (8 * e)
      let b := vaRead s c (f 24 8) 64
      let x := vaRead s c (f 8 8) (f 4 4 * d)
      let rows := (List.range (f 4 4)).map (fun i =>
        let xs := (List.range k).map (fun j => inVal (f 1 1) ((x.drop (i * d + j * e)).take e))
        if convertRotates q.bytes b then rotated false xs else xs)
      let outs := rows.map (fun xs => convertRow (qFmt b) xs (rangeOf xs).1 (rangeOf xs).2)
      let ws := outs.zipIdx.map (fun p => (f 16 8 + p.2 * rowPad k (fmtWidth (qFmt b)), packCodes (fmtWidth (qFmt b)) p.1.codes)) ++
        [(fieldOf b 8 8, outs.flatMap (fun o => natLe 4 o.scale)), (fieldOf b 16 8, outs.flatMap (fun o => natLe 1 o.zp))]
      cmdOp q.bytes = 0x42 → convertStatus q.bytes = none → Fetches s r (f 24 8) 64 → activationBlkBad q.bytes b = false →
      fieldOf b 2 1 = 0 → fieldOf b 40 8 = 0 → Fetches s r (f 8 8) (f 4 4 * d) → Delivers s r ws →
      covered (convertBody v r q.bytes) →
      ∃ t, exec (.convert core) s = .next t ∧ EndsUnit s t core .vector stDone ∧
        SameMemories t (written (touched s c [(f 24 8, 64), (f 8 8, f 4 4 * d)]) c ws))) ∧
  (∀ (s : State) (core : Nat) (parity : List (Nat × Bool)) (r : Run) (q : Cmd) (p : PlatInfo) (sc : PlatScales),
     let f := fieldOf q.bytes
     let c := r.key.ctx
     let v := s.updCore core (fun c => { c with vecMode := 1 })
     let named := namedReplicas (vecMask q.bytes)
     let base := if cmdOp q.bytes = 0x44 ∧ f 24 8 ≠ 0 then f 8 8 + 4096 else p.va + p.spinOff
     let planes := named.map (fun k => (base + k * spinPlaneBytes p, spinPlaneBytes p))
     let plane (i k : Nat) : Byte := (vaRead s c (base + k * spinPlaneBytes p) (spinPlaneBytes p)).getD i 0
     let block := (4 * p.chains + 63) / 64 * 64
     let records := named.zipIdx.map (fun m => (f 16 8 + m.2 * block,
       chainRecords p (chainEntries s c p) (chainSiteList s c p) (f 1 1) (readPlane p (plane · m.1) 0)))
     let energies := named.map (fun k => (f 16 8 + 48 * k,
       laccImage (platEnergy p sc (platByte s c p.va) (readPlane (withHalo p) (plane · k) 0).testBit)))
     unitReady s core .vector = some (r, q) → vectorHeld s r core = false →
     (∀ k, k ∈ named → Fetches s r (base + k * spinPlaneBytes p) (spinPlaneBytes p)) → vecMask q.bytes < 2 ^ p.replicas →
     (∀ a, a ∈ (p.va, 256) :: (scaleReads p ++ chainReads p) → Fetches s r a.1 a.2) →
     (cmdOp q.bytes = 0x44 → maskStatus q.bytes 2 = none →
       validatePlat s c (if f 24 8 ≠ 0 then f 24 8 else f 8 8) = .ok p sc → Delivers s r records →
       affords v core (runUp (readoutBody v r q.bytes)) = true →
       ∃ t, exec (.readout core) s = .next t ∧ EndsUnit s t core .vector stDone ∧
         SameMemories t (written (touched s c planes) c records)) ∧
     (cmdOp q.bytes = 0x45 → maskStatus q.bytes 1 = none → f 1 1 = 0 → groupOf s c = none →
       validatePlat s c (f 8 8) = .ok p sc → (∀ a, a ∈ drawReads p → Fetches s r a.1 a.2) → Delivers s r energies →
       affords v core (runUp (energyBody core v r q.bytes)) = true →
       ∃ t, exec (.energy core parity) s = .next t ∧ EndsUnit s t core .vector stDone ∧
         SameMemories t (written (touched s c planes) c energies))) ∧
  (∀ (s : State) (core : Nat) (r : Run) (q : Cmd),
     let f := fieldOf q.bytes
     let n := f 4 4
     let pos := (storeRead s core (f 16 8) n).map BitVec.toNat
     let energies := (List.range n).map (fun k => numRound fmt32 (laccNum (laccOfImage
       (((storeRead s core (f 8 8) (48 * n)).drop (48 * k)).take 48))))
     let betas := (List.range n).map (fun k => fieldOf (storeRead s core (f 24 8) (4 * n)) (4 * k) 4)
     let o := (roundPairs (f 32 4) n).foldl (roundPair (s.ctxAt r.key.ctx).exchTable q.bytes betas energies) ⟨pos, 0, 0, 0⟩
     unitReady s core .vector = some (r, q) → vectorHeld s r core = false → cmdOp q.bytes = 0x46 →
     affords s core (s.power.charge * creditUnit) = true →
     exchangeStatus r q.bytes = none → storeBad s core (f 8 8) (48 * n) = none → storeBad s core (f 24 8) (4 * n) = none →
     storeBad s core (f 16 8) n = none → (∀ p, p ∈ pos → p < n) → pos.Nodup →
     ∃ t, exec (.exchange core) s = .next t ∧ EndsUnit s t core .vector stDone ∧ SameMemories t s ∧
       (t.workAt core).store = memWriteN (s.workAt core).store (f 16 8) (o.pos.flatMap (natLe 1)) ∧
       (t.coreAt core).exchAttempts = (s.coreAt core).exchAttempts + BitVec.ofNat 64 o.attempts ∧
       (t.coreAt core).exchSwaps = (s.coreAt core).exchSwaps + BitVec.ofNat 64 o.swaps ∧
       (t.coreAt core).exchNan = (s.coreAt core).exchNan + BitVec.ofNat 64 o.nans) ∧
  (∀ (s : State) (core : Nat) (parity : List (Nat × Bool)) (r : Run) (q : Cmd) (st : Status) (u : State),
     let v := s.updCore core (fun c => { c with vecMode := 1 })
     let cost := runUp (.done st u)
     let ends (i : Instr) : Prop :=
       (affords v core cost = true → ∃ t, exec i s = .next t ∧ EndsUnit u t core .vector st ∧ SameMemories t u) ∧
       WaitsUnpaid i s v core .vector cost
     unitReady s core .vector = some (r, q) → vectorHeld s r core = false →
     (cmdOp q.bytes = 0x41 → combineBody core v r q.bytes = .done st u → ends (.combine core)) ∧
     (cmdOp q.bytes = 0x42 → convertBody v r q.bytes = .done st u → ends (.convert core)) ∧
     (cmdOp q.bytes = 0x44 → readoutBody v r q.bytes = .done st u → ends (.readout core)) ∧
     (cmdOp q.bytes = 0x45 → energyBody core v r q.bytes = .done st u → ends (.energy core parity)))

/-- R316, R317, R464, R465: a DMA command of one row whose sides each lie in one 4 KiB page and do not overlap moves its
LENGTH bytes by its KIND: 0 memory to core store, 1 core store to memory, 2 core store to the store of the core of PEER, 3
memory to memory; it ends DONE. Its core pays 15.625 pJ for each byte of near memory, and one whose credits do not cover
them moves nothing yet. Under every KIND a PEER that names no core of the RUN gives BAD_FIELD. What pays for what: log entry
56; PEER: log entry 100. -/
def Obligations.DmaCommandsComplete : Prop :=
  ∀ (s : State) (core : Nat) (r : Run) (q : Cmd),
    let f := fieldOf q.bytes
    let c := r.key.ctx
    let n := f 8 8
    let peer := r.cores.getD (f 48 4) core
    let near := (if f 1 1 = 0 ∨ f 1 1 = 3 then nearBytes s c (f 16 8) n else 0) +
      (if f 1 1 = 1 ∨ f 1 1 = 3 then nearBytes s c (f 24 8) n else 0)
    let paid := payUnits s core .dma (nearCharge near)
    unitReady s core .dma = some (r, q) →
    (f 0 1 = 1 → r.cores.length ≤ f 48 4 →
      ∃ t, exec (.dmaCommand core) s = .next t ∧ EndsUnit s t core .dma stBadField ∧ SameMemories t s) ∧
    (dmaStatus r q.bytes = none → n ≠ 0 → f 4 4 ≤ 1 →
    (s.workAt core).dmaU.moved = 0 → f 16 8 % 4096 + n ≤ 4096 → f 24 8 % 4096 + n ≤ 4096 → dmaOverlap q.bytes = false →
    (if f 1 1 = 0 ∨ f 1 1 = 3 then Reaches s r (f 16 8) n false else storeBad s core (f 16 8) n = none) →
    (f 1 1 = 1 ∨ f 1 1 = 3 → Reaches s r (f 24 8) n true) →
    (paid.2 = false → ∃ t, exec (.dmaCommand core) s = .next t ∧ SameMemories t s ∧ t.power.credits = paid.1.power.credits ∧
      (t.workAt core).dmaU = { (paid.1.workAt core).dmaU with running := true } ∧
      (t.workAt core).store = (s.workAt core).store) ∧
    (paid.2 = true → ∃ t, exec (.dmaCommand core) s = .next t ∧ t.power.credits = paid.1.power.credits ∧
      (t.workAt core).dmaU = { (paid.1.workAt core).dmaU with running := true, moved := n, result := some stDone } ∧
      (f 1 1 = 0 → SameMemories t s ∧
        (t.workAt core).store = memWriteN (s.workAt core).store (f 24 8) (vaRead s c (f 16 8) n)) ∧
      (f 1 1 = 1 → SameMemories t (vaWrite s c (f 24 8) (memReadN (s.workAt core).store (f 16 8) n))) ∧
      (f 1 1 = 2 → SameMemories t s ∧
        (t.workAt peer).store = memWriteN (s.workAt peer).store (f 24 8) (memReadN (s.workAt core).store (f 16 8) n)) ∧
      (f 1 1 = 3 → SameMemories t (vaWrite s c (f 24 8) (vaRead s c (f 16 8) n)))))

/-- R159, R216, R313, R314, R315: COMMAND_COMPLETE takes the head command, whose work is done, out of its unit's queue, keeps
its status for its ticket and as the unit's last, and ends the RUN where the status is one that ends it; the other
queues and the core store are as before. Then what waits on memory is evaluated (R318). -/
def Obligations.CommandsComplete : Prop :=
  ∀ (s : State) (core : Nat) (u : EngineUnit) (r : Run) (q : Cmd) (rest : List Cmd) (st : Status),
    (u = .spin → r.benchWait = none ∧ (s.ctxAt r.key.ctx).snapRun ≠ some r.key) →
    s.runOf core = some r → ((s.workAt core).unitQ u).queue = q :: rest → ((s.workAt core).unitQ u).result = some st →
    ∃ t, exec (.commandComplete core u) s = .next (wakeWaits t) ∧ SameMemories t s ∧
      (t.workAt core).unitQ u = { (s.workAt core).unitQ u with
        queue := rest, running := false, result := none, moved := 0, paid := 0
        done := ((q.ordinal, st) :: ((s.workAt core).unitQ u).done).take 64 } ∧
      (∀ w, w ≠ u → (t.workAt core).unitQ w = (s.workAt core).unitQ w) ∧
      (t.workAt core).store = (s.workAt core).store ∧
      (t.coreAt core).spinLast = (if u = .spin then st else (s.coreAt core).spinLast) ∧
      (t.coreAt core).denseLast = (if u = .dense then st else (s.coreAt core).denseLast) ∧
      (t.coreAt core).vecLast = (if u = .vector then st else (s.coreAt core).vecLast) ∧
      (endsRun st = true → r.status = none →
        t.findRun r.key = some { r with status := some st, phase := .stopping }) ∧
      (endsRun st = false → t.runs = s.runs)

/-! ### Rings and descriptors (12) -/

/-- R341, R342, R365, R374, R377: a tail doorbell that adds from the tail's count up to the ring's size is accepted, any
other write of a tail is ignored and sets DB_BAD; a completion-queue head is taken as written while no record is held; HEAD
is taken in STOPPED. START of a STOPPED ring with both sizes within 6 to 16 and room in the device pool for its held area
configures it with an empty completion queue; with a size outside them, or no room, it stays STOPPED with cause 2; STOP of
a ring with nothing in flight and no record due leaves it STOPPED with cause 1. Which place a held area takes: log entry
13. -/
def Obligations.DoorbellsAndRingControlComplete : Prop :=
  (∀ (s : State) (c n : Nat) (v : Word) (h : BitVec 32), hostUp s = true → s.power.chip = 0 → c < 4096 → n < 4 →
     (let q := s.ringAt c n
      let d := (v.toNat % 2 ^ 32 + 2 ^ 32 - q.head) % 2 ^ 32
      (q.configured = true → ringCount q ≤ d → d ≤ 2 ^ ringLog q →
       ∃ t, exec (.tailDoorbell c n v) s = .next t ∧ SameMemories t s ∧
         t.ringAt c n = { q with tail := v.toNat % 2 ^ 32, dbPending := true }) ∧
      (q.configured = false ∨ d < ringCount q ∨ 2 ^ ringLog q < d →
       ∃ t, exec (.tailDoorbell c n v) s = .next t ∧ SameMemories t s ∧ t.ringAt c n = { q with dbBad := true }) ∧
      (q.held = [] → ∃ t, exec (.cqHeadDoorbell c n v) s = .next t ∧ SameMemories t s ∧
         t.ringAt c n = { q with cqHead := v.toNat % 2 ^ 32, full := false }) ∧
      (q.configured = false → ∃ t, exec (.ringHeadWrite c n h) s = .next t ∧ SameMemories t s ∧
         t.ringAt c n = { q with head := h.toNat, fetched := [], kept := 0 }))) ∧
  (∀ (s : State) (c n : Nat), hostUp s = true → s.power.chip = 0 → c < 4096 → n < 4 →
     (let q := s.ringAt c n
      (∀ pl, q.configured = false → (s.ctxAt c).st ≠ 3 → q.held = [] → q.inflight.length < 64 →
       6 ≤ ringLog q ∧ ringLog q ≤ 16 ∧ 6 ≤ cqLog q ∧ cqLog q ≤ 16 → heldPlace s = some pl →
       ∃ t, exec (.start c n) s = .next t ∧ SameMemories t s ∧ t.ringAt c n = { q with
         configured := true, stopCause := 0, cqTail := 0, full := false, keepsTail := false, area := some pl
         kept := q.fetched.length
         tail := if q.keepsTail = true ∧ ringCount q ≤ 2 ^ ringLog q then q.tail else q.head }) ∧
      (q.configured = false → (s.ctxAt c).st ≠ 3 → q.held = [] → heldPlace s = none →
       ∃ t, exec (.start c n) s = .next t ∧ SameMemories t s ∧ t.ringAt c n = { q with stopCause := 2 }) ∧
      (q.configured = false → (s.ctxAt c).st ≠ 3 → ringLog q < 6 ∨ 16 < ringLog q ∨ cqLog q < 6 ∨ 16 < cqLog q →
       ∃ t, exec (.start c n) s = .next t ∧ SameMemories t s ∧ t.ringAt c n = { q with stopCause := 2 }) ∧
      (q.configured = true → q.inflight = [] → q.finished = [] →
       ∃ t, exec (.stop c n) s = .next t ∧ SameMemories t s ∧ t.ringAt c n =
         { q with configured := false, stopping := false, stopCause := 1, keepsTail := true, full := false })))

/-- R340, R346, R354 to R357: the ring that the round robin serves next reads the 64 bytes of the head's slot and moves
head on; a descriptor that passes its checks waits to start, one that fails one is finished with its status; an empty ring
clears DB_PENDING, and a ring with descriptors whose turn it is not does not fetch. The next descriptor of a ring, a RUN
that passes its checks, goes in flight and waits for dispatch behind the RUNs that have started before it. One descriptor a
turn and how far the device fetches ahead: log entries 77 and 19. -/
def Obligations.FetchAndRunStartComplete : Prop :=
  ∀ (s : State) (c n : Nat),
    let q := s.ringAt c n
    let d : Desc := { slot := q.head, bytes := vaRead s c (slotVa q q.head) 64 }
    (mayFetch s c q = true → q.head = q.tail →
      ∃ t, exec (.descriptorFetch c n) s = .next t ∧ t.ringAt c n = { q with dbPending := false } ∧ SameMemories t s) ∧
    (nextFetch s = some (c, n) → rangeStop s c (slotVa q q.head) 64 false = none →
      ∃ t, exec (.descriptorFetch c n) s = .next t ∧ SameMemories t s ∧ t.lastCtx = c ∧ (t.ctxAt c).lastRing = n ∧
        t.ringAt c n = match checkDesc s c d.bytes with
          | some st => { q with head := (q.head + 1) % 2 ^ 32, finished := q.finished ++ [⟨d, st, 0⟩] }
          | none => { q with head := (q.head + 1) % 2 ^ 32, fetched := q.fetched ++ [d] }) ∧
    (nextFetch s ≠ some (c, n) → q.head ≠ q.tail → exec (.descriptorFetch c n) s = .next s) ∧
    (∀ e : Desc, nextOf s c n 1 [1] = some e → checkRun s c e.bytes = none →
      ∃ t, exec (.run c n) s = .next t ∧ SameMemories t s ∧
        t.ringAt c n = { startedRing q with inflight := q.inflight ++ [e] } ∧
        t.runs = s.runs ++ [newRun ⟨c, n, e.slot⟩ e.bytes (runCores s c e.bytes)])

/-- R349 to R353: a NOP, a WAIT whose condition holds, a SIGNAL and a FENCE that nothing but stakes precede, and a COPY
whose sides each lie in one 4 KiB page and do not overlap, each next in its ring, finish DONE; only SIGNAL and COPY
write memory: SIGNAL VALUE, or the sum with the 8 bytes at ADDR, COPY the bytes of its source, and then what waits on
memory is evaluated. -/
def Obligations.QueueDescriptorsComplete : Prop :=
  ∀ (s : State) (c n : Nat) (d : Desc),
    let q := s.ringAt c n
    let f := fieldOf d.bytes
    let fin : List Finished := q.finished ++ [⟨d, stDone, 0⟩]
    let done : Ring := { q with fetched := q.fetched.drop 1, kept := q.kept - 1, waitOn := false, finished := fin }
    (nextOf s c n 0 [1] = some d → ∃ t, exec (.nop c n) s = .next t ∧ t.ringAt c n = done ∧ SameMemories t s) ∧
    (nextOf s c n 5 [1] = some d → onlyStakes q = true →
      ∃ t, exec (.fenceDescriptor c n) s = .next t ∧ t.ringAt c n = done ∧ SameMemories t s) ∧
    (nextOf s c n 2 [1, 2] = some d → (s.ctxAt c).st = 1 ∨ q.waitOn = true → (s.ctxAt c).holders = [] →
      rangeStop s c (f 8 8) 8 false = none →
      (let v := vaLoad s c (f 8 8) 8
       if f 4 1 = 0 then f 16 8 ≤ v else if f 4 1 = 1 then v = f 16 8 else v &&& f 24 8 = f 16 8 &&& f 24 8) →
      ∃ t, exec (.wait c n) s = .next t ∧ t.ringAt c n = done ∧ SameMemories t s) ∧
    ((∀ e, e ∈ q.inflight → e.slot ≠ d.slot) →
     (nextOf s c n 3 [1] = some d → onlyStakes q = true → (f 4 1 = 1 → rangeStop s c (f 8 8) 8 false = none) →
      rangeStop s c (f 8 8) 8 true = none →
      ∃ u, exec (.signalDescriptor c n) s = .next (wakeWaits u) ∧ u.ringAt c n = { startedRing q with finished := fin } ∧
        SameMemories u (vaWrite s c (f 8 8)
          (natLe 8 (if f 4 1 = 1 then (vaLoad s c (f 8 8) 8 + f 16 8) % 2 ^ 64 else f 16 8)))) ∧
     (nextOf s c n 4 [1] = some d → d.moved = 0 → overQuota (s.ctxAt c) = false → f 24 8 ≠ 0 →
      f 8 8 % 4096 + f 24 8 ≤ 4096 → f 16 8 % 4096 + f 24 8 ≤ 4096 →
      (f 8 8 + f 24 8 ≤ f 16 8 ∨ f 16 8 + f 24 8 ≤ f 8 8) → rangeStop s c (f 8 8) (f 24 8) false = none →
      rangeStop s c (f 16 8) (f 24 8) true = none →
      ∃ u, exec (.copy c n) s = .next (wakeWaits u) ∧ u.ringAt c n = { startedRing q with finished := fin } ∧
        SameMemories u (vaWrite s c (f 16 8) (vaRead s c (f 8 8) (f 24 8)))))

/-- R366 to R371, R400: the record of the oldest finished descriptor of a ring with nothing held, room in the completion
queue and its page present is written at the next record's address with the phase of its pass, and CQ_TAIL moves on; a DONE
without DONE_RECORD writes none. RETRY_COMPLETIONS writes a record that is held alone, no record of its ring waiting for a
PRI response. A PRI response makes the page of an access present unless the host has come to deny it, a timeout denies it.
That a denied page stays so: log entry 68; what a PRI response changes in the host's tables, where R400 speaks of its
requests alone, is the model's choice, log entry 9. -/
def Obligations.RecordsAndPagesComplete : Prop :=
  ∀ (s : State) (c n : Nat),
    let q := s.ringAt c n
    (∀ (f : Finished) (rest : List Finished), q.finished = f :: rest → q.stopping = false → q.held = [] →
      (wantsRecord f = true → cqFull q = false → recordWaits s c n = false → recordPage s c n = .present →
        ∃ t, exec (.descriptorComplete c n f.desc.slot) s = .next t ∧ t.near = s.near ∧ t.far = s.far ∧
          t.host = memWriteN s.host (hostKey c (recordVa q)) (recordBytes c n q f (Config.timeNs s.fresh).toNat) ∧
          t.ringAt c n = { q with finished := rest, cqTail := (q.cqTail + 1) % 2 ^ 32 }) ∧
      (wantsRecord f = false → ∃ t, exec (.descriptorComplete c n f.desc.slot) s = .next t ∧ SameMemories t s ∧
          t.ringAt c n = { q with finished := rest })) ∧
    (∀ x : HeldRec, hostUp s = true → s.power.chip = 0 → c < 4096 → n < 4 → q.held = [x] → cqFull q = false →
      recordWaits s c n = false → recordPage s c n = .present →
      ∃ t, exec (.retryCompletions c n) s = .next t ∧ t.near = s.near ∧ t.far = s.far ∧
        t.host = memWriteN s.host (hostKey c (recordVa q)) (recordBytes c n q x.fin x.endNs) ∧
        t.ringAt c n = { q with held := [], cqTail := (q.cqTail + 1) % 2 ^ 32, full := false }) ∧
    (∀ (page : Nat) (p : PriReq), findPri s c page = some p → p.ring = none →
      (∃ t, exec (.priResponse c page true) s = .next t ∧ p ∉ t.pris ∧
        tabGet .present t.hostPages (c * 2 ^ 52 + page) =
          (if tabGet .present s.hostPages (c * 2 ^ 52 + page) = .denied then .denied else .present) ∧ SameMemories t s) ∧
      (∃ t, exec (.priTimeout c page) s = .next t ∧ p ∉ t.pris ∧
        tabGet .present t.hostPages (c * 2 ^ 52 + page) = .denied ∧ SameMemories t s))

/-- R304 to R307, R358: a RUN that may be dispatched, of the context that holds its plot and is within its quotas, with a
header that passes its checks and its code on every named core, starts: on each core control core 0 runs at ENTRY0 with
PARAM, the core's rank, the number of cores and 0 in g1 to g4 and 0 in the other registers, control core 1 at ENTRY1 where
the header asks for it, and the parameters stand at PARAM_OFF of the store. What a core store keeps between RUNs: log entry
44. -/
def Obligations.RunDispatchCompletes : Prop :=
  ∀ (s : State) (k : RunKey) (r : Run),
    let h := vaRead s k.ctx r.program 64
    let p := parseHdr h
    s.findRun k = some r → mayDispatch s r = true → overQuota (s.ctxAt k.ctx) = false →
    (s.plotAt (s.ctxAt k.ctx).plot).holder = some k.ctx → Reaches s r r.program 64 false →
    hdrStatus h r.program r.param = none → (∀ n, n ∈ r.cores → (s.coreAt n).image = some (k.ctx, r.program, p.crc)) →
    Reaches s r r.param p.paramBytes false → r.cores.Nodup →
    ∃ t, exec (.runDispatch k) s = .next t ∧ SameMemories t s ∧
      t.findRun k = some { r with phase := .dispatched, hdr := p } ∧
      (∀ n, n ∈ r.cores → (t.coreAt n).power = 0 ∧ (t.workAt n).run = some k ∧
        (t.workAt n).store = memWriteN (s.workAt n).store p.paramOff (vaRead s k.ctx r.param p.paramBytes) ∧
        (∀ cc, (cc = false ∨ p.flags % 2 = 1) →
          (t.hart ⟨n, cc⟩).started = true ∧ (t.hart ⟨n, cc⟩).mode = .running ∧
          (t.hart ⟨n, cc⟩).pc = BitVec.ofNat 64 (if cc then p.entry1 else p.entry0) ∧
          (∀ g, reg t ⟨n, cc⟩ g = if g = 1 then BitVec.ofNat 64 r.param
            else if g = 2 then BitVec.ofNat 64 (r.cores.takeWhile (fun m => decide (m ≠ n))).length
            else if g = 3 then BitVec.ofNat 64 r.cores.length
            else if g = 4 ∧ cc = true then 1 else 0)) ∧
        (p.flags % 2 = 0 → (t.hart ⟨n, true⟩).started = false))

/-- R332, R359, R361 to R364, R383: a RUN whose control cores have all ended, or that a status has ended, completes with
that status: it leaves the list, its cores are free with their stores as they were, and its descriptor is finished with the
status and DETAIL; while its context is being reset it leaves the list without that. RUN_TIMEOUT orders a dispatched RUN to
stop; at the end of the drain window it completes with TIMEOUT_DRAINED, or with a unit that has not stopped its context,
ACTIVE or FAULT_PENDING, becomes faulted. At the end of a slice whose save and restore meet no error (R413) the plot passes
to the next runnable context; where its RUNs wait for dispatch, no memory changes. What a core store keeps between RUNs: log
entry 44. -/
def Obligations.RunsAndSlicesEnd : Prop :=
  (∀ (s : State) (k : RunKey) (r : Run), s.findRun k = some r →
     (∀ (st : Status), runEnd s r = some st → r.spin = none → r.block = none →
       ∃ t, exec (.runComplete k) s = .next t ∧ SameMemories t s ∧ t.findRun k = none ∧
         (∀ n, (t.workAt n).store = (s.workAt n).store ∧ (t.workAt n).run ≠ some k) ∧
         ((s.ctxAt k.ctx).st = 4 → (t.ringAt k.ctx k.ring).finished = (s.ringAt k.ctx k.ring).finished) ∧
         (∀ d : Desc, (s.ctxAt k.ctx).st ≠ 4 → (s.ringAt k.ctx k.ring).inflight.filter (fun e => e.slot = k.slot) = [d] →
           (t.ringAt k.ctx k.ring).finished = (s.ringAt k.ctx k.ring).finished ++ [⟨d, st, r.detail⟩])) ∧
     (s.boot.d3hot = false → r.phase = .dispatched → r.status = none → holdsPlot s k.ctx = true → (s.ctxAt k.ctx).st = 1 →
       timeCounts s r = true →
       ∃ t, exec (.runTimeout k) s = .next t ∧ SameMemories t s ∧ t.cores = s.cores ∧
         t.findRun k = some { r with timedOut := true, phase := .stopping }) ∧
     (∀ (stuck : List (Nat × EngineUnit)) (d : Desc), s.boot.d3hot = false → r.timedOut = true → r.spin = none → r.block = none →
       (s.ctxAt k.ctx).st ≠ 4 →
       (s.ringAt k.ctx k.ring).inflight.filter (fun e => e.slot = k.slot) = [d] → (∀ p, p ∈ stuck → p.1 ∉ r.cores) →
       ∃ t, exec (.drainWindowExpiry k stuck) s = .next t ∧ SameMemories t s ∧ t.findRun k = none ∧
         (t.ringAt k.ctx k.ring).finished = (s.ringAt k.ctx k.ring).finished ++ [⟨d, stTimeoutDrained, 0⟩]) ∧
     (∀ (n : Nat) (u : EngineUnit), s.boot.d3hot = false → r.timedOut = true → n ∈ r.cores →
       ∃ t, exec (.drainWindowExpiry k [(n, u)]) s = .next t ∧ t.findRun k = none ∧ (t.coreAt n).quiesce ≠ 0 ∧
         ((s.ctxAt k.ctx).st = 1 ∨ (s.ctxAt k.ctx).st = 2 →
           (t.ctxAt k.ctx).st = 3 ∧ ∀ x, x ∈ t.runs → x.key.ctx ≠ k.ctx))) ∧
  (∀ (s : State) (p c : Nat), chipRuns s = true → (s.plotAt p).st ≠ 0 → nextHolder s p = some c →
     (s.plotAt p).holder ≠ some c → (∀ x, x ∈ s.runs → x.key.ctx = c → x.phase = .waiting) →
     (∀ n o, (s.plotAt p).holder = some o → saveUe s o n = none) → (∀ n, restoreUe s c n = none) →
     ∃ t, exec (.timeSliceEnd p) s = .next t ∧ SameMemories t s ∧ (t.plotAt p).holder = some c ∧
       (∀ x, x ∈ s.runs → x.key.ctx ≠ c → some x.key.ctx ≠ (s.plotAt p).holder → x ∈ t.runs))

/-! ### Contexts and plots (13) -/

/-- R380 to R383, R390, R391, R404 to R407: ENABLE makes a DISABLED context ACTIVE and, cleared on a context at rest, DISABLED
again; PLOT_VALID attaches a detached context that no refusal meets, with a save area for each core of a configured plot, and
detaches one at rest; RESET of a context that is not DISABLED makes it RESETTING, with its RUNs ordered to stop, its queues
gone, HEAD kept and its translations, faults and tables cleared, and its end, with no RUN of it left, makes it ACTIVE or
DISABLED by ENABLE. RESUME of a FAULT_PENDING context none of whose RUNs is in flight makes it ACTIVE with its fault registers
clear; ABORT_FAULT of one whose only faulted access is a descriptor's finishes that descriptor with the status of the fault's
kind too. -/
def Obligations.ContextsAndFaultsComplete : Prop :=
  ((∀ (s : State) (c p : Nat), hostUp s = true → s.power.chip = 0 → c < 4096 → p < 64 →
     ((s.ctxAt c).st = 0 → ∃ t, exec (.enable c true) s = .next t ∧ SameMemories t s ∧
       t.ctxAt c = { s.ctxAt c with enable := true, st := 1 }) ∧
     (ringsStopped (s.ctxAt c) = true → (s.ctxAt c).plotValid = false → hasRun s c = false → (s.ctxAt c).st = 1 →
       ∃ t, exec (.enable c false) s = .next t ∧ SameMemories t s ∧
         t.ctxAt c = { s.ctxAt c with enable := false, st := 0 }) ∧
     ((s.ctxAt c).plotValid = false → hasRun s c = false →
       (let s1 := s.updCtx c (fun x => { x with plot := p })
        (attachRefused s1 c p = false →
         ∃ t, exec (.plotValid c true p) s = .next t ∧ SameMemories t s ∧
          t.ctxAt c = { s.ctxAt c with plotValid := true, plot := p, areas := (t.ctxAt c).areas } ∧
          (t.ctxAt c).areas.map Prod.fst = (s.ctxAt c).areas.map Prod.fst ++
            (if (s.plotAt p).st = 1 then maskCores (s.plotAt p).mask else []) ∧
          (∀ e, e ∈ (t.ctxAt c).areas → e ∈ (s.ctxAt c).areas ∨ e.2 = .near (dieOf s e.1) ∨ e.2 = .far)) ∧
        (attachRefused s1 c p = true →
         ∃ t, exec (.plotValid c true p) s = .next t ∧ SameMemories t s ∧
          t.ctxAt c = { s.ctxAt c with plot := p, attachRefused := true }))) ∧
     ((s.ctxAt c).plotValid = true → hasRun s c = false →
       ∃ t, exec (.plotValid c false p) s = .next t ∧ SameMemories t s ∧
         t.ctxAt c = { s.ctxAt c with plotValid := false, plot := p, saves := [], areas := [], locked := [] } ∧
         (t.plotAt (s.ctxAt c).plot).holder ≠ some c) ∧
     ((s.ctxAt c).st ≠ 0 → ∃ t, exec (.reset c) s = .next t ∧ (t.ctxAt c).st = 4 ∧ (t.ctxAt c).tlb = [] ∧
       (t.ctxAt c).fault = none ∧ (t.ctxAt c).holders = [] ∧ (t.ctxAt c).accTable = [] ∧ (t.ctxAt c).exchTable = [] ∧
       (∀ x, x ∈ t.runs → x.key.ctx = c → x.phase = .stopping ∧ x.timedOut = true) ∧
       (∀ n, n < 4 → (t.ringAt c n).configured = false ∧ (t.ringAt c n).head = (s.ringAt c n).head ∧
         (t.ringAt c n).stopCause = 4 ∧ (t.ringAt c n).fetched = [] ∧ (t.ringAt c n).inflight = [] ∧
         (t.ringAt c n).finished = [] ∧ (t.ringAt c n).held = []))) ∧
   (∀ (s : State) (c : Nat), (s.ctxAt c).st = 4 → ∃ t, exec (.contextResetEnd c) s = .next t ∧
     (t.ctxAt c).st = (if (s.ctxAt c).enable then 1 else 0) ∧ (∀ x, x ∈ t.runs → x.key.ctx ≠ c) ∧
     ((∀ x, x ∈ s.runs → x.key.ctx ≠ c) → SameMemories t s ∧
       t.ctxAt c = { s.ctxAt c with st := if (s.ctxAt c).enable then 1 else 0 }))) ∧
  (∀ (s : State) (c : Nat), hostUp s = true → s.power.chip = 0 → c < 4096 → (s.ctxAt c).st = 2 →
     (∀ x, x ∈ s.runs → x.key.ctx ≠ c) →
     (∃ t, exec (.resume c) s = .next t ∧ SameMemories t s ∧
       t.ctxAt c = { s.ctxAt c with st := 1, fault := none, faultMore := 0, holders := [] }) ∧
     (∀ (n slot kind : Nat) (d : Desc), (s.ctxAt c).holders = [(.desc n slot, kind)] →
       (s.ringAt c n).inflight.filter (fun e => e.slot = slot) = [d] →
       ∃ t, exec (.abortFault c) s = .next t ∧ SameMemories t s ∧ (t.ctxAt c).st = 1 ∧ (t.ctxAt c).fault = none ∧
         (t.ctxAt c).holders = [] ∧
         (t.ringAt c n).finished = (s.ringAt c n).finished ++
           [⟨d, if kind = 2 ∨ kind = 3 then stPermFault else stXlateFault, 0⟩]))

/-- R399, R400, R411: an invalidation is BUSY with its pages until it completes, and then no translation of them is cached,
nor any of a 512 MiB block that they touch; an ATS invalidation takes the page's new state; a snapshot request of a context
without a spin command in flight ends BAD_FIELD, and one whose RUN does not hold the plot waits with its RUN. What an
invalidation drops: log entry 47. That an ATS invalidation gives the host page the state that the command names is the
model's choice, log entry 9: R400 says that invalidations are honoured. -/
def Obligations.InvalidationsAndSnapshotsComplete : Prop :=
  ∀ (s : State) (c : Nat),
    (hostUp s = true → s.power.chip = 0 → c < 4096 → (s.ctxAt c).inval = none →
      (∀ page count, page < 2 ^ 32 → count < 2 ^ 14 →
        ∃ t, exec (.ctxInvalPages c page count) s = .next t ∧ SameMemories t s ∧
          t.ctxAt c = { s.ctxAt c with inval := some (page, if count = 0 then 1 else count) }) ∧
      (∃ t, exec (.ctxInvalAll c) s = .next t ∧ SameMemories t s ∧
          t.ctxAt c = { s.ctxAt c with inval := some (0, 2 ^ 32) })) ∧
    (∀ page n, (s.ctxAt c).inval = some (page, n) → 0 < n → (s.plotAt (s.ctxAt c).plot).st ≠ 2 →
      ∃ t, exec (.invalidationComplete c) s = .next t ∧ SameMemories t s ∧ (t.ctxAt c).inval = none ∧
        (∀ k w, page ≤ k → k < page + n → (k, w) ∉ (t.ctxAt c).tlb) ∧
        (∀ e, e ∈ (t.ctxAt c).tlb ↔ e ∈ (s.ctxAt c).tlb ∧ blockTouched page n e.1 = false)) ∧
    (∀ page state, ∃ t, exec (.atsInvalidation c page state) s = .next t ∧ SameMemories t s ∧
      tabGet .present t.hostPages (c * 2 ^ 52 + page) =
        if state = 0 then .present else if state = 1 then .absent else .denied) ∧
    (hostUp s = true → s.power.chip = 0 → c < 4096 → (s.ctxAt c).snapRun = none →
      (snapshotRun s c = none → ∃ t, exec (.snapshotRequest c) s = .next t ∧
        t.ctxAt c = { s.ctxAt c with snapStatus := stBadField } ∧ SameMemories t s) ∧
      (∀ r q, snapshotRun s c = some r → r.spin = some q → runActive s r = false →
        slotBad s c q ((q.cmd.map SpinCmd.mask).getD 0) (s.ctxAt c).snapAddr (s.ctxAt c).snapBytes = false →
        ∃ t, exec (.snapshotRequest c) s = .next t ∧ (t.ctxAt c).snapRun = some r.key ∧ SameMemories t s))

/-- R412, R413, R415: while the memory controllers run, a scrub of a near or far line that exists leaves a clean line as it
is, counts a corrected error of its near row, and marks an uncorrectable line, which from then on gives no data; the repair
of a row that is due with a spare left leaves no uncorrectable line in it, and without one retires its channel. The row of
an address and what a repair leaves: log entries 25 and 49. -/
def Obligations.ScrubAndRepairComplete : Prop :=
  (∀ (s : State) (line : Nat), memRuns s = true → lineExists s .near line = true → line ≠ 0 →
    (∃ t, exec (.patrolScrub .near line .clean) s = .next t ∧ t = s) ∧
    (let k := rowKey (nearChannel s (line * 64)) (nearRow s (line * 64))
     ∃ t, exec (.patrolScrub .near line .corrected) s = .next t ∧ SameMemories t s ∧ t.badLines = s.badLines ∧
      tabGet 0 t.rowErrors k = min 3 (tabGet 0 s.rowErrors k + 1))) ∧
  (∀ (s : State) (l : Level) (line : Nat), memRuns s = true → l = .near ∨ l = .far → lineExists s l line = true →
    ∃ t, exec (.patrolScrub l line .uncorrectable) s = .next t ∧ SameMemories t s ∧ (l, line) ∈ t.badLines) ∧
  (∀ (s : State) (chan row : Nat), memRuns s = true → 3 ≤ tabGet 0 s.rowErrors (rowKey chan row) →
    (∃ t, exec (.postPackageRepair chan row true) s = .next t ∧ t.far = s.far ∧ t.host = s.host ∧
      (∀ line, (Level.near, line) ∈ t.badLines →
        ¬ (nearChannel s (line * 64) = chan ∧ nearRow s (line * 64) = row))) ∧
    (∃ t, exec (.postPackageRepair chan row false) s = .next t ∧ SameMemories t s ∧ chan ∈ t.boot.lostChans))

/-- R295, R298, R388, R389, R392, R393, R449 to R451, R460: CONFIGURE of a FREE entry that is not TIMED and passes its checks
makes it CONFIGURED with its cores in the plot, none of them in CORE_OFF, one that was retained still so, and one that fails
a check shows the check's status. A TIMED entry that passes them and whose admission is given becomes TIMED: the result
stands in the admission block, the power is reserved, the declaration kept, and the valid leaf entries of its one context,
the first 4,096 of them, are locked; an admission refused stands in the block and in REASON, the entry FREE. RELEASE of an
entry that is not busy makes it FREE, its cores and its contexts out of it; RECONFIGURE puts a spare in the place of a
retired core. Which cut an admission weighs is log entry 24's; that its read of a line with an uncorrectable error makes
the context faulted is log entry 95's reading. -/
def Obligations.PlotsComplete : Prop :=
  ∀ (s : State) (p : Nat), hostUp s = true → s.power.chip = 0 → p < 64 →
    (let q := s.plotAt p
     (q.st = 0 → q.timed = false → configureStatus s p = none →
      ∃ t, exec (.configure p) s = .next t ∧ SameMemories t s ∧ (t.plotAt p).st = 1 ∧ (t.plotAt p).reason = stDone ∧
        (t.plotAt p).mask = q.mask ∧ (t.plotAt p).holder = none ∧
        (∀ n, n ∈ maskCores q.mask → (t.coreAt n).plot = some p ∧ (t.coreAt n).power ≠ 2 ∧
          (underTest s n = false → (t.coreAt n).power = if (s.coreAt n).power = 2 then 0 else (s.coreAt n).power))) ∧
     (q.st = 0 → q.timed = true → configureStatus s p = none →
      let c := (attachedTo s p).headD 0
      let a := admission s c q.admitVa 0 (maskCores q.mask) (2 ^ 64)
      let w := writeAdmission s c q.admitVa a
      (a.status = stDone → tablesUe (formPlot w p a) c = none →
       ∃ t, exec (.configure p) s = .next t ∧ SameMemories t w ∧ (t.plotAt p).st = 2 ∧ (t.plotAt p).reason = stDone ∧
         (t.plotAt p).mask = q.mask ∧ (t.plotAt p).holder = none ∧ (t.plotAt p).reservedMw = a.mw ∧
         (t.plotAt p).wcet = a.wcet ∧ (t.plotAt p).declared = a.decl ∧ (t.plotAt p).broken = [] ∧
         (t.ctxAt c).locked =
           ((validLeaves (formPlot w p a) c).take 4096).flatMap (fun e => (List.range e.2).map (· + e.1)) ∧
         (∀ n, n ∈ maskCores q.mask → (t.coreAt n).plot = some p ∧ (t.coreAt n).power ≠ 2)) ∧
      (a.status ≠ stDone → a.ue = none →
       ∃ t, exec (.configure p) s = .next t ∧ SameMemories t w ∧ t.plotAt p = { q with reason := a.status } ∧
         t.cores = s.cores) ∧
      (∀ l n, a.status ≠ stDone → a.ue = some (l, n) → (s.ctxAt c).st = 1 →
       ∃ t, exec (.configure p) s = .next t ∧ (t.plotAt p).st = 0 ∧ (t.plotAt p).reason = a.status ∧
         (t.ctxAt c).st = 3 ∧ (t.ctxAt c).ue = ueWord l n)) ∧
     (∀ st, q.st = 0 → configureStatus s p = some st →
      ∃ t, exec (.configure p) s = .next t ∧ SameMemories t s ∧ t.plotAt p = { q with reason := st } ∧
        t.cores = s.cores) ∧
     (q.st ≠ 0 → plotBusy s p = false → plotPending s (maskCores q.mask) = [] →
      ∃ t, exec (.release p) s = .next t ∧ SameMemories t s ∧ (t.plotAt p).st = 0 ∧ (t.plotAt p).holder = none ∧
        (t.plotAt p).reservedMw = 0 ∧ (∀ c, c ∈ attachedTo s p → (t.ctxAt c).plotValid = false) ∧
        (∀ n, n ∈ maskCores q.mask → (t.coreAt n).plot = none)) ∧
     (∀ (n phys x : Nat), q.st ≠ 0 → plotBusy s p = false → plotPending s (maskCores q.mask) = [(1, phys)] →
      (maskCores q.mask).filter (fun m => decide (s.boot.enabled.getD m 144 = phys)) = [n] → n < s.boot.enabled.length →
      spareFor s phys = some x →
      ∃ t, exec (.reconfigure p) s = .next t ∧ SameMemories t s ∧ (t.plotAt p).reason = stDone ∧
        t.boot.enabled.getD n 144 = x ∧ phys ∈ t.boot.outCores ∧ x ∉ t.boot.spares ∧ (t.coreAt n).phys = x ∧
        (t.coreAt n).plot = some p))

/-! ### BARs (17) -/

/-- R487, R497: through BAR4, by target offset, a read gives the bytes of its targets, an uncorrectable line's bytes being
open, and zero in the device pool or out of range; a write puts each byte at its target, drops those in the pool or out of
range, and leaves every other byte of near and far memory as it was. The bytes of an uncorrectable line: log entry 61. -/
def Obligations.Bar4AccessesComplete : Prop :=
  ∀ (s : State) (off len : Nat) (data : List Byte), hostUp s = true → s.power.chip = 0 → memWf s.near = true →
    memWf s.far = true →
    (let half := 2 ^ (s.bar4Log2 - 1)
     ∀ o, bar4Target s o =
      if o < half then
        (if nearExists s (s.bar4Near * half + o) 1 = true ∧ nearPool s (s.bar4Near * half + o) 1 = false
         then some (.near, s.bar4Near * half + o) else none)
      else if o < 2 * half then
        (if farExists s (s.bar4Far * half + (o - half)) 1 = true ∧ farPool s (s.bar4Far * half + (o - half)) 1 = false
         then some (.far, s.bar4Far * half + (o - half)) else none)
      else none) ∧
    (∃ t, exec (.bar4Access false off len data) s = .next t ∧ SameMemories t s ∧ ∃ bs, t.out = s.out ++ [.bytes bs] ∧
      bs.length = len ∧ ∀ i, i < len → bs[i]? = some (match bar4Target s (off + i) with
        | none => 0
        | some (l, a) => if lineBad s l (a / 64) then Config.byte s.fresh (off + i) else memRead (levelMem s l) a)) ∧
    (∃ t, exec (.bar4Access true off len data) s = .next t ∧ t.host = s.host ∧ t.cores = s.cores ∧ t.ctxs = s.ctxs ∧
      (∀ i l a b, data[i]? = some b → bar4Target s (off + i) = some (l, a) → memRead (levelMem t l) a = b) ∧
      (∀ l a, (∀ i, i < data.length → bar4Target s (off + i) ≠ some (l, a)) →
        memRead (levelMem t l) a = memRead (levelMem s l) a))

/-- R376, R388, R397, R433, R491, R496, R500: a BAR0 write that is not 8 aligned bytes is dropped and recorded in FE_STATUS;
a write of RING_BASE is taken in STOPPED only, of PLOT_MASK0 in FREE only, of GRP_CTRL and SVC_BLOCK in IDLE only; one of
CTX_PT_ROOT or FE_BAR4_NEAR_BASE always. Reserved bits stay zero; a FEC of 3 is taken as 2 (R418). BAR4 takes one of the
sizes of R490 by a write to the offset that stands for its configuration register (the model's choice, log entry 66). -/
def Obligations.RegisterWritesComplete : Prop :=
  ∀ (s : State) (v : Word), recUp s = true → s.power.chip = 0 →
    (s.boot.mode ≠ 2 →
      (∀ off size, off < 2 ^ 26 → size ≠ 8 ∨ off % 8 ≠ 0 → ∃ t, exec (.registerWrite off size v) s = .next t ∧
        t = { s with badAccess := true, badOffset := off }) ∧
      (∀ c n, c < 4096 → n < 4 → ∃ t, exec (.registerWrite (0x1000100 + 0x1000 * c + 0x40 * n) 8 v) s = .next t ∧
        SameMemories t s ∧ t.ringAt c n = (if (s.ringAt c n).configured then s.ringAt c n
          else { s.ringAt c n with base := v &&& 0x0000FFFFFFFFF000 })) ∧
      (∀ c, c < 4096 → ∃ t, exec (.registerWrite (0x1000010 + 0x1000 * c) 8 v) s = .next t ∧ SameMemories t s ∧
        t.ctxAt c = { s.ctxAt c with ptRoot := v &&& 0x0000FFFFFFFFF003 }) ∧
      (∀ p, p < 64 → ∃ t, exec (.registerWrite (0x11000 + 0x40 * p) 8 v) s = .next t ∧ SameMemories t s ∧
        t.plotAt p = (if (s.plotAt p).st = 0 then
          { s.plotAt p with mask := (s.plotAt p).mask / 2 ^ 64 * 2 ^ 64 + v.toNat } else s.plotAt p)) ∧
      (∀ g, g < s.fab.groups.length → g < 16 → ∃ t, exec (.registerWrite (0x40400 + 0x40 * g) 8 v) s = .next t ∧
        SameMemories t s ∧ t.groupAt g = (if (s.groupAt g).st = 0 then
          { s.groupAt g with ctrl := v &&& 0xFFFFFFFFFFF0FFFF } else s.groupAt g)) ∧
      (∀ n, n < s.services.length → n < 8 → ∃ t, exec (.registerWrite (0x50400 + 0x40 * n) 8 v) s = .next t ∧
        SameMemories t s ∧ t.svcAt n = (if (s.svcAt n).st = 0 then
          { s.svcAt n with ctx := bitsOf v.toNat 59 48, addr := bitsOf v.toNat 47 0 } else s.svcAt n)) ∧
      (∃ t, exec (.registerWrite 0x10050 8 v) s = .next t ∧ t = { s with bar4Near := v.toNat % 2 ^ 32 }) ∧
      (∀ p, p < 2 → ∃ t, exec (.registerWrite (0x50000 + 0x40 * p) 8 v) s = .next t ∧ SameMemories t s ∧
        (p < s.ports.length → t.portAt p = { s.portAt p with
          fec := min 2 (bitsOf v.toNat 17 16), lldpMs := bitsOf v.toNat 13 0 })) ∧
      (∃ t, exec (.registerWrite (2 ^ 26) 8 v) s = .next t ∧
        t = { s with bar4Log2 := if 30 ≤ v.toNat ∧ v.toNat ≤ 46 then v.toNat else s.bar4Log2 }))

/-! ### Fabric (08) -/

/-- R221, R222, R227: each event of a boundary link's state machine in the state that it leaves, with the width that the
good lanes allow, which rises again only after a retrain that the host asks for; every memory is as before, and every other
link but for what is sent on it, when the state of this one goes into the topology map or what it had not delivered moves
(R243). -/
def Obligations.LinkStatesFollowEvents : Prop :=
  ∀ (s : State) (n : Nat), n < s.fab.links.length →
    let l := s.linkAt n
    let others (t : State) : Prop := SameMemories t s ∧ ∀ m, m ≠ n → t.linkAt m = s.linkAt m
    let sends (t : State) : Prop := SameMemories t s ∧ ∀ m, m ≠ n → SameLink (t.linkAt m) (s.linkAt m)
    let down : Link := { l with st := 0, width := 0, identifying := false, sending := [], replayBuf := [] }
    let begun (lanes : BitVec 8) : Link := { l with
      lanes := lanes &&& l.lanes, width := laneWidth (lanes &&& l.lanes), st := 2, identifying := true, nonce := [], signs := []
      sent := 0, expected := 0, replayBuf := [], replayRun := 0, sending := [] }
    (linksRun s n = true → l.st = 0 →
      (∃ t, exec (.linkSignalDetect n) s = .next t ∧ t.linkAt n = { l with st := 1 } ∧ others t) ∧
      (∃ t, exec (.linkDownRetry n true) s = .next t ∧ t.linkAt n = { l with st := 1 } ∧ others t)) ∧
    (∀ lanes, l.st = 1 → laneWidth (lanes &&& l.lanes) ≠ 0 → ∃ t, exec (.linkTrainingComplete n lanes) s = .next t ∧
        (t.linkAt n).st = 2 ∧ (t.linkAt n).width = laneWidth (lanes &&& l.lanes) ∧ SameMemories t s ∧
        (s.fab.valid = false → sends t ∧ t.linkAt n = begun lanes)) ∧
    (∀ lanes, l.st = 1 → laneWidth (lanes &&& l.lanes) = 0 → ∃ t, exec (.linkTrainingComplete n lanes) s = .next t ∧ sends t ∧
        t.linkAt n = down) ∧
    (l.st = 1 ∨ l.st = 4 → ∃ t, exec (.linkTrainingTimeout n) s = .next t ∧ sends t ∧ t.linkAt n = down) ∧
    (1 ≤ l.st → l.st ≤ 4 → ∃ t, exec (.lossOfSignal n) s = .next t ∧ sends t ∧ t.linkAt n = down) ∧
    (∀ lane, l.st = 3 → lane < 8 → ∃ t, exec (.laneLoss n lane) s = .next t ∧ sends t ∧ t.linkAt n =
        { l with st := 4, retrains := l.retrains + 1, replayRun := 0, lanes := l.lanes &&& ~~~(1#8 <<< lane) }) ∧
    (hostUp s = true → s.power.chip = 0 →
      (l.st = 3 → ∃ t, exec (.retrain n) s = .next t ∧ sends t ∧ t.linkAt n =
        { l with st := 4, retrains := l.retrains + 1, replayRun := 0, lanes := 0xFF }) ∧
      (l.st = 5 ∨ l.st = 6 → ∃ t, exec (.retrain n) s = .next t ∧ others t ∧
        t.linkAt n = { l with st := 1, lanes := 0xFF })) ∧
    (∀ lanes, l.st = 4 → laneWidth (lanes &&& l.lanes) ≠ 0 →
      (∃ t, exec (.retrainComplete n true lanes) s = .next t ∧ sends t ∧ SameLink (t.linkAt n)
        { l with lanes := lanes &&& l.lanes, width := laneWidth (lanes &&& l.lanes), st := 3, lost := false }) ∧
      (s.fab.valid = false → ∃ t, exec (.retrainComplete n false lanes) s = .next t ∧ sends t ∧ t.linkAt n = begun lanes)) ∧
    (∀ same lanes, l.st = 4 → laneWidth (lanes &&& l.lanes) = 0 → ∃ t, exec (.retrainComplete n same lanes) s = .next t ∧
        sends t ∧ t.linkAt n = down)

/-- R219, R222 to R226, R475: IDENTIFY with a failing chain, one that ends without the package alias, or a failing
signature leaves the link UNTRUSTED, with a conflicting identifier ID_CONFLICT, else UP with the partner noted; in
ID_CONFLICT a partner that reports another identifier brings the link back to TRAINING. The flit that is due is accepted
from an UP link with a good CRC, another number is not, and a failed CRC is answered by a request for the flit due and
counted; a NAK replays from the failed flit on, and the 32nd in a row retrains the link; a link not UP for the loss window
loses its partner. The bytes of a flit and its CRC: log entries 10 and 26. -/
def Obligations.IdentificationAndFlitsComplete : Prop :=
  ∀ (s : State) (n : Nat), n < s.fab.links.length →
    let l := s.linkAt n
    let noted (t : State) (l' : Link) : Prop := (t.linkAt n) =
      { l' with identifying := (t.linkAt n).identifying, nonce := (t.linkAt n).nonce, signs := (t.linkAt n).signs }
    (∀ i : IdentifyInfo, l.st = 2 → s.fab.valid = true → l.identifying = false →
      (i.chainOk = false ∨ i.byAlias = false ∨ i.sigOk = false →
        ∃ t, exec (.identifyExchange n i) s = .next t ∧ noted t { l with st := 5 } ∧ SameMemories t s) ∧
      (i.chainOk = true → i.byAlias = true → i.sigOk = true → idConflicts s i.chip i.cert = true →
        ∃ t, exec (.identifyExchange n i) s = .next t ∧ noted t { l with st := 6, partner := i.chip, cert := i.cert } ∧
          i.chip ∈ t.fab.conflicts ∧ SameMemories t s) ∧
      (i.chainOk = true → i.byAlias = true → i.sigOk = true → idConflicts s i.chip i.cert = false →
        ∃ t, exec (.identifyExchange n i) s = .next t ∧ SameMemories t s ∧ noted t
          { l with partner := i.chip, partnerLink := i.link, cert := i.cert, st := 3, lost := false
                   sent := (t.linkAt n).sent, replayBuf := (t.linkAt n).replayBuf, sending := (t.linkAt n).sending })) ∧
    (∀ i : IdentifyInfo, l.st = 6 → i.chip ≠ l.partner →
      ∃ t, exec (.identifyExchange n i) s = .next t ∧ SameMemories t s ∧ t.linkAt n = { l with st := 1 }) ∧
    (∀ (number : Nat) (flit : List Byte) (k : Nat), l.st = 3 → flit.length = 256 →
      let l' := { l with fecCorrected := l.fecCorrected + BitVec.ofNat 64 k }
      (crc64 (flit.take 248) = leNat (flit.drop 248) →
        ∃ t, exec (.flitReceive n flit k number) s = .next t ∧ SameMemories t s ∧ t.out = s.out ∧
          (number = l.expected → t.linkAt n =
            { l' with accepted := (flit.drop 8).take 240 :: l.accepted, expected := l.expected + 1 }) ∧
          (number ≠ l.expected → t.linkAt n = l')) ∧
      (crc64 (flit.take 248) ≠ leNat (flit.drop 248) →
        ∃ t, exec (.flitReceive n flit k number) s = .next t ∧ SameMemories t s ∧ t.out = s.out ++ [.nak n l.expected] ∧
          t.linkAt n = { l' with crcErrors := l.crcErrors + 1 })) ∧
    (∀ failed, l.st = 3 →
      let buf := l.replayBuf.filter (fun f => decide (failed ≤ f.1))
      let kept := l.sending.filter (fun e => buf.any (fun f => decide (f.1 = e.1)))
      (l.lastReplay ≠ failed →
        ∃ t, exec (.flitNak n failed) s = .next t ∧ SameMemories t s ∧
          (s.out ++ buf.map (fun f => Out.flit n f.2)) <+: t.out ∧
          t.linkAt n = { l with
            replayBuf := buf, sending := kept, replays := l.replays + 1, lastReplay := failed, replayRun := 1 }) ∧
      (l.lastReplay = failed → l.replayRun = 31 →
        ∃ t, exec (.flitNak n failed) s = .next t ∧ SameMemories t s ∧ t.linkAt n =
          { l with replayBuf := buf, sending := kept, replays := l.replays + 1, replayRun := 0, st := 4, retrains := l.retrains + 1 })) ∧
    (l.st ≠ 3 → l.lost = false → ∃ t, exec (.partnerLost n) s = .next t ∧ SameMemories t s ∧
      t.linkAt n = { l with lost := true } ∧ .partnerLostEvent false n ∈ t.out ∧
      t.power.events.getLsbD evPartnerLost = true)

/-- R222, R224, R227, R228: a record that the map does not hold, or holds as older, and that is not the chip's own, goes
into the map in the place of the old one and on over every link in UP; a refresh puts the chip's own record with the next
sequence number, the first 0, into the map and floods it; an expired record leaves the map; FAB_CHIP_ID is taken while no
group is in use, and a changed identifier brings the links in ID_CONFLICT back to TRAINING. What counts as a change of the
map: log entry 28. -/
def Obligations.TopologyMapFollowsRecords : Prop :=
  ∀ (s : State),
    (∀ r : LinkState, fabHears s = true → s.power.chip = 0 → (r.chip = s.fab.chip → s.fab.valid = false) →
      (∀ old, s.fab.topo.find? (fun q => decide (q.chip = r.chip)) = some old → newerSeq r.seq old.seq = true) →
      ∃ t, exec (.linkStateRecord r) s = .next t ∧ SameMemories t s ∧ Flooded s t (.linkState r) ∧
        t.fab.topo = s.fab.topo.filter (fun q => decide (q.chip ≠ r.chip)) ++ [r]) ∧
    (s.boot.aonRst = true → s.fab.valid = true → ∃ t, exec .linkStateRefresh s = .next t ∧ SameMemories t s ∧
      t.fab.seq = s.fab.seq + 1 ∧ (ownRecord s).seq = s.fab.seq.toNat ∧ Flooded s t (.linkState (ownRecord s)) ∧
      t.fab.topo = s.fab.topo.filter (fun q => decide (q.chip ≠ s.fab.chip)) ++ [ownRecord s]) ∧
    (∀ chip, (∃ r, r ∈ s.fab.topo ∧ r.chip = chip) → ∃ t, exec (.topologyRecordExpiry chip) s = .next t ∧
      SameMemories t s ∧ (∀ r, r ∈ t.fab.topo ↔ r ∈ s.fab.topo ∧ r.chip ≠ chip) ∧ t.fab.mapGen = s.fab.mapGen + 1) ∧
    (∀ valid chip, hostUp s = true → s.power.chip = 0 → chip < 1024 → (∀ g, g ∈ s.fab.groups → g.st = 0) →
      (∀ l, l ∈ s.fab.links → l.st ≠ 2) →
      ∃ t, exec (.fabChipId valid chip) s = .next t ∧ t.fab.valid = valid ∧ t.fab.chip = chip ∧ SameMemories t s ∧
        ∀ n, n < 8 → t.linkAt n =
          (if (s.linkAt n).st = 6 ∧ chip ≠ s.fab.chip then { s.linkAt n with st := 1 } else s.linkAt n))

/-- R230 to R234: ARM of an entry that passes its checks reads the member list and joins its lead; a JOIN before that is
kept; the lead takes JOINs that agree, and once the last has come and every member stands in the topology map the group is
ACTIVE; ACTIVE and FAILED of the lead are followed; PLAN writes request and plan record to the lead's area, the first with
PLAN_GEN 0, and sends each member its own; DISBAND returns a group that is not RUNNING to IDLE and keeps its registers and
REASON. JOINs that come before ARM: log entry 50. -/
def Obligations.GroupsFormAndPlan : Prop :=
  ∀ (s : State) (n : Nat), n < s.fab.groups.length → n < 16 →
    let g := s.groupAt n
    let others (t : State) (m : FabMsg) : Prop := ∀ k, k ∈ g.members → k ≠ s.fab.chip → Sent t k m
    (hostUp s = true → s.power.chip = 0 →
      (g.st = 0 → armStatus s n = none → g.lead ≠ s.fab.chip → rangeStop s g.context g.listVa (2 * g.count) false = none →
        let bs := vaRead s g.context g.listVa (2 * g.count)
        ∃ t, exec (.arm n) s = .next t ∧ SameMemories t s ∧ (t.groupAt n).st = 1 ∧ (t.groupAt n).joined = [s.fab.chip] ∧
          (t.groupAt n).members = (List.range g.count).map (fun i => fieldOf bs (2 * i) 2) ∧
          ∃ i : JoinInfo, Sent t g.lead (.joinMsg i) ∧ i.chip = s.fab.chip ∧ i.members = (t.groupAt n).members) ∧
      (∀ st, g.st = 0 → armStatus s n = some st → ∃ t, exec (.arm n) s = .next t ∧ SameMemories t s ∧
        t.groupAt n = { g with reason := st }) ∧
      (∀ gx gy cells proposed, mayPlan s g = true → rangeStop s g.context g.plan 64 false = none →
        rangeStop s g.context g.plan 128 true = none → planStatus (vaRead s g.context g.plan 64) = none →
        choosePlan s g (vaRead s g.context g.plan 64) = some (gx, gy, cells) →
        let area (k : Nat) : List Byte := vaRead s g.context g.plan 64 ++
          planRecord (vaRead s g.context g.plan 64) gx gy cells g.planGen.toNat k
        ∃ t, exec (.plan n proposed) s = .next t ∧ SameMemories t (vaWrite s g.context g.plan (area 0)) ∧
          (t.groupAt n).cells = cells ∧ (t.groupAt n).gx = gx ∧ (t.groupAt n).gy = gy ∧
          (t.groupAt n).planGen = g.planGen + 1 ∧ (t.groupAt n).reason = stDone ∧
          ∀ e, e ∈ cells.zipIdx.drop 1 → Sent t e.1 (.group (.plan (area e.2)))) ∧
      (g.st ≠ 3 → ∃ t, exec (.disband n) s = .next t ∧ SameMemories t s ∧ t.groupAt n =
        { ctrl := g.ctrl, list := g.list, plan := g.plan, stopBench := g.stopBench, reason := g.reason })) ∧
    (∀ i : JoinInfo, fabHears s = true → s.power.chip = 0 → g.st = 0 → ∃ t, exec (.join n i) s = .next t ∧ SameMemories t s ∧
      t.groupAt n = { g with early := g.early.filter (fun j => decide (j.chip ≠ i.chip)) ++ [i] }) ∧
    (∀ i : JoinInfo, fabHears s = true → g.st = 1 → g.lead = s.fab.chip → s.power.chip = 0 → joinAgrees s g i = true → i.chip ∉ g.joined →
      (g.joined.length + 1 ≠ g.members.length ∨ (∃ m, m ∈ g.members ∧ ¬ Known s m) →
        ∃ t, exec (.join n i) s = .next t ∧ SameMemories t s ∧ t.out = s.out ∧
          t.groupAt n = { g with joined := g.joined ++ [i.chip] }) ∧
      (g.joined.length + 1 = g.members.length → (∀ m, m ∈ g.members → Known s m) →
        ∃ t, exec (.join n i) s = .next t ∧ SameMemories t s ∧ others t (.group .active) ∧
          t.groupAt n = { g with joined := g.joined ++ [i.chip], st := 2, reason := stDone })) ∧
    (fabHears s = true → s.power.chip = 0 → g.st = 1 →
      (∃ t, exec (.groupMessage n .active) s = .next t ∧ SameMemories t s ∧
        t.groupAt n = { g with st := 2, reason := stDone, joined := g.members }) ∧
      (∀ st, ∃ t, exec (.groupMessage n (.failed st)) s = .next t ∧ SameMemories t s ∧
        t.groupAt n = { g with st := 4, reason := st }))

/-- R238, R239, R243, R244, R249: messages of a group whose run has not started on this chip are kept for it; a partial
tally of a child cell joins its step; the lead's tallies are kept for the boundary that waits; a digest of a command whose
start has come is kept for its step; a member of a RUNNING group to which no way leads, or a STOP with LINK_LOST, of an
ACTIVE one too, fails the group and is passed on to every other member, with PARTNER_LOST where the lost member is a direct
partner. What is kept: log entry 28. -/
def Obligations.GroupTrafficCompletes : Prop :=
  ∀ (s : State) (n : Nat), n < s.fab.groups.length → groupRun s n = none → fabHears s = true → s.power.chip = 0 →
    let g := s.groupAt n
    let failed (t : State) (lost : Option Nat) : Prop := SameMemories t s ∧
      t.groupAt n = { g with st := 4, reason := stLinkLost } ∧
      (∀ m, m ∈ g.members → m ≠ s.fab.chip → Sent t m (.stopMsg stLinkLost lost)) ∧
      (∀ chip, lost = some chip → directPartner s chip = true → .partnerLostEvent false chip ∈ t.out)
    (∀ m : FabEasement, slabOpen g = true → m.groupId = bitsOf g.ctrl.toNat 63 48 → m.dir < 8 → m.replica < 64 →
      ∃ t, exec (.fabricEasement n m) s = .next t ∧ SameMemories t s ∧ t.groupAt n = { g with
        easements := m :: (if m.step = startStep then
          g.easements.filter (fun e => decide (e.dir ≠ m.dir ∨ e.replica ≠ m.replica)) else g.easements) }) ∧
    (∀ step replica cell image, slabOpen g = true → cell ∈ childCells g (ownCell s g) → waitingRun s n = none →
      (∀ e, e ∈ g.partials → ¬ (e.1 = step ∧ e.2.1 = replica ∧ e.2.2.1 = cell)) →
      ∃ t, exec (.tallyPartial n step replica cell image) s = .next t ∧ SameMemories t s ∧
        t.groupAt n = { g with partials := g.partials ++ [(step, replica, cell, signedOf 448 (leNat (image.take 56)))] }) ∧
    (∀ step tallies, slabOpen g = true → g.lead ≠ s.fab.chip →
      ∃ t, exec (.tallyBroadcast n step tallies) s = .next t ∧ SameMemories t s ∧
        t.groupAt n = { g with broadcast := g.broadcast ++ [(step, tallies)] }) ∧
    (∀ step digest parcels, g.kind = 1 → g.st = 2 ∨ g.st = 3 → (presentStart g).isSome = true →
      ∃ t, exec (.lockstepDigest n step digest parcels) s = .next t ∧ SameMemories t s ∧ t.groupAt n =
        { g with peerDigests := g.peerDigests ++ [(step, digest, parcels)], peerUpto := max g.peerUpto (step + 1) }) ∧
    (waitingRun s n = none →
      (∀ chip, g.st = 3 → chip ∈ g.members → chip ≠ s.fab.chip → routeTo s chip = none →
        ∃ t, exec (.memberLost n chip) s = .next t ∧ failed t (some chip)) ∧
      (∀ lost, g.st = 2 ∨ g.st = 3 → ∃ t, exec (.fabricStop n stLinkLost lost) s = .next t ∧ failed t lost))

/-! ### RNG (09) -/

/-- R255 to R258, R261 to R263, R265, R266, R269, R276, R277, R513, R517 (the AES and CTR_DRBG functions by log entry 10):
while the sources run, a sample that no test fails goes to the conditioner's block at its source's turn, the third failure
in a row latches the source, and in RAW_TAP a sample that no test fails counts towards clearing the failures; windows,
blocks, settling and a due reseed; without the always-on clock, or after a rail failure, no sample, block or settling is
taken; RESEED, RAW_TAP, which leaves OVERRUN as it is, TAP_SRC and the reads of RNG_DATA and RNG_RAW; the oldest request
that waits times out with the state's status. What a source gives ahead of the others: log entry 102. -/
def Obligations.RngCompletes : Prop :=
  (∀ (s : State),
     (∀ i b, rngRuns s = true → i < 8 → i < s.rng.sources.length → s.rng.st = 2 → s.rng.settled = true → (s.rng.src i).latched = false →
       (s.rng.src i).passed = true → (s.rng.src i).retest = false →
       ((testSample (s.rng.src i) b).2 = false → ∃ t, exec (.entropySample i b) s = .next t ∧ SameMemories t s ∧
         t.rng.src i = cleanPass (testSample (s.rng.src i) b).1 ∧ t.rng.st = 2 ∧ t.rng.drbg = s.rng.drbg ∧
         (s.rng.turn = i → s.rng.block.length < 512 → i < s.rng.feeds.length → (∀ j, s.rng.feeds.getD j [] = []) →
          t.rng.block = s.rng.block ++ [b])) ∧
       ((testSample (s.rng.src i) b).2 = true → 5 ≤ s.rng.unlatched → ∃ t, exec (.entropySample i b) s = .next t ∧
         SameMemories t s ∧ t.rng.st = 3 ∧ t.rng.drbg = none ∧ t.rng.blocks = [] ∧ t.rng.block = [] ∧
         (t.rng.src i).consec = min 3 ((s.rng.src i).consec + 1) ∧
         (t.rng.src i).latched = decide (2 ≤ (s.rng.src i).consec))) ∧
     (∀ i b, rngRuns s = true → i < 8 → i < s.rng.sources.length → s.rng.st = 4 → s.rng.settled = true →
       (s.rng.src i).passed = true → (s.rng.src i).retest = false → (testSample (s.rng.src i) b).2 = false →
       ∃ t, exec (.entropySample i b) s = .next t ∧ SameMemories t s ∧ t.rng.st = 4 ∧
         t.rng.src i = cleanPass (testSample (s.rng.src i) b).1 ∧
         (i = s.rng.tapSrc → s.rng.fifo.length < 4096 → t.rng.fifo = s.rng.fifo ++ [b] ∧ t.rng.overrun = s.rng.overrun) ∧
         (i = s.rng.tapSrc → 4096 ≤ s.rng.fifo.length → t.rng.fifo = s.rng.fifo ∧ t.rng.overrun = true)) ∧
     (rngRuns s = false → exec .conditionerBlock s = .next s ∧ exec .rngSettlingEnd s = .next s ∧
       ∀ i b, exec (.entropySample i b) s = .next s) ∧
     (∀ i, rngRuns s = true → i < s.rng.sources.length → (s.rng.src i).winCount = 65536 → ∃ t, exec (.estimateWindow i) s = .next t ∧
       SameMemories t s ∧ (t.rng.src i).winCount = 0 ∧
       (t.rng.src i).est = estimate (s.rng.src i).winOnes :: (s.rng.src i).winAgree.map estimate) ∧
     (rngRuns s = true → 512 ≤ s.rng.block.length → s.rng.st = 2 → s.rng.drbg.isSome = true → s.rng.reseeding = true →
       s.rng.blocks.length < 2 → ∃ t, exec .conditionerBlock s = .next t ∧ SameMemories t s ∧ t.rng.block = [] ∧
         t.rng.drbg = s.rng.drbg ∧ t.rng.blocks = s.rng.blocks ++ [beVal (condition (s.rng.block.take 512))]) ∧
     (rngRuns s = true → s.rng.st ≠ 0 → ∃ t, exec .rngSettlingEnd s = .next t ∧ SameMemories t s ∧
       t.rng = { s.rng with settled := true }) ∧
     (s.rng.st = 2 → ∃ t, exec .drbgReseedDue s = .next t ∧ t = { s with rng := { s.rng with reseeding := true } })) ∧
  (∀ (s : State), hostUp s = true → s.power.chip = 0 →
     (s.rng.st = 2 → ∃ t, exec .reseed s = .next t ∧ t = { s with rng := { s.rng with reseeding := true } }) ∧
     (s.rng.st ≠ 0 → s.rng.st ≠ 4 → ∃ t, exec .rawTapEnter s = .next t ∧ SameMemories t s ∧ t.rng.st = 4 ∧
       t.rng.drbg = none ∧ t.rng.blocks = [] ∧ t.rng.block = [] ∧ t.rng.fifo = [] ∧ t.rng.waiting = s.rng.waiting ∧
       t.rng.sources = s.rng.sources ∧ t.rng.overrun = s.rng.overrun) ∧
     (s.rng.st = 4 → 4 ≤ s.rng.unlatched → ∃ t, exec .rawTapExit s = .next t ∧ SameMemories t s ∧ t.rng.st = 1 ∧
       t.rng.rawTap = false ∧ (∀ x, x ∈ t.rng.sources → x.passed = false ∧ x.retest = false ∧
         x.testCount = 0 ∧ x.aptCount = 0 ∧ x.rctRun = 0)) ∧
     (∀ n, ∃ t, exec (.tapSrc n) s = .next t ∧ t = { s with rng := { s.rng with tapSrc := n % 8, fifo := [] } }) ∧
     (∀ k v n, s.rng.st = 2 → s.rng.drbg = some (k, v, n) →
       ∃ t, exec .rngData s = .next t ∧ SameMemories t s ∧
         t.out = s.out ++ [.value (BitVec.ofNat 64 (leNat ((drbgGenerate 4 (k, v)).1.map (BitVec.ofNat 8))))] ∧
         t.rng.drbg = some ((drbgGenerate 4 (k, v)).2.1, (drbgGenerate 4 (k, v)).2.2, n + 1)) ∧
     (s.rng.st ≠ 2 → ∃ t, exec .rngData s = .next t ∧
       t = { s with out := s.out ++ [.value (BitVec.ofNat 64 (s.rng.blockStatus.toNat * 2 ^ 32))] }) ∧
     (s.rng.st = 4 → ∃ t, exec .rngRaw s = .next t ∧ SameMemories t s ∧ t.rng.fifo = s.rng.fifo.drop 32 ∧
       t.rng.overrun = false ∧ ∃ w, t.out = s.out ++ [.value w] ∧
         w.toNat / 2 ^ 32 % 256 = min 32 s.rng.fifo.length ∧ w.toNat / 2 ^ 40 = (if s.rng.overrun then 1 else 0) ∧
         (∀ i, i < 32 → w.getLsbD i = s.rng.fifo.getD i false))) ∧
  (∀ (s : State),
     (∀ k rest r, s.rng.waiting = .seed k :: rest → s.rng.st ≠ 2 → s.findRun k = some r → r.status = none →
       ∃ t, exec .rngRequestTimeout s = .next t ∧ SameMemories t s ∧ t.rng.waiting = rest ∧
         t.findRun k = some { r with
           seedWait := false, phase := .stopping
           status := some (if s.rng.st = 3 ∨ s.rng.st = 5 ∨ s.rng.st = 0 then stNoiseFault else stNoiseNotReady) }))

/-! ### Resets and power (15, 18) -/

/-- R435, R436, R439 to R441, R444, R452, R473, R513 to R515, R517 (log entry 3 for what memory and cores hold): a cold
reset brings the package up to step 8 with the enabled cores of the map, where every compute die binds, into recovery for an
image that is refused, and no further than a wrong fuse check or a missing clock allows; BOOT_DONE and PERST_N bring up the
link; AON_RST_N, a rail failure and D3cold discard what they reach, a rail failure the RNG's state too. -/
def Obligations.PackageResetsComplete : Prop :=
  ∀ s : State,
    (∀ found : BringUp, s.boot.aonRst = false → s.boot.thermtrip = false →
      ∃ t, exec (.coldReset found) s = .next t ∧ t.boot.aonRst = true ∧ t.boot.thermtrip = false ∧ t.ctxs = [] ∧
        t.plots = [] ∧ t.runs = [] ∧ t.rng = {} ∧ t.host = s.host ∧ t.fuses = s.fuses ∧
        (found.aonClock = false → t.boot.step = 0 ∧ t.boot.bootDone = false ∧ t.flash = s.flash) ∧
        (found.aonClock = true → found.fuseOk = false → t.boot.fuseFault = true ∧ t.boot.step = 1 ∧ t.boot.bootDone = false ∧ t.flash = s.flash) ∧
        (found.aonClock = true → found.fuseOk = true → t.boot.boots = s.boot.boots + 1) ∧
        (found.aonClock = true → found.fuseOk = true → imageCause s ≠ 0 → t.boot.mode = 2 ∧ t.boot.cause = imageCause s ∧
          t.boot.bootDone = true ∧ t.boot.link = s.boot.perst ∧ t.boot.clocks = false) ∧
        (found.aonClock = true → found.fuseOk = true → imageCause s = 0 → t.boot.mode = 0 ∧ t.boot.bootDone = false ∧
          (found.sysClock = false → t.boot.step = 3 ∧ t.boot.clocks = false) ∧
          (found.sysClock = true → (∀ d, d < 4 → dieBinds s (bindText s.flash.image.digest (s.boot.boots + 1)) d = true) →
            t.boot.step = 8 ∧ t.boot.clocks = true ∧ t.boot.mapGood = true ∧
            t.boot.enabled = selectCores s.fuses.grade (goodCores s found)))) ∧
    (s.boot.aonRst = true → s.boot.rails = true → s.boot.thermtrip = false → s.boot.mode = 0 → s.boot.step = 8 →
      ∃ t, exec .bootDone s = .next t ∧
        t = { s with boot := { s.boot with mode := 1, step := 10, bootDone := true, link := s.boot.perst } }) ∧
    (s.boot.aonRst = true → ∃ t, exec .perstRelease s = .next t ∧ t = { s with boot := { s.boot with
        perst := true, link := s.boot.bootDone && s.boot.rails && !s.boot.thermtrip } }) ∧
    (∃ t, exec .aonRstNAssert s = .next t ∧ t.boot.aonRst = false ∧ t.boot.bootDone = false ∧ t.boot.link = false ∧
      t.boot.thermtrip = s.boot.thermtrip ∧ t.ctxs = [] ∧ t.plots = [] ∧ t.cores = [] ∧ t.runs = [] ∧
      t.flash = s.flash ∧ t.fuses = s.fuses ∧ t.host = s.host) ∧
    (s.boot.aonPower = true → ∃ t, exec .railFailure s = .next t ∧ t.boot.rails = false ∧ t.boot.clocks = false ∧
      t.boot.bootDone = false ∧ t.boot.link = false ∧ t.ctxs = [] ∧ t.runs = [] ∧ t.rng = {} ∧
      t.flash = s.flash ∧ t.host = s.host) ∧
    (∃ t, exec .d3cold s = .next t ∧ t.boot.aonPower = false ∧ t.boot.rails = false ∧ t.boot.thermtrip = false ∧
      t.boot.aonRst = false ∧ t.rng.st = 0 ∧ t.ctxs = [] ∧ t.runs = [] ∧ t.flash = s.flash ∧ t.host = s.host)

/-- R402, R416, R438, R446, R455, R456, R517: a warm reset with a good map and image keeps, outside the device pool, far
memory and, of near memory, the stacks whose layout stays; the others read as zero (log entry 3); it loses contexts, plots
and RUNs. A refused image gives recovery mode with both memories kept, a missing REFCLK_SYS stops bring-up at step 3, and
without REFCLK_AON the flash is not read and no step begins. An FLR clears contexts, plots, RUNs, groups, services and core
stores, enables ATS again (log entry 76), and keeps memories, links, RNG, temperatures and MACs. -/
def Obligations.WarmAndFunctionResetsComplete : Prop :=
  ∀ s : State,
    let keeps (t : State) : Prop := t.host = s.host ∧ ∀ a, farPool s a 1 = false → memRead t.far a = memRead s.far a
    (∀ found : BringUp, s.boot.aonRst = true → s.boot.perst = true → s.boot.rails = true → s.boot.thermtrip = false →
      s.boot.fuseFault = false →
      (found.aonClock = true → imageCause s = 0 → found.sysClock = true → s.boot.mapGood = true → ∃ t, exec (.warmReset found) s = .next t ∧ t.boot.perst = false ∧
        t.boot.link = false ∧ t.boot.bootDone = false ∧ t.boot.retained = true ∧ t.boot.step = 8 ∧ t.boot.mode = 0 ∧
        keeps t ∧ (∀ a, nearPool s a 1 = false → memRead t.near a =
          if (gradeStacks s.fuses.grade).getD (a / stackBytes) 8 ∈ movedStacks s.boot.stackChans t.boot.stackChans then 0
          else memRead s.near a) ∧
        t.ctxs = [] ∧ t.plots = [] ∧ t.runs = [] ∧ t.rng = { settled := s.rng.settled } ∧ t.boot.pending = []) ∧
      (found.aonClock = true → imageCause s ≠ 0 → ∃ t, exec (.warmReset found) s = .next t ∧ t.boot.mode = 2 ∧ t.boot.cause = imageCause s ∧
        t.boot.bootDone = true ∧ t.ctxs = [] ∧ t.runs = [] ∧ keeps t ∧
        ∀ a, nearPool s a 1 = false → memRead t.near a = memRead s.near a) ∧
      (found.aonClock = true → imageCause s = 0 → found.sysClock = false → ∃ t, exec (.warmReset found) s = .next t ∧
        t.boot.mode = 0 ∧ t.boot.step = 3 ∧ t.boot.bootDone = false ∧ t.ctxs = [] ∧ t.runs = []) ∧
      (found.aonClock = false → ∃ t, exec (.warmReset found) s = .next t ∧ t.boot.mode = 0 ∧ t.boot.perst = false ∧
        t.boot.bootDone = false ∧ t.boot.clocks = false ∧ t.flash = s.flash ∧ t.boot.boots = s.boot.boots ∧ t.ctxs = [] ∧
        t.runs = [] ∧ t.near = s.near ∧ t.far = s.far ∧ rngRuns t = false)) ∧
    (s.boot.link = true → s.power.chip = 0 → ∃ t, exec .flr s = .next t ∧ SameMemories t s ∧ t.boot.link = true ∧
      t.ctxs = [] ∧ t.plots = [] ∧ t.runs = [] ∧ t.rng.st = s.rng.st ∧ t.rng.drbg = s.rng.drbg ∧
      t.ats = true ∧ t.power.dieTemp = s.power.dieTemp ∧
      (∀ n, (t.workAt n).store = [] ∧ (t.workAt n).run = none) ∧
      (∀ n, (t.linkAt n).st = (s.linkAt n).st ∧ (t.linkAt n).partner = (s.linkAt n).partner) ∧
      (∀ n, (t.groupAt n).st = 0 ∧ (t.svcAt n).st = 0 ∧ (t.portAt n).mac = (s.portAt n).mac ∧ (t.portAt n).time = 0))

/-- R454: a core reset ends the RUN that holds the core on all its cores with UNIT_RESET and faults no context; a reset
that names a core which is not enabled sets REASON to BAD_FIELD and does nothing else, CORE being checked before UNITS,
and UNITS zero with an enabled core reports LEN_ZERO; the end of a core reset leaves every unit and both control cores
idle, the store zero, the instruction store invalid and the counters zero, with the core in its plot. -/
def Obligations.CoreResetsComplete : Prop :=
  (∀ (s : State) (core : Nat), hostUp s = true → s.power.chip = 0 → core < 128 → s.power.rstBusy = none →
    (s.coreEnabled core = true →
      ∃ t, exec (.coreReset core) s = .next t ∧ t.power.rstBusy = some core ∧ t.power.rstReason = stDone ∧
        (t.coreAt core).quiesce = 1 ∧ t.ctxs = s.ctxs ∧ SameMemories t s ∧
        (∀ r, s.runOf core = some r → r.status = none →
          t.findRun r.key = some { r with status := some stUnitReset, phase := .stopping, seedWait := false } ∧
          runEnd t { r with status := some stUnitReset, phase := .stopping, seedWait := false } = some stUnitReset ∧
          .seed r.key ∉ t.rng.waiting ∧
          ∀ x : Hart, (s.workAt x.core).run = some r.key → hartReady t x = none)) ∧
    (s.coreEnabled core = false → ∀ i, i = .coreReset core ∨ (∃ u, i = .engineReset core u) →
      ∃ t, exec i s = .next t ∧ t = { s with power := { s.power with rstReason := stBadField } }) ∧
    (s.coreEnabled core = true → ∃ t, exec (.engineReset core 0) s = .next t ∧
      t = { s with power := { s.power with rstReason := stLenZero } })) ∧
  (∀ (s : State) (core : Nat), (s.coreAt core).quiesce = 1 →
    ∃ t, exec (.quiesceEnd core) s = .next t ∧ SameMemories t s ∧ (t.workAt core).store = [] ∧
      (let c := s.coreAt core
       t.coreAt core = { phys := c.phys, power := c.power, gen := c.gen + 1, pendingRetire := c.pendingRetire, plot := c.plot,
                         bankGood := c.bankGood }) ∧
      (∀ n, n ≠ core → t.coreAt n = s.coreAt n) ∧ (s.power.rstBusy = some core → t.power.rstBusy = none))

/-- R453, R457, R458: an engine reset of named units of an enabled core, no other reset being in progress, makes the core
quiesce for those units; at its end no command is left in the queue of a named unit, the other units' queues are as
they were, and the tag generation has moved on. -/
def Obligations.EngineResetsComplete : Prop :=
  (∀ (s : State) (core : Nat) (units : BitVec 4), hostUp s = true → s.power.chip = 0 → core < 128 →
    s.power.rstBusy = none → s.coreEnabled core = true → units ≠ 0 → (s.coreAt core).quiesce = 0 →
    ∃ t, exec (.engineReset core units) s = .next t ∧ SameMemories t s ∧ t.power.rstBusy = some core ∧
      (t.coreAt core).quiesce = 2 ∧ (t.coreAt core).quiesceUnits = (s.coreAt core).quiesceUnits ||| units ∧
      t.workAt core = s.workAt core) ∧
  (∀ (s : State) (core : Nat), (s.coreAt core).quiesce = 2 → (∀ u, ((s.workAt core).unitQ u).queue.length ≤ 16) →
    ∃ t, exec (.quiesceEnd core) s = .next t ∧ (t.coreAt core).quiesce = 0 ∧ (t.coreAt core).quiesceUnits = 0 ∧
      (t.coreAt core).gen = (s.coreAt core).gen + 1 ∧ (s.power.rstBusy = some core → t.power.rstBusy = none) ∧
      ∀ u, ((t.workAt core).unitQ u).queue =
        if (s.coreAt core).quiesceUnits &&& unitBit u ≠ 0 then [] else ((s.workAt core).unitQ u).queue)

/-- R460 to R462, R464 to R466, R469: a write of CAP_W holds from the next credit period on, kept within 400 to 1,000 W and
above the floor; a period's credits, in parts of 1/40 pJ (the model's unit, log entry 56), stay within its budget; a core
without a RUN, not under test, is retained, one of no plot is switched off; the chip idles when R461 lets it, sleeps when
DEEP_IDLE is requested, the occupied core stores saved, an uncorrectable error in one of them making the context that holds
its plot faulted (R413, R414; log entry 95's reading), and wakes; D3hot holds the work and D0 goes on, the fast clocks
running again but in recovery (R438, R463); after a thermal trip nothing wakes (R468). What a core switched off reads as:
log entry 3. -/
def Obligations.PowerStatesComplete : Prop :=
  ∀ s : State,
    (∀ w, hostUp s = true → s.power.chip = 0 → ∃ t, exec (.capW w) s = .next t ∧ t = { s with power := { s.power with
      capW := max (if w % 1024 = 0 then 1000 else max 400 (min 1000 (w % 1024))) (floorW s) } }) ∧
    (chipRuns s = true → ∃ t, exec .creditPeriod s = .next t ∧ t.power.capNow = max s.power.capW (floorW s) ∧
      (t.power.credits.map Prod.snd).sum ≤ (max s.power.capW (floorW s) * 1000 - 215000 - reservedMw s) * 400000 * creditUnit ∧
      t = { s with power := t.power }) ∧
    (∀ core, chipRuns s = true → s.coreEnabled core = true → (s.workAt core).run = none → (s.coreAt core).quiesce = 0 →
      underTest s core = false →
      ((s.coreAt core).power = 0 → inTimed s (s.coreAt core) = false → ∃ t, exec (.coreRetain core) s = .next t ∧
        t.coreAt core = { s.coreAt core with power := 1 } ∧ (∀ n, n ≠ core → t.coreAt n = s.coreAt n)) ∧
      ((s.coreAt core).power ≠ 2 → (s.coreAt core).plot = none → ∃ t, exec (.coreOff core) s = .next t ∧
        t.coreAt core = { s.coreAt core with power := 2, code := [], image := none, work := {} } ∧
        (∀ n, n ≠ core → t.coreAt n = s.coreAt n))) ∧
    (mayIdle s = true → s.power.deepIdle = false → ∃ t, exec .chipIdle s = .next t ∧
      t = { s with power := { s.power with chip := 1 }, boot := { s.boot with clocks := false } }) ∧
    (mayIdle s = true → s.power.deepIdle = true →
      ((∀ n, SaveClean s n) → ∃ t, exec .chipIdle s = .next t ∧ t.power.chip = 2 ∧ t.boot.clocks = false ∧ SameMemories t s ∧
        t.ctxs = s.ctxs ∧ t.runs = s.runs ∧
        ∀ n c, (s.coreAt n).plot.bind (fun p => (s.plotAt p).holder) = some c → (t.workAt n).store = (s.workAt n).store) ∧
      (∀ n c l, (∀ m, m ≠ n → SaveClean s m) → (s.coreAt n).plot.bind (fun p => (s.plotAt p).holder) = some c →
        storeBad s n 0 8388608 = some l → (s.ctxAt c).st = 1 →
        ∃ t, exec .chipIdle s = .next t ∧ t.power.chip = 2 ∧ (t.ctxAt c).st = 3 ∧ (t.ctxAt c).ue = ueWord .coreStore l)) ∧
    (hostUp s = true → s.power.chip = 0 →
      (∀ bit, bit = false ∨ mayIdle s = false → ∃ t, exec (.deepIdle bit) s = .next t ∧
        t = { s with power := { s.power with deepIdle := bit } }) ∧
      (mayIdle s = true → (∀ n, SaveClean s n) → ∃ t, exec (.deepIdle true) s = .next t ∧ t.power.chip = 2 ∧ t.power.deepIdle = true ∧
        t.boot.clocks = false ∧ SameMemories t s)) ∧
    (s.power.chip = 1 ∨ s.power.chip = 2 → s.boot.thermtrip = false → (∀ c n, nextOf (wakeFully s) c n 2 [1, 2] = none) →
      ∃ t, exec .chipWake s = .next t ∧ t.power.chip = 0 ∧ t.boot.clocks = decide (s.boot.mode ≠ 2) ∧ SameMemories t s ∧ t.ctxs = s.ctxs ∧
        t.runs = s.runs) ∧
    (s.boot.link = true → s.boot.d3hot = false → (∀ n, SaveClean s n) → ∃ t, exec .d3hot s = .next t ∧ t.power.chip = 3 ∧ t.boot.d3hot = true ∧
      t.boot.clocks = false ∧ SameMemories t s ∧ t.ctxs = s.ctxs ∧ t.runs = s.runs ∧ (∀ n, n < 8 → (t.svcAt n).st = 0)) ∧
    (s.boot.d3hot = true → s.boot.thermtrip = false → ∃ t, exec .d0 s = .next t ∧ t.power.chip = 0 ∧ t.boot.d3hot = false ∧
      t.boot.clocks = decide (s.boot.mode ≠ 2) ∧
      SameMemories t s ∧ t.ctxs = s.ctxs ∧ t.runs = s.runs)

/-- R449, R450, R467, R468: a sensor read from 100 °C on throttles the credits of its die and from 103 °C on its clock, and
one from 115 °C on trips; a throttled die's budget halves down to a sixteenth, and doubles after 100 reads below 95 °C;
a survey round takes spares and cores of no plot and powers the first for its test (R460); a tested core is back in its power
state, and one that fails its test is retired. -/
def Obligations.ThermalAndSurveyComplete : Prop :=
  ∀ s : State,
    (∀ dies : List Nat, s.boot.aonRst = true → s.boot.rails = true → s.boot.thermtrip = false → dies.length = 5 →
      s.power.dieTemp.length = 5 → s.power.creditThr.length = 5 → s.power.clockThr.length = 5 →
      ∃ t, exec (.thermalSensorRead dies) s = .next t ∧ SameMemories t s ∧ t.power.dieTemp = dies ∧
        (t.boot.thermtrip = true ↔ ∃ x, x ∈ dies ∧ 115 ≤ x) ∧
        (t.boot.thermtrip = true → t.boot.clocks = false ∧ t.boot.link = false) ∧
        (∀ d, d < 5 → t.power.creditThr.getD d false = (s.power.creditThr.getD d false || decide (100 ≤ dies.getD d 0)) ∧
          (103 ≤ dies.getD d 0 → t.power.clockThr.getD d false = true))) ∧
    (∀ die, s.power.creditThr.getD die false = true → die < s.power.halvings.length →
      ∃ t, exec (.throttleStep die) s = .next t ∧
        (s.power.coolReads.getD die 0 < 100 → 100 ≤ s.power.dieTemp.getD die 0 →
          t.power.halvings.getD die 0 = min 4 (s.power.halvings.getD die 0 + 1)) ∧
        (100 ≤ s.power.coolReads.getD die 0 → t.power.halvings.getD die 0 = s.power.halvings.getD die 0 - 1 ∧
          (t.power.creditThr.getD die false = true ↔ 2 ≤ s.power.halvings.getD die 0)) ∧
        t = { s with power := { s.power with halvings := t.power.halvings, creditThr := t.power.creditThr } }) ∧
    (chipRuns s = true → s.power.surveyH ≠ 0 → s.power.survey = [] → ∃ t, exec .surveyRound s = .next t ∧
      t = { s with cores := t.cores, power := { s.power with survey := t.power.survey, surveyWas := t.power.surveyWas } } ∧
      (let under := t.power.survey.head?.bind (logicalOf s)
       (∀ n, under ≠ some n → t.coreAt n = s.coreAt n) ∧
       (∀ n, under = some n → t.coreAt n = { s.coreAt n with power := 0 } ∧ t.power.surveyWas = (s.coreAt n).power)) ∧
      t.power.survey.Pairwise (· < ·) ∧
      ∀ p, p ∈ t.power.survey ↔ p < 144 ∧ (p ∈ s.boot.spares ∨ ∃ n, logicalOf s p = some n ∧ (s.coreAt n).plot = none)) ∧
    (∀ core rest, s.power.survey = core :: rest → chipRuns s = true →
      (∃ t, exec (.surveyTestComplete core true) s = .next t ∧
        t = { s with cores := t.cores, power := { s.power with
          survey := rest, surveyTests := s.power.surveyTests + 1, surveyWas := t.power.surveyWas } } ∧
        ∀ n, logicalOf s core = some n → rest.head?.bind (logicalOf s) ≠ some n →
          t.coreAt n = { s.coreAt n with power := s.power.surveyWas }) ∧
      ((1, core) ∉ s.boot.pending → core ∉ s.boot.outCores → s.flash.retire.length < 4096 →
        (∀ n, logicalOf s core = some n → (s.coreAt n).plot = none) →
        ∃ t x, exec (.surveyTestComplete core false) s = .next t ∧ SameMemories t s ∧ core ∈ t.boot.outCores ∧
          core ∉ t.boot.spares ∧ t.flash.retire = s.flash.retire ++ [x] ∧ x.type = 0x10 ∧ x.kind = 1 ∧ x.unit = core))

/-! ### Field ports and services (14) -/

/-- R418 to R420, R422, R423, R432, R433: the events of a field port: its link, with the Announce of one that comes up (its
form: log entry 99), its LLDP frames and partner, its time; a frame whose FCS fails is dropped and counted. The loss of the
partner moves the port's RUNNING services to PARTNER_LOST, the loss of the time all its started services to TIME_LOST. -/
def Obligations.PortsComplete : Prop :=
  ∀ (s : State) (p : Nat), p < s.ports.length →
    let q := s.portAt p
    let others (t : State) : Prop := SameMemories t s ∧ ∀ m, m ≠ p → t.portAt m = s.portAt m
    (portRuns s p = true → ∃ t, exec (.portLinkUp p) s = .next t ∧ others t ∧ t.portAt p = { q with link := true } ∧
      (q.link = false → .frame p (announceFrame s p) ∈ t.out)) ∧
    (portUp s p = true → ∃ t, exec (.lldpTransmit p) s = .next t ∧ t = { s with
      out := s.out ++ [.frame p (lldpFrame s p)]
      fresh := s.fresh + 2 }) ∧
    (∀ u : Lldpdu, u.fcsOk = false → portUp s p = true → s.power.chip = 0 → ∃ t, exec (.lldpduReceive p u) s = .next t ∧ others t ∧
      t.portAt p = { q with rxDropped := q.rxDropped + 1 }) ∧
    (∀ u : Lldpdu, u.fcsOk = true → portUp s p = true → s.power.chip = 0 → ∃ t, exec (.lldpduReceive p u) s = .next t ∧ others t ∧
      (q.partner = none → partnerTlv u = true → t.portAt p = { q with partner := some u }) ∧
      (q.partner = none → partnerTlv u = false → t.portAt p = { q with lldpOther := q.lldpOther + 1 }) ∧
      (∀ a, q.partner = some a → samePartner a u = false → t.portAt p = { q with lldpOther := q.lldpOther + 1 }) ∧
      (∀ a, q.partner = some a → samePartner a u = true →
        t.portAt p = { q with partner := some (if partnerTlv u then u else a) })) ∧
    (q.partner ≠ none →
      (portRuns s p = true → ∃ t, exec (.lldpPartnerLoss p) s = .next t ∧ others t ∧
        t.portAt p = { q with partner := none } ∧ .partnerLostEvent true p ∈ t.out ∧
        t.power.events.getLsbD evPartnerLost = true ∧
        (∀ n, n < 8 → (s.svcAt n).st = 2 → (s.svcAt n).port = p → (t.svcAt n).st = 4)) ∧
      (∃ t, exec (.portLinkDown p) s = .next t ∧ others t ∧ t.portAt p = { q with partner := none, link := false } ∧
        (∀ n, n < 8 → (s.svcAt n).st = 2 → (s.svcAt n).port = p → (t.svcAt n).st = 4))) ∧
    (∀ (off : Int) (ns : Nat), portUp s p = true → s.power.chip = 0 →
      (∃ t, exec (.syncReceive p off ns false) s = .next t ∧ others t ∧
        t.portAt p = { q with rxDropped := q.rxDropped + 1 }) ∧
      ∃ t, exec (.syncReceive p off ns) s = .next t ∧ others t ∧
        (50 ≤ off.natAbs → t.portAt p = { q with goodSyncs := 0, timeNs := ns }) ∧
        (off.natAbs < 50 → q.goodSyncs < 7 → t.portAt p = { q with goodSyncs := q.goodSyncs + 1, timeNs := ns }) ∧
        (off.natAbs < 50 → 7 ≤ q.goodSyncs → t.portAt p = { q with goodSyncs := 8, timeNs := ns, time := 1 })) ∧
    (q.time = 1 → ∃ t, exec (.syncTimeout p) s = .next t ∧ others t ∧ t.portAt p = { q with time := 2, goodSyncs := 0 }) ∧
    (q.time = 2 → ∃ t, exec (.holdoverExpiry p) s = .next t ∧ others t ∧ t.portAt p = { q with time := 0, goodSyncs := 0 } ∧
      (∀ n, n < 8 → (s.svcAt n).st ≠ 0 → (s.svcAt n).port = p → (t.svcAt n).st = 5))

/-- R425, R426, R431, R432: START of an IDLE service whose block passes its checks, on a locked port and with its admission
given, leaves it in WAIT_PARTNER with the first instant at least 100 µs ahead; a block that fails a check leaves it IDLE
with the check's status; STOP of a started service makes it IDLE, RESUME of a latched one RUNNING. -/
def Obligations.ServiceCommandsComplete : Prop :=
  ∀ (s : State) (n now : Nat), n < 8 → n < s.services.length → hostUp s = true → s.power.chip = 0 →
    let v := s.svcAt n
    let b := vaRead s v.ctx v.addr 128
    let f := fieldOf b
    (v.st = 0 → vaBad v.addr 128 = false → rangeStop s v.ctx v.addr 128 false = none →
      (∀ st, svcBlockStatus s v.ctx b = some st → ∃ t, exec (.svcStart n now) s = .next t ∧ SameMemories t s ∧
        t.svcAt n = { v with reason := st }) ∧
      (svcBlockStatus s v.ctx b = none → holdsTimed s v.ctx = true → serviceTaken s n b = false →
        (s.portAt (f 0 1)).time = 1 →
        (let a := admission s v.ctx (f 88 8) 1 (maskCores (s.plotAt (s.ctxAt v.ctx).plot).mask)
           (min (f 8 4) (f 12 4 - 3000))
         let s1 := writeAdmission s v.ctx (f 88 8) a
         a.status = stDone → rangeStop s1 v.ctx (f 32 8) 64 false = none → rangeStop s1 v.ctx (f 80 8) (f 68 4) false = none →
         rangeStop s1 v.ctx (f 56 8) 8 false = none → vaLoad s1 v.ctx (f 32 8 + 16) 1 ≤ 12 →
         ∃ t, exec (.svcStart n now) s = .next t ∧ SameMemories t s1 ∧
          (let w := t.svcAt n
           w.st = 1 ∧ w.reason = stDone ∧ w.block = b ∧ w.reservedMw = a.mw ∧ w.posted = 0 ∧ w.misses = 0 ∧
           w.v0 = vaLoad s1 v.ctx (f 56 8) 8 ∧ w.safe = vaRead s1 v.ctx (f 80 8) (f 68 4) ∧ w.decision = w.safe ∧
           now + 100000 ≤ f 16 8 + w.k * f 8 4 ∧ (w.k ≠ 0 → f 16 8 + (w.k - 1) * f 8 4 < now + 100000))))) ∧
    (v.st ≠ 0 → ∃ t, exec (.svcStop n) s = .next t ∧ SameMemories t s ∧ t.svcAt n = { v with
      st := 0, reservedMw := 0, declared := [], due := none, awaiting := false, contextLost := false, firstSafe := false
      misses := 0 }) ∧
    (v.st = 3 → ∃ t, exec (.svcResume n) s = .next t ∧ SameMemories t s ∧ t.svcAt n = { v with st := 2 })

/-- R418, R419, R424, R427 to R429, R431: a MEASUREMENT frame goes into the receive buffer or a drop count (one that names
no started service into those of them all, the model's choice, log entry 32), and a good LLDPDU or 802.1AS message into
none; the instant of a RUNNING service posts its parameter block and entry; the read of an instant takes the decision of a
solve that is on time, else counts a miss and makes HOLD or SAFE due; the frame that is due goes out at the decision
instant. -/
def Obligations.ServiceCyclesComplete : Prop :=
  ∀ (s : State) (n : Nat), n < 8 → n < s.services.length →
    let v := s.svcAt n
    let c := v.ctx
    let f := fieldOf v.block
    (∀ (p : Nat) (m : RxFrame), p < s.ports.length → portUp s p = true → s.power.chip = 0 →
      (frameGood m = true → netFrame m = true → exec (.measurement p m) s = .next s) ∧
      ((frameGood m && netFrame m) = false → frameOk m = false ∨ addressed s p m.dst = false →
        ∃ t, exec (.measurement p m) s = .next t ∧ SameMemories t s ∧
        t.portAt p = { s.portAt p with rxDropped := (s.portAt p).rxDropped + 1 }) ∧
      (frameOk m = true → addressed s p m.dst = true → beField m.bytes 1 1 = 1 → n ∈ portServices s p →
        (portServices s p).find? (fun k => decide (fieldOf (s.svcAt k).block 4 2 = beField m.bytes 2 2)) = none →
        ∃ t, exec (.measurement p m) s = .next t ∧ SameMemories t s ∧ t.svcAt n = { v with measDropped := v.measDropped + 1 }) ∧
      (frameOk m = true → addressed s p m.dst = true → beField m.bytes 1 1 = 1 →
        (portServices s p).find? (fun k => decide (fieldOf (s.svcAt k).block 4 2 = beField m.bytes 2 2)) = some n →
        (accepts s v m = false → ∃ t, exec (.measurement p m) s = .next t ∧ SameMemories t s ∧
          t.svcAt n = { v with measDropped := v.measDropped + 1 }) ∧
        (accepts s v m = true → memWf v.buffer = true → ∃ t, exec (.measurement p m) s = .next t ∧ SameMemories t s ∧
          (t.svcAt n).measPeriod = some (beField m.bytes 4 4) ∧ (t.svcAt n).fresh = (v.fresh + 1) % 2 ^ 32 ∧
          (t.svcAt n).fragMask.testBit (beField m.bytes 19 1 % 16) = true ∧
          (∀ i, i < beField m.bytes 16 2 →
            some (memRead (t.svcAt n).buffer (1468 * (beField m.bytes 19 1 % 16) + i)) = m.bytes[32 + i]?)))) ∧
    (v.st = 2 → v.contextLost = false → rangeStop s c (f 32 8) 64 false = none →
      (let log := vaLoad s c (f 32 8 + 16) 1
       let prod := vaLoad s c (f 32 8) 8
       let blk := f 40 8 + v.posted % 2 ^ log * f 48 4
       let slot := f 32 8 + 64 + 16 * (prod % 2 ^ log)
       log ≤ 12 → (prod + 2 ^ 64 - vaLoad s c (f 32 8 + 8) 8) % 2 ^ 64 ≠ 2 ^ log →
       rangeStop s c blk (64 + f 52 4) true = none → rangeStop s c slot 16 true = none →
       rangeStop s c (f 32 8) 8 true = none →
       ∃ t, exec (.serviceInstant n) s = .next t ∧
        SameMemories t (vaWrite (vaWrite (vaWrite s c blk (paramHead v ++ memReadN v.buffer 0 (f 52 4))) c slot
          (natLe 8 blk ++ natLe 6 v.k ++ zeros 2)) c (f 32 8) (natLe 8 (prod + 1))) ∧
        t.svcAt n = { v with
          posted := v.posted + 1, fresh := 0, lastK := v.k, k := v.k + 1, lastPosted := true, awaiting := true })) ∧
    (v.awaiting = true → v.st = 2 → v.contextLost = false → rangeStop s c (f 56 8) 8 false = none → f 64 4 ≠ 0 →
      (let rise := (vaLoad s c (f 56 8) 8 + 2 ^ 64 - v.v0) % 2 ^ 64
       (v.lastPosted = true → f 64 4 * v.posted % 2 ^ 64 ≤ rise → rangeStop s c (f 72 8) (f 68 4) false = none →
        ∃ t, exec (.decisionRead n) s = .next t ∧ SameMemories t s ∧ (t.svcAt n).st = 2 ∧ (t.svcAt n).misses = 0 ∧
          (t.svcAt n).awaiting = false ∧ (t.svcAt n).decision = vaRead s c (f 72 8) (f 68 4) ∧
          ∃ d, (t.svcAt n).due = some d ∧ d.kind = 2 ∧ d.k = v.lastK ∧ d.time = v.decisionAt v.lastK ∧
            d.payload = vaRead s c (f 72 8) (f 68 4)) ∧
       (v.lastPosted = false ∨ rise < f 64 4 * v.posted % 2 ^ 64 →
        ∃ t d, exec (.decisionRead n) s = .next t ∧ SameMemories t s ∧ (t.svcAt n).misses = v.misses + 1 ∧
          (t.svcAt n).missCount = v.missCount + 1 ∧ (t.svcAt n).due = some d ∧ d.cause = 1 ∧ d.time = v.decisionAt v.lastK ∧
          (v.misses + 1 < f 2 1 → d.kind = 3 ∧ d.payload = v.decision ∧ (t.svcAt n).st = 2) ∧
          (f 2 1 ≤ v.misses + 1 → d.kind = 4 ∧ d.payload = v.safe ∧
            (t.svcAt n).st = if v.misses + 1 = f 2 1 ∧ (f 1 1).testBit 0 then 3 else 2)))) ∧
    (∀ d, v.st ≠ 0 → v.contextLost = false → v.due = some d → dueBefore s n = [] → portUp s v.port = true →
      ∃ t, exec (.decisionTransmit n) s = .next t ∧ SameMemories t s ∧
        .frame v.port (decisionFrame s v d (natBe 4 d.k ++ natBe 8 d.time)) ∈ t.out ∧ (t.svcAt n).due = none)

/-- R430: when two services of one port have the same decision instant, the transmission of the frame of the higher entry
sends that of the lower first and its own directly after it; the transmission of the lower's sends it alone, the other still
due; both have their scheduled instant in TIME. -/
def Obligations.LowerServiceTransmitsFirst : Prop :=
  ∀ (s : State) (m n : Nat) (a b : DueFrame), m < n → n < s.services.length →
    (s.svcAt m).st ≠ 0 → (s.svcAt n).st ≠ 0 → (s.svcAt m).contextLost = false → (s.svcAt n).contextLost = false →
    (s.svcAt m).port = (s.svcAt n).port → portUp s (s.svcAt n).port = true → (s.svcAt m).due = some a →
    (s.svcAt n).due = some b → a.time = b.time → (s.svcAt m).firstSafe = false → (s.svcAt n).firstSafe = false →
    (∀ k, k < n → k ≠ m → (s.svcAt k).port ≠ (s.svcAt n).port ∨ dueTime (s.svcAt k) = none) →
    (let low : Out := .frame (s.svcAt m).port (decisionFrame s (s.svcAt m) a (natBe 4 a.k ++ natBe 8 a.time))
     (∃ t, exec (.decisionTransmit n) s = .next t ∧ t.out = s.out ++ [low,
        .frame (s.svcAt n).port (decisionFrame s (s.svcAt n) b (natBe 4 b.k ++ natBe 8 b.time))]) ∧
     (∃ t, exec (.decisionTransmit m) s = .next t ∧ t.out = s.out ++ [low] ∧ t.svcAt n = s.svcAt n))

/-! ### Security, sideband, updates (16, 17) -/

/-- R264, R475 to R479: on a transport that is up and free, the SPDM requests are answered in the order that R476 gives them;
a signed response waits for its nonce while the RNG is not ready, and goes out with 32 bytes of the DRBG and an ECDSA
signature, made with 64 more, over what the connection has said, when it is; a slot other than 0, and a request of another
code, is not supported; a connection that waits answers Busy, a request that comes too early an error. The text that is
signed and the message codes: the model's choice, log entries 10 and 80; that a request of another code comes by this row:
log entry 111. -/
def Obligations.SpdmRequestsComplete : Prop :=
  ∀ (s : State) (p : SpdmPort), spdmUp s p = true →
    let k := s.conn p
    let answers (t : State) (code : Nat) (data : List Byte) : Prop := t.out = s.out ++ [.spdm p (spdmFrom s p) code data] ∧
      SameMemories t s
    (k.busy = 0 →
      (∃ t, exec (.getVersion p) s = .next t ∧ answers t 0x04 [0, 1, 0x00, 0x12] ∧
        t.conn p = { stage := 1, vca := spdmPair (spdmMsg 0x10 0x84 0 0 []) 0x04 [0, 1, 0x00, 0x12] }) ∧
      (∀ code, code ≠ 0x84 → ∃ t, exec (.getVersion p code) s = .next t ∧ answers t 0x7F [0x07, 0] ∧ t.conn p = k) ∧
      (∀ rest, 1 ≤ k.stage → ∃ t, exec (.getCapabilities p rest) s = .next t ∧ answers t 0x61 [0x16, 0, 0, 0] ∧
        t.conn p = { stage := 2, vca := k.vca ++ spdmPair (spdmMsg 0x12 0xE1 0 0 rest) 0x61 [0x16, 0, 0, 0] }) ∧
      (∀ rest, 2 ≤ k.stage →
        (let a := natLe 4 0x4 ++ natLe 4 0x80 ++ natLe 4 0x2
         ∃ t, exec (.negotiateAlgorithms p rest) s = .next t ∧ answers t 0x63 a ∧
           t.conn p = { stage := 3, vca := k.vca ++ spdmPair (spdmMsg 0x12 0xE3 0 0 rest) 0x63 a })) ∧
      (3 ≤ k.stage →
        (let a := [1] ++ sha384 (chainBytes s)
         ∃ t, exec (.getDigests p) s = .next t ∧ answers t 0x01 a ∧
           t.conn p = { k with certs := k.certs ++ spdmPair (spdmMsg 0x12 0x81 0 0 []) 0x01 a, meas := [] }) ∧
        (∀ off len, off < (chainBytes s).length →
          (let n := min len ((chainBytes s).length - off)
           let a := natLe 2 n ++ natLe 2 ((chainBytes s).length - off - n) ++ ((chainBytes s).drop off).take n
           ∃ t, exec (.getCertificate p 0 off len) s = .next t ∧ answers t 0x02 a ∧ t.conn p = { k with
             certs := k.certs ++ spdmPair (spdmMsg 0x12 0x82 0 0 (natLe 2 off ++ natLe 2 len)) 0x02 a, meas := [] })) ∧
        (∀ slot off len nonce, slot ≠ 0 → ∀ i, i = Instr.getCertificate p slot off len ∨ i = .challenge p slot nonce →
          ∃ t, exec i s = .next t ∧ answers t 0x7F [0x07, 0] ∧ t.conn p = k) ∧
        (∀ i nonce, 1 ≤ i → i ≤ 8 → ∃ t, exec (.getMeasurements p i false nonce) s = .next t ∧
          answers t 0x60 (measBlock s i) ∧
          t.conn p = { k with meas := k.meas ++ spdmPair (measRequest i false []) 0x60 (measBlock s i) }) ∧
        (∀ nonce i, i = Instr.challenge p 0 nonce ∨ i = .getMeasurements p 0xFF true nonce →
          (let kind := match i with | .challenge _ _ _ => 1 | _ => 2
           let body := match i with
             | .challenge _ _ _ => sha384 (chainBytes s)
             | _ => (List.range 8).flatMap (fun j => measBlock s (j + 1))
           let asked := if kind = 1 then challengeText k nonce else measText k 0xFF nonce
           let code := if kind = 1 then 0x03 else 0x60
           (s.rng.st ≠ 0 → s.rng.st ≠ 2 → s.rng.st ≠ 5 → s.rng.waiting.length < 4096 →
            ∃ t, exec i s = .next t ∧ t.out = s.out ∧ t.rng.waiting = s.rng.waiting ++ [.security p] ∧
              t.conn p = { k with busy := kind, body := body, asked := asked }) ∧
           (∀ key w n, s.rng.st = 2 → s.rng.reseeding = false → s.rng.drbg = some (key, w, n) → n < 65535 → s.rng.waiting = [] →
            (let g := drbgGenerate 32 (key, w)
             let d := drbgGenerate 64 g.2
             let said := body ++ g.1.map (BitVec.ofNat 8)
             let sig := ecdsaSign (signingKey s) (spdmText kind (asked ++ spdmMsg 0x12 code 0 0 said))
               (d.1.map (BitVec.ofNat 8))
             ∃ t, exec i s = .next t ∧ sig.length = 96 ∧ t.rng.drbg = some (d.2.1, d.2.2, n + 2) ∧ answers t code (said ++ sig) ∧
               t.conn p = { k with
                 busy := 0, body := [], asked := [], meas := [], certs := if kind = 1 then [] else k.certs })))))) ∧
    (k.busy ≠ 0 → ∀ i, i = Instr.getVersion p ∨ i = .getDigests p → ∃ t, exec i s = .next t ∧ answers t 0x7F [0x03, 0]) ∧
    (k.busy = 0 → k.stage < 3 → ∃ t, exec (.getDigests p) s = .next t ∧ answers t 0x7F [0x04, 0])

/-- R466, R469, R477, R479 to R482, R488: while the sideband answers, its endpoint and its address are set, a message of a
type that it does not accept is dropped, the sensors are refreshed and read, PLDM Type 0 and Type 2 are answered, Type 0 in
the fuse-fault state too, and the PLDM commands give log records, the retirement table, the map and the boot status, and set
the tap and the power cap as BAR0 does; completion codes and layouts: log entry 10; the requests without a row of their own:
log entry 111. -/
def Obligations.SidebandCommandsComplete : Prop :=
  ∀ s : State, sidebandUp s = true →
    let answers (t : State) (code : Nat) (data : List Byte) : Prop := t.out = s.out ++ [.pldm s.sender code data] ∧ SameMemories t s
    (∀ e, ∃ t, exec (.setEndpointId e) s = .next t ∧ t = { s with mgmt := { s.mgmt with eid := e % 256 } }) ∧
    (∀ e type, type ≠ 0 → exec (.setEndpointId e type) s = .next s) ∧
    (∀ (temps stackTemps : List Nat) (w : Nat),
      let ask (a : PldmAsk) : Instr := .sensorRefresh temps stackTemps w (some a)
      (∀ n, n < 256 → ∃ t, exec (ask (.setTid n)) s = .next t ∧ answers t 0 [] ∧ t.mgmt.tid = n) ∧
      (∃ t, exec (ask .getTid) s = .next t ∧ answers t 0 (natLe 1 s.mgmt.tid) ∧ t.mgmt = s.mgmt) ∧
      (∃ t, exec (ask .types) s = .next t ∧
        answers t 0 (bitmap 8 (if s.boot.fuseFault then [0, 63] else [0, 2, 5, 63]))) ∧
      (∀ n, n ∈ pldmTypes s → ∃ t, exec (ask (.commands n)) s = .next t ∧ answers t 0 (bitmap 32 (pldmCommands s n))) ∧
      (s.boot.fuseFault = true → ∀ n, ∃ t, exec (ask (.sensor n)) s = .next t ∧ answers t 0x05 []) ∧
      (s.boot.fuseFault = false → s.boot.rails = true → 4 ≤ s.boot.step → ∀ n,
        (∀ v, 1 ≤ n → n ≤ 16 → s.mgmt.sensors.getD (n - 1) none = some v →
          ∃ t, exec (ask (.sensor n)) s = .next t ∧ answers t 0 ([4, 0] ++ natLe 4 v)) ∧
        (1 ≤ n → n ≤ 16 → s.mgmt.sensors.getD (n - 1) none = none →
          ∃ t, exec (ask (.sensor n)) s = .next t ∧ answers t 0 ([4, 2] ++ natLe 4 0)) ∧
        (n = 0 ∨ 16 < n → ∃ t, exec (ask (.sensor n)) s = .next t ∧ answers t 0x80 [])) ∧
      (s.boot.fuseFault = false → mapped s = true →
        ∃ t, exec (ask (.stateSensor 100)) s = .next t ∧ answers t 0 [1, 0, if s.boot.degraded then 1 else 0])) ∧
    (∀ a, ∃ t, exec (.dynamicAddress a) s = .next t ∧ t = { s with mgmt := { s.mgmt with dynAddr := some (a % 128) } }) ∧
    (∀ temps stackTemps w, s.boot.rails = true → 4 ≤ s.boot.step →
      ∃ t, exec (.sensorRefresh temps stackTemps w) s = .next t ∧ SameMemories t s ∧ t.out = s.out ∧ t.power.powerW = w ∧
        t.mgmt.sensors = [some w] ++ (List.range 5).map (fun d => some (temps.getD d 0)) ++
          (List.range 8).map (stackTemp s stackTemps) ++ [some (capInEffect s), some s.coreCount]) ∧
    (∀ first count, s.boot.rails = true →
      (1 ≤ count → count ≤ 32 → ∃ t, exec (.getEventLog first count) s = .next t ∧
        answers t 0 (((s.flash.events.drop first).take count).flatMap hrecBytes)) ∧
      (1 ≤ count → count ≤ 32 → first < 4096 → ∃ t, exec (.getRetirementTable first count) s = .next t ∧
        answers t 0 (((s.flash.retire.drop first).take count).flatMap hrecBytes)) ∧
      (count = 0 ∨ 32 < count → ∀ i, i = Instr.getEventLog first count ∨ i = .getRetirementTable first count →
        ∃ t, exec i s = .next t ∧ answers t 0x02 [])) ∧
    (s.boot.fuseFault = false →
      (mapped s = true → ∃ t, exec .getMap s = .next t ∧ answers t 0 (natLe 8 (regMapStatus s).toNat ++ mapImage s)) ∧
      (∃ t, exec .getBootStatus s = .next t ∧ answers t 0 (natLe 8 (regBootStatus s).toNat ++ natLe 8 (regFwId s).toNat)) ∧
      (∀ w, s.boot.rails = true → 4 ≤ s.boot.step → s.boot.mode ≠ 2 → w < 1024 →
        ∃ t, exec (.setPowerCap w) s = .next t ∧ answers t 0 (natLe 8 (regPwrCap t).toNat) ∧
          t.power.capW = max (if w = 0 then 1000 else max 400 (min 1000 w)) (floorW s)) ∧
      (s.rng.st ≠ 0 →
        (∀ n, n < 8 → ∃ t, exec (.setRawTap true n) s = .next t ∧ answers t 0 (natLe 8 (regRngCtrl t).toNat) ∧
          t.rng.st = 4 ∧ t.rng.tapSrc = n ∧ t.rng.fifo = []) ∧
        (∀ n, n < 8 → s.rng.st ≠ 4 → ∃ t, exec (.setRawTap false n) s = .next t ∧
          answers t 0 (natLe 8 (regRngCtrl t).toNat) ∧ t.rng = { s.rng with tapSrc := n, fifo := [] }) ∧
        (∀ n, 1 ≤ n → n ≤ 32 → s.rng.st = 4 → ∃ t bs, exec (.readRawSamples n) s = .next t ∧ answers t 0 bs ∧
          bs.length = 8 * n ∧ t.rng.fifo = s.rng.fifo.drop (32 * n))))

/-- R434, R437, R483 to R485: an update opened over the sideband or the recovery window makes its component's directory entry
invalid, takes the bytes written and leaves the sectors that no write reaches, and ends by a verification, which alone
makes the entry valid again, or an abort, which leaves it invalid. Completion codes: log entry 10. That the configuration
block's entry is invalid from the opening on too is the model's reading, log entry 59: R484 says it of the image. -/
def Obligations.UpdatesComplete : Prop :=
  ∀ s : State,
    let u := s.mgmt.update
    let entry (t : State) (c : Nat) : Bool := if c = 1 then t.flash.imageValid else t.flash.cfgValid
    let answers (t : State) (code : Nat) (data : List Byte) : Prop := t.out = s.out ++ [.pldm s.sender code data] ∧ SameMemories t s
    let opened (t : State) (owner c : Nat) : Prop := t.mgmt.update = { u with
      st := 1, owner := owner, component := c, written := 0, erased := [], reason := t.mgmt.update.reason } ∧
      entry t c = false
    let wrote (t : State) (off : Nat) (bs : List Byte) : Prop := t.mgmt.update.written = u.written + bs.length ∧
      (∀ i b, bs[i]? = some b → memRead (t.flash.region u.component) (off + i) = b) ∧
      (∀ a, a / 4096 ∉ sectorsOf off bs.length →
        memRead (t.flash.region u.component) a = memRead (s.flash.region u.component) a)
    let verified (t : State) : Prop := t.mgmt.update.owner = 0 ∧ (t.mgmt.update.st = 2 ∨ t.mgmt.update.st = 3) ∧
      entry t u.component = (decide (t.mgmt.update.st = 2) || entry s u.component) ∧
      (u.component = 2 → (t.mgmt.update.st = 2 ↔ cfgGood (cfgBytes s) = true))
    memWf (s.flash.region u.component) = true →
    (sidebandUp s = true → s.boot.fuseFault = false → s.boot.rails = true →
      (∀ c, c = 1 ∨ c = 2 → u.owner = 0 → ∃ t, exec (.requestUpdate c) s = .next t ∧ answers t 0 [] ∧ opened t 2 c) ∧
      (∀ c, u.owner ≠ 0 → ∃ t, exec (.requestUpdate c) s = .next t ∧ answers t 0x81 [] ∧ t.mgmt = s.mgmt) ∧
      (∃ t, exec .activateFirmware s = .next t ∧ answers t 0x8C [] ∧ t.flash = s.flash) ∧
      (u.st = 1 → u.owner = 2 →
        (∀ off data, off + data.length ≤ regionBytes u.component →
          ∃ t, exec (.firmwareTransfer off data) s = .next t ∧ answers t 0 [] ∧ wrote t off data) ∧
        (∃ t, exec .verifyComplete s = .next t ∧ verified t ∧
          answers t 0 [if t.mgmt.update.st = 3 then 1 else 0]) ∧
        (∃ t, exec .updateAbort s = .next t ∧ answers t 0 [] ∧ t.flash = s.flash ∧
          t.mgmt.update = { u with st := 0, owner := 0 }))) ∧
    (recUp s = true → s.power.chip = 0 →
      (∀ c, c = 1 ∨ c = 2 → u.owner = 0 → ∃ t, exec (.recOpen c) s = .next t ∧ SameMemories t s ∧ opened t 1 c ∧
        t.mgmt.update.reason = stDone) ∧
      (u.owner ≠ 0 → ∀ c, ∃ t, exec (.recOpen c) s = .next t ∧ t.mgmt.update = { u with reason := stBadField } ∧
        t.flash = s.flash) ∧
      (u.st = 1 → u.owner = 1 →
        (∀ len, 0 < len → len ≤ 4096 → len % 256 = 0 → u.offset % 256 = 0 →
          u.offset + len ≤ regionBytes u.component → ∃ t, exec (.recWrite len) s = .next t ∧ SameMemories t s ∧
            wrote t u.offset (memReadN u.buffer 0 len) ∧ t.mgmt.update.reason = stDone) ∧
        (∃ t, exec (.recWrite 0) s = .next t ∧ t.mgmt.update = { u with reason := stLenZero } ∧ t.flash = s.flash) ∧
        (∃ t, exec .recVerify s = .next t ∧ SameMemories t s ∧ verified t) ∧
        (∃ t, exec .recAbort s = .next t ∧ SameMemories t s ∧ t.flash = s.flash ∧
          t.mgmt.update = { u with st := 0, owner := 0, reason := stDone })))

/-- R493: in recovery mode BAR0 decodes only the identity block and the MSI-X table and pending bits; every other offset reads
as zero and ignores writes, and so do BAR2 and BAR4. -/
def Obligations.RecoveryModeDecodesLittle : Prop :=
  ∀ s : State, s.boot.mode = 2 → s.power.chip = 0 →
    (∀ off size, ¬ (off < 0x10000 ∨ 0x70000 ≤ off ∧ off < 0x78100) → readBar0 s off size = zeros size) ∧
    (∀ off size v, off < 2 ^ 26 → ¬ (off < 0x10000 ∨ 0x70000 ≤ off ∧ off < 0x78100) → exec (.registerWrite off size v) s = .next s) ∧
    (∀ c off, readBar2 s c off = 0) ∧
    (∀ c r v, exec (.tailDoorbell c r v) s = .next s ∧ exec (.cqHeadDoorbell c r v) s = .next s) ∧
    (∀ off len data, (recUp s = true → exec (.bar4Access false off len data) s = .next (s.emit (.bytes (zeros len)))) ∧
      exec (.bar4Access true off len data) s = .next s)

/-! ### The whole machine -/

/-- R442: no command changes the fuses. That every command is taken in every state, with no fault and no refusal, is the
model's choice, log entry 4, and that it leaves the commands that wait behind it is too, log entry 1. -/
def Obligations.NoCommandChangesFusesOrQueue : Prop :=
  ∀ (c : Instr) (s : State), ∃ t, exec c s = .next t ∧ t.fuses = s.fuses ∧ t.pending = s.pending

/-- Every step keeps every memory in its one canonical form: addresses rising, no byte listed that reads as an unlisted one
does (the model's form, log entry 3), for near, far and host memory, the core stores with their save areas, the
acceptance and exchange tables, the buffers, the flash and the MSI-X table. -/
def Obligations.StepsKeepMemoriesCanonical : Prop :=
  ∀ s t : State, MemoriesCanonical s → step s = .next t → MemoriesCanonical t

/-- R514 and the register tables: at reset every memory has its canonical form, BOOT_DONE is low, no link is up, every
context is DISABLED, every plot FREE, every ring STOPPED, every group and service IDLE, EVENTS has no bit set, the RNG is
in STARTUP, and BAR4 covers 64 GiB. -/
def Obligations.ResetIsCanonicalAndIdle : Prop :=
  MemoriesCanonical State.reset ∧ State.reset.pending = [] ∧ State.reset.boot.bootDone = false ∧
  (∀ n, n < 8 → (State.reset.linkAt n).st = 0) ∧ (∀ c, (State.reset.ctxAt c).st = 0) ∧
  (∀ p, (State.reset.plotAt p).st = 0) ∧ (∀ c r, (State.reset.ringAt c r).configured = false) ∧
  (∀ g, g < 16 → (State.reset.groupAt g).st = 0) ∧ (∀ v, v < 8 → (State.reset.svcAt v).st = 0) ∧
  State.reset.power.events = 0 ∧ State.reset.rng.st = 1 ∧ State.reset.bar4Log2 = 36
end

