-- ==== Sys2Proof/Laws/Memory.lean ====
section
/-! SUPPORT. Memories: a read after a write, and the canonical form, which every operation keeps. -/

namespace Sys2Proof.Laws

open Sys2Proof.Machine

/-! ### The canonical form -/

theorem memWfFrom_mono {lo lo' : Nat} {m : Memory} (h : memWfFrom lo m = true) (hl : lo' ≤ lo) :
    memWfFrom lo' m = true := by
  cases m with
  | nil => rfl
  | cons p r =>
    obtain ⟨k, b⟩ := p
    simp only [memWfFrom, Bool.and_eq_true, decide_eq_true_eq] at h ⊢
    exact ⟨⟨by omega, h.1.2⟩, h.2⟩

theorem memWfFrom_write {lo : Nat} {m : Memory} (a : Nat) (v : Byte) (h : memWfFrom lo m = true) (ha : lo ≤ a) :
    memWfFrom lo (memWrite m a v) = true := by
  induction m generalizing lo with
  | nil => by_cases hv : v = 0#8 <;> simp [memWrite, memWfFrom, hv, ha]
  | cons p r ih =>
    obtain ⟨k, b⟩ := p
    simp only [memWfFrom, Bool.and_eq_true, decide_eq_true_eq] at h
    obtain ⟨⟨hk, hb⟩, hr⟩ := h
    have hb : ¬ b = 0#8 := hb
    simp only [memWrite]
    by_cases hka : k = a
    · subst hka
      by_cases hv : v = 0#8
      · simpa [hv] using memWfFrom_mono hr (by omega)
      · simp [hv, memWfFrom, hk, hr]
    · by_cases hlt : a < k
      · by_cases hv : v = 0#8
        · simp [hka, hlt, hv, memWfFrom, hk, hb, hr]
        · have : memWfFrom (k + 1) r = true := hr
          simp [hka, hlt, hv, memWfFrom, ha, hb, hr]
      · simp [hka, hlt, memWfFrom, hk, hb, ih hr (by omega)]

/-- One byte written keeps the canonical form. -/
theorem memWf_write {m : Memory} (h : memWf m = true) (a : Nat) (v : Byte) : memWf (memWrite m a v) = true :=
  memWfFrom_write a v h (Nat.zero_le _)

/-- Bytes written keep the canonical form. -/
theorem memWf_writeN {m : Memory} (h : memWf m = true) (a : Nat) (bs : List Byte) : memWf (memWriteN m a bs) = true := by
  induction bs generalizing m a with
  | nil => exact h
  | cons b r ih => exact ih (memWf_write h a b) (a + 1)

/-- A number stored keeps the canonical form. -/
theorem memWf_store {m : Memory} (h : memWf m = true) (a n v : Nat) : memWf (memStore m a n v) = true :=
  memWf_writeN h a _

theorem memWfFrom_filter {lo : Nat} {m : Memory} (p : Host.Cell → Bool) (h : memWfFrom lo m = true) :
    memWfFrom lo (m.filter p) = true := by
  induction m generalizing lo with
  | nil => rfl
  | cons q r ih =>
    obtain ⟨k, b⟩ := q
    simp only [memWfFrom, Bool.and_eq_true, decide_eq_true_eq] at h
    obtain ⟨⟨hk, hb⟩, hr⟩ := h
    have hb : ¬ b = 0#8 := hb
    by_cases hp : p (k, b) = true
    · simp [List.filter, hp, memWfFrom, hk, hb, ih hr]
    · simpa [List.filter, hp] using memWfFrom_mono (ih hr) (by omega)

/-- Bytes dropped keep the canonical form. -/
theorem memWf_clear {m : Memory} (h : memWf m = true) (a n : Nat) : memWf (memClear m a n) = true :=
  memWfFrom_filter _ h

/-! ### Reads after writes -/

theorem memRead_above {lo a : Nat} {m : Memory} (h : memWfFrom lo m = true) (ha : a < lo) : memRead m a = 0 := by
  induction m generalizing lo with
  | nil => rfl
  | cons p r ih =>
    obtain ⟨k, b⟩ := p
    simp only [memWfFrom, Bool.and_eq_true, decide_eq_true_eq] at h
    have hk : k ≠ a := by omega
    simpa [memRead, hk] using ih h.2 (by omega)

theorem memRead_memWriteFrom {lo : Nat} {m : Memory} (h : memWfFrom lo m = true) (a x : Nat) (v : Byte) :
    memRead (memWrite m a v) x = if x = a then v else memRead m x := by
  induction m generalizing lo with
  | nil =>
    by_cases hx : x = a
    · subst hx; by_cases hv : v = 0#8 <;> simp [memWrite, memRead, hv]
    · have : ¬ a = x := fun e => hx e.symm
      by_cases hv : v = 0#8 <;> simp [memWrite, memRead, hv, hx, this]
  | cons p r ih =>
    obtain ⟨k, b⟩ := p
    simp only [memWfFrom, Bool.and_eq_true, decide_eq_true_eq] at h
    obtain ⟨_, hr⟩ := h
    simp only [memWrite]
    by_cases hka : k = a
    · subst hka
      by_cases hx : x = k
      · subst hx
        by_cases hv : v = 0#8
        · simp [hv, memRead_above hr (Nat.lt_succ_self _)]
        · simp [hv, memRead]
      · have : ¬ k = x := fun e => hx e.symm
        by_cases hv : v = 0#8 <;> simp [hv, memRead, hx, this]
    · by_cases hlt : a < k
      · by_cases hx : x = a
        · subst hx
          by_cases hv : v = 0#8
          · have : memRead r x = 0 := memRead_above hr (by omega)
            simp [hka, hlt, hv, memRead, this]
          · simp [hka, hlt, hv, memRead]
        · have : ¬ a = x := fun e => hx e.symm
          by_cases hv : v = 0#8 <;> simp [hka, hlt, hv, memRead, hx, this]
      · by_cases hx : x = a
        · subst hx; simp [hka, hlt, memRead, ih hr]
        · by_cases hkx : k = x
          · subst hkx; simp [hka, hlt, memRead]
          · simp [hka, hlt, memRead, hkx, ih hr, hx]

/-- A byte reads as it was written, and every other byte as before. -/
theorem memRead_memWrite {m : Memory} (h : memWf m = true) (a x : Nat) (v : Byte) :
    memRead (memWrite m a v) x = if x = a then v else memRead m x :=
  memRead_memWriteFrom h a x v

/-- Bytes read as they were written, and every other byte as before. -/
theorem memRead_memWriteN {m : Memory} (h : memWf m = true) (a x : Nat) (bs : List Byte) :
    memRead (memWriteN m a bs) x = if a ≤ x ∧ x < a + bs.length then bs.getD (x - a) 0 else memRead m x := by
  induction bs generalizing m a with
  | nil => simp [memWriteN]
  | cons b r ih =>
    rw [memWriteN, ih (memWf_write h a b), memRead_memWrite h]
    by_cases h1 : x = a
    · subst h1; simp
    · by_cases h2 : a ≤ x ∧ x < a + (b :: r).length
      · have h3 : a + 1 ≤ x ∧ x < a + 1 + r.length := by simp at h2; omega
        have h4 : x - a = (x - (a + 1)) + 1 := by omega
        rw [if_pos h3, if_pos h2, h4]; rfl
      · have h3 : ¬ (a + 1 ≤ x ∧ x < a + 1 + r.length) := by simp at h2; omega
        rw [if_neg h3, if_neg h1, if_neg h2]

@[simp] theorem memReadN_length (m : Memory) (a n : Nat) : (memReadN m a n).length = n := by
  induction n generalizing a with
  | zero => rfl
  | succ k ih => simp [memReadN, ih]

@[simp] theorem natLe_length (n v : Nat) : (natLe n v).length = n := by
  induction n generalizing v with
  | zero => rfl
  | succ k ih => simp [natLe, ih]

/-- The bytes of a number spell it. -/
theorem leNat_natLe (n v : Nat) : leNat (natLe n v) = v % 256 ^ n := by
  induction n generalizing v with
  | zero => simp [natLe, leNat, Nat.mod_one]
  | succ k ih =>
    have e : (256 : Nat) ^ (k + 1) = 256 * 256 ^ k := by rw [Nat.pow_succ, Nat.mul_comm]
    simp only [natLe, leNat, ih, BitVec.toNat_ofNat, e, Nat.mod_mul]

/-- Bytes spell a number below 256 to their count. -/
theorem leNat_lt (bs : List Byte) : leNat bs < 256 ^ bs.length := by
  induction bs with
  | nil => simp [leNat]
  | cons b r ih =>
    have := b.isLt
    simp only [leNat, List.length_cons, Nat.pow_succ]; omega

/-- A byte of a number. -/
theorem natLe_getD (n v i : Nat) (hi : i < n) : (natLe n v).getD i 0 = BitVec.ofNat 8 (v / 256 ^ i) := by
  induction n generalizing v i with
  | zero => omega
  | succ k ih =>
    cases i with
    | zero => simp [natLe]
    | succ j => 
      simp only [natLe, List.getD_cons_succ]
      rw [ih _ _ (by omega), Nat.div_div_eq_div_mul, Nat.pow_succ, Nat.mul_comm]

end Sys2Proof.Laws
end

