-- ==== Sys2Proof/Laws/State.lean ====
section
/-! SUPPORT. What the updates of the state leave alone, field by field, and what the accessors read after them. -/

namespace Sys2Proof.Laws

open Sys2Proof.Machine

/-! ### Sparse tables -/

@[simp] theorem tabGet_tabSet_same {α : Type} (d v : α) (t : Tab α) (k : Nat) : tabGet d (tabSet t k v) k = v := by
  induction t with
  | nil => simp [tabSet, tabGet]
  | cons p r ih =>
    obtain ⟨j, w⟩ := p
    by_cases h : j = k
    · simp [tabSet, tabGet, h]
    · by_cases g : k < j
      · simp [tabSet, tabGet, h, g]
      · simp [tabSet, tabGet, h, g, ih]

theorem tabGet_tabSet_other {α : Type} (d v : α) (t : Tab α) {k m : Nat} (hm : m ≠ k) :
    tabGet d (tabSet t k v) m = tabGet d t m := by
  induction t with
  | nil => simp [tabSet, tabGet, Ne.symm hm]
  | cons p r ih =>
    obtain ⟨j, w⟩ := p
    by_cases h : j = k
    · subst h; simp [tabSet, tabGet, Ne.symm hm]
    · by_cases g : k < j
      · simp [tabSet, tabGet, h, g, Ne.symm hm]
      · by_cases e : j = m
        · subst e; simp [tabSet, tabGet, hm, g]
        · simp [tabSet, tabGet, h, g, e, ih]

/-! ### Lists by position -/

@[simp] theorem listUpd_length {α : Type} (l : List α) (i : Nat) (f : α → α) : (listUpd l i f).length = l.length := by
  induction l generalizing i with
  | nil => rfl
  | cons x r ih => cases i <;> simp [listUpd, ih]

theorem listUpd_getD_same {α : Type} (d : α) (l : List α) (i : Nat) (f : α → α) (hi : i < l.length) :
    (listUpd l i f).getD i d = f (l.getD i d) := by
  induction l generalizing i with
  | nil => simp at hi
  | cons x r ih =>
    cases i with
    | zero => simp [listUpd]
    | succ n => simpa [listUpd] using ih n (by simpa using hi)

theorem listUpd_getD_other {α : Type} (d : α) (l : List α) {i j : Nat} (f : α → α) (h : j ≠ i) :
    (listUpd l i f).getD j d = l.getD j d := by
  induction l generalizing i j with
  | nil => rfl
  | cons x r ih =>
    cases i with
    | zero => cases j with
      | zero => exact absurd rfl h
      | succ m => simp [listUpd]
    | succ n => cases j with
      | zero => simp [listUpd]
      | succ m => simpa [listUpd] using ih (i := n) (j := m) (fun e => h (by rw [e]))

/-! ### Fields that an update leaves alone -/

variable (s : State)

@[simp] theorem setCore_pending (n : Nat) (c : Core) : (s.setCore n c).pending = s.pending := rfl
@[simp] theorem setCore_fresh (n : Nat) (c : Core) : (s.setCore n c).fresh = s.fresh := rfl
@[simp] theorem setCore_out (n : Nat) (c : Core) : (s.setCore n c).out = s.out := rfl
@[simp] theorem setCore_near (n : Nat) (c : Core) : (s.setCore n c).near = s.near := rfl
@[simp] theorem setCore_far (n : Nat) (c : Core) : (s.setCore n c).far = s.far := rfl
@[simp] theorem setCore_host (n : Nat) (c : Core) : (s.setCore n c).host = s.host := rfl
@[simp] theorem setCore_hostPages (n : Nat) (c : Core) : (s.setCore n c).hostPages = s.hostPages := rfl
@[simp] theorem setCore_ats (n : Nat) (c : Core) : (s.setCore n c).ats = s.ats := rfl
@[simp] theorem setCore_pris (n : Nat) (c : Core) : (s.setCore n c).pris = s.pris := rfl
@[simp] theorem setCore_badLines (n : Nat) (c : Core) : (s.setCore n c).badLines = s.badLines := rfl
@[simp] theorem setCore_rowErrors (n : Nat) (c : Core) : (s.setCore n c).rowErrors = s.rowErrors := rfl
@[simp] theorem setCore_lastCtx (n : Nat) (c : Core) : (s.setCore n c).lastCtx = s.lastCtx := rfl
@[simp] theorem setCore_ctxs (n : Nat) (c : Core) : (s.setCore n c).ctxs = s.ctxs := rfl
@[simp] theorem setCore_plots (n : Nat) (c : Core) : (s.setCore n c).plots = s.plots := rfl
@[simp] theorem setCore_runs (n : Nat) (c : Core) : (s.setCore n c).runs = s.runs := rfl
@[simp] theorem setCore_rng (n : Nat) (c : Core) : (s.setCore n c).rng = s.rng := rfl
@[simp] theorem setCore_boot (n : Nat) (c : Core) : (s.setCore n c).boot = s.boot := rfl
@[simp] theorem setCore_power (n : Nat) (c : Core) : (s.setCore n c).power = s.power := rfl
@[simp] theorem setCore_fab (n : Nat) (c : Core) : (s.setCore n c).fab = s.fab := rfl
@[simp] theorem setCore_ports (n : Nat) (c : Core) : (s.setCore n c).ports = s.ports := rfl
@[simp] theorem setCore_services (n : Nat) (c : Core) : (s.setCore n c).services = s.services := rfl
@[simp] theorem setCore_mgmt (n : Nat) (c : Core) : (s.setCore n c).mgmt = s.mgmt := rfl
@[simp] theorem setCore_flash (n : Nat) (c : Core) : (s.setCore n c).flash = s.flash := rfl
@[simp] theorem setCore_fuses (n : Nat) (c : Core) : (s.setCore n c).fuses = s.fuses := rfl
@[simp] theorem setCore_badAccess (n : Nat) (c : Core) : (s.setCore n c).badAccess = s.badAccess := rfl
@[simp] theorem setCore_badOffset (n : Nat) (c : Core) : (s.setCore n c).badOffset = s.badOffset := rfl
@[simp] theorem setCore_poolNear (n : Nat) (c : Core) : (s.setCore n c).poolNear = s.poolNear := rfl
@[simp] theorem setCore_poolFar (n : Nat) (c : Core) : (s.setCore n c).poolFar = s.poolFar := rfl
@[simp] theorem setCore_bar4Near (n : Nat) (c : Core) : (s.setCore n c).bar4Near = s.bar4Near := rfl
@[simp] theorem setCore_bar4Far (n : Nat) (c : Core) : (s.setCore n c).bar4Far = s.bar4Far := rfl
@[simp] theorem setCore_bar4Log2 (n : Nat) (c : Core) : (s.setCore n c).bar4Log2 = s.bar4Log2 := rfl
@[simp] theorem setCore_msixTable (n : Nat) (c : Core) : (s.setCore n c).msixTable = s.msixTable := rfl
@[simp] theorem setCore_msixPending (n : Nat) (c : Core) : (s.setCore n c).msixPending = s.msixPending := rfl

@[simp] theorem updCore_pending (n : Nat) (f : Core → Core) : (s.updCore n f).pending = s.pending := rfl
@[simp] theorem updCore_fresh (n : Nat) (f : Core → Core) : (s.updCore n f).fresh = s.fresh := rfl
@[simp] theorem updCore_out (n : Nat) (f : Core → Core) : (s.updCore n f).out = s.out := rfl
@[simp] theorem updCore_near (n : Nat) (f : Core → Core) : (s.updCore n f).near = s.near := rfl
@[simp] theorem updCore_far (n : Nat) (f : Core → Core) : (s.updCore n f).far = s.far := rfl
@[simp] theorem updCore_host (n : Nat) (f : Core → Core) : (s.updCore n f).host = s.host := rfl
@[simp] theorem updCore_hostPages (n : Nat) (f : Core → Core) : (s.updCore n f).hostPages = s.hostPages := rfl
@[simp] theorem updCore_ats (n : Nat) (f : Core → Core) : (s.updCore n f).ats = s.ats := rfl
@[simp] theorem updCore_pris (n : Nat) (f : Core → Core) : (s.updCore n f).pris = s.pris := rfl
@[simp] theorem updCore_badLines (n : Nat) (f : Core → Core) : (s.updCore n f).badLines = s.badLines := rfl
@[simp] theorem updCore_rowErrors (n : Nat) (f : Core → Core) : (s.updCore n f).rowErrors = s.rowErrors := rfl
@[simp] theorem updCore_lastCtx (n : Nat) (f : Core → Core) : (s.updCore n f).lastCtx = s.lastCtx := rfl
@[simp] theorem updCore_ctxs (n : Nat) (f : Core → Core) : (s.updCore n f).ctxs = s.ctxs := rfl
@[simp] theorem updCore_plots (n : Nat) (f : Core → Core) : (s.updCore n f).plots = s.plots := rfl
@[simp] theorem updCore_runs (n : Nat) (f : Core → Core) : (s.updCore n f).runs = s.runs := rfl
@[simp] theorem updCore_rng (n : Nat) (f : Core → Core) : (s.updCore n f).rng = s.rng := rfl
@[simp] theorem updCore_boot (n : Nat) (f : Core → Core) : (s.updCore n f).boot = s.boot := rfl
@[simp] theorem updCore_power (n : Nat) (f : Core → Core) : (s.updCore n f).power = s.power := rfl
@[simp] theorem updCore_fab (n : Nat) (f : Core → Core) : (s.updCore n f).fab = s.fab := rfl
@[simp] theorem updCore_ports (n : Nat) (f : Core → Core) : (s.updCore n f).ports = s.ports := rfl
@[simp] theorem updCore_services (n : Nat) (f : Core → Core) : (s.updCore n f).services = s.services := rfl
@[simp] theorem updCore_mgmt (n : Nat) (f : Core → Core) : (s.updCore n f).mgmt = s.mgmt := rfl
@[simp] theorem updCore_flash (n : Nat) (f : Core → Core) : (s.updCore n f).flash = s.flash := rfl
@[simp] theorem updCore_fuses (n : Nat) (f : Core → Core) : (s.updCore n f).fuses = s.fuses := rfl
@[simp] theorem updCore_badAccess (n : Nat) (f : Core → Core) : (s.updCore n f).badAccess = s.badAccess := rfl
@[simp] theorem updCore_badOffset (n : Nat) (f : Core → Core) : (s.updCore n f).badOffset = s.badOffset := rfl
@[simp] theorem updCore_poolNear (n : Nat) (f : Core → Core) : (s.updCore n f).poolNear = s.poolNear := rfl
@[simp] theorem updCore_poolFar (n : Nat) (f : Core → Core) : (s.updCore n f).poolFar = s.poolFar := rfl
@[simp] theorem updCore_bar4Near (n : Nat) (f : Core → Core) : (s.updCore n f).bar4Near = s.bar4Near := rfl
@[simp] theorem updCore_bar4Far (n : Nat) (f : Core → Core) : (s.updCore n f).bar4Far = s.bar4Far := rfl
@[simp] theorem updCore_bar4Log2 (n : Nat) (f : Core → Core) : (s.updCore n f).bar4Log2 = s.bar4Log2 := rfl
@[simp] theorem updCore_msixTable (n : Nat) (f : Core → Core) : (s.updCore n f).msixTable = s.msixTable := rfl
@[simp] theorem updCore_msixPending (n : Nat) (f : Core → Core) : (s.updCore n f).msixPending = s.msixPending := rfl

@[simp] theorem updWork_pending (n : Nat) (f : Work → Work) : (s.updWork n f).pending = s.pending := rfl
@[simp] theorem updWork_fresh (n : Nat) (f : Work → Work) : (s.updWork n f).fresh = s.fresh := rfl
@[simp] theorem updWork_out (n : Nat) (f : Work → Work) : (s.updWork n f).out = s.out := rfl
@[simp] theorem updWork_near (n : Nat) (f : Work → Work) : (s.updWork n f).near = s.near := rfl
@[simp] theorem updWork_far (n : Nat) (f : Work → Work) : (s.updWork n f).far = s.far := rfl
@[simp] theorem updWork_host (n : Nat) (f : Work → Work) : (s.updWork n f).host = s.host := rfl
@[simp] theorem updWork_hostPages (n : Nat) (f : Work → Work) : (s.updWork n f).hostPages = s.hostPages := rfl
@[simp] theorem updWork_ats (n : Nat) (f : Work → Work) : (s.updWork n f).ats = s.ats := rfl
@[simp] theorem updWork_pris (n : Nat) (f : Work → Work) : (s.updWork n f).pris = s.pris := rfl
@[simp] theorem updWork_badLines (n : Nat) (f : Work → Work) : (s.updWork n f).badLines = s.badLines := rfl
@[simp] theorem updWork_rowErrors (n : Nat) (f : Work → Work) : (s.updWork n f).rowErrors = s.rowErrors := rfl
@[simp] theorem updWork_lastCtx (n : Nat) (f : Work → Work) : (s.updWork n f).lastCtx = s.lastCtx := rfl
@[simp] theorem updWork_ctxs (n : Nat) (f : Work → Work) : (s.updWork n f).ctxs = s.ctxs := rfl
@[simp] theorem updWork_plots (n : Nat) (f : Work → Work) : (s.updWork n f).plots = s.plots := rfl
@[simp] theorem updWork_runs (n : Nat) (f : Work → Work) : (s.updWork n f).runs = s.runs := rfl
@[simp] theorem updWork_rng (n : Nat) (f : Work → Work) : (s.updWork n f).rng = s.rng := rfl
@[simp] theorem updWork_boot (n : Nat) (f : Work → Work) : (s.updWork n f).boot = s.boot := rfl
@[simp] theorem updWork_power (n : Nat) (f : Work → Work) : (s.updWork n f).power = s.power := rfl
@[simp] theorem updWork_fab (n : Nat) (f : Work → Work) : (s.updWork n f).fab = s.fab := rfl
@[simp] theorem updWork_ports (n : Nat) (f : Work → Work) : (s.updWork n f).ports = s.ports := rfl
@[simp] theorem updWork_services (n : Nat) (f : Work → Work) : (s.updWork n f).services = s.services := rfl
@[simp] theorem updWork_mgmt (n : Nat) (f : Work → Work) : (s.updWork n f).mgmt = s.mgmt := rfl
@[simp] theorem updWork_flash (n : Nat) (f : Work → Work) : (s.updWork n f).flash = s.flash := rfl
@[simp] theorem updWork_fuses (n : Nat) (f : Work → Work) : (s.updWork n f).fuses = s.fuses := rfl
@[simp] theorem updWork_badAccess (n : Nat) (f : Work → Work) : (s.updWork n f).badAccess = s.badAccess := rfl
@[simp] theorem updWork_badOffset (n : Nat) (f : Work → Work) : (s.updWork n f).badOffset = s.badOffset := rfl
@[simp] theorem updWork_poolNear (n : Nat) (f : Work → Work) : (s.updWork n f).poolNear = s.poolNear := rfl
@[simp] theorem updWork_poolFar (n : Nat) (f : Work → Work) : (s.updWork n f).poolFar = s.poolFar := rfl
@[simp] theorem updWork_bar4Near (n : Nat) (f : Work → Work) : (s.updWork n f).bar4Near = s.bar4Near := rfl
@[simp] theorem updWork_bar4Far (n : Nat) (f : Work → Work) : (s.updWork n f).bar4Far = s.bar4Far := rfl
@[simp] theorem updWork_bar4Log2 (n : Nat) (f : Work → Work) : (s.updWork n f).bar4Log2 = s.bar4Log2 := rfl
@[simp] theorem updWork_msixTable (n : Nat) (f : Work → Work) : (s.updWork n f).msixTable = s.msixTable := rfl
@[simp] theorem updWork_msixPending (n : Nat) (f : Work → Work) : (s.updWork n f).msixPending = s.msixPending := rfl

@[simp] theorem setHart_pending (h : Hart) (c : CCore) : (s.setHart h c).pending = s.pending := rfl
@[simp] theorem setHart_fresh (h : Hart) (c : CCore) : (s.setHart h c).fresh = s.fresh := rfl
@[simp] theorem setHart_out (h : Hart) (c : CCore) : (s.setHart h c).out = s.out := rfl
@[simp] theorem setHart_near (h : Hart) (c : CCore) : (s.setHart h c).near = s.near := rfl
@[simp] theorem setHart_far (h : Hart) (c : CCore) : (s.setHart h c).far = s.far := rfl
@[simp] theorem setHart_host (h : Hart) (c : CCore) : (s.setHart h c).host = s.host := rfl
@[simp] theorem setHart_hostPages (h : Hart) (c : CCore) : (s.setHart h c).hostPages = s.hostPages := rfl
@[simp] theorem setHart_ats (h : Hart) (c : CCore) : (s.setHart h c).ats = s.ats := rfl
@[simp] theorem setHart_pris (h : Hart) (c : CCore) : (s.setHart h c).pris = s.pris := rfl
@[simp] theorem setHart_badLines (h : Hart) (c : CCore) : (s.setHart h c).badLines = s.badLines := rfl
@[simp] theorem setHart_rowErrors (h : Hart) (c : CCore) : (s.setHart h c).rowErrors = s.rowErrors := rfl
@[simp] theorem setHart_lastCtx (h : Hart) (c : CCore) : (s.setHart h c).lastCtx = s.lastCtx := rfl
@[simp] theorem setHart_ctxs (h : Hart) (c : CCore) : (s.setHart h c).ctxs = s.ctxs := rfl
@[simp] theorem setHart_plots (h : Hart) (c : CCore) : (s.setHart h c).plots = s.plots := rfl
@[simp] theorem setHart_runs (h : Hart) (c : CCore) : (s.setHart h c).runs = s.runs := rfl
@[simp] theorem setHart_rng (h : Hart) (c : CCore) : (s.setHart h c).rng = s.rng := rfl
@[simp] theorem setHart_boot (h : Hart) (c : CCore) : (s.setHart h c).boot = s.boot := rfl
@[simp] theorem setHart_power (h : Hart) (c : CCore) : (s.setHart h c).power = s.power := rfl
@[simp] theorem setHart_fab (h : Hart) (c : CCore) : (s.setHart h c).fab = s.fab := rfl
@[simp] theorem setHart_ports (h : Hart) (c : CCore) : (s.setHart h c).ports = s.ports := rfl
@[simp] theorem setHart_services (h : Hart) (c : CCore) : (s.setHart h c).services = s.services := rfl
@[simp] theorem setHart_mgmt (h : Hart) (c : CCore) : (s.setHart h c).mgmt = s.mgmt := rfl
@[simp] theorem setHart_flash (h : Hart) (c : CCore) : (s.setHart h c).flash = s.flash := rfl
@[simp] theorem setHart_fuses (h : Hart) (c : CCore) : (s.setHart h c).fuses = s.fuses := rfl
@[simp] theorem setHart_badAccess (h : Hart) (c : CCore) : (s.setHart h c).badAccess = s.badAccess := rfl
@[simp] theorem setHart_badOffset (h : Hart) (c : CCore) : (s.setHart h c).badOffset = s.badOffset := rfl
@[simp] theorem setHart_poolNear (h : Hart) (c : CCore) : (s.setHart h c).poolNear = s.poolNear := rfl
@[simp] theorem setHart_poolFar (h : Hart) (c : CCore) : (s.setHart h c).poolFar = s.poolFar := rfl
@[simp] theorem setHart_bar4Near (h : Hart) (c : CCore) : (s.setHart h c).bar4Near = s.bar4Near := rfl
@[simp] theorem setHart_bar4Far (h : Hart) (c : CCore) : (s.setHart h c).bar4Far = s.bar4Far := rfl
@[simp] theorem setHart_bar4Log2 (h : Hart) (c : CCore) : (s.setHart h c).bar4Log2 = s.bar4Log2 := rfl
@[simp] theorem setHart_msixTable (h : Hart) (c : CCore) : (s.setHart h c).msixTable = s.msixTable := rfl
@[simp] theorem setHart_msixPending (h : Hart) (c : CCore) : (s.setHart h c).msixPending = s.msixPending := rfl

@[simp] theorem updHart_pending (h : Hart) (f : CCore → CCore) : (s.updHart h f).pending = s.pending := rfl
@[simp] theorem updHart_fresh (h : Hart) (f : CCore → CCore) : (s.updHart h f).fresh = s.fresh := rfl
@[simp] theorem updHart_out (h : Hart) (f : CCore → CCore) : (s.updHart h f).out = s.out := rfl
@[simp] theorem updHart_near (h : Hart) (f : CCore → CCore) : (s.updHart h f).near = s.near := rfl
@[simp] theorem updHart_far (h : Hart) (f : CCore → CCore) : (s.updHart h f).far = s.far := rfl
@[simp] theorem updHart_host (h : Hart) (f : CCore → CCore) : (s.updHart h f).host = s.host := rfl
@[simp] theorem updHart_hostPages (h : Hart) (f : CCore → CCore) : (s.updHart h f).hostPages = s.hostPages := rfl
@[simp] theorem updHart_ats (h : Hart) (f : CCore → CCore) : (s.updHart h f).ats = s.ats := rfl
@[simp] theorem updHart_pris (h : Hart) (f : CCore → CCore) : (s.updHart h f).pris = s.pris := rfl
@[simp] theorem updHart_badLines (h : Hart) (f : CCore → CCore) : (s.updHart h f).badLines = s.badLines := rfl
@[simp] theorem updHart_rowErrors (h : Hart) (f : CCore → CCore) : (s.updHart h f).rowErrors = s.rowErrors := rfl
@[simp] theorem updHart_lastCtx (h : Hart) (f : CCore → CCore) : (s.updHart h f).lastCtx = s.lastCtx := rfl
@[simp] theorem updHart_ctxs (h : Hart) (f : CCore → CCore) : (s.updHart h f).ctxs = s.ctxs := rfl
@[simp] theorem updHart_plots (h : Hart) (f : CCore → CCore) : (s.updHart h f).plots = s.plots := rfl
@[simp] theorem updHart_runs (h : Hart) (f : CCore → CCore) : (s.updHart h f).runs = s.runs := rfl
@[simp] theorem updHart_rng (h : Hart) (f : CCore → CCore) : (s.updHart h f).rng = s.rng := rfl
@[simp] theorem updHart_boot (h : Hart) (f : CCore → CCore) : (s.updHart h f).boot = s.boot := rfl
@[simp] theorem updHart_power (h : Hart) (f : CCore → CCore) : (s.updHart h f).power = s.power := rfl
@[simp] theorem updHart_fab (h : Hart) (f : CCore → CCore) : (s.updHart h f).fab = s.fab := rfl
@[simp] theorem updHart_ports (h : Hart) (f : CCore → CCore) : (s.updHart h f).ports = s.ports := rfl
@[simp] theorem updHart_services (h : Hart) (f : CCore → CCore) : (s.updHart h f).services = s.services := rfl
@[simp] theorem updHart_mgmt (h : Hart) (f : CCore → CCore) : (s.updHart h f).mgmt = s.mgmt := rfl
@[simp] theorem updHart_flash (h : Hart) (f : CCore → CCore) : (s.updHart h f).flash = s.flash := rfl
@[simp] theorem updHart_fuses (h : Hart) (f : CCore → CCore) : (s.updHart h f).fuses = s.fuses := rfl
@[simp] theorem updHart_badAccess (h : Hart) (f : CCore → CCore) : (s.updHart h f).badAccess = s.badAccess := rfl
@[simp] theorem updHart_badOffset (h : Hart) (f : CCore → CCore) : (s.updHart h f).badOffset = s.badOffset := rfl
@[simp] theorem updHart_poolNear (h : Hart) (f : CCore → CCore) : (s.updHart h f).poolNear = s.poolNear := rfl
@[simp] theorem updHart_poolFar (h : Hart) (f : CCore → CCore) : (s.updHart h f).poolFar = s.poolFar := rfl
@[simp] theorem updHart_bar4Near (h : Hart) (f : CCore → CCore) : (s.updHart h f).bar4Near = s.bar4Near := rfl
@[simp] theorem updHart_bar4Far (h : Hart) (f : CCore → CCore) : (s.updHart h f).bar4Far = s.bar4Far := rfl
@[simp] theorem updHart_bar4Log2 (h : Hart) (f : CCore → CCore) : (s.updHart h f).bar4Log2 = s.bar4Log2 := rfl
@[simp] theorem updHart_msixTable (h : Hart) (f : CCore → CCore) : (s.updHart h f).msixTable = s.msixTable := rfl
@[simp] theorem updHart_msixPending (h : Hart) (f : CCore → CCore) : (s.updHart h f).msixPending = s.msixPending := rfl

@[simp] theorem setCtx_pending (n : Nat) (c : Ctx) : (s.setCtx n c).pending = s.pending := rfl
@[simp] theorem setCtx_fresh (n : Nat) (c : Ctx) : (s.setCtx n c).fresh = s.fresh := rfl
@[simp] theorem setCtx_out (n : Nat) (c : Ctx) : (s.setCtx n c).out = s.out := rfl
@[simp] theorem setCtx_near (n : Nat) (c : Ctx) : (s.setCtx n c).near = s.near := rfl
@[simp] theorem setCtx_far (n : Nat) (c : Ctx) : (s.setCtx n c).far = s.far := rfl
@[simp] theorem setCtx_host (n : Nat) (c : Ctx) : (s.setCtx n c).host = s.host := rfl
@[simp] theorem setCtx_hostPages (n : Nat) (c : Ctx) : (s.setCtx n c).hostPages = s.hostPages := rfl
@[simp] theorem setCtx_ats (n : Nat) (c : Ctx) : (s.setCtx n c).ats = s.ats := rfl
@[simp] theorem setCtx_pris (n : Nat) (c : Ctx) : (s.setCtx n c).pris = s.pris := rfl
@[simp] theorem setCtx_badLines (n : Nat) (c : Ctx) : (s.setCtx n c).badLines = s.badLines := rfl
@[simp] theorem setCtx_rowErrors (n : Nat) (c : Ctx) : (s.setCtx n c).rowErrors = s.rowErrors := rfl
@[simp] theorem setCtx_lastCtx (n : Nat) (c : Ctx) : (s.setCtx n c).lastCtx = s.lastCtx := rfl
@[simp] theorem setCtx_plots (n : Nat) (c : Ctx) : (s.setCtx n c).plots = s.plots := rfl
@[simp] theorem setCtx_cores (n : Nat) (c : Ctx) : (s.setCtx n c).cores = s.cores := rfl
@[simp] theorem setCtx_runs (n : Nat) (c : Ctx) : (s.setCtx n c).runs = s.runs := rfl
@[simp] theorem setCtx_rng (n : Nat) (c : Ctx) : (s.setCtx n c).rng = s.rng := rfl
@[simp] theorem setCtx_boot (n : Nat) (c : Ctx) : (s.setCtx n c).boot = s.boot := rfl
@[simp] theorem setCtx_power (n : Nat) (c : Ctx) : (s.setCtx n c).power = s.power := rfl
@[simp] theorem setCtx_fab (n : Nat) (c : Ctx) : (s.setCtx n c).fab = s.fab := rfl
@[simp] theorem setCtx_ports (n : Nat) (c : Ctx) : (s.setCtx n c).ports = s.ports := rfl
@[simp] theorem setCtx_services (n : Nat) (c : Ctx) : (s.setCtx n c).services = s.services := rfl
@[simp] theorem setCtx_mgmt (n : Nat) (c : Ctx) : (s.setCtx n c).mgmt = s.mgmt := rfl
@[simp] theorem setCtx_flash (n : Nat) (c : Ctx) : (s.setCtx n c).flash = s.flash := rfl
@[simp] theorem setCtx_fuses (n : Nat) (c : Ctx) : (s.setCtx n c).fuses = s.fuses := rfl
@[simp] theorem setCtx_badAccess (n : Nat) (c : Ctx) : (s.setCtx n c).badAccess = s.badAccess := rfl
@[simp] theorem setCtx_badOffset (n : Nat) (c : Ctx) : (s.setCtx n c).badOffset = s.badOffset := rfl
@[simp] theorem setCtx_poolNear (n : Nat) (c : Ctx) : (s.setCtx n c).poolNear = s.poolNear := rfl
@[simp] theorem setCtx_poolFar (n : Nat) (c : Ctx) : (s.setCtx n c).poolFar = s.poolFar := rfl
@[simp] theorem setCtx_bar4Near (n : Nat) (c : Ctx) : (s.setCtx n c).bar4Near = s.bar4Near := rfl
@[simp] theorem setCtx_bar4Far (n : Nat) (c : Ctx) : (s.setCtx n c).bar4Far = s.bar4Far := rfl
@[simp] theorem setCtx_bar4Log2 (n : Nat) (c : Ctx) : (s.setCtx n c).bar4Log2 = s.bar4Log2 := rfl
@[simp] theorem setCtx_msixTable (n : Nat) (c : Ctx) : (s.setCtx n c).msixTable = s.msixTable := rfl
@[simp] theorem setCtx_msixPending (n : Nat) (c : Ctx) : (s.setCtx n c).msixPending = s.msixPending := rfl

@[simp] theorem updCtx_pending (n : Nat) (f : Ctx → Ctx) : (s.updCtx n f).pending = s.pending := rfl
@[simp] theorem updCtx_fresh (n : Nat) (f : Ctx → Ctx) : (s.updCtx n f).fresh = s.fresh := rfl
@[simp] theorem updCtx_out (n : Nat) (f : Ctx → Ctx) : (s.updCtx n f).out = s.out := rfl
@[simp] theorem updCtx_near (n : Nat) (f : Ctx → Ctx) : (s.updCtx n f).near = s.near := rfl
@[simp] theorem updCtx_far (n : Nat) (f : Ctx → Ctx) : (s.updCtx n f).far = s.far := rfl
@[simp] theorem updCtx_host (n : Nat) (f : Ctx → Ctx) : (s.updCtx n f).host = s.host := rfl
@[simp] theorem updCtx_hostPages (n : Nat) (f : Ctx → Ctx) : (s.updCtx n f).hostPages = s.hostPages := rfl
@[simp] theorem updCtx_ats (n : Nat) (f : Ctx → Ctx) : (s.updCtx n f).ats = s.ats := rfl
@[simp] theorem updCtx_pris (n : Nat) (f : Ctx → Ctx) : (s.updCtx n f).pris = s.pris := rfl
@[simp] theorem updCtx_badLines (n : Nat) (f : Ctx → Ctx) : (s.updCtx n f).badLines = s.badLines := rfl
@[simp] theorem updCtx_rowErrors (n : Nat) (f : Ctx → Ctx) : (s.updCtx n f).rowErrors = s.rowErrors := rfl
@[simp] theorem updCtx_lastCtx (n : Nat) (f : Ctx → Ctx) : (s.updCtx n f).lastCtx = s.lastCtx := rfl
@[simp] theorem updCtx_plots (n : Nat) (f : Ctx → Ctx) : (s.updCtx n f).plots = s.plots := rfl
@[simp] theorem updCtx_cores (n : Nat) (f : Ctx → Ctx) : (s.updCtx n f).cores = s.cores := rfl
@[simp] theorem updCtx_runs (n : Nat) (f : Ctx → Ctx) : (s.updCtx n f).runs = s.runs := rfl
@[simp] theorem updCtx_rng (n : Nat) (f : Ctx → Ctx) : (s.updCtx n f).rng = s.rng := rfl
@[simp] theorem updCtx_boot (n : Nat) (f : Ctx → Ctx) : (s.updCtx n f).boot = s.boot := rfl
@[simp] theorem updCtx_power (n : Nat) (f : Ctx → Ctx) : (s.updCtx n f).power = s.power := rfl
@[simp] theorem updCtx_fab (n : Nat) (f : Ctx → Ctx) : (s.updCtx n f).fab = s.fab := rfl
@[simp] theorem updCtx_ports (n : Nat) (f : Ctx → Ctx) : (s.updCtx n f).ports = s.ports := rfl
@[simp] theorem updCtx_services (n : Nat) (f : Ctx → Ctx) : (s.updCtx n f).services = s.services := rfl
@[simp] theorem updCtx_mgmt (n : Nat) (f : Ctx → Ctx) : (s.updCtx n f).mgmt = s.mgmt := rfl
@[simp] theorem updCtx_flash (n : Nat) (f : Ctx → Ctx) : (s.updCtx n f).flash = s.flash := rfl
@[simp] theorem updCtx_fuses (n : Nat) (f : Ctx → Ctx) : (s.updCtx n f).fuses = s.fuses := rfl
@[simp] theorem updCtx_badAccess (n : Nat) (f : Ctx → Ctx) : (s.updCtx n f).badAccess = s.badAccess := rfl
@[simp] theorem updCtx_badOffset (n : Nat) (f : Ctx → Ctx) : (s.updCtx n f).badOffset = s.badOffset := rfl
@[simp] theorem updCtx_poolNear (n : Nat) (f : Ctx → Ctx) : (s.updCtx n f).poolNear = s.poolNear := rfl
@[simp] theorem updCtx_poolFar (n : Nat) (f : Ctx → Ctx) : (s.updCtx n f).poolFar = s.poolFar := rfl
@[simp] theorem updCtx_bar4Near (n : Nat) (f : Ctx → Ctx) : (s.updCtx n f).bar4Near = s.bar4Near := rfl
@[simp] theorem updCtx_bar4Far (n : Nat) (f : Ctx → Ctx) : (s.updCtx n f).bar4Far = s.bar4Far := rfl
@[simp] theorem updCtx_bar4Log2 (n : Nat) (f : Ctx → Ctx) : (s.updCtx n f).bar4Log2 = s.bar4Log2 := rfl
@[simp] theorem updCtx_msixTable (n : Nat) (f : Ctx → Ctx) : (s.updCtx n f).msixTable = s.msixTable := rfl
@[simp] theorem updCtx_msixPending (n : Nat) (f : Ctx → Ctx) : (s.updCtx n f).msixPending = s.msixPending := rfl

@[simp] theorem updRing_pending (c r : Nat) (f : Ring → Ring) : (s.updRing c r f).pending = s.pending := rfl
@[simp] theorem updRing_fresh (c r : Nat) (f : Ring → Ring) : (s.updRing c r f).fresh = s.fresh := rfl
@[simp] theorem updRing_out (c r : Nat) (f : Ring → Ring) : (s.updRing c r f).out = s.out := rfl
@[simp] theorem updRing_near (c r : Nat) (f : Ring → Ring) : (s.updRing c r f).near = s.near := rfl
@[simp] theorem updRing_far (c r : Nat) (f : Ring → Ring) : (s.updRing c r f).far = s.far := rfl
@[simp] theorem updRing_host (c r : Nat) (f : Ring → Ring) : (s.updRing c r f).host = s.host := rfl
@[simp] theorem updRing_hostPages (c r : Nat) (f : Ring → Ring) : (s.updRing c r f).hostPages = s.hostPages := rfl
@[simp] theorem updRing_ats (c r : Nat) (f : Ring → Ring) : (s.updRing c r f).ats = s.ats := rfl
@[simp] theorem updRing_pris (c r : Nat) (f : Ring → Ring) : (s.updRing c r f).pris = s.pris := rfl
@[simp] theorem updRing_badLines (c r : Nat) (f : Ring → Ring) : (s.updRing c r f).badLines = s.badLines := rfl
@[simp] theorem updRing_rowErrors (c r : Nat) (f : Ring → Ring) : (s.updRing c r f).rowErrors = s.rowErrors := rfl
@[simp] theorem updRing_lastCtx (c r : Nat) (f : Ring → Ring) : (s.updRing c r f).lastCtx = s.lastCtx := rfl
@[simp] theorem updRing_plots (c r : Nat) (f : Ring → Ring) : (s.updRing c r f).plots = s.plots := rfl
@[simp] theorem updRing_cores (c r : Nat) (f : Ring → Ring) : (s.updRing c r f).cores = s.cores := rfl
@[simp] theorem updRing_runs (c r : Nat) (f : Ring → Ring) : (s.updRing c r f).runs = s.runs := rfl
@[simp] theorem updRing_rng (c r : Nat) (f : Ring → Ring) : (s.updRing c r f).rng = s.rng := rfl
@[simp] theorem updRing_boot (c r : Nat) (f : Ring → Ring) : (s.updRing c r f).boot = s.boot := rfl
@[simp] theorem updRing_power (c r : Nat) (f : Ring → Ring) : (s.updRing c r f).power = s.power := rfl
@[simp] theorem updRing_fab (c r : Nat) (f : Ring → Ring) : (s.updRing c r f).fab = s.fab := rfl
@[simp] theorem updRing_ports (c r : Nat) (f : Ring → Ring) : (s.updRing c r f).ports = s.ports := rfl
@[simp] theorem updRing_services (c r : Nat) (f : Ring → Ring) : (s.updRing c r f).services = s.services := rfl
@[simp] theorem updRing_mgmt (c r : Nat) (f : Ring → Ring) : (s.updRing c r f).mgmt = s.mgmt := rfl
@[simp] theorem updRing_flash (c r : Nat) (f : Ring → Ring) : (s.updRing c r f).flash = s.flash := rfl
@[simp] theorem updRing_fuses (c r : Nat) (f : Ring → Ring) : (s.updRing c r f).fuses = s.fuses := rfl
@[simp] theorem updRing_badAccess (c r : Nat) (f : Ring → Ring) : (s.updRing c r f).badAccess = s.badAccess := rfl
@[simp] theorem updRing_badOffset (c r : Nat) (f : Ring → Ring) : (s.updRing c r f).badOffset = s.badOffset := rfl
@[simp] theorem updRing_poolNear (c r : Nat) (f : Ring → Ring) : (s.updRing c r f).poolNear = s.poolNear := rfl
@[simp] theorem updRing_poolFar (c r : Nat) (f : Ring → Ring) : (s.updRing c r f).poolFar = s.poolFar := rfl
@[simp] theorem updRing_bar4Near (c r : Nat) (f : Ring → Ring) : (s.updRing c r f).bar4Near = s.bar4Near := rfl
@[simp] theorem updRing_bar4Far (c r : Nat) (f : Ring → Ring) : (s.updRing c r f).bar4Far = s.bar4Far := rfl
@[simp] theorem updRing_bar4Log2 (c r : Nat) (f : Ring → Ring) : (s.updRing c r f).bar4Log2 = s.bar4Log2 := rfl
@[simp] theorem updRing_msixTable (c r : Nat) (f : Ring → Ring) : (s.updRing c r f).msixTable = s.msixTable := rfl
@[simp] theorem updRing_msixPending (c r : Nat) (f : Ring → Ring) : (s.updRing c r f).msixPending = s.msixPending := rfl

@[simp] theorem setPlot_pending (n : Nat) (p : Plot) : (s.setPlot n p).pending = s.pending := rfl
@[simp] theorem setPlot_fresh (n : Nat) (p : Plot) : (s.setPlot n p).fresh = s.fresh := rfl
@[simp] theorem setPlot_out (n : Nat) (p : Plot) : (s.setPlot n p).out = s.out := rfl
@[simp] theorem setPlot_near (n : Nat) (p : Plot) : (s.setPlot n p).near = s.near := rfl
@[simp] theorem setPlot_far (n : Nat) (p : Plot) : (s.setPlot n p).far = s.far := rfl
@[simp] theorem setPlot_host (n : Nat) (p : Plot) : (s.setPlot n p).host = s.host := rfl
@[simp] theorem setPlot_hostPages (n : Nat) (p : Plot) : (s.setPlot n p).hostPages = s.hostPages := rfl
@[simp] theorem setPlot_ats (n : Nat) (p : Plot) : (s.setPlot n p).ats = s.ats := rfl
@[simp] theorem setPlot_pris (n : Nat) (p : Plot) : (s.setPlot n p).pris = s.pris := rfl
@[simp] theorem setPlot_badLines (n : Nat) (p : Plot) : (s.setPlot n p).badLines = s.badLines := rfl
@[simp] theorem setPlot_rowErrors (n : Nat) (p : Plot) : (s.setPlot n p).rowErrors = s.rowErrors := rfl
@[simp] theorem setPlot_lastCtx (n : Nat) (p : Plot) : (s.setPlot n p).lastCtx = s.lastCtx := rfl
@[simp] theorem setPlot_ctxs (n : Nat) (p : Plot) : (s.setPlot n p).ctxs = s.ctxs := rfl
@[simp] theorem setPlot_cores (n : Nat) (p : Plot) : (s.setPlot n p).cores = s.cores := rfl
@[simp] theorem setPlot_runs (n : Nat) (p : Plot) : (s.setPlot n p).runs = s.runs := rfl
@[simp] theorem setPlot_rng (n : Nat) (p : Plot) : (s.setPlot n p).rng = s.rng := rfl
@[simp] theorem setPlot_boot (n : Nat) (p : Plot) : (s.setPlot n p).boot = s.boot := rfl
@[simp] theorem setPlot_power (n : Nat) (p : Plot) : (s.setPlot n p).power = s.power := rfl
@[simp] theorem setPlot_fab (n : Nat) (p : Plot) : (s.setPlot n p).fab = s.fab := rfl
@[simp] theorem setPlot_ports (n : Nat) (p : Plot) : (s.setPlot n p).ports = s.ports := rfl
@[simp] theorem setPlot_services (n : Nat) (p : Plot) : (s.setPlot n p).services = s.services := rfl
@[simp] theorem setPlot_mgmt (n : Nat) (p : Plot) : (s.setPlot n p).mgmt = s.mgmt := rfl
@[simp] theorem setPlot_flash (n : Nat) (p : Plot) : (s.setPlot n p).flash = s.flash := rfl
@[simp] theorem setPlot_fuses (n : Nat) (p : Plot) : (s.setPlot n p).fuses = s.fuses := rfl
@[simp] theorem setPlot_badAccess (n : Nat) (p : Plot) : (s.setPlot n p).badAccess = s.badAccess := rfl
@[simp] theorem setPlot_badOffset (n : Nat) (p : Plot) : (s.setPlot n p).badOffset = s.badOffset := rfl
@[simp] theorem setPlot_poolNear (n : Nat) (p : Plot) : (s.setPlot n p).poolNear = s.poolNear := rfl
@[simp] theorem setPlot_poolFar (n : Nat) (p : Plot) : (s.setPlot n p).poolFar = s.poolFar := rfl
@[simp] theorem setPlot_bar4Near (n : Nat) (p : Plot) : (s.setPlot n p).bar4Near = s.bar4Near := rfl
@[simp] theorem setPlot_bar4Far (n : Nat) (p : Plot) : (s.setPlot n p).bar4Far = s.bar4Far := rfl
@[simp] theorem setPlot_bar4Log2 (n : Nat) (p : Plot) : (s.setPlot n p).bar4Log2 = s.bar4Log2 := rfl
@[simp] theorem setPlot_msixTable (n : Nat) (p : Plot) : (s.setPlot n p).msixTable = s.msixTable := rfl
@[simp] theorem setPlot_msixPending (n : Nat) (p : Plot) : (s.setPlot n p).msixPending = s.msixPending := rfl

@[simp] theorem updPlot_pending (n : Nat) (f : Plot → Plot) : (s.updPlot n f).pending = s.pending := rfl
@[simp] theorem updPlot_fresh (n : Nat) (f : Plot → Plot) : (s.updPlot n f).fresh = s.fresh := rfl
@[simp] theorem updPlot_out (n : Nat) (f : Plot → Plot) : (s.updPlot n f).out = s.out := rfl
@[simp] theorem updPlot_near (n : Nat) (f : Plot → Plot) : (s.updPlot n f).near = s.near := rfl
@[simp] theorem updPlot_far (n : Nat) (f : Plot → Plot) : (s.updPlot n f).far = s.far := rfl
@[simp] theorem updPlot_host (n : Nat) (f : Plot → Plot) : (s.updPlot n f).host = s.host := rfl
@[simp] theorem updPlot_hostPages (n : Nat) (f : Plot → Plot) : (s.updPlot n f).hostPages = s.hostPages := rfl
@[simp] theorem updPlot_ats (n : Nat) (f : Plot → Plot) : (s.updPlot n f).ats = s.ats := rfl
@[simp] theorem updPlot_pris (n : Nat) (f : Plot → Plot) : (s.updPlot n f).pris = s.pris := rfl
@[simp] theorem updPlot_badLines (n : Nat) (f : Plot → Plot) : (s.updPlot n f).badLines = s.badLines := rfl
@[simp] theorem updPlot_rowErrors (n : Nat) (f : Plot → Plot) : (s.updPlot n f).rowErrors = s.rowErrors := rfl
@[simp] theorem updPlot_lastCtx (n : Nat) (f : Plot → Plot) : (s.updPlot n f).lastCtx = s.lastCtx := rfl
@[simp] theorem updPlot_ctxs (n : Nat) (f : Plot → Plot) : (s.updPlot n f).ctxs = s.ctxs := rfl
@[simp] theorem updPlot_cores (n : Nat) (f : Plot → Plot) : (s.updPlot n f).cores = s.cores := rfl
@[simp] theorem updPlot_runs (n : Nat) (f : Plot → Plot) : (s.updPlot n f).runs = s.runs := rfl
@[simp] theorem updPlot_rng (n : Nat) (f : Plot → Plot) : (s.updPlot n f).rng = s.rng := rfl
@[simp] theorem updPlot_boot (n : Nat) (f : Plot → Plot) : (s.updPlot n f).boot = s.boot := rfl
@[simp] theorem updPlot_power (n : Nat) (f : Plot → Plot) : (s.updPlot n f).power = s.power := rfl
@[simp] theorem updPlot_fab (n : Nat) (f : Plot → Plot) : (s.updPlot n f).fab = s.fab := rfl
@[simp] theorem updPlot_ports (n : Nat) (f : Plot → Plot) : (s.updPlot n f).ports = s.ports := rfl
@[simp] theorem updPlot_services (n : Nat) (f : Plot → Plot) : (s.updPlot n f).services = s.services := rfl
@[simp] theorem updPlot_mgmt (n : Nat) (f : Plot → Plot) : (s.updPlot n f).mgmt = s.mgmt := rfl
@[simp] theorem updPlot_flash (n : Nat) (f : Plot → Plot) : (s.updPlot n f).flash = s.flash := rfl
@[simp] theorem updPlot_fuses (n : Nat) (f : Plot → Plot) : (s.updPlot n f).fuses = s.fuses := rfl
@[simp] theorem updPlot_badAccess (n : Nat) (f : Plot → Plot) : (s.updPlot n f).badAccess = s.badAccess := rfl
@[simp] theorem updPlot_badOffset (n : Nat) (f : Plot → Plot) : (s.updPlot n f).badOffset = s.badOffset := rfl
@[simp] theorem updPlot_poolNear (n : Nat) (f : Plot → Plot) : (s.updPlot n f).poolNear = s.poolNear := rfl
@[simp] theorem updPlot_poolFar (n : Nat) (f : Plot → Plot) : (s.updPlot n f).poolFar = s.poolFar := rfl
@[simp] theorem updPlot_bar4Near (n : Nat) (f : Plot → Plot) : (s.updPlot n f).bar4Near = s.bar4Near := rfl
@[simp] theorem updPlot_bar4Far (n : Nat) (f : Plot → Plot) : (s.updPlot n f).bar4Far = s.bar4Far := rfl
@[simp] theorem updPlot_bar4Log2 (n : Nat) (f : Plot → Plot) : (s.updPlot n f).bar4Log2 = s.bar4Log2 := rfl
@[simp] theorem updPlot_msixTable (n : Nat) (f : Plot → Plot) : (s.updPlot n f).msixTable = s.msixTable := rfl
@[simp] theorem updPlot_msixPending (n : Nat) (f : Plot → Plot) : (s.updPlot n f).msixPending = s.msixPending := rfl

@[simp] theorem updRun_pending (k : RunKey) (f : Run → Run) : (s.updRun k f).pending = s.pending := rfl
@[simp] theorem updRun_fresh (k : RunKey) (f : Run → Run) : (s.updRun k f).fresh = s.fresh := rfl
@[simp] theorem updRun_out (k : RunKey) (f : Run → Run) : (s.updRun k f).out = s.out := rfl
@[simp] theorem updRun_near (k : RunKey) (f : Run → Run) : (s.updRun k f).near = s.near := rfl
@[simp] theorem updRun_far (k : RunKey) (f : Run → Run) : (s.updRun k f).far = s.far := rfl
@[simp] theorem updRun_host (k : RunKey) (f : Run → Run) : (s.updRun k f).host = s.host := rfl
@[simp] theorem updRun_hostPages (k : RunKey) (f : Run → Run) : (s.updRun k f).hostPages = s.hostPages := rfl
@[simp] theorem updRun_ats (k : RunKey) (f : Run → Run) : (s.updRun k f).ats = s.ats := rfl
@[simp] theorem updRun_pris (k : RunKey) (f : Run → Run) : (s.updRun k f).pris = s.pris := rfl
@[simp] theorem updRun_badLines (k : RunKey) (f : Run → Run) : (s.updRun k f).badLines = s.badLines := rfl
@[simp] theorem updRun_rowErrors (k : RunKey) (f : Run → Run) : (s.updRun k f).rowErrors = s.rowErrors := rfl
@[simp] theorem updRun_lastCtx (k : RunKey) (f : Run → Run) : (s.updRun k f).lastCtx = s.lastCtx := rfl
@[simp] theorem updRun_ctxs (k : RunKey) (f : Run → Run) : (s.updRun k f).ctxs = s.ctxs := rfl
@[simp] theorem updRun_plots (k : RunKey) (f : Run → Run) : (s.updRun k f).plots = s.plots := rfl
@[simp] theorem updRun_cores (k : RunKey) (f : Run → Run) : (s.updRun k f).cores = s.cores := rfl
@[simp] theorem updRun_rng (k : RunKey) (f : Run → Run) : (s.updRun k f).rng = s.rng := rfl
@[simp] theorem updRun_boot (k : RunKey) (f : Run → Run) : (s.updRun k f).boot = s.boot := rfl
@[simp] theorem updRun_power (k : RunKey) (f : Run → Run) : (s.updRun k f).power = s.power := rfl
@[simp] theorem updRun_fab (k : RunKey) (f : Run → Run) : (s.updRun k f).fab = s.fab := rfl
@[simp] theorem updRun_ports (k : RunKey) (f : Run → Run) : (s.updRun k f).ports = s.ports := rfl
@[simp] theorem updRun_services (k : RunKey) (f : Run → Run) : (s.updRun k f).services = s.services := rfl
@[simp] theorem updRun_mgmt (k : RunKey) (f : Run → Run) : (s.updRun k f).mgmt = s.mgmt := rfl
@[simp] theorem updRun_flash (k : RunKey) (f : Run → Run) : (s.updRun k f).flash = s.flash := rfl
@[simp] theorem updRun_fuses (k : RunKey) (f : Run → Run) : (s.updRun k f).fuses = s.fuses := rfl
@[simp] theorem updRun_badAccess (k : RunKey) (f : Run → Run) : (s.updRun k f).badAccess = s.badAccess := rfl
@[simp] theorem updRun_badOffset (k : RunKey) (f : Run → Run) : (s.updRun k f).badOffset = s.badOffset := rfl
@[simp] theorem updRun_poolNear (k : RunKey) (f : Run → Run) : (s.updRun k f).poolNear = s.poolNear := rfl
@[simp] theorem updRun_poolFar (k : RunKey) (f : Run → Run) : (s.updRun k f).poolFar = s.poolFar := rfl
@[simp] theorem updRun_bar4Near (k : RunKey) (f : Run → Run) : (s.updRun k f).bar4Near = s.bar4Near := rfl
@[simp] theorem updRun_bar4Far (k : RunKey) (f : Run → Run) : (s.updRun k f).bar4Far = s.bar4Far := rfl
@[simp] theorem updRun_bar4Log2 (k : RunKey) (f : Run → Run) : (s.updRun k f).bar4Log2 = s.bar4Log2 := rfl
@[simp] theorem updRun_msixTable (k : RunKey) (f : Run → Run) : (s.updRun k f).msixTable = s.msixTable := rfl
@[simp] theorem updRun_msixPending (k : RunKey) (f : Run → Run) : (s.updRun k f).msixPending = s.msixPending := rfl

@[simp] theorem updLink_pending (n : Nat) (f : Link → Link) : (s.updLink n f).pending = s.pending := rfl
@[simp] theorem updLink_fresh (n : Nat) (f : Link → Link) : (s.updLink n f).fresh = s.fresh := rfl
@[simp] theorem updLink_out (n : Nat) (f : Link → Link) : (s.updLink n f).out = s.out := rfl
@[simp] theorem updLink_near (n : Nat) (f : Link → Link) : (s.updLink n f).near = s.near := rfl
@[simp] theorem updLink_far (n : Nat) (f : Link → Link) : (s.updLink n f).far = s.far := rfl
@[simp] theorem updLink_host (n : Nat) (f : Link → Link) : (s.updLink n f).host = s.host := rfl
@[simp] theorem updLink_hostPages (n : Nat) (f : Link → Link) : (s.updLink n f).hostPages = s.hostPages := rfl
@[simp] theorem updLink_ats (n : Nat) (f : Link → Link) : (s.updLink n f).ats = s.ats := rfl
@[simp] theorem updLink_pris (n : Nat) (f : Link → Link) : (s.updLink n f).pris = s.pris := rfl
@[simp] theorem updLink_badLines (n : Nat) (f : Link → Link) : (s.updLink n f).badLines = s.badLines := rfl
@[simp] theorem updLink_rowErrors (n : Nat) (f : Link → Link) : (s.updLink n f).rowErrors = s.rowErrors := rfl
@[simp] theorem updLink_lastCtx (n : Nat) (f : Link → Link) : (s.updLink n f).lastCtx = s.lastCtx := rfl
@[simp] theorem updLink_ctxs (n : Nat) (f : Link → Link) : (s.updLink n f).ctxs = s.ctxs := rfl
@[simp] theorem updLink_plots (n : Nat) (f : Link → Link) : (s.updLink n f).plots = s.plots := rfl
@[simp] theorem updLink_cores (n : Nat) (f : Link → Link) : (s.updLink n f).cores = s.cores := rfl
@[simp] theorem updLink_runs (n : Nat) (f : Link → Link) : (s.updLink n f).runs = s.runs := rfl
@[simp] theorem updLink_rng (n : Nat) (f : Link → Link) : (s.updLink n f).rng = s.rng := rfl
@[simp] theorem updLink_boot (n : Nat) (f : Link → Link) : (s.updLink n f).boot = s.boot := rfl
@[simp] theorem updLink_power (n : Nat) (f : Link → Link) : (s.updLink n f).power = s.power := rfl
@[simp] theorem updLink_ports (n : Nat) (f : Link → Link) : (s.updLink n f).ports = s.ports := rfl
@[simp] theorem updLink_services (n : Nat) (f : Link → Link) : (s.updLink n f).services = s.services := rfl
@[simp] theorem updLink_mgmt (n : Nat) (f : Link → Link) : (s.updLink n f).mgmt = s.mgmt := rfl
@[simp] theorem updLink_flash (n : Nat) (f : Link → Link) : (s.updLink n f).flash = s.flash := rfl
@[simp] theorem updLink_fuses (n : Nat) (f : Link → Link) : (s.updLink n f).fuses = s.fuses := rfl
@[simp] theorem updLink_badAccess (n : Nat) (f : Link → Link) : (s.updLink n f).badAccess = s.badAccess := rfl
@[simp] theorem updLink_badOffset (n : Nat) (f : Link → Link) : (s.updLink n f).badOffset = s.badOffset := rfl
@[simp] theorem updLink_poolNear (n : Nat) (f : Link → Link) : (s.updLink n f).poolNear = s.poolNear := rfl
@[simp] theorem updLink_poolFar (n : Nat) (f : Link → Link) : (s.updLink n f).poolFar = s.poolFar := rfl
@[simp] theorem updLink_bar4Near (n : Nat) (f : Link → Link) : (s.updLink n f).bar4Near = s.bar4Near := rfl
@[simp] theorem updLink_bar4Far (n : Nat) (f : Link → Link) : (s.updLink n f).bar4Far = s.bar4Far := rfl
@[simp] theorem updLink_bar4Log2 (n : Nat) (f : Link → Link) : (s.updLink n f).bar4Log2 = s.bar4Log2 := rfl
@[simp] theorem updLink_msixTable (n : Nat) (f : Link → Link) : (s.updLink n f).msixTable = s.msixTable := rfl
@[simp] theorem updLink_msixPending (n : Nat) (f : Link → Link) : (s.updLink n f).msixPending = s.msixPending := rfl

@[simp] theorem updGroup_pending (n : Nat) (f : Group → Group) : (s.updGroup n f).pending = s.pending := rfl
@[simp] theorem updGroup_fresh (n : Nat) (f : Group → Group) : (s.updGroup n f).fresh = s.fresh := rfl
@[simp] theorem updGroup_out (n : Nat) (f : Group → Group) : (s.updGroup n f).out = s.out := rfl
@[simp] theorem updGroup_near (n : Nat) (f : Group → Group) : (s.updGroup n f).near = s.near := rfl
@[simp] theorem updGroup_far (n : Nat) (f : Group → Group) : (s.updGroup n f).far = s.far := rfl
@[simp] theorem updGroup_host (n : Nat) (f : Group → Group) : (s.updGroup n f).host = s.host := rfl
@[simp] theorem updGroup_hostPages (n : Nat) (f : Group → Group) : (s.updGroup n f).hostPages = s.hostPages := rfl
@[simp] theorem updGroup_ats (n : Nat) (f : Group → Group) : (s.updGroup n f).ats = s.ats := rfl
@[simp] theorem updGroup_pris (n : Nat) (f : Group → Group) : (s.updGroup n f).pris = s.pris := rfl
@[simp] theorem updGroup_badLines (n : Nat) (f : Group → Group) : (s.updGroup n f).badLines = s.badLines := rfl
@[simp] theorem updGroup_rowErrors (n : Nat) (f : Group → Group) : (s.updGroup n f).rowErrors = s.rowErrors := rfl
@[simp] theorem updGroup_lastCtx (n : Nat) (f : Group → Group) : (s.updGroup n f).lastCtx = s.lastCtx := rfl
@[simp] theorem updGroup_ctxs (n : Nat) (f : Group → Group) : (s.updGroup n f).ctxs = s.ctxs := rfl
@[simp] theorem updGroup_plots (n : Nat) (f : Group → Group) : (s.updGroup n f).plots = s.plots := rfl
@[simp] theorem updGroup_cores (n : Nat) (f : Group → Group) : (s.updGroup n f).cores = s.cores := rfl
@[simp] theorem updGroup_runs (n : Nat) (f : Group → Group) : (s.updGroup n f).runs = s.runs := rfl
@[simp] theorem updGroup_rng (n : Nat) (f : Group → Group) : (s.updGroup n f).rng = s.rng := rfl
@[simp] theorem updGroup_boot (n : Nat) (f : Group → Group) : (s.updGroup n f).boot = s.boot := rfl
@[simp] theorem updGroup_power (n : Nat) (f : Group → Group) : (s.updGroup n f).power = s.power := rfl
@[simp] theorem updGroup_ports (n : Nat) (f : Group → Group) : (s.updGroup n f).ports = s.ports := rfl
@[simp] theorem updGroup_services (n : Nat) (f : Group → Group) : (s.updGroup n f).services = s.services := rfl
@[simp] theorem updGroup_mgmt (n : Nat) (f : Group → Group) : (s.updGroup n f).mgmt = s.mgmt := rfl
@[simp] theorem updGroup_flash (n : Nat) (f : Group → Group) : (s.updGroup n f).flash = s.flash := rfl
@[simp] theorem updGroup_fuses (n : Nat) (f : Group → Group) : (s.updGroup n f).fuses = s.fuses := rfl
@[simp] theorem updGroup_badAccess (n : Nat) (f : Group → Group) : (s.updGroup n f).badAccess = s.badAccess := rfl
@[simp] theorem updGroup_badOffset (n : Nat) (f : Group → Group) : (s.updGroup n f).badOffset = s.badOffset := rfl
@[simp] theorem updGroup_poolNear (n : Nat) (f : Group → Group) : (s.updGroup n f).poolNear = s.poolNear := rfl
@[simp] theorem updGroup_poolFar (n : Nat) (f : Group → Group) : (s.updGroup n f).poolFar = s.poolFar := rfl
@[simp] theorem updGroup_bar4Near (n : Nat) (f : Group → Group) : (s.updGroup n f).bar4Near = s.bar4Near := rfl
@[simp] theorem updGroup_bar4Far (n : Nat) (f : Group → Group) : (s.updGroup n f).bar4Far = s.bar4Far := rfl
@[simp] theorem updGroup_bar4Log2 (n : Nat) (f : Group → Group) : (s.updGroup n f).bar4Log2 = s.bar4Log2 := rfl
@[simp] theorem updGroup_msixTable (n : Nat) (f : Group → Group) : (s.updGroup n f).msixTable = s.msixTable := rfl
@[simp] theorem updGroup_msixPending (n : Nat) (f : Group → Group) : (s.updGroup n f).msixPending = s.msixPending := rfl

@[simp] theorem updPort_pending (n : Nat) (f : Port → Port) : (s.updPort n f).pending = s.pending := rfl
@[simp] theorem updPort_fresh (n : Nat) (f : Port → Port) : (s.updPort n f).fresh = s.fresh := rfl
@[simp] theorem updPort_out (n : Nat) (f : Port → Port) : (s.updPort n f).out = s.out := rfl
@[simp] theorem updPort_near (n : Nat) (f : Port → Port) : (s.updPort n f).near = s.near := rfl
@[simp] theorem updPort_far (n : Nat) (f : Port → Port) : (s.updPort n f).far = s.far := rfl
@[simp] theorem updPort_host (n : Nat) (f : Port → Port) : (s.updPort n f).host = s.host := rfl
@[simp] theorem updPort_hostPages (n : Nat) (f : Port → Port) : (s.updPort n f).hostPages = s.hostPages := rfl
@[simp] theorem updPort_ats (n : Nat) (f : Port → Port) : (s.updPort n f).ats = s.ats := rfl
@[simp] theorem updPort_pris (n : Nat) (f : Port → Port) : (s.updPort n f).pris = s.pris := rfl
@[simp] theorem updPort_badLines (n : Nat) (f : Port → Port) : (s.updPort n f).badLines = s.badLines := rfl
@[simp] theorem updPort_rowErrors (n : Nat) (f : Port → Port) : (s.updPort n f).rowErrors = s.rowErrors := rfl
@[simp] theorem updPort_lastCtx (n : Nat) (f : Port → Port) : (s.updPort n f).lastCtx = s.lastCtx := rfl
@[simp] theorem updPort_ctxs (n : Nat) (f : Port → Port) : (s.updPort n f).ctxs = s.ctxs := rfl
@[simp] theorem updPort_plots (n : Nat) (f : Port → Port) : (s.updPort n f).plots = s.plots := rfl
@[simp] theorem updPort_cores (n : Nat) (f : Port → Port) : (s.updPort n f).cores = s.cores := rfl
@[simp] theorem updPort_runs (n : Nat) (f : Port → Port) : (s.updPort n f).runs = s.runs := rfl
@[simp] theorem updPort_rng (n : Nat) (f : Port → Port) : (s.updPort n f).rng = s.rng := rfl
@[simp] theorem updPort_boot (n : Nat) (f : Port → Port) : (s.updPort n f).boot = s.boot := rfl
@[simp] theorem updPort_power (n : Nat) (f : Port → Port) : (s.updPort n f).power = s.power := rfl
@[simp] theorem updPort_fab (n : Nat) (f : Port → Port) : (s.updPort n f).fab = s.fab := rfl
@[simp] theorem updPort_services (n : Nat) (f : Port → Port) : (s.updPort n f).services = s.services := rfl
@[simp] theorem updPort_mgmt (n : Nat) (f : Port → Port) : (s.updPort n f).mgmt = s.mgmt := rfl
@[simp] theorem updPort_flash (n : Nat) (f : Port → Port) : (s.updPort n f).flash = s.flash := rfl
@[simp] theorem updPort_fuses (n : Nat) (f : Port → Port) : (s.updPort n f).fuses = s.fuses := rfl
@[simp] theorem updPort_badAccess (n : Nat) (f : Port → Port) : (s.updPort n f).badAccess = s.badAccess := rfl
@[simp] theorem updPort_badOffset (n : Nat) (f : Port → Port) : (s.updPort n f).badOffset = s.badOffset := rfl
@[simp] theorem updPort_poolNear (n : Nat) (f : Port → Port) : (s.updPort n f).poolNear = s.poolNear := rfl
@[simp] theorem updPort_poolFar (n : Nat) (f : Port → Port) : (s.updPort n f).poolFar = s.poolFar := rfl
@[simp] theorem updPort_bar4Near (n : Nat) (f : Port → Port) : (s.updPort n f).bar4Near = s.bar4Near := rfl
@[simp] theorem updPort_bar4Far (n : Nat) (f : Port → Port) : (s.updPort n f).bar4Far = s.bar4Far := rfl
@[simp] theorem updPort_bar4Log2 (n : Nat) (f : Port → Port) : (s.updPort n f).bar4Log2 = s.bar4Log2 := rfl
@[simp] theorem updPort_msixTable (n : Nat) (f : Port → Port) : (s.updPort n f).msixTable = s.msixTable := rfl
@[simp] theorem updPort_msixPending (n : Nat) (f : Port → Port) : (s.updPort n f).msixPending = s.msixPending := rfl

@[simp] theorem updSvc_pending (n : Nat) (f : Service → Service) : (s.updSvc n f).pending = s.pending := rfl
@[simp] theorem updSvc_fresh (n : Nat) (f : Service → Service) : (s.updSvc n f).fresh = s.fresh := rfl
@[simp] theorem updSvc_out (n : Nat) (f : Service → Service) : (s.updSvc n f).out = s.out := rfl
@[simp] theorem updSvc_near (n : Nat) (f : Service → Service) : (s.updSvc n f).near = s.near := rfl
@[simp] theorem updSvc_far (n : Nat) (f : Service → Service) : (s.updSvc n f).far = s.far := rfl
@[simp] theorem updSvc_host (n : Nat) (f : Service → Service) : (s.updSvc n f).host = s.host := rfl
@[simp] theorem updSvc_hostPages (n : Nat) (f : Service → Service) : (s.updSvc n f).hostPages = s.hostPages := rfl
@[simp] theorem updSvc_ats (n : Nat) (f : Service → Service) : (s.updSvc n f).ats = s.ats := rfl
@[simp] theorem updSvc_pris (n : Nat) (f : Service → Service) : (s.updSvc n f).pris = s.pris := rfl
@[simp] theorem updSvc_badLines (n : Nat) (f : Service → Service) : (s.updSvc n f).badLines = s.badLines := rfl
@[simp] theorem updSvc_rowErrors (n : Nat) (f : Service → Service) : (s.updSvc n f).rowErrors = s.rowErrors := rfl
@[simp] theorem updSvc_lastCtx (n : Nat) (f : Service → Service) : (s.updSvc n f).lastCtx = s.lastCtx := rfl
@[simp] theorem updSvc_ctxs (n : Nat) (f : Service → Service) : (s.updSvc n f).ctxs = s.ctxs := rfl
@[simp] theorem updSvc_plots (n : Nat) (f : Service → Service) : (s.updSvc n f).plots = s.plots := rfl
@[simp] theorem updSvc_cores (n : Nat) (f : Service → Service) : (s.updSvc n f).cores = s.cores := rfl
@[simp] theorem updSvc_runs (n : Nat) (f : Service → Service) : (s.updSvc n f).runs = s.runs := rfl
@[simp] theorem updSvc_rng (n : Nat) (f : Service → Service) : (s.updSvc n f).rng = s.rng := rfl
@[simp] theorem updSvc_boot (n : Nat) (f : Service → Service) : (s.updSvc n f).boot = s.boot := rfl
@[simp] theorem updSvc_power (n : Nat) (f : Service → Service) : (s.updSvc n f).power = s.power := rfl
@[simp] theorem updSvc_fab (n : Nat) (f : Service → Service) : (s.updSvc n f).fab = s.fab := rfl
@[simp] theorem updSvc_ports (n : Nat) (f : Service → Service) : (s.updSvc n f).ports = s.ports := rfl
@[simp] theorem updSvc_mgmt (n : Nat) (f : Service → Service) : (s.updSvc n f).mgmt = s.mgmt := rfl
@[simp] theorem updSvc_flash (n : Nat) (f : Service → Service) : (s.updSvc n f).flash = s.flash := rfl
@[simp] theorem updSvc_fuses (n : Nat) (f : Service → Service) : (s.updSvc n f).fuses = s.fuses := rfl
@[simp] theorem updSvc_badAccess (n : Nat) (f : Service → Service) : (s.updSvc n f).badAccess = s.badAccess := rfl
@[simp] theorem updSvc_badOffset (n : Nat) (f : Service → Service) : (s.updSvc n f).badOffset = s.badOffset := rfl
@[simp] theorem updSvc_poolNear (n : Nat) (f : Service → Service) : (s.updSvc n f).poolNear = s.poolNear := rfl
@[simp] theorem updSvc_poolFar (n : Nat) (f : Service → Service) : (s.updSvc n f).poolFar = s.poolFar := rfl
@[simp] theorem updSvc_bar4Near (n : Nat) (f : Service → Service) : (s.updSvc n f).bar4Near = s.bar4Near := rfl
@[simp] theorem updSvc_bar4Far (n : Nat) (f : Service → Service) : (s.updSvc n f).bar4Far = s.bar4Far := rfl
@[simp] theorem updSvc_bar4Log2 (n : Nat) (f : Service → Service) : (s.updSvc n f).bar4Log2 = s.bar4Log2 := rfl
@[simp] theorem updSvc_msixTable (n : Nat) (f : Service → Service) : (s.updSvc n f).msixTable = s.msixTable := rfl
@[simp] theorem updSvc_msixPending (n : Nat) (f : Service → Service) : (s.updSvc n f).msixPending = s.msixPending := rfl

@[simp] theorem emit_pending (o : Out) : (s.emit o).pending = s.pending := rfl
@[simp] theorem emit_fresh (o : Out) : (s.emit o).fresh = s.fresh := rfl
@[simp] theorem emit_near (o : Out) : (s.emit o).near = s.near := rfl
@[simp] theorem emit_far (o : Out) : (s.emit o).far = s.far := rfl
@[simp] theorem emit_host (o : Out) : (s.emit o).host = s.host := rfl
@[simp] theorem emit_hostPages (o : Out) : (s.emit o).hostPages = s.hostPages := rfl
@[simp] theorem emit_ats (o : Out) : (s.emit o).ats = s.ats := rfl
@[simp] theorem emit_pris (o : Out) : (s.emit o).pris = s.pris := rfl
@[simp] theorem emit_badLines (o : Out) : (s.emit o).badLines = s.badLines := rfl
@[simp] theorem emit_rowErrors (o : Out) : (s.emit o).rowErrors = s.rowErrors := rfl
@[simp] theorem emit_lastCtx (o : Out) : (s.emit o).lastCtx = s.lastCtx := rfl
@[simp] theorem emit_ctxs (o : Out) : (s.emit o).ctxs = s.ctxs := rfl
@[simp] theorem emit_plots (o : Out) : (s.emit o).plots = s.plots := rfl
@[simp] theorem emit_cores (o : Out) : (s.emit o).cores = s.cores := rfl
@[simp] theorem emit_runs (o : Out) : (s.emit o).runs = s.runs := rfl
@[simp] theorem emit_rng (o : Out) : (s.emit o).rng = s.rng := rfl
@[simp] theorem emit_boot (o : Out) : (s.emit o).boot = s.boot := rfl
@[simp] theorem emit_power (o : Out) : (s.emit o).power = s.power := rfl
@[simp] theorem emit_fab (o : Out) : (s.emit o).fab = s.fab := rfl
@[simp] theorem emit_ports (o : Out) : (s.emit o).ports = s.ports := rfl
@[simp] theorem emit_services (o : Out) : (s.emit o).services = s.services := rfl
@[simp] theorem emit_mgmt (o : Out) : (s.emit o).mgmt = s.mgmt := rfl
@[simp] theorem emit_flash (o : Out) : (s.emit o).flash = s.flash := rfl
@[simp] theorem emit_fuses (o : Out) : (s.emit o).fuses = s.fuses := rfl
@[simp] theorem emit_badAccess (o : Out) : (s.emit o).badAccess = s.badAccess := rfl
@[simp] theorem emit_badOffset (o : Out) : (s.emit o).badOffset = s.badOffset := rfl
@[simp] theorem emit_poolNear (o : Out) : (s.emit o).poolNear = s.poolNear := rfl
@[simp] theorem emit_poolFar (o : Out) : (s.emit o).poolFar = s.poolFar := rfl
@[simp] theorem emit_bar4Near (o : Out) : (s.emit o).bar4Near = s.bar4Near := rfl
@[simp] theorem emit_bar4Far (o : Out) : (s.emit o).bar4Far = s.bar4Far := rfl
@[simp] theorem emit_bar4Log2 (o : Out) : (s.emit o).bar4Log2 = s.bar4Log2 := rfl
@[simp] theorem emit_msixTable (o : Out) : (s.emit o).msixTable = s.msixTable := rfl
@[simp] theorem emit_msixPending (o : Out) : (s.emit o).msixPending = s.msixPending := rfl

@[simp] theorem tick_pending : (s.tick).pending = s.pending := rfl
@[simp] theorem tick_out : (s.tick).out = s.out := rfl
@[simp] theorem tick_near : (s.tick).near = s.near := rfl
@[simp] theorem tick_far : (s.tick).far = s.far := rfl
@[simp] theorem tick_host : (s.tick).host = s.host := rfl
@[simp] theorem tick_hostPages : (s.tick).hostPages = s.hostPages := rfl
@[simp] theorem tick_ats : (s.tick).ats = s.ats := rfl
@[simp] theorem tick_pris : (s.tick).pris = s.pris := rfl
@[simp] theorem tick_badLines : (s.tick).badLines = s.badLines := rfl
@[simp] theorem tick_rowErrors : (s.tick).rowErrors = s.rowErrors := rfl
@[simp] theorem tick_lastCtx : (s.tick).lastCtx = s.lastCtx := rfl
@[simp] theorem tick_ctxs : (s.tick).ctxs = s.ctxs := rfl
@[simp] theorem tick_plots : (s.tick).plots = s.plots := rfl
@[simp] theorem tick_cores : (s.tick).cores = s.cores := rfl
@[simp] theorem tick_runs : (s.tick).runs = s.runs := rfl
@[simp] theorem tick_rng : (s.tick).rng = s.rng := rfl
@[simp] theorem tick_boot : (s.tick).boot = s.boot := rfl
@[simp] theorem tick_power : (s.tick).power = s.power := rfl
@[simp] theorem tick_fab : (s.tick).fab = s.fab := rfl
@[simp] theorem tick_ports : (s.tick).ports = s.ports := rfl
@[simp] theorem tick_services : (s.tick).services = s.services := rfl
@[simp] theorem tick_mgmt : (s.tick).mgmt = s.mgmt := rfl
@[simp] theorem tick_flash : (s.tick).flash = s.flash := rfl
@[simp] theorem tick_fuses : (s.tick).fuses = s.fuses := rfl
@[simp] theorem tick_badAccess : (s.tick).badAccess = s.badAccess := rfl
@[simp] theorem tick_badOffset : (s.tick).badOffset = s.badOffset := rfl
@[simp] theorem tick_poolNear : (s.tick).poolNear = s.poolNear := rfl
@[simp] theorem tick_poolFar : (s.tick).poolFar = s.poolFar := rfl
@[simp] theorem tick_bar4Near : (s.tick).bar4Near = s.bar4Near := rfl
@[simp] theorem tick_bar4Far : (s.tick).bar4Far = s.bar4Far := rfl
@[simp] theorem tick_bar4Log2 : (s.tick).bar4Log2 = s.bar4Log2 := rfl
@[simp] theorem tick_msixTable : (s.tick).msixTable = s.msixTable := rfl
@[simp] theorem tick_msixPending : (s.tick).msixPending = s.msixPending := rfl

/-! ### Accessors that an update leaves alone -/

@[simp] theorem setCore_ctxAt (n : Nat) (c : Core) (m : Nat) : (s.setCore n c).ctxAt m = s.ctxAt m := rfl
@[simp] theorem setCore_plotAt (n : Nat) (c : Core) (m : Nat) : (s.setCore n c).plotAt m = s.plotAt m := rfl
@[simp] theorem setCore_linkAt (n : Nat) (c : Core) (m : Nat) : (s.setCore n c).linkAt m = s.linkAt m := rfl
@[simp] theorem setCore_groupAt (n : Nat) (c : Core) (m : Nat) : (s.setCore n c).groupAt m = s.groupAt m := rfl
@[simp] theorem setCore_portAt (n : Nat) (c : Core) (m : Nat) : (s.setCore n c).portAt m = s.portAt m := rfl
@[simp] theorem setCore_svcAt (n : Nat) (c : Core) (m : Nat) : (s.setCore n c).svcAt m = s.svcAt m := rfl
@[simp] theorem setCore_findRun (n : Nat) (c : Core) (k : RunKey) : (s.setCore n c).findRun k = s.findRun k := rfl
@[simp] theorem setCore_ringAt (n : Nat) (c : Core) (a b : Nat) : (s.setCore n c).ringAt a b = s.ringAt a b := rfl

@[simp] theorem updCore_ctxAt (n : Nat) (f : Core → Core) (m : Nat) : (s.updCore n f).ctxAt m = s.ctxAt m := rfl
@[simp] theorem updCore_plotAt (n : Nat) (f : Core → Core) (m : Nat) : (s.updCore n f).plotAt m = s.plotAt m := rfl
@[simp] theorem updCore_linkAt (n : Nat) (f : Core → Core) (m : Nat) : (s.updCore n f).linkAt m = s.linkAt m := rfl
@[simp] theorem updCore_groupAt (n : Nat) (f : Core → Core) (m : Nat) : (s.updCore n f).groupAt m = s.groupAt m := rfl
@[simp] theorem updCore_portAt (n : Nat) (f : Core → Core) (m : Nat) : (s.updCore n f).portAt m = s.portAt m := rfl
@[simp] theorem updCore_svcAt (n : Nat) (f : Core → Core) (m : Nat) : (s.updCore n f).svcAt m = s.svcAt m := rfl
@[simp] theorem updCore_findRun (n : Nat) (f : Core → Core) (k : RunKey) : (s.updCore n f).findRun k = s.findRun k := rfl
@[simp] theorem updCore_ringAt (n : Nat) (f : Core → Core) (a b : Nat) : (s.updCore n f).ringAt a b = s.ringAt a b := rfl

@[simp] theorem updWork_ctxAt (n : Nat) (f : Work → Work) (m : Nat) : (s.updWork n f).ctxAt m = s.ctxAt m := rfl
@[simp] theorem updWork_plotAt (n : Nat) (f : Work → Work) (m : Nat) : (s.updWork n f).plotAt m = s.plotAt m := rfl
@[simp] theorem updWork_linkAt (n : Nat) (f : Work → Work) (m : Nat) : (s.updWork n f).linkAt m = s.linkAt m := rfl
@[simp] theorem updWork_groupAt (n : Nat) (f : Work → Work) (m : Nat) : (s.updWork n f).groupAt m = s.groupAt m := rfl
@[simp] theorem updWork_portAt (n : Nat) (f : Work → Work) (m : Nat) : (s.updWork n f).portAt m = s.portAt m := rfl
@[simp] theorem updWork_svcAt (n : Nat) (f : Work → Work) (m : Nat) : (s.updWork n f).svcAt m = s.svcAt m := rfl
@[simp] theorem updWork_findRun (n : Nat) (f : Work → Work) (k : RunKey) : (s.updWork n f).findRun k = s.findRun k := rfl
@[simp] theorem updWork_ringAt (n : Nat) (f : Work → Work) (a b : Nat) : (s.updWork n f).ringAt a b = s.ringAt a b := rfl

@[simp] theorem setHart_ctxAt (h : Hart) (c : CCore) (m : Nat) : (s.setHart h c).ctxAt m = s.ctxAt m := rfl
@[simp] theorem setHart_plotAt (h : Hart) (c : CCore) (m : Nat) : (s.setHart h c).plotAt m = s.plotAt m := rfl
@[simp] theorem setHart_linkAt (h : Hart) (c : CCore) (m : Nat) : (s.setHart h c).linkAt m = s.linkAt m := rfl
@[simp] theorem setHart_groupAt (h : Hart) (c : CCore) (m : Nat) : (s.setHart h c).groupAt m = s.groupAt m := rfl
@[simp] theorem setHart_portAt (h : Hart) (c : CCore) (m : Nat) : (s.setHart h c).portAt m = s.portAt m := rfl
@[simp] theorem setHart_svcAt (h : Hart) (c : CCore) (m : Nat) : (s.setHart h c).svcAt m = s.svcAt m := rfl
@[simp] theorem setHart_findRun (h : Hart) (c : CCore) (k : RunKey) : (s.setHart h c).findRun k = s.findRun k := rfl
@[simp] theorem setHart_ringAt (h : Hart) (c : CCore) (a b : Nat) : (s.setHart h c).ringAt a b = s.ringAt a b := rfl

@[simp] theorem updHart_ctxAt (h : Hart) (f : CCore → CCore) (m : Nat) : (s.updHart h f).ctxAt m = s.ctxAt m := rfl
@[simp] theorem updHart_plotAt (h : Hart) (f : CCore → CCore) (m : Nat) : (s.updHart h f).plotAt m = s.plotAt m := rfl
@[simp] theorem updHart_linkAt (h : Hart) (f : CCore → CCore) (m : Nat) : (s.updHart h f).linkAt m = s.linkAt m := rfl
@[simp] theorem updHart_groupAt (h : Hart) (f : CCore → CCore) (m : Nat) : (s.updHart h f).groupAt m = s.groupAt m := rfl
@[simp] theorem updHart_portAt (h : Hart) (f : CCore → CCore) (m : Nat) : (s.updHart h f).portAt m = s.portAt m := rfl
@[simp] theorem updHart_svcAt (h : Hart) (f : CCore → CCore) (m : Nat) : (s.updHart h f).svcAt m = s.svcAt m := rfl
@[simp] theorem updHart_findRun (h : Hart) (f : CCore → CCore) (k : RunKey) : (s.updHart h f).findRun k = s.findRun k := rfl
@[simp] theorem updHart_ringAt (h : Hart) (f : CCore → CCore) (a b : Nat) : (s.updHart h f).ringAt a b = s.ringAt a b := rfl

@[simp] theorem setCtx_coreAt (n : Nat) (c : Ctx) (m : Nat) : (s.setCtx n c).coreAt m = s.coreAt m := rfl
@[simp] theorem setCtx_plotAt (n : Nat) (c : Ctx) (m : Nat) : (s.setCtx n c).plotAt m = s.plotAt m := rfl
@[simp] theorem setCtx_linkAt (n : Nat) (c : Ctx) (m : Nat) : (s.setCtx n c).linkAt m = s.linkAt m := rfl
@[simp] theorem setCtx_groupAt (n : Nat) (c : Ctx) (m : Nat) : (s.setCtx n c).groupAt m = s.groupAt m := rfl
@[simp] theorem setCtx_portAt (n : Nat) (c : Ctx) (m : Nat) : (s.setCtx n c).portAt m = s.portAt m := rfl
@[simp] theorem setCtx_svcAt (n : Nat) (c : Ctx) (m : Nat) : (s.setCtx n c).svcAt m = s.svcAt m := rfl
@[simp] theorem setCtx_findRun (n : Nat) (c : Ctx) (k : RunKey) : (s.setCtx n c).findRun k = s.findRun k := rfl
@[simp] theorem setCtx_workAt (n : Nat) (c : Ctx) (m : Nat) : (s.setCtx n c).workAt m = s.workAt m := rfl
@[simp] theorem setCtx_hart (n : Nat) (c : Ctx) (x : Hart) : (s.setCtx n c).hart x = s.hart x := rfl

@[simp] theorem updCtx_coreAt (n : Nat) (f : Ctx → Ctx) (m : Nat) : (s.updCtx n f).coreAt m = s.coreAt m := rfl
@[simp] theorem updCtx_plotAt (n : Nat) (f : Ctx → Ctx) (m : Nat) : (s.updCtx n f).plotAt m = s.plotAt m := rfl
@[simp] theorem updCtx_linkAt (n : Nat) (f : Ctx → Ctx) (m : Nat) : (s.updCtx n f).linkAt m = s.linkAt m := rfl
@[simp] theorem updCtx_groupAt (n : Nat) (f : Ctx → Ctx) (m : Nat) : (s.updCtx n f).groupAt m = s.groupAt m := rfl
@[simp] theorem updCtx_portAt (n : Nat) (f : Ctx → Ctx) (m : Nat) : (s.updCtx n f).portAt m = s.portAt m := rfl
@[simp] theorem updCtx_svcAt (n : Nat) (f : Ctx → Ctx) (m : Nat) : (s.updCtx n f).svcAt m = s.svcAt m := rfl
@[simp] theorem updCtx_findRun (n : Nat) (f : Ctx → Ctx) (k : RunKey) : (s.updCtx n f).findRun k = s.findRun k := rfl
@[simp] theorem updCtx_workAt (n : Nat) (f : Ctx → Ctx) (m : Nat) : (s.updCtx n f).workAt m = s.workAt m := rfl
@[simp] theorem updCtx_hart (n : Nat) (f : Ctx → Ctx) (x : Hart) : (s.updCtx n f).hart x = s.hart x := rfl

@[simp] theorem updRing_coreAt (c r : Nat) (f : Ring → Ring) (m : Nat) : (s.updRing c r f).coreAt m = s.coreAt m := rfl
@[simp] theorem updRing_plotAt (c r : Nat) (f : Ring → Ring) (m : Nat) : (s.updRing c r f).plotAt m = s.plotAt m := rfl
@[simp] theorem updRing_linkAt (c r : Nat) (f : Ring → Ring) (m : Nat) : (s.updRing c r f).linkAt m = s.linkAt m := rfl
@[simp] theorem updRing_groupAt (c r : Nat) (f : Ring → Ring) (m : Nat) : (s.updRing c r f).groupAt m = s.groupAt m := rfl
@[simp] theorem updRing_portAt (c r : Nat) (f : Ring → Ring) (m : Nat) : (s.updRing c r f).portAt m = s.portAt m := rfl
@[simp] theorem updRing_svcAt (c r : Nat) (f : Ring → Ring) (m : Nat) : (s.updRing c r f).svcAt m = s.svcAt m := rfl
@[simp] theorem updRing_findRun (c r : Nat) (f : Ring → Ring) (k : RunKey) : (s.updRing c r f).findRun k = s.findRun k := rfl
@[simp] theorem updRing_workAt (c r : Nat) (f : Ring → Ring) (m : Nat) : (s.updRing c r f).workAt m = s.workAt m := rfl
@[simp] theorem updRing_hart (c r : Nat) (f : Ring → Ring) (x : Hart) : (s.updRing c r f).hart x = s.hart x := rfl

@[simp] theorem setPlot_coreAt (n : Nat) (p : Plot) (m : Nat) : (s.setPlot n p).coreAt m = s.coreAt m := rfl
@[simp] theorem setPlot_ctxAt (n : Nat) (p : Plot) (m : Nat) : (s.setPlot n p).ctxAt m = s.ctxAt m := rfl
@[simp] theorem setPlot_linkAt (n : Nat) (p : Plot) (m : Nat) : (s.setPlot n p).linkAt m = s.linkAt m := rfl
@[simp] theorem setPlot_groupAt (n : Nat) (p : Plot) (m : Nat) : (s.setPlot n p).groupAt m = s.groupAt m := rfl
@[simp] theorem setPlot_portAt (n : Nat) (p : Plot) (m : Nat) : (s.setPlot n p).portAt m = s.portAt m := rfl
@[simp] theorem setPlot_svcAt (n : Nat) (p : Plot) (m : Nat) : (s.setPlot n p).svcAt m = s.svcAt m := rfl
@[simp] theorem setPlot_findRun (n : Nat) (p : Plot) (k : RunKey) : (s.setPlot n p).findRun k = s.findRun k := rfl
@[simp] theorem setPlot_ringAt (n : Nat) (p : Plot) (a b : Nat) : (s.setPlot n p).ringAt a b = s.ringAt a b := rfl
@[simp] theorem setPlot_workAt (n : Nat) (p : Plot) (m : Nat) : (s.setPlot n p).workAt m = s.workAt m := rfl
@[simp] theorem setPlot_hart (n : Nat) (p : Plot) (x : Hart) : (s.setPlot n p).hart x = s.hart x := rfl

@[simp] theorem updPlot_coreAt (n : Nat) (f : Plot → Plot) (m : Nat) : (s.updPlot n f).coreAt m = s.coreAt m := rfl
@[simp] theorem updPlot_ctxAt (n : Nat) (f : Plot → Plot) (m : Nat) : (s.updPlot n f).ctxAt m = s.ctxAt m := rfl
@[simp] theorem updPlot_linkAt (n : Nat) (f : Plot → Plot) (m : Nat) : (s.updPlot n f).linkAt m = s.linkAt m := rfl
@[simp] theorem updPlot_groupAt (n : Nat) (f : Plot → Plot) (m : Nat) : (s.updPlot n f).groupAt m = s.groupAt m := rfl
@[simp] theorem updPlot_portAt (n : Nat) (f : Plot → Plot) (m : Nat) : (s.updPlot n f).portAt m = s.portAt m := rfl
@[simp] theorem updPlot_svcAt (n : Nat) (f : Plot → Plot) (m : Nat) : (s.updPlot n f).svcAt m = s.svcAt m := rfl
@[simp] theorem updPlot_findRun (n : Nat) (f : Plot → Plot) (k : RunKey) : (s.updPlot n f).findRun k = s.findRun k := rfl
@[simp] theorem updPlot_ringAt (n : Nat) (f : Plot → Plot) (a b : Nat) : (s.updPlot n f).ringAt a b = s.ringAt a b := rfl
@[simp] theorem updPlot_workAt (n : Nat) (f : Plot → Plot) (m : Nat) : (s.updPlot n f).workAt m = s.workAt m := rfl
@[simp] theorem updPlot_hart (n : Nat) (f : Plot → Plot) (x : Hart) : (s.updPlot n f).hart x = s.hart x := rfl

@[simp] theorem updRun_coreAt (k : RunKey) (f : Run → Run) (m : Nat) : (s.updRun k f).coreAt m = s.coreAt m := rfl
@[simp] theorem updRun_ctxAt (k : RunKey) (f : Run → Run) (m : Nat) : (s.updRun k f).ctxAt m = s.ctxAt m := rfl
@[simp] theorem updRun_plotAt (k : RunKey) (f : Run → Run) (m : Nat) : (s.updRun k f).plotAt m = s.plotAt m := rfl
@[simp] theorem updRun_linkAt (k : RunKey) (f : Run → Run) (m : Nat) : (s.updRun k f).linkAt m = s.linkAt m := rfl
@[simp] theorem updRun_groupAt (k : RunKey) (f : Run → Run) (m : Nat) : (s.updRun k f).groupAt m = s.groupAt m := rfl
@[simp] theorem updRun_portAt (k : RunKey) (f : Run → Run) (m : Nat) : (s.updRun k f).portAt m = s.portAt m := rfl
@[simp] theorem updRun_svcAt (k : RunKey) (f : Run → Run) (m : Nat) : (s.updRun k f).svcAt m = s.svcAt m := rfl
@[simp] theorem updRun_ringAt (k : RunKey) (f : Run → Run) (a b : Nat) : (s.updRun k f).ringAt a b = s.ringAt a b := rfl
@[simp] theorem updRun_workAt (k : RunKey) (f : Run → Run) (m : Nat) : (s.updRun k f).workAt m = s.workAt m := rfl
@[simp] theorem updRun_hart (k : RunKey) (f : Run → Run) (x : Hart) : (s.updRun k f).hart x = s.hart x := rfl

@[simp] theorem updLink_coreAt (n : Nat) (f : Link → Link) (m : Nat) : (s.updLink n f).coreAt m = s.coreAt m := rfl
@[simp] theorem updLink_ctxAt (n : Nat) (f : Link → Link) (m : Nat) : (s.updLink n f).ctxAt m = s.ctxAt m := rfl
@[simp] theorem updLink_plotAt (n : Nat) (f : Link → Link) (m : Nat) : (s.updLink n f).plotAt m = s.plotAt m := rfl
@[simp] theorem updLink_portAt (n : Nat) (f : Link → Link) (m : Nat) : (s.updLink n f).portAt m = s.portAt m := rfl
@[simp] theorem updLink_svcAt (n : Nat) (f : Link → Link) (m : Nat) : (s.updLink n f).svcAt m = s.svcAt m := rfl
@[simp] theorem updLink_findRun (n : Nat) (f : Link → Link) (k : RunKey) : (s.updLink n f).findRun k = s.findRun k := rfl
@[simp] theorem updLink_ringAt (n : Nat) (f : Link → Link) (a b : Nat) : (s.updLink n f).ringAt a b = s.ringAt a b := rfl
@[simp] theorem updLink_workAt (n : Nat) (f : Link → Link) (m : Nat) : (s.updLink n f).workAt m = s.workAt m := rfl
@[simp] theorem updLink_hart (n : Nat) (f : Link → Link) (x : Hart) : (s.updLink n f).hart x = s.hart x := rfl

@[simp] theorem updGroup_coreAt (n : Nat) (f : Group → Group) (m : Nat) : (s.updGroup n f).coreAt m = s.coreAt m := rfl
@[simp] theorem updGroup_ctxAt (n : Nat) (f : Group → Group) (m : Nat) : (s.updGroup n f).ctxAt m = s.ctxAt m := rfl
@[simp] theorem updGroup_plotAt (n : Nat) (f : Group → Group) (m : Nat) : (s.updGroup n f).plotAt m = s.plotAt m := rfl
@[simp] theorem updGroup_portAt (n : Nat) (f : Group → Group) (m : Nat) : (s.updGroup n f).portAt m = s.portAt m := rfl
@[simp] theorem updGroup_svcAt (n : Nat) (f : Group → Group) (m : Nat) : (s.updGroup n f).svcAt m = s.svcAt m := rfl
@[simp] theorem updGroup_findRun (n : Nat) (f : Group → Group) (k : RunKey) : (s.updGroup n f).findRun k = s.findRun k := rfl
@[simp] theorem updGroup_ringAt (n : Nat) (f : Group → Group) (a b : Nat) : (s.updGroup n f).ringAt a b = s.ringAt a b := rfl
@[simp] theorem updGroup_workAt (n : Nat) (f : Group → Group) (m : Nat) : (s.updGroup n f).workAt m = s.workAt m := rfl
@[simp] theorem updGroup_hart (n : Nat) (f : Group → Group) (x : Hart) : (s.updGroup n f).hart x = s.hart x := rfl

@[simp] theorem updPort_coreAt (n : Nat) (f : Port → Port) (m : Nat) : (s.updPort n f).coreAt m = s.coreAt m := rfl
@[simp] theorem updPort_ctxAt (n : Nat) (f : Port → Port) (m : Nat) : (s.updPort n f).ctxAt m = s.ctxAt m := rfl
@[simp] theorem updPort_plotAt (n : Nat) (f : Port → Port) (m : Nat) : (s.updPort n f).plotAt m = s.plotAt m := rfl
@[simp] theorem updPort_linkAt (n : Nat) (f : Port → Port) (m : Nat) : (s.updPort n f).linkAt m = s.linkAt m := rfl
@[simp] theorem updPort_groupAt (n : Nat) (f : Port → Port) (m : Nat) : (s.updPort n f).groupAt m = s.groupAt m := rfl
@[simp] theorem updPort_svcAt (n : Nat) (f : Port → Port) (m : Nat) : (s.updPort n f).svcAt m = s.svcAt m := rfl
@[simp] theorem updPort_findRun (n : Nat) (f : Port → Port) (k : RunKey) : (s.updPort n f).findRun k = s.findRun k := rfl
@[simp] theorem updPort_ringAt (n : Nat) (f : Port → Port) (a b : Nat) : (s.updPort n f).ringAt a b = s.ringAt a b := rfl
@[simp] theorem updPort_workAt (n : Nat) (f : Port → Port) (m : Nat) : (s.updPort n f).workAt m = s.workAt m := rfl
@[simp] theorem updPort_hart (n : Nat) (f : Port → Port) (x : Hart) : (s.updPort n f).hart x = s.hart x := rfl

@[simp] theorem updSvc_coreAt (n : Nat) (f : Service → Service) (m : Nat) : (s.updSvc n f).coreAt m = s.coreAt m := rfl
@[simp] theorem updSvc_ctxAt (n : Nat) (f : Service → Service) (m : Nat) : (s.updSvc n f).ctxAt m = s.ctxAt m := rfl
@[simp] theorem updSvc_plotAt (n : Nat) (f : Service → Service) (m : Nat) : (s.updSvc n f).plotAt m = s.plotAt m := rfl
@[simp] theorem updSvc_linkAt (n : Nat) (f : Service → Service) (m : Nat) : (s.updSvc n f).linkAt m = s.linkAt m := rfl
@[simp] theorem updSvc_groupAt (n : Nat) (f : Service → Service) (m : Nat) : (s.updSvc n f).groupAt m = s.groupAt m := rfl
@[simp] theorem updSvc_portAt (n : Nat) (f : Service → Service) (m : Nat) : (s.updSvc n f).portAt m = s.portAt m := rfl
@[simp] theorem updSvc_findRun (n : Nat) (f : Service → Service) (k : RunKey) : (s.updSvc n f).findRun k = s.findRun k := rfl
@[simp] theorem updSvc_ringAt (n : Nat) (f : Service → Service) (a b : Nat) : (s.updSvc n f).ringAt a b = s.ringAt a b := rfl
@[simp] theorem updSvc_workAt (n : Nat) (f : Service → Service) (m : Nat) : (s.updSvc n f).workAt m = s.workAt m := rfl
@[simp] theorem updSvc_hart (n : Nat) (f : Service → Service) (x : Hart) : (s.updSvc n f).hart x = s.hart x := rfl

@[simp] theorem emit_coreAt (o : Out) (m : Nat) : (s.emit o).coreAt m = s.coreAt m := rfl
@[simp] theorem emit_ctxAt (o : Out) (m : Nat) : (s.emit o).ctxAt m = s.ctxAt m := rfl
@[simp] theorem emit_plotAt (o : Out) (m : Nat) : (s.emit o).plotAt m = s.plotAt m := rfl
@[simp] theorem emit_linkAt (o : Out) (m : Nat) : (s.emit o).linkAt m = s.linkAt m := rfl
@[simp] theorem emit_groupAt (o : Out) (m : Nat) : (s.emit o).groupAt m = s.groupAt m := rfl
@[simp] theorem emit_portAt (o : Out) (m : Nat) : (s.emit o).portAt m = s.portAt m := rfl
@[simp] theorem emit_svcAt (o : Out) (m : Nat) : (s.emit o).svcAt m = s.svcAt m := rfl
@[simp] theorem emit_findRun (o : Out) (k : RunKey) : (s.emit o).findRun k = s.findRun k := rfl
@[simp] theorem emit_ringAt (o : Out) (a b : Nat) : (s.emit o).ringAt a b = s.ringAt a b := rfl
@[simp] theorem emit_workAt (o : Out) (m : Nat) : (s.emit o).workAt m = s.workAt m := rfl
@[simp] theorem emit_hart (o : Out) (x : Hart) : (s.emit o).hart x = s.hart x := rfl

@[simp] theorem tick_coreAt (m : Nat) : (s.tick).coreAt m = s.coreAt m := rfl
@[simp] theorem tick_ctxAt (m : Nat) : (s.tick).ctxAt m = s.ctxAt m := rfl
@[simp] theorem tick_plotAt (m : Nat) : (s.tick).plotAt m = s.plotAt m := rfl
@[simp] theorem tick_linkAt (m : Nat) : (s.tick).linkAt m = s.linkAt m := rfl
@[simp] theorem tick_groupAt (m : Nat) : (s.tick).groupAt m = s.groupAt m := rfl
@[simp] theorem tick_portAt (m : Nat) : (s.tick).portAt m = s.portAt m := rfl
@[simp] theorem tick_svcAt (m : Nat) : (s.tick).svcAt m = s.svcAt m := rfl
@[simp] theorem tick_findRun (k : RunKey) : (s.tick).findRun k = s.findRun k := rfl
@[simp] theorem tick_ringAt (a b : Nat) : (s.tick).ringAt a b = s.ringAt a b := rfl
@[simp] theorem tick_workAt (m : Nat) : (s.tick).workAt m = s.workAt m := rfl
@[simp] theorem tick_hart (x : Hart) : (s.tick).hart x = s.hart x := rfl

/-! ### Accessors of what an update writes -/

@[simp] theorem setCore_coreAt_same (n : Nat) (c : Core) : (s.setCore n c).coreAt n = c := tabGet_tabSet_same _ _ _ _
theorem setCore_coreAt_other {n m : Nat} (c : Core) (h : m ≠ n) : (s.setCore n c).coreAt m = s.coreAt m :=
  tabGet_tabSet_other _ _ _ h
@[simp] theorem updCore_coreAt_same (n : Nat) (f : Core → Core) : (s.updCore n f).coreAt n = f (s.coreAt n) :=
  setCore_coreAt_same s n _
theorem updCore_coreAt_other {n m : Nat} (f : Core → Core) (h : m ≠ n) : (s.updCore n f).coreAt m = s.coreAt m :=
  setCore_coreAt_other s _ h
@[simp] theorem updWork_workAt_same (n : Nat) (f : Work → Work) : (s.updWork n f).workAt n = f (s.workAt n) := by
  simp [State.updWork, State.workAt]
theorem updWork_coreAt_other {n m : Nat} (f : Work → Work) (h : m ≠ n) : (s.updWork n f).coreAt m = s.coreAt m :=
  updCore_coreAt_other s _ h
@[simp] theorem setCtx_ctxAt_same (n : Nat) (c : Ctx) : (s.setCtx n c).ctxAt n = c := tabGet_tabSet_same _ _ _ _
theorem setCtx_ctxAt_other {n m : Nat} (c : Ctx) (h : m ≠ n) : (s.setCtx n c).ctxAt m = s.ctxAt m :=
  tabGet_tabSet_other _ _ _ h
@[simp] theorem updCtx_ctxAt_same (n : Nat) (f : Ctx → Ctx) : (s.updCtx n f).ctxAt n = f (s.ctxAt n) :=
  setCtx_ctxAt_same s n _
theorem updCtx_ctxAt_other {n m : Nat} (f : Ctx → Ctx) (h : m ≠ n) : (s.updCtx n f).ctxAt m = s.ctxAt m :=
  setCtx_ctxAt_other s _ h
@[simp] theorem setPlot_plotAt_same (n : Nat) (p : Plot) : (s.setPlot n p).plotAt n = p := tabGet_tabSet_same _ _ _ _
theorem setPlot_plotAt_other {n m : Nat} (p : Plot) (h : m ≠ n) : (s.setPlot n p).plotAt m = s.plotAt m :=
  tabGet_tabSet_other _ _ _ h
@[simp] theorem updPlot_plotAt_same (n : Nat) (f : Plot → Plot) : (s.updPlot n f).plotAt n = f (s.plotAt n) :=
  setPlot_plotAt_same s n _
theorem updPlot_plotAt_other {n m : Nat} (f : Plot → Plot) (h : m ≠ n) : (s.updPlot n f).plotAt m = s.plotAt m :=
  setPlot_plotAt_other s _ h
@[simp] theorem updRing_ringAt_same (c r : Nat) (f : Ring → Ring) : (s.updRing c r f).ringAt c r = f (s.ringAt c r) := by
  simp [State.updRing, State.ringAt, Ctx.setRing, Ctx.ringAt]
theorem updRing_ringAt_other {c r a b : Nat} (f : Ring → Ring) (h : a ≠ c ∨ b ≠ r) :
    (s.updRing c r f).ringAt a b = s.ringAt a b := by
  by_cases e : a = c
  · subst e
    have hb : b ≠ r := by rcases h with h | h; exact absurd rfl h; exact h
    simp [State.updRing, State.ringAt, Ctx.setRing, Ctx.ringAt, tabGet_tabSet_other _ _ _ hb]
  · simp [State.updRing, State.ringAt, updCtx_ctxAt_other s _ e]

@[simp] theorem setCc_cc_same (w : Work) (b : Bool) (c : CCore) : (w.setCc b c).cc b = c := by cases b <;> rfl
theorem setCc_cc_other (w : Work) {a b : Bool} (c : CCore) (h : a ≠ b) : (w.setCc b c).cc a = w.cc a := by
  cases a <;> cases b <;> first | rfl | exact absurd rfl h
@[simp] theorem setCc_store (w : Work) (b : Bool) (c : CCore) : (w.setCc b c).store = w.store := by cases b <;> rfl
@[simp] theorem setCc_run (w : Work) (b : Bool) (c : CCore) : (w.setCc b c).run = w.run := by cases b <;> rfl
@[simp] theorem setCc_unitQ (w : Work) (b : Bool) (c : CCore) (u : EngineUnit) : (w.setCc b c).unitQ u = w.unitQ u := by
  cases b <;> cases u <;> rfl
@[simp] theorem setUnitQ_unitQ_same (w : Work) (u : EngineUnit) (q : UnitQ) : (w.setUnitQ u q).unitQ u = q := by
  cases u <;> rfl
theorem setUnitQ_unitQ_other (w : Work) {u v : EngineUnit} (q : UnitQ) (h : v ≠ u) :
    (w.setUnitQ u q).unitQ v = w.unitQ v := by
  cases u <;> cases v <;> first | rfl | exact absurd rfl h
@[simp] theorem setHart_hart_same (h : Hart) (c : CCore) : (s.setHart h c).hart h = c := by
  simp [State.setHart, State.hart]
@[simp] theorem updHart_hart_same (h : Hart) (f : CCore → CCore) : (s.updHart h f).hart h = f (s.hart h) := by
  simp [State.updHart]

end Sys2Proof.Laws
end

