-- ==== Sys2Proof/Laws/Access.lean ====
section
/-! SUPPORT. What an engine's transfer leaves alone beside the bytes that it moves: it caches leaves and counts, so that every
translation, every stop and every byte is as before (R399). -/

namespace Sys2Proof.Laws

open Sys2Proof.Machine

/-! ### Marks change four fields -/

/-- Two states that differ at most in what marks change. -/
def MarkFrame (s t : State) : Prop :=
  t = { s with plots := t.plots, power := t.power, out := t.out, msixPending := t.msixPending }

theorem MarkFrame.refl (s : State) : MarkFrame s s := rfl

theorem MarkFrame.trans {s t u : State} (h : MarkFrame s t) (k : MarkFrame t u) : MarkFrame s u := by
  unfold MarkFrame at h k ⊢
  rw [h] at k
  exact k

theorem raiseVector_frame (s : State) (v : Nat) : MarkFrame s (raiseVector s v) := by
  unfold raiseVector MarkFrame
  repeat' split
  all_goals rfl

theorem raiseEvent_frame (s : State) (b : Nat) : MarkFrame s (raiseEvent s b) := by
  refine MarkFrame.trans ?_ (raiseVector_frame _ _)
  unfold MarkFrame
  split <;> rfl

theorem timingBroken_frame (s : State) (p c : Nat) : MarkFrame s (timingBroken s p c) := by
  unfold timingBroken
  dsimp only
  split
  · refine MarkFrame.trans ?_ (raiseEvent_frame _ _)
    unfold MarkFrame State.setPlot
    rfl
  · rfl

theorem markT_frame (s : State) (c : Nat) : MarkFrame s (markT s c) := by
  unfold markT
  split
  · exact timingBroken_frame s _ _
  · rfl

theorem markAccess_frame (s : State) (c va n : Nat) : MarkFrame s (markAccess s c va n) := by
  have h : MarkFrame s (markUnlocked s c va n) := by
    unfold markUnlocked
    split
    · rfl
    · exact markT_frame s c
  unfold markAccess
  dsimp only
  split
  · exact h.trans (markT_frame _ c)
  · exact h

/-! ### Walks and leaves -/

/-- A walk depends on no field that marks or the cache of leaves change. -/
theorem walkPage_frame {s t : State} (h : MarkFrame s { t with ctxs := s.ctxs }) (c page : Nat)
    (hr : (t.ctxAt c).ptRoot = (s.ctxAt c).ptRoot) : walkPage t c page = walkPage s c page := by
  have e : t = { s with plots := t.plots, power := t.power, out := t.out, msixPending := t.msixPending, ctxs := t.ctxs } := by
    have k := congrArg (fun u : State => { u with ctxs := t.ctxs }) h
    exact k
  unfold walkPage
  rw [hr, e]
  rfl

/-- An entry of a table fits 64 bits. -/
theorem readEntry_lt (s : State) (l : Level) (a : Nat) : readEntry s l a < 2 ^ 64 := by
  have h := leNat_lt (memReadN (levelMem s l) a 8)
  rw [memReadN_length] at h
  exact h

/-- A leaf that is not malformed fits 57 bits (R398). -/
theorem leafBad_lt {s : State} {w n : Nat} (h : leafBad s w n ≠ true) (hw : w < 2 ^ 64) : w < 2 ^ 57 := by
  have k : bitsOf w 63 57 = 0 := by
    by_contra hn
    exact h (by simp [leafBad, hn])
  unfold bitsOf at k
  omega

/-- A conditional that gives an entry gives it by the branch that can. -/
theorem ite_entry {P : Prop} [Decidable P] {x y : Leaf} {w : Nat} (hx : x ≠ .entry w)
    (h : (if P then x else y) = .entry w) : ¬ P ∧ y = .entry w := by
  by_cases p : P
  · exact absurd ((if_pos p).symm.trans h) hx
  · exact ⟨p, (if_neg p).symm.trans h⟩

/-- The two ways of a conditional. -/
theorem ite_cases {P : Prop} [Decidable P] {x y : Leaf} {z : Leaf} (h : (if P then x else y) = z) :
    (P ∧ x = z) ∨ (¬ P ∧ y = z) := by
  by_cases p : P
  · exact .inl ⟨p, (if_pos p).symm.trans h⟩
  · exact .inr ⟨p, (if_neg p).symm.trans h⟩

/-- An entry of a leaf fits 64 bits (R397, R398). -/
theorem leafOf_lt {s : State} {c page w : Nat} (h : leafOf s c page = .entry w) : w < 2 ^ 64 := by
  unfold leafOf at h
  split at h
  · cases h
    exact BitVec.isLt _
  · unfold walkPage at h
    obtain ⟨-, h⟩ := ite_entry (by nofun) h
    obtain ⟨-, h⟩ := ite_entry (by nofun) h
    obtain ⟨-, h⟩ := ite_entry (by nofun) h
    obtain ⟨-, h⟩ := ite_entry (by nofun) h
    obtain ⟨-, h⟩ := ite_entry (by nofun) h
    obtain ⟨-, h⟩ := ite_entry (by nofun) h
    rcases ite_cases h with ⟨-, h⟩ | ⟨-, h⟩
    · obtain ⟨ok, h⟩ := ite_entry (by nofun) h
      cases h
      have := leafBad_lt ok (readEntry_lt s _ _)
      omega
    · obtain ⟨-, h⟩ := ite_entry (by nofun) h
      obtain ⟨-, h⟩ := ite_entry (by nofun) h
      obtain ⟨-, h⟩ := ite_entry (by nofun) h
      obtain ⟨-, h⟩ := ite_entry (by nofun) h
      have e := Leaf.entry.inj h
      rw [← e]
      exact readEntry_lt s _ _

/-! ### Tables of leaves -/

theorem tabFind_tabSet_same {α : Type} (t : Tab α) (k : Nat) (v : α) : tabFind (tabSet t k v) k = some v := by
  induction t with
  | nil => simp [tabSet, tabFind]
  | cons e r ih =>
    obtain ⟨j, w⟩ := e
    unfold tabSet
    split
    · simp [tabFind]
    · split
      · simp [tabFind]
      · rename_i h _
        simp [tabFind, h, ih]

theorem tabFind_tabSet_other {α : Type} (t : Tab α) {k m : Nat} (v : α) (h : m ≠ k) :
    tabFind (tabSet t k v) m = tabFind t m := by
  induction t with
  | nil => simp [tabSet, tabFind, Ne.symm h]
  | cons e r ih =>
    obtain ⟨j, w⟩ := e
    unfold tabSet
    split
    · rename_i e
      simp [tabFind, Ne.symm h, e]
    · split
      · simp [tabFind, Ne.symm h]
      · simp [tabFind, ih]

/-! ### What a transfer leaves alone -/

/-- A state in which translations are those of another: same leaves, same memories and errors. -/
structure SameWays (s t : State) : Prop where
  leaf : ∀ c page, leafOf t c page = leafOf s c page
  rest : t = { s with plots := t.plots, power := t.power, out := t.out, msixPending := t.msixPending, ctxs := t.ctxs }

theorem SameWays.refl (s : State) : SameWays s s := ⟨fun _ _ => rfl, rfl⟩

theorem SameWays.trans {s t u : State} (h : SameWays s t) (k : SameWays t u) : SameWays s u := by
  refine ⟨fun c p => (k.leaf c p).trans (h.leaf c p), ?_⟩
  have a := h.rest
  have b := k.rest
  rw [a] at b
  exact b

/-- Marks keep every translation. -/
theorem markAccess_ways (s : State) (c va n : Nat) : SameWays s (markAccess s c va n) := by
  have h := markAccess_frame s c va n
  refine ⟨fun c' p => ?_, ?_⟩
  · rw [h]
    rfl
  · rw [h]

/-- Whether a table of leaves holds, for every page, what another holds or the leaf that the page has. -/
def LeavesOf (s : State) (c : Nat) (t : Tab Word) : Prop :=
  ∀ p, tabFind t p = tabFind (s.ctxAt c).tlb p ∨ ∃ w, leafOf s c p = .entry w ∧ tabFind t p = some (BitVec.ofNat 64 w)

/-- A context whose cached leaves are such translates as before. -/
theorem leafOf_leavesOf {s t : State} {c : Nat} (k : LeavesOf s c (t.ctxAt c).tlb)
    (hw : ∀ p, walkPage t c p = walkPage s c p) (p : Nat) : leafOf t c p = leafOf s c p := by
  rcases k p with e | ⟨w, e, f⟩
  · unfold leafOf
    rw [e, hw]
  · rw [e]
    unfold leafOf
    rw [f]
    exact congrArg Leaf.entry (Nat.mod_eq_of_lt (leafOf_lt e))

/-- Leaves that are cached are those that translate already. -/
theorem cachePages_ways (s : State) (c va n : Nat) : SameWays s (cachePages s c va n) := by
  refine ⟨fun c' page => ?_, rfl⟩
  by_cases hc : c' = c
  · subst hc
    refine leafOf_leavesOf (s := s) (t := cachePages s c' va n) ?_ 
      (fun p => walkPage_frame (s := s) (t := cachePages s c' va n) rfl c' p ?_) page
    · unfold cachePages
      rw [updCtx_ctxAt_same]
      show LeavesOf s c' (List.foldl _ (s.ctxAt c').tlb (rangePieces va n))
      have h0 : LeavesOf s c' (s.ctxAt c').tlb := fun p => .inl rfl
      revert h0
      generalize (s.ctxAt c').tlb = t0
      generalize rangePieces va n = l
      intro h0
      induction l generalizing t0 with
      | nil => exact h0
      | cons a l ih =>
        refine ih _ ?_
        intro p
        cases e : leafOf s c' (a.1 / 65536) with
        | entry w =>
          simp only [e]
          by_cases hp : p = a.1 / 65536
          · subst hp
            exact .inr ⟨w, e, tabFind_tabSet_same _ _ _⟩
          · rw [tabFind_tabSet_other _ _ hp]
            exact h0 p
        | fault k => simpa only [e] using h0 p
        | ue l k => simpa only [e] using h0 p
    · unfold cachePages
      rw [updCtx_ctxAt_same]
  · have e : (cachePages s c va n).ctxAt c' = s.ctxAt c' := updCtx_ctxAt_other s _ hc
    unfold leafOf
    rw [e, walkPage_frame (s := s) (t := cachePages s c va n) rfl c' page (by rw [e])]

/-- Counting keeps every translation. -/
theorem chargeMem_ways (s : State) (c n : Nat) : SameWays s (chargeMem s c n) := by
  have tlb (x : Ctx) : (markQuota x).tlb = x.tlb ∧ (markQuota x).ptRoot = x.ptRoot := ⟨rfl, rfl⟩
  refine ⟨fun c' page => ?_, rfl⟩
  have k : ((chargeMem s c n).ctxAt c').tlb = (s.ctxAt c').tlb ∧ ((chargeMem s c n).ctxAt c').ptRoot = (s.ctxAt c').ptRoot := by
    by_cases hc : c' = c
    · subst hc
      unfold chargeMem
      rw [updCtx_ctxAt_same]
      exact tlb _
    · have e : (chargeMem s c n).ctxAt c' = s.ctxAt c' := updCtx_ctxAt_other s _ hc
      rw [e]
      exact ⟨rfl, rfl⟩
  unfold leafOf
  rw [k.1, walkPage_frame (s := s) (t := chargeMem s c n) rfl c' page k.2]

/-- What a command at work runs up is beside every translation. -/
theorem addCharge_ways (s : State) (n : Nat) : SameWays s (s.addCharge n) := by
  refine ⟨fun c p => ?_, rfl⟩
  have e : (s.addCharge n).ctxAt c = s.ctxAt c := rfl
  unfold leafOf
  rw [e, walkPage_frame (s := s) (t := s.addCharge n) rfl c p (by rw [e])]

/-- A transfer keeps every translation, whatever it moves (R399). -/
theorem touch_ways (s : State) (c va n : Nat) : SameWays s (touch s c va n) := by
  unfold touch
  exact (((markAccess_ways s c va n).trans (addCharge_ways _ _)).trans (cachePages_ways _ c va n)).trans (chargeMem_ways _ c n)

/-- By the same ways an address leads to the same place. -/
theorem SameWays.xlate {s t : State} (h : SameWays s t) (c va : Nat) (write : Bool) :
    Machine.xlate t c va write = Machine.xlate s c va write := by
  unfold Machine.xlate
  rw [h.leaf, h.rest]

/-- By the same ways an access meets the same stops. -/
theorem SameWays.rangeStop {s t : State} (h : SameWays s t) (c va n : Nat) (write : Bool) :
    Machine.rangeStop t c va n write = Machine.rangeStop s c va n write := by
  have e : pieceStop t c write = pieceStop s c write := by
    funext p
    unfold pieceStop
    rw [h.xlate, h.rest]
    rfl
  unfold Machine.rangeStop
  rw [e]

/-- By the same ways a read gives the same bytes. -/
theorem SameWays.vaRead {s t : State} (h : SameWays s t) (c va n : Nat) : Machine.vaRead t c va n = Machine.vaRead s c va n := by
  unfold Machine.vaRead
  simp only [h.xlate]
  rw [h.rest]
  rfl

/-- A transfer leaves reads and stops as they were. -/
@[simp] theorem touch_rangeStop (s : State) (c va n c' a m : Nat) (write : Bool) :
    rangeStop (touch s c va n) c' a m write = rangeStop s c' a m write := (touch_ways s c va n).rangeStop c' a m write
@[simp] theorem touch_vaRead (s : State) (c va n c' a m : Nat) : vaRead (touch s c va n) c' a m = vaRead s c' a m :=
  (touch_ways s c va n).vaRead c' a m

end Sys2Proof.Laws
end

