-- ==== Sys2Proof/Laws/Drabel.lean ====
section
/-! SUPPORT. What the shared operations of the control cores do: registers, one instruction, retiring, a trap, an access
of the data area. -/

namespace Sys2Proof.Laws

open Sys2Proof.Machine Sys2Proof.Safety

/-! ### Registers -/

@[simp] theorem regGet_zero (c : CCore) : regGet c 0 = 0 := rfl

theorem regGet_regSet (c : CCore) (rd k : BitVec 5) (v : Word) :
    regGet (regSet c rd v) k = if k = rd then (if rd = 0 then 0 else v) else regGet c k := by
  unfold regGet regSet
  by_cases hr : rd = 0#5
  · subst hr; by_cases hk : k = 0#5 <;> simp [hk]
  · by_cases hk : k = rd
    · subst hk; simp [hr]
    · have hn : k.toNat ≠ rd.toNat := fun e => hk (BitVec.eq_of_toNat_eq e)
      simp [hr, hk, tabGet_tabSet_other _ _ _ hn]

theorem regSet_fields (c : CCore) (rd : BitVec 5) (v : Word) :
    regSet c rd v = { c with regs := (regSet c rd v).regs } := by
  unfold regSet; split <;> rfl

/-! ### One instruction -/

/-- An instruction of a control core that executes is its body. -/
theorem hartStep_executes {s : State} {h : Hart} {r : Run} (e : Executes s h r) (body : Run → CCore → State) :
    hartStep s h body = body r (s.hart h) := by
  obtain ⟨hr, hp⟩ := e
  simp [hartStep, hr, Nat.not_le.mpr hp]

/-- While a control core may not execute, an instruction for it does nothing. -/
theorem hartStep_idle {s : State} {h : Hart} (e : hartReady s h = none) (body : Run → CCore → State) :
    hartStep s h body = s := by
  simp [hartStep, e]

/-- A PC beyond the code traps with cause PC_RANGE. -/
theorem hartStep_pcRange {s : State} {h : Hart} {r : Run} (e : hartReady s h = some r)
    (hp : r.hdr.codeBytes ≤ (s.hart h).pc.toNat) (body : Run → CCore → State) :
    hartStep s h body = trapHart s h r 2 stBadOpcode 0 := by
  simp [hartStep, e, hp]

/-! ### Retiring -/

theorem retireWith_coreAt (s : State) (h : Hart) (pc : Word) (f : CCore → CCore) :
    (retireWith s h pc f).coreAt h.core = { s.coreAt h.core with
      work := (s.workAt h.core).setCc h.cc (f { s.hart h with pc := pc, mode := .running, wait := .none })
      retired := (s.coreAt h.core).retired + 1 } := by
  simp [retireWith, State.hart, State.workAt]

@[simp] theorem retireWith_hart (s : State) (h : Hart) (pc : Word) (f : CCore → CCore) :
    (retireWith s h pc f).hart h = f { s.hart h with pc := pc, mode := .running, wait := .none } := by
  simp only [State.hart, State.workAt, retireWith_coreAt, setCc_cc_same]

theorem retireWith_other (s : State) (h : Hart) (pc : Word) (f : CCore → CCore) {n : Nat} (hn : n ≠ h.core) :
    (retireWith s h pc f).coreAt n = s.coreAt n :=
  updCore_coreAt_other s _ hn

/-- Retiring changes one control core and the RETIRED count. -/
theorem retireWith_onlyHart (s : State) (h : Hart) (pc : Word) (f : CCore → CCore) :
    OnlyHart s (retireWith s h pc f) h := by
  refine ⟨rfl, fun n hn => retireWith_other s h pc f hn, ?_⟩
  rw [retireWith_coreAt, retireWith_hart]

theorem retireReg_wentOn (s : State) (h : Hart) (rd : BitVec 5) (v : Word) :
    WentOn s (retireReg s h rd v) h rd ((s.hart h).pc + 4) ∧
    reg (retireReg s h rd v) h rd = if rd = 0 then 0 else v := by
  refine ⟨⟨fun k hk => ?_, ?_⟩, ?_⟩
  · simp only [reg, retireReg, retireWith_hart, regGet_regSet]
    by_cases e : k = rd
    · have hz : k = 0 := by rcases hk with hk | hk; exact absurd e hk; exact hk
      subst e; subst hz; rfl
    · simp [e]; rfl
  · simp only [retireReg, retireWith_hart]
    rw [regSet_fields]
  · simp [reg, retireReg, regGet_regSet]

/-! ### Addresses and accesses of the data area -/

theorem dataAddr_eq (s : State) (h : Hart) (rs1 : BitVec 5) (imm : BitVec 16) :
    (effAddr (s.hart h) rs1 imm).toNat = dataAddr s h rs1 imm := by
  unfold effAddr dataAddr reg sext16
  have h2 : regGet (s.hart h) rs1 + BitVec.signExtend 64 imm = BitVec.ofInt 64 ((regGet (s.hart h) rs1).toInt + imm.toInt) := by
    apply BitVec.eq_of_toInt_eq
    rw [BitVec.toInt_add, BitVec.toInt_ofInt, BitVec.toInt_signExtend_of_le (by omega)]
  rw [h2, BitVec.toNat_ofInt]; norm_num

/-- An aligned access inside the data area does its work: one that reads wants words without an error (R22, R330, R413). -/
theorem areaStep_ok {s : State} {h : Hart} {r : Run} (e : Executes s h r) (addr : CCore → Word) (n a : Nat) (reads : Bool)
    (ha : (addr (s.hart h)).toNat = a) (h1 : a % n = 0) (h2 : a + n ≤ r.hdr.dataBytes)
    (h3 : reads = true → storeBad s h.core a n = none) (body : CCore → Nat → State) :
    areaStep s h addr n reads body = body (s.hart h) a := by
  unfold areaStep
  rw [hartStep_executes e]
  cases reads
  · simp [ha, h1, inArea, h2]
  · simp [ha, h1, inArea, h2, h3 rfl]

/-- Writing a word of 64 bits whole ends the error of that word alone (R22). -/
theorem mem_rewritten_word (core a : Nat) (ha : a % 8 = 0) (l : List (Level × Nat)) (p : Level × Nat) :
    p ∈ rewritten core a 8 l ↔ p ∈ l ∧ ¬ p = (.coreStore, core * 2 ^ 20 + a / 8) := by
  obtain ⟨v, k⟩ := p
  simp only [rewritten, List.mem_filter, decide_eq_true_eq, Prod.mk.injEq, not_and]
  refine and_congr_right (fun _ => ⟨fun h e => ?_, fun h => ?_⟩)
  · rcases h with h | h
    · exact absurd e h
    · omega
  · by_cases e : v = .coreStore
    · have := h e
      omega
    · exact .inl e

/-- Writing a part of a word ends no error (R22). -/
theorem rewritten_part (core a n : Nat) (hn : n < 8) (l : List (Level × Nat)) : rewritten core a n l = l := by
  unfold rewritten
  rw [List.filter_eq_self]
  intro p _
  by_cases e : p.1 = .coreStore
  · simp only [decide_eq_true_eq]
    omega
  · simp [e]

/-! ### Traps -/

/-- A trap of a control core that executes ends its RUN. -/
theorem trapHart_trapped {s : State} {h : Hart} {r : Run} (e : hartReady s h = some r) (cause : Nat) (st : Status) (code : Nat) :
    Trapped s (trapHart s h r cause st code) h r cause st code := by
  have hrun : s.runOf h.core = some r ∧ r.status = none := by
    unfold hartReady at e
    split at e
    · cases e
    · rename_i r' hr
      dsimp only at e
      split at e
      · rename_i hc; cases e; exact ⟨hr, hc.2.2.2.2.1⟩
      · cases e
  have hfind : s.findRun r.key = some r := by
    have := hrun.1
    unfold State.runOf at this
    split at this
    · cases this
    · rename_i k hk
      have hkey : r.key = k := by
        have := List.find?_some this; simpa using this
      rw [hkey]; exact this
  have hfind' : (trapHart s h r cause st code).findRun r.key = some { r with
    status := some st, phase := .stopping, detail := cause % 256 + code % 256 * 256 + h.core * 65536 } := by
    unfold trapHart State.findRun State.updRun
    simp only [updCore_runs]
    have := hfind
    unfold State.findRun at this
    rw [List.find?_map]
    have hcomp : ((fun r_1 => r_1.key == r.key) ∘ fun q : Run => if q.key = r.key then
              if q.status = none then
                { q with
                  status := some st, phase := RunPhase.stopping
                  detail := cause % 256 + code % 256 * 256 + h.core * 65536 }
              else q
            else q) = fun q : Run => q.key == r.key := by
      funext q; simp only [Function.comp]; split
      · split <;> simp_all
      · rfl
    rw [hcomp, this]
    simp [hrun.2]
  refine ⟨rfl, ?_, ?_, ?_, hfind', ?_⟩
  · cases hcc : h.cc <;> simp [trapHart, hcc]
  · cases hcc : h.cc <;> simp [trapHart, State.hart, State.workAt, Work.cc, Work.setCc, hcc]
  · cases hcc : h.cc <;> simp [trapHart, State.workAt, hcc]
  · intro x hx
    have hwr : ((trapHart s h r cause st code).workAt x.core).run = some r.key := by
      by_cases hxc : x.core = h.core
      · rw [hxc] at hx ⊢
        cases hcc : h.cc <;> simp [trapHart, State.workAt, hcc] <;> exact hx
      · have : (trapHart s h r cause st code).coreAt x.core = s.coreAt x.core := by
          unfold trapHart; simp only [updRun_coreAt]; exact updCore_coreAt_other _ _ hxc
        unfold State.workAt at hx ⊢; rw [this]; exact hx
    unfold hartReady State.runOf
    rw [hwr]; simp only [hfind']
    simp

end Sys2Proof.Laws
end

