-- ==== Sys2Proof/Laws/Marks.lean ====
section
/-! SUPPORT. What the marks of a timed plot change: EVENTS and EVT_TIMING, the causes that the plot has raised, messages
(R286, R470), and nothing else. -/

namespace Sys2Proof.Laws

open Sys2Proof.Machine

variable (s : State)

@[simp] theorem raiseVector_near (v : Nat) : (raiseVector s v).near = s.near := by
  unfold raiseVector; split <;> (try split) <;> rfl

@[simp] theorem raiseEvent_near (b : Nat) : (raiseEvent s b).near = s.near := by
  unfold raiseEvent; dsimp only; rw [raiseVector_near]; split <;> rfl

@[simp] theorem timingBroken_near (p c : Nat) : (timingBroken s p c).near = s.near := by
  unfold timingBroken; dsimp only; split
  · rw [raiseEvent_near]; rfl
  · rfl

@[simp] theorem markT_near (c : Nat) : (markT s c).near = s.near := by
  unfold markT; split
  · exact timingBroken_near s _ _
  · rfl

@[simp] theorem markUnlocked_near (c va n : Nat) : (markUnlocked s c va n).near = s.near := by
  unfold markUnlocked; split
  · rfl
  · exact markT_near s _

@[simp] theorem markUses_near (c : Nat) (l : List (Nat × Nat)) : (markUses s c l).near = s.near := by
  unfold markUses
  induction l generalizing s with
  | nil => rfl
  | cons a l ih => exact (ih _).trans (markUnlocked_near s c a.1 a.2)

@[simp] theorem raiseVector_far (v : Nat) : (raiseVector s v).far = s.far := by
  unfold raiseVector; split <;> (try split) <;> rfl

@[simp] theorem raiseEvent_far (b : Nat) : (raiseEvent s b).far = s.far := by
  unfold raiseEvent; dsimp only; rw [raiseVector_far]; split <;> rfl

@[simp] theorem timingBroken_far (p c : Nat) : (timingBroken s p c).far = s.far := by
  unfold timingBroken; dsimp only; split
  · rw [raiseEvent_far]; rfl
  · rfl

@[simp] theorem markT_far (c : Nat) : (markT s c).far = s.far := by
  unfold markT; split
  · exact timingBroken_far s _ _
  · rfl

@[simp] theorem markUnlocked_far (c va n : Nat) : (markUnlocked s c va n).far = s.far := by
  unfold markUnlocked; split
  · rfl
  · exact markT_far s _

@[simp] theorem markUses_far (c : Nat) (l : List (Nat × Nat)) : (markUses s c l).far = s.far := by
  unfold markUses
  induction l generalizing s with
  | nil => rfl
  | cons a l ih => exact (ih _).trans (markUnlocked_far s c a.1 a.2)

@[simp] theorem raiseVector_host (v : Nat) : (raiseVector s v).host = s.host := by
  unfold raiseVector; split <;> (try split) <;> rfl

@[simp] theorem raiseEvent_host (b : Nat) : (raiseEvent s b).host = s.host := by
  unfold raiseEvent; dsimp only; rw [raiseVector_host]; split <;> rfl

@[simp] theorem timingBroken_host (p c : Nat) : (timingBroken s p c).host = s.host := by
  unfold timingBroken; dsimp only; split
  · rw [raiseEvent_host]; rfl
  · rfl

@[simp] theorem markT_host (c : Nat) : (markT s c).host = s.host := by
  unfold markT; split
  · exact timingBroken_host s _ _
  · rfl

@[simp] theorem markUnlocked_host (c va n : Nat) : (markUnlocked s c va n).host = s.host := by
  unfold markUnlocked; split
  · rfl
  · exact markT_host s _

@[simp] theorem markUses_host (c : Nat) (l : List (Nat × Nat)) : (markUses s c l).host = s.host := by
  unfold markUses
  induction l generalizing s with
  | nil => rfl
  | cons a l ih => exact (ih _).trans (markUnlocked_host s c a.1 a.2)

@[simp] theorem raiseVector_cores (v : Nat) : (raiseVector s v).cores = s.cores := by
  unfold raiseVector; split <;> (try split) <;> rfl

@[simp] theorem raiseEvent_cores (b : Nat) : (raiseEvent s b).cores = s.cores := by
  unfold raiseEvent; dsimp only; rw [raiseVector_cores]; split <;> rfl

@[simp] theorem timingBroken_cores (p c : Nat) : (timingBroken s p c).cores = s.cores := by
  unfold timingBroken; dsimp only; split
  · rw [raiseEvent_cores]; rfl
  · rfl

@[simp] theorem markT_cores (c : Nat) : (markT s c).cores = s.cores := by
  unfold markT; split
  · exact timingBroken_cores s _ _
  · rfl

@[simp] theorem markUnlocked_cores (c va n : Nat) : (markUnlocked s c va n).cores = s.cores := by
  unfold markUnlocked; split
  · rfl
  · exact markT_cores s _

@[simp] theorem markUses_cores (c : Nat) (l : List (Nat × Nat)) : (markUses s c l).cores = s.cores := by
  unfold markUses
  induction l generalizing s with
  | nil => rfl
  | cons a l ih => exact (ih _).trans (markUnlocked_cores s c a.1 a.2)

@[simp] theorem raiseVector_runs (v : Nat) : (raiseVector s v).runs = s.runs := by
  unfold raiseVector; split <;> (try split) <;> rfl

@[simp] theorem raiseEvent_runs (b : Nat) : (raiseEvent s b).runs = s.runs := by
  unfold raiseEvent; dsimp only; rw [raiseVector_runs]; split <;> rfl

@[simp] theorem timingBroken_runs (p c : Nat) : (timingBroken s p c).runs = s.runs := by
  unfold timingBroken; dsimp only; split
  · rw [raiseEvent_runs]; rfl
  · rfl

@[simp] theorem markT_runs (c : Nat) : (markT s c).runs = s.runs := by
  unfold markT; split
  · exact timingBroken_runs s _ _
  · rfl

@[simp] theorem markUnlocked_runs (c va n : Nat) : (markUnlocked s c va n).runs = s.runs := by
  unfold markUnlocked; split
  · rfl
  · exact markT_runs s _

@[simp] theorem markUses_runs (c : Nat) (l : List (Nat × Nat)) : (markUses s c l).runs = s.runs := by
  unfold markUses
  induction l generalizing s with
  | nil => rfl
  | cons a l ih => exact (ih _).trans (markUnlocked_runs s c a.1 a.2)

@[simp] theorem raiseVector_ctxs (v : Nat) : (raiseVector s v).ctxs = s.ctxs := by
  unfold raiseVector; split <;> (try split) <;> rfl

@[simp] theorem raiseEvent_ctxs (b : Nat) : (raiseEvent s b).ctxs = s.ctxs := by
  unfold raiseEvent; dsimp only; rw [raiseVector_ctxs]; split <;> rfl

@[simp] theorem timingBroken_ctxs (p c : Nat) : (timingBroken s p c).ctxs = s.ctxs := by
  unfold timingBroken; dsimp only; split
  · rw [raiseEvent_ctxs]; rfl
  · rfl

@[simp] theorem markT_ctxs (c : Nat) : (markT s c).ctxs = s.ctxs := by
  unfold markT; split
  · exact timingBroken_ctxs s _ _
  · rfl

@[simp] theorem markUnlocked_ctxs (c va n : Nat) : (markUnlocked s c va n).ctxs = s.ctxs := by
  unfold markUnlocked; split
  · rfl
  · exact markT_ctxs s _

@[simp] theorem markUses_ctxs (c : Nat) (l : List (Nat × Nat)) : (markUses s c l).ctxs = s.ctxs := by
  unfold markUses
  induction l generalizing s with
  | nil => rfl
  | cons a l ih => exact (ih _).trans (markUnlocked_ctxs s c a.1 a.2)

@[simp] theorem raiseVector_rng (v : Nat) : (raiseVector s v).rng = s.rng := by
  unfold raiseVector; split <;> (try split) <;> rfl

@[simp] theorem raiseEvent_rng (b : Nat) : (raiseEvent s b).rng = s.rng := by
  unfold raiseEvent; dsimp only; rw [raiseVector_rng]; split <;> rfl

@[simp] theorem timingBroken_rng (p c : Nat) : (timingBroken s p c).rng = s.rng := by
  unfold timingBroken; dsimp only; split
  · rw [raiseEvent_rng]; rfl
  · rfl

@[simp] theorem markT_rng (c : Nat) : (markT s c).rng = s.rng := by
  unfold markT; split
  · exact timingBroken_rng s _ _
  · rfl

@[simp] theorem markUnlocked_rng (c va n : Nat) : (markUnlocked s c va n).rng = s.rng := by
  unfold markUnlocked; split
  · rfl
  · exact markT_rng s _

@[simp] theorem markUses_rng (c : Nat) (l : List (Nat × Nat)) : (markUses s c l).rng = s.rng := by
  unfold markUses
  induction l generalizing s with
  | nil => rfl
  | cons a l ih => exact (ih _).trans (markUnlocked_rng s c a.1 a.2)

@[simp] theorem raiseVector_boot (v : Nat) : (raiseVector s v).boot = s.boot := by
  unfold raiseVector; split <;> (try split) <;> rfl

@[simp] theorem raiseEvent_boot (b : Nat) : (raiseEvent s b).boot = s.boot := by
  unfold raiseEvent; dsimp only; rw [raiseVector_boot]; split <;> rfl

@[simp] theorem timingBroken_boot (p c : Nat) : (timingBroken s p c).boot = s.boot := by
  unfold timingBroken; dsimp only; split
  · rw [raiseEvent_boot]; rfl
  · rfl

@[simp] theorem markT_boot (c : Nat) : (markT s c).boot = s.boot := by
  unfold markT; split
  · exact timingBroken_boot s _ _
  · rfl

@[simp] theorem markUnlocked_boot (c va n : Nat) : (markUnlocked s c va n).boot = s.boot := by
  unfold markUnlocked; split
  · rfl
  · exact markT_boot s _

@[simp] theorem markUses_boot (c : Nat) (l : List (Nat × Nat)) : (markUses s c l).boot = s.boot := by
  unfold markUses
  induction l generalizing s with
  | nil => rfl
  | cons a l ih => exact (ih _).trans (markUnlocked_boot s c a.1 a.2)

@[simp] theorem raiseVector_fab (v : Nat) : (raiseVector s v).fab = s.fab := by
  unfold raiseVector; split <;> (try split) <;> rfl

@[simp] theorem raiseEvent_fab (b : Nat) : (raiseEvent s b).fab = s.fab := by
  unfold raiseEvent; dsimp only; rw [raiseVector_fab]; split <;> rfl

@[simp] theorem timingBroken_fab (p c : Nat) : (timingBroken s p c).fab = s.fab := by
  unfold timingBroken; dsimp only; split
  · rw [raiseEvent_fab]; rfl
  · rfl

@[simp] theorem markT_fab (c : Nat) : (markT s c).fab = s.fab := by
  unfold markT; split
  · exact timingBroken_fab s _ _
  · rfl

@[simp] theorem markUnlocked_fab (c va n : Nat) : (markUnlocked s c va n).fab = s.fab := by
  unfold markUnlocked; split
  · rfl
  · exact markT_fab s _

@[simp] theorem markUses_fab (c : Nat) (l : List (Nat × Nat)) : (markUses s c l).fab = s.fab := by
  unfold markUses
  induction l generalizing s with
  | nil => rfl
  | cons a l ih => exact (ih _).trans (markUnlocked_fab s c a.1 a.2)

@[simp] theorem raiseVector_ports (v : Nat) : (raiseVector s v).ports = s.ports := by
  unfold raiseVector; split <;> (try split) <;> rfl

@[simp] theorem raiseEvent_ports (b : Nat) : (raiseEvent s b).ports = s.ports := by
  unfold raiseEvent; dsimp only; rw [raiseVector_ports]; split <;> rfl

@[simp] theorem timingBroken_ports (p c : Nat) : (timingBroken s p c).ports = s.ports := by
  unfold timingBroken; dsimp only; split
  · rw [raiseEvent_ports]; rfl
  · rfl

@[simp] theorem markT_ports (c : Nat) : (markT s c).ports = s.ports := by
  unfold markT; split
  · exact timingBroken_ports s _ _
  · rfl

@[simp] theorem markUnlocked_ports (c va n : Nat) : (markUnlocked s c va n).ports = s.ports := by
  unfold markUnlocked; split
  · rfl
  · exact markT_ports s _

@[simp] theorem markUses_ports (c : Nat) (l : List (Nat × Nat)) : (markUses s c l).ports = s.ports := by
  unfold markUses
  induction l generalizing s with
  | nil => rfl
  | cons a l ih => exact (ih _).trans (markUnlocked_ports s c a.1 a.2)

@[simp] theorem raiseVector_services (v : Nat) : (raiseVector s v).services = s.services := by
  unfold raiseVector; split <;> (try split) <;> rfl

@[simp] theorem raiseEvent_services (b : Nat) : (raiseEvent s b).services = s.services := by
  unfold raiseEvent; dsimp only; rw [raiseVector_services]; split <;> rfl

@[simp] theorem timingBroken_services (p c : Nat) : (timingBroken s p c).services = s.services := by
  unfold timingBroken; dsimp only; split
  · rw [raiseEvent_services]; rfl
  · rfl

@[simp] theorem markT_services (c : Nat) : (markT s c).services = s.services := by
  unfold markT; split
  · exact timingBroken_services s _ _
  · rfl

@[simp] theorem markUnlocked_services (c va n : Nat) : (markUnlocked s c va n).services = s.services := by
  unfold markUnlocked; split
  · rfl
  · exact markT_services s _

@[simp] theorem markUses_services (c : Nat) (l : List (Nat × Nat)) : (markUses s c l).services = s.services := by
  unfold markUses
  induction l generalizing s with
  | nil => rfl
  | cons a l ih => exact (ih _).trans (markUnlocked_services s c a.1 a.2)

@[simp] theorem raiseVector_mgmt (v : Nat) : (raiseVector s v).mgmt = s.mgmt := by
  unfold raiseVector; split <;> (try split) <;> rfl

@[simp] theorem raiseEvent_mgmt (b : Nat) : (raiseEvent s b).mgmt = s.mgmt := by
  unfold raiseEvent; dsimp only; rw [raiseVector_mgmt]; split <;> rfl

@[simp] theorem timingBroken_mgmt (p c : Nat) : (timingBroken s p c).mgmt = s.mgmt := by
  unfold timingBroken; dsimp only; split
  · rw [raiseEvent_mgmt]; rfl
  · rfl

@[simp] theorem markT_mgmt (c : Nat) : (markT s c).mgmt = s.mgmt := by
  unfold markT; split
  · exact timingBroken_mgmt s _ _
  · rfl

@[simp] theorem markUnlocked_mgmt (c va n : Nat) : (markUnlocked s c va n).mgmt = s.mgmt := by
  unfold markUnlocked; split
  · rfl
  · exact markT_mgmt s _

@[simp] theorem markUses_mgmt (c : Nat) (l : List (Nat × Nat)) : (markUses s c l).mgmt = s.mgmt := by
  unfold markUses
  induction l generalizing s with
  | nil => rfl
  | cons a l ih => exact (ih _).trans (markUnlocked_mgmt s c a.1 a.2)

@[simp] theorem raiseVector_flash (v : Nat) : (raiseVector s v).flash = s.flash := by
  unfold raiseVector; split <;> (try split) <;> rfl

@[simp] theorem raiseEvent_flash (b : Nat) : (raiseEvent s b).flash = s.flash := by
  unfold raiseEvent; dsimp only; rw [raiseVector_flash]; split <;> rfl

@[simp] theorem timingBroken_flash (p c : Nat) : (timingBroken s p c).flash = s.flash := by
  unfold timingBroken; dsimp only; split
  · rw [raiseEvent_flash]; rfl
  · rfl

@[simp] theorem markT_flash (c : Nat) : (markT s c).flash = s.flash := by
  unfold markT; split
  · exact timingBroken_flash s _ _
  · rfl

@[simp] theorem markUnlocked_flash (c va n : Nat) : (markUnlocked s c va n).flash = s.flash := by
  unfold markUnlocked; split
  · rfl
  · exact markT_flash s _

@[simp] theorem markUses_flash (c : Nat) (l : List (Nat × Nat)) : (markUses s c l).flash = s.flash := by
  unfold markUses
  induction l generalizing s with
  | nil => rfl
  | cons a l ih => exact (ih _).trans (markUnlocked_flash s c a.1 a.2)

@[simp] theorem raiseVector_fuses (v : Nat) : (raiseVector s v).fuses = s.fuses := by
  unfold raiseVector; split <;> (try split) <;> rfl

@[simp] theorem raiseEvent_fuses (b : Nat) : (raiseEvent s b).fuses = s.fuses := by
  unfold raiseEvent; dsimp only; rw [raiseVector_fuses]; split <;> rfl

@[simp] theorem timingBroken_fuses (p c : Nat) : (timingBroken s p c).fuses = s.fuses := by
  unfold timingBroken; dsimp only; split
  · rw [raiseEvent_fuses]; rfl
  · rfl

@[simp] theorem markT_fuses (c : Nat) : (markT s c).fuses = s.fuses := by
  unfold markT; split
  · exact timingBroken_fuses s _ _
  · rfl

@[simp] theorem markUnlocked_fuses (c va n : Nat) : (markUnlocked s c va n).fuses = s.fuses := by
  unfold markUnlocked; split
  · rfl
  · exact markT_fuses s _

@[simp] theorem markUses_fuses (c : Nat) (l : List (Nat × Nat)) : (markUses s c l).fuses = s.fuses := by
  unfold markUses
  induction l generalizing s with
  | nil => rfl
  | cons a l ih => exact (ih _).trans (markUnlocked_fuses s c a.1 a.2)

@[simp] theorem raiseVector_pending (v : Nat) : (raiseVector s v).pending = s.pending := by
  unfold raiseVector; split <;> (try split) <;> rfl

@[simp] theorem raiseEvent_pending (b : Nat) : (raiseEvent s b).pending = s.pending := by
  unfold raiseEvent; dsimp only; rw [raiseVector_pending]; split <;> rfl

@[simp] theorem timingBroken_pending (p c : Nat) : (timingBroken s p c).pending = s.pending := by
  unfold timingBroken; dsimp only; split
  · rw [raiseEvent_pending]; rfl
  · rfl

@[simp] theorem markT_pending (c : Nat) : (markT s c).pending = s.pending := by
  unfold markT; split
  · exact timingBroken_pending s _ _
  · rfl

@[simp] theorem markUnlocked_pending (c va n : Nat) : (markUnlocked s c va n).pending = s.pending := by
  unfold markUnlocked; split
  · rfl
  · exact markT_pending s _

@[simp] theorem markUses_pending (c : Nat) (l : List (Nat × Nat)) : (markUses s c l).pending = s.pending := by
  unfold markUses
  induction l generalizing s with
  | nil => rfl
  | cons a l ih => exact (ih _).trans (markUnlocked_pending s c a.1 a.2)

@[simp] theorem raiseVector_fresh (v : Nat) : (raiseVector s v).fresh = s.fresh := by
  unfold raiseVector; split <;> (try split) <;> rfl

@[simp] theorem raiseEvent_fresh (b : Nat) : (raiseEvent s b).fresh = s.fresh := by
  unfold raiseEvent; dsimp only; rw [raiseVector_fresh]; split <;> rfl

@[simp] theorem timingBroken_fresh (p c : Nat) : (timingBroken s p c).fresh = s.fresh := by
  unfold timingBroken; dsimp only; split
  · rw [raiseEvent_fresh]; rfl
  · rfl

@[simp] theorem markT_fresh (c : Nat) : (markT s c).fresh = s.fresh := by
  unfold markT; split
  · exact timingBroken_fresh s _ _
  · rfl

@[simp] theorem markUnlocked_fresh (c va n : Nat) : (markUnlocked s c va n).fresh = s.fresh := by
  unfold markUnlocked; split
  · rfl
  · exact markT_fresh s _

@[simp] theorem markUses_fresh (c : Nat) (l : List (Nat × Nat)) : (markUses s c l).fresh = s.fresh := by
  unfold markUses
  induction l generalizing s with
  | nil => rfl
  | cons a l ih => exact (ih _).trans (markUnlocked_fresh s c a.1 a.2)

@[simp] theorem raiseVector_hostPages (v : Nat) : (raiseVector s v).hostPages = s.hostPages := by
  unfold raiseVector; split <;> (try split) <;> rfl

@[simp] theorem raiseEvent_hostPages (b : Nat) : (raiseEvent s b).hostPages = s.hostPages := by
  unfold raiseEvent; dsimp only; rw [raiseVector_hostPages]; split <;> rfl

@[simp] theorem timingBroken_hostPages (p c : Nat) : (timingBroken s p c).hostPages = s.hostPages := by
  unfold timingBroken; dsimp only; split
  · rw [raiseEvent_hostPages]; rfl
  · rfl

@[simp] theorem markT_hostPages (c : Nat) : (markT s c).hostPages = s.hostPages := by
  unfold markT; split
  · exact timingBroken_hostPages s _ _
  · rfl

@[simp] theorem markUnlocked_hostPages (c va n : Nat) : (markUnlocked s c va n).hostPages = s.hostPages := by
  unfold markUnlocked; split
  · rfl
  · exact markT_hostPages s _

@[simp] theorem markUses_hostPages (c : Nat) (l : List (Nat × Nat)) : (markUses s c l).hostPages = s.hostPages := by
  unfold markUses
  induction l generalizing s with
  | nil => rfl
  | cons a l ih => exact (ih _).trans (markUnlocked_hostPages s c a.1 a.2)

@[simp] theorem raiseVector_pris (v : Nat) : (raiseVector s v).pris = s.pris := by
  unfold raiseVector; split <;> (try split) <;> rfl

@[simp] theorem raiseEvent_pris (b : Nat) : (raiseEvent s b).pris = s.pris := by
  unfold raiseEvent; dsimp only; rw [raiseVector_pris]; split <;> rfl

@[simp] theorem timingBroken_pris (p c : Nat) : (timingBroken s p c).pris = s.pris := by
  unfold timingBroken; dsimp only; split
  · rw [raiseEvent_pris]; rfl
  · rfl

@[simp] theorem markT_pris (c : Nat) : (markT s c).pris = s.pris := by
  unfold markT; split
  · exact timingBroken_pris s _ _
  · rfl

@[simp] theorem markUnlocked_pris (c va n : Nat) : (markUnlocked s c va n).pris = s.pris := by
  unfold markUnlocked; split
  · rfl
  · exact markT_pris s _

@[simp] theorem markUses_pris (c : Nat) (l : List (Nat × Nat)) : (markUses s c l).pris = s.pris := by
  unfold markUses
  induction l generalizing s with
  | nil => rfl
  | cons a l ih => exact (ih _).trans (markUnlocked_pris s c a.1 a.2)

@[simp] theorem raiseVector_badLines (v : Nat) : (raiseVector s v).badLines = s.badLines := by
  unfold raiseVector; split <;> (try split) <;> rfl

@[simp] theorem raiseEvent_badLines (b : Nat) : (raiseEvent s b).badLines = s.badLines := by
  unfold raiseEvent; dsimp only; rw [raiseVector_badLines]; split <;> rfl

@[simp] theorem timingBroken_badLines (p c : Nat) : (timingBroken s p c).badLines = s.badLines := by
  unfold timingBroken; dsimp only; split
  · rw [raiseEvent_badLines]; rfl
  · rfl

@[simp] theorem markT_badLines (c : Nat) : (markT s c).badLines = s.badLines := by
  unfold markT; split
  · exact timingBroken_badLines s _ _
  · rfl

@[simp] theorem markUnlocked_badLines (c va n : Nat) : (markUnlocked s c va n).badLines = s.badLines := by
  unfold markUnlocked; split
  · rfl
  · exact markT_badLines s _

@[simp] theorem markUses_badLines (c : Nat) (l : List (Nat × Nat)) : (markUses s c l).badLines = s.badLines := by
  unfold markUses
  induction l generalizing s with
  | nil => rfl
  | cons a l ih => exact (ih _).trans (markUnlocked_badLines s c a.1 a.2)

@[simp] theorem raiseVector_msixTable (v : Nat) : (raiseVector s v).msixTable = s.msixTable := by
  unfold raiseVector; split <;> (try split) <;> rfl

@[simp] theorem raiseEvent_msixTable (b : Nat) : (raiseEvent s b).msixTable = s.msixTable := by
  unfold raiseEvent; dsimp only; rw [raiseVector_msixTable]; split <;> rfl

@[simp] theorem timingBroken_msixTable (p c : Nat) : (timingBroken s p c).msixTable = s.msixTable := by
  unfold timingBroken; dsimp only; split
  · rw [raiseEvent_msixTable]; rfl
  · rfl

@[simp] theorem markT_msixTable (c : Nat) : (markT s c).msixTable = s.msixTable := by
  unfold markT; split
  · exact timingBroken_msixTable s _ _
  · rfl

@[simp] theorem markUnlocked_msixTable (c va n : Nat) : (markUnlocked s c va n).msixTable = s.msixTable := by
  unfold markUnlocked; split
  · rfl
  · exact markT_msixTable s _

@[simp] theorem markUses_msixTable (c : Nat) (l : List (Nat × Nat)) : (markUses s c l).msixTable = s.msixTable := by
  unfold markUses
  induction l generalizing s with
  | nil => rfl
  | cons a l ih => exact (ih _).trans (markUnlocked_msixTable s c a.1 a.2)

/-- Outside a timed plot nothing is marked. -/
theorem timingBroken_untimed (p c : Nat) (h : (s.plotAt p).timed = false) : timingBroken s p c = s := by
  unfold timingBroken; simp [h]

theorem markT_untimed (c : Nat) (h : (s.plotAt (s.ctxAt c).plot).timed = false) : markT s c = s := by
  unfold markT; split
  · exact timingBroken_untimed s _ _ h
  · rfl

/-- The use of locked pages, or of any page outside a timed plot, marks nothing. -/
theorem markUnlocked_quiet (c va n : Nat)
    (h : (s.plotAt (s.ctxAt c).plot).timed = false ∨ ∀ p, p ∈ rangePieces va n → p.1 / 65536 ∈ (s.ctxAt c).locked) :
    markUnlocked s c va n = s := by
  unfold markUnlocked
  split
  · rfl
  · rename_i hn
    rcases h with h | h
    · exact markT_untimed s c h
    · exact absurd (List.all_eq_true.mpr (fun p hp => decide_eq_true (h p hp))) hn

end Sys2Proof.Laws
end

