-- ==== Sys2Proof/WellFormed.lean ====
section
/-! DEFINITION. Which commands are well formed: the numbers a command names lie in the ranges the spec gives them. The
meanings do not rest on it: a command that is not well formed has a meaning too. -/

namespace Sys2Proof

/-- A logical core, 0 to 127 (R19). -/
def coreOk (n : Nat) : Bool := decide (n < 128)
/-- A physical core, 0 to 143 (R18). -/
def physOk (n : Nat) : Bool := decide (n < 144)
/-- A control core of a logical core (R303). -/
def hartOk (h : Hart) : Bool := coreOk h.core
/-- A context, 0 to 4,095 (R379). -/
def ctxOk (n : Nat) : Bool := decide (n < 4096)
/-- A ring of a context, 0 to 3 (R339). -/
def ringOk (n : Nat) : Bool := decide (n < 4)
/-- A descriptor number of 32 bits (R340). -/
def slotOk (n : Nat) : Bool := decide (n < 2 ^ 32)
/-- The name of a RUN (R340). -/
def runOk (k : RunKey) : Bool := ctxOk k.ctx && ringOk k.ring && slotOk k.slot
/-- A plot, 0 to 63 (R388). -/
def plotOk (n : Nat) : Bool := decide (n < 64)
/-- A boundary link, or a lane of one, 0 to 7 (R218, R221). -/
def linkOk (n : Nat) : Bool := decide (n < 8)
/-- A group entry, 0 to 15 (R229). -/
def groupOk (n : Nat) : Bool := decide (n < 16)
/-- A field port (R418). -/
def portOk (n : Nat) : Bool := decide (n < 2)
/-- A service entry, 0 to 7 (R425). -/
def svcOk (n : Nat) : Bool := decide (n < 8)
/-- A replica, 0 to 63 (R103). -/
def replicaOk (n : Nat) : Bool := decide (n < 64)
/-- An entropy source, 0 to 7 (R253). -/
def sourceOk (n : Nat) : Bool := decide (n < 8)
/-- A chip identifier of 10 bits (R224). -/
def chipOk (n : Nat) : Bool := decide (n < 1024)
/-- A step of 48 bits (R162). -/
def stepOk (n : Nat) : Bool := decide (n < 2 ^ 48)
/-- A nonce of SPDM has 32 bytes (R476). -/
def nonceOk (l : List Byte) : Bool := decide (l.length = 32)
/-- A flit has 256 bytes (R219). -/
def flitOk (l : List Byte) : Bool := decide (l.length = 256)
/-- An image of a guarded register or accumulator has 64 bytes (R50, R239). -/
def imageOk (l : List Byte) : Bool := decide (l.length = 64)
/-- A temperature of 8 bits (R502). -/
def tempOk (n : Nat) : Bool := decide (n < 256)
/-- A die: four compute dies and the I/O die (R16). -/
def dieOk (n : Nat) : Bool := decide (n < 5)
/-- An access of 1 to 8 bytes within BAR0 (R490), or of the two registers of configuration space that stand after it (log
entry 66). -/
def sizeOk (off size : Nat) : Bool := decide (1 ≤ size ∧ size ≤ 8 ∧ off < 2 ^ 26 + 16)
/-- A MAC address of 48 bits (R433). -/
def macOk (n : Nat) : Bool := decide (n < 2 ^ 48)
/-- A frame of at most 1,522 bytes (R418). -/
def frameFits (f : RxFrame) : Bool :=
  macOk f.src && macOk f.dst && decide (f.bytes.length ≤ 1504) && decide (f.etherType < 65536)
/-- A link-state record: eight links (R227). -/
def recOk (r : LinkState) : Bool := chipOk r.chip && decide (r.seq < 65536) && decide (r.links.length = 8)
/-- A page number of a 64-bit address space (R400). -/
def pageOk (n : Nat) : Bool := decide (n < 2 ^ 52)
/-- An HBM4 channel, 32k + c (R447). -/
def chanOk (n : Nat) : Bool := decide (n < 256)
/-- A parcel is not empty (R123). -/
def parcelOk (p : Parcel) : Bool := coreOk p.core && decide (p.x0 < p.x1) && decide (p.y0 < p.y1)
/-- A BAR4 access: a write carries as many bytes as it says (R497). -/
def lenOk (write : Bool) (len : Nat) (data : List Byte) : Bool :=
  decide (1 ≤ len) && (!write || decide (data.length = len))
/-- Parity errors name dense banks, 0 to 11 (R192). -/
def parityOk (p : List (Nat × Bool)) : Bool := p.all (fun q => decide (q.1 < 12))
/-- What a bring-up finds names units that exist (R443). -/
def foundOk (f : BringUp) : Bool :=
  f.badCores.all physOk && f.badBanks.all (fun n => decide (n < 1728)) && f.badChans.all chanOk &&
    f.badDdr.all (fun n => decide (n < 24)) && f.badLinks.all linkOk && f.badPorts.all portOk && f.noPll.all dieOk &&
    f.noSign.all (fun n => decide (n < 4)) && f.noTrain.all chanOk && f.noTrainDdr.all (fun n => decide (n < 24)) &&
    f.dimms.all (fun d => decide (d.chan < 24))

/-- Whether a command is well formed. -/
def wellFormed (i : Instr) : Bool :=
  match i with
  | .add h _ _ _ => hartOk h
  | .sub h _ _ _ => hartOk h
  | .and h _ _ _ => hartOk h
  | .or h _ _ _ => hartOk h
  | .xor h _ _ _ => hartOk h
  | .shl h _ _ _ => hartOk h
  | .shr h _ _ _ => hartOk h
  | .sar h _ _ _ => hartOk h
  | .slt h _ _ _ => hartOk h
  | .sltu h _ _ _ => hartOk h
  | .mul h _ _ _ => hartOk h
  | .mulh h _ _ _ => hartOk h
  | .mulhu h _ _ _ => hartOk h
  | .divu h _ _ _ => hartOk h
  | .remu h _ _ _ => hartOk h
  | .minu h _ _ _ => hartOk h
  | .maxu h _ _ _ => hartOk h
  | .popc h _ _ => hartOk h
  | .clz h _ _ => hartOk h
  | .addi h _ _ _ => hartOk h
  | .andi h _ _ _ => hartOk h
  | .ori h _ _ _ => hartOk h
  | .xori h _ _ _ => hartOk h
  | .shli h _ _ _ => hartOk h
  | .shri h _ _ _ => hartOk h
  | .sari h _ _ _ => hartOk h
  | .slti h _ _ _ => hartOk h
  | .sltiu h _ _ _ => hartOk h
  | .ldk h _ _ => hartOk h
  | .apk h _ _ => hartOk h
  | .ldb h _ _ _ => hartOk h
  | .ldh h _ _ _ => hartOk h
  | .ldw h _ _ _ => hartOk h
  | .ldws h _ _ _ => hartOk h
  | .ldd h _ _ _ => hartOk h
  | .stb h _ _ _ => hartOk h
  | .sth h _ _ _ => hartOk h
  | .stw h _ _ _ => hartOk h
  | .std h _ _ _ => hartOk h
  | .amoadd h _ _ _ => hartOk h
  | .beq h _ _ _ => hartOk h
  | .bne h _ _ _ => hartOk h
  | .blt h _ _ _ => hartOk h
  | .bge h _ _ _ => hartOk h
  | .bltu h _ _ _ => hartOk h
  | .bgeu h _ _ _ => hartOk h
  | .jal h _ _ => hartOk h
  | .jalr h _ _ _ => hartOk h
  | .undefinedInstruction h => hartOk h
  | .issue h _ _ => hartOk h
  | .dma h _ _ => hartOk h
  | .ewait h _ _ => hartOk h
  | .epoll h _ _ => hartOk h
  | .edrain h _ => hartOk h
  | .fence h => hartOk h
  | .waitValue h _ _ _ _ => hartOk h
  | .signal h _ _ _ _ => hartOk h
  | .cbarrier h => hartOk h
  | .rbarrier h => hartOk h
  | .enqueue h _ _ _ => hartOk h
  | .waitQueue h _ _ _ => hartOk h
  | .qpost h _ _ _ => hartOk h
  | .seed h _ => hartOk h
  | .readTime h _ _ => hartOk h
  | .rdid h _ _ => hartOk h
  | .benchmark h _ _ _ => hartOk h
  | .yieldSlice h => hartOk h
  | .trap h _ _ => hartOk h
  | .endProgram h _ => hartOk h
  | .spinTraverse core cut => coreOk core && cut.all parcelOk
  | .tableLoad core => coreOk core
  | .spinSchedule core cut => coreOk core && cut.all parcelOk
  | .exchTableLoad core => coreOk core
  | .stripIssue core replica step _ _ _ => coreOk core && replicaOk replica && stepOk step
  | .easementMessage dst src step replica _ => coreOk dst && coreOk src && stepOk step && replicaOk replica
  | .traverseBoundary run _ => runOk run
  | .denseMatmul core parity => coreOk core && parityOk parity
  | .denseAnneal core parity => coreOk core && parity.all (fun p => coreOk p.1 && decide (p.2.1 < 12))
  | .denseConvert core => coreOk core
  | .combine core => coreOk core
  | .convert core => coreOk core
  | .rotate core => coreOk core
  | .readout core => coreOk core
  | .energy core parity => coreOk core && parityOk parity
  | .exchange core => coreOk core
  | .axpy core => coreOk core
  | .dmaCommand core => coreOk core
  | .commandComplete core _ => coreOk core
  | .waitValuePoll => true
  | .tailDoorbell ctx ring _ => ctxOk ctx && ringOk ring
  | .cqHeadDoorbell ctx ring _ => ctxOk ctx && ringOk ring
  | .descriptorFetch ctx ring => ctxOk ctx && ringOk ring
  | .nop ctx ring => ctxOk ctx && ringOk ring
  | .run ctx ring => ctxOk ctx && ringOk ring
  | .runDispatch run => runOk run
  | .runComplete run => runOk run
  | .wait ctx ring => ctxOk ctx && ringOk ring
  | .signalDescriptor ctx ring => ctxOk ctx && ringOk ring
  | .copy ctx ring => ctxOk ctx && ringOk ring
  | .fenceDescriptor ctx ring => ctxOk ctx && ringOk ring
  | .descriptorComplete ctx ring slot => ctxOk ctx && ringOk ring && slotOk slot
  | .priResponse ctx page _ => ctxOk ctx && pageOk page
  | .priTimeout ctx page => ctxOk ctx && pageOk page
  | .start ctx ring => ctxOk ctx && ringOk ring
  | .stop ctx ring => ctxOk ctx && ringOk ring
  | .retryCompletions ctx ring => ctxOk ctx && ringOk ring
  | .ringHeadWrite ctx ring _ => ctxOk ctx && ringOk ring
  | .runTimeout run => runOk run
  | .drainWindowExpiry run stuck => runOk run && stuck.all (fun p => coreOk p.1)
  | .timeSliceEnd plot => plotOk plot
  | .enable ctx _ => ctxOk ctx
  | .plotValid ctx _ plot => ctxOk ctx && plotOk plot
  | .reset ctx => ctxOk ctx
  | .abortFault ctx => ctxOk ctx
  | .resume ctx => ctxOk ctx
  | .ctxInvalPages ctx page _ => ctxOk ctx && pageOk page
  | .ctxInvalAll ctx => ctxOk ctx
  | .invalidationComplete ctx => ctxOk ctx
  | .atsInvalidation ctx page state => ctxOk ctx && pageOk page && decide (state ≤ 2)
  | .snapshotRequest ctx => ctxOk ctx
  | .patrolScrub _ _ _ => true
  | .postPackageRepair channel _ _ => chanOk channel
  | .configure plot => plotOk plot
  | .release plot => plotOk plot
  | .reconfigure plot => plotOk plot
  | .bar4Access write _ len data => lenOk write len data
  | .registerWrite off size _ => sizeOk off size
  | .linkSignalDetect link => linkOk link
  | .linkDownRetry link _ => linkOk link
  | .linkTrainingComplete link _ => linkOk link
  | .linkTrainingTimeout link => linkOk link
  | .identifyExchange link _ => linkOk link
  | .lossOfSignal link => linkOk link
  | .laneLoss link lane => linkOk link && linkOk lane
  | .retrain link => linkOk link
  | .retrainComplete link _ _ => linkOk link
  | .flitReceive link flit _ _ => linkOk link && flitOk flit
  | .flitNak link _ => linkOk link
  | .linkStateRecord rec => recOk rec
  | .linkStateRefresh => true
  | .topologyRecordExpiry chip => chipOk chip
  | .partnerLost link => linkOk link
  | .memberLost group chip => groupOk group && chipOk chip
  | .arm group => groupOk group
  | .join group _ => groupOk group
  | .plan group _ => groupOk group
  | .disband group => groupOk group
  | .fabricEasement group _ => groupOk group
  | .tallyPartial group step replica _ image => groupOk group && stepOk step && replicaOk replica && imageOk image
  | .fabricStop group _ lost => groupOk group && lost.all (fun c => decide (c < 1024))
  | .lockstepDigest group step _ _ => groupOk group && stepOk step
  | .entropySample source _ => sourceOk source
  | .estimateWindow source => sourceOk source
  | .conditionerBlock => true
  | .rngSettlingEnd => true
  | .drbgReseedDue => true
  | .reseed => true
  | .rawTapEnter => true
  | .rawTapExit => true
  | .tapSrc source => sourceOk source
  | .rngData => true
  | .rngRaw => true
  | .rngRequestTimeout => true
  | .coldReset found => foundOk found
  | .bootDone => true
  | .perstRelease => true
  | .warmReset found => foundOk found
  | .flr => true
  | .coreReset core => coreOk core
  | .engineReset core _ => coreOk core
  | .quiesceEnd core => coreOk core
  | .capW _ => true
  | .deepIdle _ => true
  | .d3hot => true
  | .d0 => true
  | .coreRetain core => coreOk core
  | .coreOff core => coreOk core
  | .chipIdle => true
  | .chipWake => true
  | .creditPeriod => true
  | .thermalSensorRead dies => dies.all tempOk
  | .throttleStep die => dieOk die
  | .railFailure => true
  | .surveyRound => true
  | .surveyTestComplete core _ => physOk core
  | .lldpTransmit port => portOk port
  | .lldpduReceive port pdu => portOk port && macOk pdu.mac
  | .lldpPartnerLoss port => portOk port
  | .portLinkDown port => portOk port
  | .syncReceive port _ _ _ => portOk port
  | .syncTimeout port => portOk port
  | .holdoverExpiry port => portOk port
  | .measurement port frame => portOk port && frameFits frame
  | .serviceInstant svc => svcOk svc
  | .decisionRead svc => svcOk svc
  | .decisionTransmit svc => svcOk svc
  | .svcStart svc _ => svcOk svc
  | .svcStop svc => svcOk svc
  | .svcResume svc => svcOk svc
  | .getVersion _ code => decide (code < 256 ∧ code ∉ [0xE1, 0xE3, 0x81, 0x82, 0x83, 0xE0])
  | .getCapabilities _ _ => true
  | .negotiateAlgorithms _ _ => true
  | .getDigests _ => true
  | .getCertificate _ _ _ _ => true
  | .challenge _ _ nonce => nonceOk nonce
  | .getMeasurements _ _ _ nonce => nonceOk nonce
  | .setEndpointId eid type => decide (eid < 256 ∧ type < 128)
  | .sensorRefresh temps stackTemps _ _ => temps.all tempOk && stackTemps.all tempOk
  | .getEventLog _ _ => true
  | .getRetirementTable _ _ => true
  | .setRawTap _ source => sourceOk source
  | .readRawSamples _ => true
  | .getMap => true
  | .setPowerCap _ => true
  | .getBootStatus => true
  | .requestUpdate _ => true
  | .firmwareTransfer _ _ => true
  | .verifyComplete => true
  | .activateFirmware => true
  | .recOpen _ => true
  | .recWrite _ => true
  | .recVerify => true
  | .recAbort => true
  | .portLinkUp port => portOk port
  | .fabChipId _ chip => chipOk chip
  | .aonRstNAssert => true
  | .d3cold => true
  | .contextResetEnd ctx => ctxOk ctx
  | .groupMessage group _ => groupOk group
  | .tallyBroadcast group step tallies => groupOk group && stepOk step && tallies.all imageOk
  | .dynamicAddress address => decide (address < 128)
  | .updateAbort => true

end Sys2Proof
end

