-- ==== Sys2Proof/Tests/Slice0.lean ====
section
/-! SUPPORT. Tests: the smoke test of `wellFormed`; for every statement with hypotheses, states and operands that meet them
(theorems `wit_…`), each clause at a boundary of its range where it has one; and small checks of single steps against values
worked out from the spec (theorems `test_…`). -/

set_option Elab.async false

namespace Sys2Proof.Tests

open Sys2Proof.Machine Sys2Proof.Safety

/-! ### Well-formedness: an ill-formed command for each check, which it refuses -/

/-- Numbers of cores, control cores, contexts, rings, descriptors, plots (R18, R19, R340, R379, R388). -/
theorem test_wellFormed_refuses_core_numbers :
    ([.add ⟨128, false⟩ 1 2 3, .tableLoad 128, .surveyTestComplete 144 true, .enable 4096 true, .nop 0 4,
      .descriptorComplete 0 0 (2 ^ 32), .runComplete ⟨4096, 0, 0⟩, .runComplete ⟨0, 4, 0⟩, .runComplete ⟨0, 0, 2 ^ 32⟩,
      .configure 64, .spinTraverse 0 [⟨0, 4, 4, 0, 1⟩], .spinTraverse 0 [⟨0, 0, 1, 2, 2⟩], .drainWindowExpiry ⟨0, 0, 0⟩ [(128, .dma)],
      .denseMatmul 0 [(12, true)], .atsInvalidation 0 0 3, .priTimeout 0 (2 ^ 52)] : List Instr).all
      (fun i => !wellFormed i) = true := by decide

/-- Numbers of links, lanes, groups, ports, services, replicas, steps, sources, chips, dies, channels (R218, R229, R418,
R425, R103, R162, R253, R224, R16, R447). -/
theorem test_wellFormed_refuses_unit_numbers :
    ([.partnerLost 8, .laneLoss 0 8, .arm 16, .portLinkUp 2, .svcStop 8, .stripIssue 0 64 0 0 false 0,
      .stripIssue 0 0 (2 ^ 48) 0 false 0, .estimateWindow 8, .setRawTap true 8, .topologyRecordExpiry 1024, .throttleStep 5,
      .postPackageRepair 256 0 true, .thermalSensorRead [256], .dynamicAddress 128, .setEndpointId 256,
      .setEndpointId 8 128, .getVersion .doe 0x81, .getVersion .mctp 256] : List Instr).all
      (fun i => !wellFormed i) = true := by decide

/-- Lengths of strings and frames, sizes of accesses, addresses of 48 bits, records, findings (R219, R239, R476, R490, R497,
R433, R418, R227, R443). -/
theorem test_wellFormed_refuses_lengths :
    ([.flitReceive 0 (zeros 255) 0 0, .challenge .doe 0 (zeros 31), .tallyPartial 0 0 0 0 (zeros 63), .registerWrite 0 9 0,
      .registerWrite (2 ^ 26 + 16) 8 0, .bar4Access true 0 2 [0], .bar4Access false 0 0 [],
      .lldpduReceive 0 ⟨2 ^ 48, 0, 0, true, 1, 100, true⟩, .measurement 0 ⟨2 ^ 48, 0, true, [], 0x88B5, false⟩,
      .measurement 0 ⟨0, 0, true, zeros 1505, 0x88B5, true⟩,
      .linkStateRecord ⟨1024, 0, 0, 0, 0, List.replicate 8 ⟨0, 0, false⟩⟩, .linkStateRecord ⟨0, 0, 0, 0, 0, []⟩] : List Instr).all
      (fun i => !wellFormed i) = true := by decide +kernel

/-! ### A small block -/

/-- The core 0, control core 0. -/
def h0 : Hart := ⟨0, false⟩
/-- The RUN of the small block. -/
def k0 : RunKey := ⟨0, 0, 5⟩

/-- A program header with a data area of 128 KiB and 64 bytes of code. -/
def hdr0 : ProgHdr :=
  { flags := 0, codeBytes := 64, crc := 0, entry0 := 0, entry1 := 0, dataBytes := 131072, paramOff := 0, paramBytes := 0 }

/-- A dispatched RUN on core 0. -/
def run0 : Run :=
  { key := k0, persist := false, cores := [0], program := 0x10000, param := 0, hdr := hdr0, phase := .dispatched, status := none
    detail := 0, timedOut := false, taken := [], seeds := [7], seedWait := false, spin := none, benches := [0x0103]
    issuedOps := [], benchWait := none, block := none, ended := none }

/-- Its work: control core 0 runs, g2 holds 5, g3 holds 64, the store holds 0x11 at 64. -/
def work0 : Work := { run := some k0, store := [(64, 0x11)], cc0 := { started := true, mode := .running, regs := [(2, 5), (3, 64)] } }

/-- A chip in operation with cores 0 to 2 enabled and a spare. -/
def boot0 : Boot :=
  { aonRst := true, perst := true, bootDone := true, link := true, clocks := true, mode := 1, step := 10, enabled := [0, 1, 2]
    spares := [3], mapGood := true, dimms := 1, dimmGb := 32 }

/-- Context 0 holds plot 0; page 1 is near, page 2 host. -/
def ctx0 : Ctx := { enable := true, plotValid := true, st := 1, tlb := [(1, 0x10033), (2, 0x2003B)] }

/-- The small block, its cores 0 and 1 with credits of the period. -/
def s0 : State :=
  { boot := boot0, ctxs := [(0, ctx0)], plots := [(0, { mask := 3, st := 1, holder := some 0 })]
    cores := [(0, { plot := some 0, work := work0 }), (1, { phys := 1, plot := some 0 }), (2, { phys := 2 })], runs := [run0]
    power := { credits := [(0, 10 ^ 200), (1, 10 ^ 200)] } }

/-- The small block with core 0's work changed. -/
def sw (f : Work → Work) : State := s0.updWork 0 f
/-- The small block with context 0 changed. -/
def sc (f : Ctx → Ctx) : State := s0.updCtx 0 f
/-- The small block with its RUN changed. -/
def sr (f : Run → Run) : State := { s0 with runs := [f run0] }
/-- The small block with a command at the head of a unit of core 0. -/
def su (u : EngineUnit) (bs : List Byte) : State := sw (fun w => w.setUnitQ u { issued := 1, queue := [⟨1, bs⟩] })
/-- 64 bytes from numbers at offsets. -/
def cmdBytes (fs : List (Nat × Nat × Nat)) : List Byte :=
  memReadN (fs.foldl (fun m f => memStore m f.1 f.2.1 f.2.2) []) 0 64


/-! ### Witnesses: control cores (11) -/

/-- The queue of the idle block is empty at reset. -/
theorem wit_StepRunsTheFrontCommand : State.reset.pending = [] := rfl

/-- Control core 0 of the small block executes. -/
theorem wit_executes : Executes s0 h0 run0 := ⟨by decide, by decide⟩

/-- One instruction of each shape, with g0 as destination too. -/
theorem wit_ArithmeticCompletes :
    (∃ P, basicResult s0 (.add h0 0 2 3) 0 = some (h0, 0, P)) ∧ (∃ P, compareResult s0 (.shl h0 31 2 3) 0 = some (h0, 31, P)) ∧
    (∃ P, productResult s0 (.divu h0 1 2 0) 0 = some (h0, 1, P)) ∧ Executes s0 h0 run0 :=
  ⟨⟨_, rfl⟩, ⟨_, rfl⟩, ⟨_, rfl⟩, wit_executes⟩

/-- A load of the last 8 bytes of the data area, at g3 + 131,000. -/
theorem wit_LoadsComplete :
    (∃ P, loadShape (.ldd h0 0 0 0) 0 0 = some (h0, 0, 0, 0, 8, P)) ∧ Executes s0 h0 run0 ∧
    AreaOk s0 h0 run0 (dataAddr s0 h0 0 0) 8 ∧ AreaOk s0 h0 run0 131064 8 :=
  ⟨⟨_, rfl⟩, wit_executes, ⟨by decide, by decide, by decide⟩, ⟨by decide, by decide, by decide⟩⟩

/-- A store and an AMOADD at 64; an STD to a word with an uncorrectable error. -/
theorem wit_StoresAndAtomicAddComplete :
    storeShape (.stb h0 2 3 0) = some (h0, 2, 3, 0, 1) ∧ storeShape (.std h0 2 3 0) = some (h0, 2, 3, 0, 8) ∧
    memWf (s0.workAt 0).store = true ∧ Executes s0 h0 run0 ∧ storeBad s0 0 (dataAddr s0 h0 3 0) 1 = none ∧
    AreaOk s0 h0 run0 (dataAddr s0 h0 3 0) 8 ∧ AreaOk s0 h0 run0 (reg s0 h0 3).toNat 8 ∧
    (let s := { s0 with badLines := [(Level.coreStore, 8)] }
     Executes s h0 run0 ∧ storeBad s 0 (dataAddr s h0 3 0) 8 ≠ none ∧ dataAddr s h0 3 0 % 8 = 0 ∧
     dataAddr s h0 3 0 + 8 ≤ run0.hdr.dataBytes) :=
  ⟨rfl, rfl, by decide, wit_executes, by decide, ⟨by decide, by decide, by decide⟩, ⟨by decide, by decide, by decide⟩,
   ⟨by decide, by decide⟩, by decide, by decide, by decide⟩

/-- A taken branch, one not taken, and a JALR to 64. -/
theorem wit_BranchesAndJumpsComplete :
    (∃ P, branchShape s0 (.beq h0 2 2 (-1)) = some (h0, -1, P) ∧ P) ∧
    (∃ P, branchShape s0 (.beq h0 2 3 0) = some (h0, 0, P) ∧ ¬ P) ∧ Executes s0 h0 run0 ∧ dataAddr s0 h0 3 0 % 4 = 0 :=
  ⟨⟨_, rfl, rfl⟩, ⟨_, rfl, by decide⟩, wit_executes, by decide⟩

/-- A core that has no code: the word fetched at its PC is undefined only where the code says so. -/
theorem wit_TrapsEndTheirRun :
    let s := s0.updCore 0 (fun c => { c with code := [0xFFFFFFFF] })
    Executes s h0 run0 ∧ drabelDefined (fetchWord (s.coreAt 0) (s.hart h0).pc.toNat) = false :=
  ⟨⟨by decide, by decide⟩, by decide⟩

/-- A misaligned load, one that begins at the last byte of the data area, an AMOADD at 5 and one at 131,072, a JALR to 5,
and a PC at the end of the code. -/
theorem wit_BadAccessesTrap :
    (∃ P, loadShape (.ldh h0 1 2 0) 0 0 = some (h0, 1, 2, 0, 2, P)) ∧ dataAddr s0 h0 2 0 % 2 ≠ 0 ∧
    dataAddr (sw (fun w => { w with cc0 := { w.cc0 with regs := [(2, 131072)] } })) h0 2 0 % 1 = 0 ∧
    run0.hdr.dataBytes < dataAddr (sw (fun w => { w with cc0 := { w.cc0 with regs := [(2, 131072)] } })) h0 2 0 + 1 ∧
    (reg s0 h0 2).toNat % 8 ≠ 0 ∧
    (let s := sw (fun w => { w with cc0 := { w.cc0 with regs := [(2, 131072)] } })
     Executes s h0 run0 ∧ (reg s h0 2).toNat % 8 = 0 ∧ run0.hdr.dataBytes < (reg s h0 2).toNat + 8) ∧
    dataAddr s0 h0 2 0 % 4 ≠ 0 ∧ Executes s0 h0 run0 ∧
    (let s := sw (fun w => { w with cc0 := { w.cc0 with pc := 64 } })
     hartOf (.fence h0) = some h0 ∧ hartReady s h0 = some run0 ∧ run0.hdr.codeBytes ≤ (s.hart h0).pc.toNat) :=
  ⟨⟨_, rfl⟩, by decide, by decide, by decide, by decide, ⟨⟨by decide, by decide⟩, by decide, by decide⟩, by decide,
   wit_executes, rfl, by decide, by decide⟩

/-- Control core 1 was not started. -/
theorem wit_OnlyReadyControlCoresExecute : hartOf (.fence ⟨0, true⟩) = some ⟨0, true⟩ ∧ hartReady s0 ⟨0, true⟩ = none :=
  ⟨rfl, by decide⟩

/-- A COMBINE at 64, and a DMA command, in queues that hold 15. -/
theorem wit_IssueAndDmaComplete :
    let s := sw (fun w => { w with store := [(64, 0x41)], vecU := { queue := List.replicate 15 ⟨1, []⟩ } })
    unitOf (storeNat s 0 (reg s h0 3).toNat 1) = some .vector ∧ Executes s h0 run0 ∧
    AreaOk s h0 run0 (reg s h0 3).toNat 64 ∧ ((s.workAt 0).unitQ .vector).queue.length < 16 ∧
    ((s.workAt 0).unitQ .dma).queue.length < 16 :=
  ⟨by decide, ⟨by decide, by decide⟩, ⟨by decide, by decide, by decide⟩, by decide, by decide⟩

/-- A ticket whose command has completed, one whose command has not, and a core without commands. -/
theorem wit_TicketWaitsComplete :
    (let s := sw (fun w => { w with
      dmaU := { issued := 2, queue := [⟨2, []⟩], done := [(1, 0)] }, cc0 := { w.cc0 with regs := [(2, 1), (3, 2)] } })
     Executes s h0 run0 ∧ ticketStatus (s.workAt 0) (reg s h0 2).toNat = some (some 0) ∧
     ticketStatus (s.workAt 0) (reg s h0 3).toNat = some none) ∧
    Executes s0 h0 run0 ∧ (∀ u, ((s0.workAt 0).unitQ u).queue = []) :=
  ⟨⟨⟨by decide, by decide⟩, by decide, by decide⟩, wit_executes, fun u => by cases u <;> decide⟩

/-- In a block whose contexts are those of the small block no ring is configured, so no WAIT is next. -/
theorem wit_no_wait_is_next (s : State) (e : s.ctxs = s0.ctxs) : ∀ c n, nextOf s c n 2 [1, 2] = none := by
  intro c n
  have h : (s.ringAt c n).configured = false := by
    simp only [State.ringAt, State.ctxAt, e, s0, tabGet]
    split <;> rfl
  simp [nextOf, h]

/-- The word at 0x10000 is 0, g2 is 0 there and g1 names it. -/
theorem wit_WaitValueAndSignalComplete :
    let s := sw (fun w => { w with cc0 := { w.cc0 with regs := [(1, 0x10000)] } })
    Executes s h0 run0 ∧ (reg s h0 1).toNat % 8 = 0 ∧ Reaches s run0 (reg s h0 1).toNat 8 false ∧
    Reaches s run0 (reg s h0 1).toNat 8 true ∧ Quiet s run0 (reg s h0 1).toNat 8 ∧
    (reg s h0 2).toNat ≤ vaLoad s 0 (reg s h0 1).toNat 8 ∧ vaLoad s 0 (reg s h0 1).toNat 8 = (reg s h0 2).toNat ∧
    vaLoad s 0 (reg s h0 1).toNat 8 &&& (reg s h0 3).toNat = (reg s h0 2).toNat &&& (reg s h0 3).toNat ∧
    (∀ u, ((s.workAt 0).unitQ u).queue = []) :=
  ⟨⟨by decide, by decide⟩, by decide, by decide, by decide, .inl (by decide), by decide, by decide, by decide,
   fun u => by cases u <;> decide⟩

/-- A waiting control core and a poll that finds its value. -/
theorem wit_WaitValueAndSignalComplete_poll :
    let p := sw (fun w => { w with cc0 := { w.cc0 with mode := .waiting, wait := .value 0x10000 0 0 .eq } })
    hartReady p h0 = some run0 ∧ h0.core ∈ run0.cores ∧ (p.hart h0).mode = .waiting ∧
    (p.hart h0).wait = .value 0x10000 0 0 .eq ∧ Reaches p run0 0x10000 8 false ∧
    meets .eq (BitVec.ofNat 64 (vaLoad p 0 0x10000 8)) 0 0 = true ∧ (∀ c n, nextOf p c n 2 [1, 2] = none) :=
  ⟨by decide, by decide, by decide, by decide, by decide, by decide, wit_no_wait_is_next _ rfl⟩

/-- Control core 1 was not started, and the RUN has one core; and a block whose control core 1 waits at CBARRIER, and whose
second core waits at RBARRIER, for the last arrival. -/
theorem wit_BarriersComplete :
    (Executes s0 h0 run0 ∧ (s0.hart h0).mode = .running ∧ (s0.hart ⟨0, true⟩).started = false ∧ h0.core ∈ run0.cores ∧
     (∀ k, k ∈ run0.cores → k ≠ 0 → (s0.workAt 0).rbars + 1 ≤ (runWork s0 run0 k).rbars ∨ workEnded (runWork s0 run0 k) = true)) ∧
    (let s := sw (fun w => { w with cc1 := { started := true, mode := .waiting, wait := .cbarrier, cbars := 1 } })
     (s.hart h0).cbars + 1 ≤ (s.hart ⟨0, true⟩).cbars ∧ hartReady s ⟨0, true⟩ = some run0 ∧
     (s.hart ⟨0, true⟩).mode = .waiting ∧ (s.hart ⟨0, true⟩).wait = .cbarrier ∧ (s.hart ⟨0, true⟩).cbars = (s.hart h0).cbars + 1) ∧
    (let r : Run := { run0 with cores := [0, 1] }
     let w : Work := { work0 with rbars := 1, cc0 := { started := true, mode := .waiting, wait := .rbarrier } }
     let s : State := { s0 with runs := [r], cores := [(0, { plot := some 0, work := work0 }), (1, { plot := some 0, work := w })] }
     Executes s h0 r ∧ (∀ k, k ∈ r.cores → k ≠ 0 →
       (s.workAt 0).rbars + 1 ≤ (runWork s r k).rbars ∨ workEnded (runWork s r k) = true) ∧
     hartReady s ⟨1, false⟩ = some r ∧ (s.hart ⟨1, false⟩).mode = .waiting ∧ (s.hart ⟨1, false⟩).wait = .rbarrier ∧
     (s.workAt 1).rbars = (s.workAt 0).rbars + 1) :=
  ⟨⟨wit_executes, by decide, by decide, by decide, by decide⟩, by decide, ⟨by decide, by decide⟩, by decide, by decide,
   by decide, by decide, by decide⟩

/-- A ring of 64 at page 1 with 63 entries, one that is full, and one that is not configured. -/
theorem wit_EnqueueCompletes :
    let s := sc (fun c => { c with rings :=
      [(0, { base := 0x10000, cfg := 6, configured := true, tail := 63 }), (1, { base := 0x10000, cfg := 6, configured := true, tail := 64 })] })
    Executes s h0 run0 ∧ (reg s h0 3).toNat % 64 = 0 ∧ (reg s h0 3).toNat + 64 ≤ run0.hdr.dataBytes ∧
    (∀ u, ((s.workAt 0).unitQ u).queue = []) ∧ (s.ringAt 0 0).configured = true ∧
    ringCount (s.ringAt 0 0) ≠ 2 ^ ringLog (s.ringAt 0 0) ∧ Reaches s run0 (slotVa (s.ringAt 0 0) (s.ringAt 0 0).tail) 64 true ∧
    (s.ringAt 0 1).configured = true ∧ ringCount (s.ringAt 0 1) = 2 ^ ringLog (s.ringAt 0 1) ∧ (s.ringAt 0 3).configured = false :=
  ⟨⟨by decide, by decide⟩, by decide, by decide, fun u => by cases u <;> decide, by decide, by decide, by decide, by decide,
   by decide, by decide⟩

/-- A queue of one entry at 0x10000 that holds an entry, and one with room; g1 names it, g3 the core store. -/
theorem wit_StakeQueuesComplete :
    let s := { (sw (fun w => { w with cc0 := { w.cc0 with regs := [(1, 0x10000), (3, 64)] } })) with near := [(0x10000, 1)] }
    Executes s h0 run0 ∧ (reg s h0 1).toNat % 64 = 0 ∧ AreaOk s h0 run0 (reg s h0 3).toNat 16 ∧ run0.taken = [] ∧
    tabGet 0 (s.workAt 0).wqs (reg s h0 1).toNat = 0 ∧ Reaches s run0 0x10000 64 false ∧ Reaches s run0 0x10008 8 true ∧
    vaLoad s 0 0x10010 1 ≤ 12 ∧ vaLoad s 0 0x10000 8 ≠ vaLoad s 0 0x10008 8 ∧ Reaches s run0 0x10040 16 false ∧
    fieldOf (vaRead s 0 0x10040 16) 0 8 = 0 ∧
    (let e := { s with near := [] }
     Executes e h0 run0 ∧ Reaches e run0 0x10000 8 true ∧ Reaches e run0 0x10040 16 true ∧
     (vaLoad e 0 0x10000 8 + 2 ^ 64 - vaLoad e 0 0x10008 8) % 2 ^ 64 ≠ 2 ^ vaLoad e 0 0x10010 1) :=
  ⟨⟨by decide, by decide⟩, by decide, ⟨by decide, by decide, by decide⟩, rfl, by decide, by decide, by decide, by decide,
   by decide, by decide, by decide, ⟨by decide, by decide⟩, by decide, by decide, by decide⟩

/-- A RUN with one seed drawn and one benchmark taken; identity selector 7, time selector 2. -/
theorem wit_IdentitySeedAndTimeReadsComplete :
    Executes s0 h0 run0 ∧ (s0.workAt 0).issuedAny = false ∧ run0.seeds[(s0.workAt 0).seeds]? = some 7 ∧
    (1 : BitVec 8).toNat ≤ 1 ∧ (reg s0 h0 3).toNat % 16 = 0 ∧ (reg s0 h0 3).toNat + 16 ≤ run0.hdr.dataBytes ∧
    s0.findRun run0.key = some run0 ∧ run0.benches[(s0.workAt 0).benches]? = some 0x0103 ∧ (7 : BitVec 8).toNat ≤ 7 ∧
    (2 : BitVec 8).toNat ≤ 2 ∧ (s0.portAt 1).time = 0 :=
  ⟨wit_executes, by decide, by decide, by decide, by decide, by decide, by decide, by decide, by decide, by decide, by decide⟩

/-- No spin run, no commands, no other context of the plot. -/
theorem wit_EndAndYieldComplete :
    Executes s0 h0 run0 ∧ run0.spin = none ∧ nextHolder s0 (s0.ctxAt 0).plot = none ∧ holdsPlot s0 0 = true ∧
    (∀ n u, ((s0.workAt n).unitQ u).queue = []) := by
  refine ⟨wit_executes, rfl, by decide, by decide, fun n u => ?_⟩
  simp only [State.workAt, State.coreAt, s0, tabGet]
  repeat' split
  all_goals cases u <;> rfl

/-! ### Witnesses: spin commands (05, 06) -/

/-- A plat of two sites at 0x10000, with two replicas. -/
def plat0 : PlatInfo :=
  { va := 0x10000, codeWidth := 0, order := 0, dimX := 2, dimY := 1, dimZ := 1, replicas := 2, spinInit := false, chains := 0
    chainSites := 0, bytes := 4096, lscaleOff := 256, zscaleOff := 320, couplOff := 384, biasOff := 512, spinOff := 576
    chainDir := 0, chainList := 0, datum := zeros 48, orgX := 0, orgY := 0, gDimX := 2, gDimY := 1, slabX0 := 0, slabX1 := 2
    slabY0 := 0, slabY1 := 1 }

/-- A SPIN_TRAVERSE command in flight for both replicas at step 0. -/
def scmd0 : SpinCmd :=
  { schedule := false, bytes := [], rule := 0, policy := 0, mask := 3, seed := 1, stream := 0, firstStep := 0, remaining := 2
    tallyOff := 0, blockVa := 0, block := none, betas := [], pos := [], entry := 0, entryDone := 0, benchNext := 0, joined := [0]
    compared := [0], step := 0, decided := [0, 0], flipping := [0, 0], resolved := [0, 0], before := [0, 0], deltas := []
    ahead := [], aheadOld := [], banded := 0, tallied := 0, tallies := [], flags := [], limit := none, tallyStep := 0, sent := [], traversesRun := 0, targetStep := 0
    targetReplica := 0, exchAttempts := 0, exchSwaps := 0, exchNan := 0, benchLastStep := 0, benchLastSlot := 0, benchCount := 0
    stopReason := 0, started := true, result := none, mail := [], wallAt := none, fin := false }

/-- The configured spin run of the small block: one parcel of both sites on core 0. -/
def spin0 : SpinRun :=
  { plat := plat0, lscale := [(0, 0)], zscale := [(0, 0)], cut := [⟨0, 0, 2, 0, 1⟩], spins := [0, 0], easement := []
    decEasement := [], cmd := none, last := none, group := none, remote := [], shadow := false, shadows := blankShadows
    streamed := false, places := [] }

/-- The small block with a spin run and a command at the head of core 0's spin unit. -/
def sp (q : SpinRun) (bs : List Byte) : State := { su .spin bs with runs := [{ run0 with spin := some q }] }

/-- A TABLE_LOAD and an EXCH_TABLE_LOAD of the last 32,768 bytes of the data area. -/
theorem wit_TableLoadsComplete :
    let b := cmdBytes [(0, 1, 0x22), (8, 4, 98304)]
    let e := cmdBytes [(0, 1, 0x24), (8, 4, 98304)]
    unitReady (su .spin b) 0 .spin = some (run0, ⟨1, b⟩) ∧ turnOf ((su .spin b).workAt 0) .spin 1 = true ∧
    fieldOf b 1 7 = 0 ∧ fieldOf b 12 52 = 0 ∧ fieldOf b 8 4 % 64 = 0 ∧ fieldOf b 8 4 + 32768 = run0.hdr.dataBytes ∧
    storeBad (su .spin b) 0 (fieldOf b 8 4) 32768 = none ∧ cmdOp b = 0x22 ∧
    unitReady (su .spin e) 0 .spin = some (run0, ⟨1, e⟩) ∧ turnOf ((su .spin e).workAt 0) .spin 1 = true ∧
    fieldOf e 1 7 = 0 ∧ fieldOf e 12 52 = 0 ∧ fieldOf e 8 4 % 64 = 0 ∧ fieldOf e 8 4 + 32768 = run0.hdr.dataBytes ∧
    storeBad (su .spin e) 0 (fieldOf e 8 4) 32768 = none ∧ cmdOp e = 0x24 := by decide +kernel

/-- A SPIN_TRAVERSE of one traverse of replica 0, the last that 2^48 steps have room for, and one of none. -/
theorem wit_SpinCommandsStart_traverse :
    ([1, 0] : List Nat).all (fun n =>
      let b := cmdBytes [(0, 1, 0x21), (4, 4, n), (8, 8, 0x10000), (16, 8, 1), (24, 4, 512), (28, 4, 1024), (32, 6, 2 ^ 48 / 18 * 18 - 18)]
      let s := sp spin0 b
      let r : Run := { run0 with spin := some spin0 }
      let s1 := s.updWork 0 (fun w => { w with spinU := { w.spinU with running := true } })
      decide (unitReady s 0 .spin = some (r, ⟨1, b⟩)) && decide (turnOf (s.workAt 0) .spin 1 = true) && decide (r.cores ≠ []) &&
      decide (∀ n, n ∈ r.cores → spinHead (runWork s1 r n) = some b) && decide (armStoreBad s1 r b = none) &&
      affords s1 0 (nearCost s1 0 (startReads s1 spin0 b [])) && decide (spin0.cmd = none) && decide (groupOf s 0 = none) && decide (spin0.plat.spinInit = false) &&
      decide (∀ k, k ∈ namedReplicas (fieldOf b 16 8) →
        laccFinite (laccOfImage ((tallyArray s1 (r.cores.headD 0) b).getD k [])) = true) &&
      decide (cmdOp b = 0x21) && decide (travFirst r b (betaArray s1 (r.cores.headD 0) b) = none) &&
      decide (travSecond plat0 b = none) && decide (fieldOf b 4 4 = n)) = true := by decide +kernel

/-- A SPIN_SCHEDULE whose run block at 0x11000 names a table at 0x12000 with one entry of one traverse, and a record at
0x13000; at ENTRY 0, and at ENTRY 1, which is ENTRY_COUNT. -/
theorem wit_SpinCommandsStart_schedule :
    ([0, 1] : List Nat).all (fun e =>
      let b := cmdBytes [(0, 1, 0x23), (8, 8, 0x10000), (16, 8, 1), (24, 8, 0x11000), (32, 4, 1024)]
      let near := memStore (memStore (memStore (memStore (memStore [] 0x11000 2 1) 0x11008 8 0x12000) 0x11020 8 0x13000) 0x12004 4 1) 0x11080 2 e
      let s := { sp spin0 b with near := near }
      let r : Run := { run0 with spin := some spin0 }
      let s1 := s.updWork 0 (fun w => { w with spinU := { w.spinU with running := true } })
      decide (unitReady s 0 .spin = some (r, ⟨1, b⟩)) && decide (turnOf (s.workAt 0) .spin 1 = true) &&
      decide (∀ n, n ∈ r.cores → spinHead (runWork s1 r n) = some b) && decide (armStoreBad s1 r b = none) &&
      decide (groupOf s 0 = none) &&
      decide (∀ k, k ∈ namedReplicas (fieldOf b 16 8) →
        laccFinite (laccOfImage ((tallyArray s1 (r.cores.headD 0) b).getD k [])) = true) &&
      decide (cmdOp b = 0x23) && decide (schedFirst s1 r b = none) &&
      (match checkSecond s1 r plat0 b none with
        | .ok blk =>
          decide (blockCaptures b blk = false) && affords s1 0 (nearCost s1 0 (startReads s1 spin0 b blk) +
            nearCost s1 0 [(fieldOf b 24 8 + 130, 2), (fieldOf blk 32 8, 128)]) &&
          affords s1 0 (nearCost s1 0 (startReads s1 spin0 b blk)) &&
          if e = 0 then
            decide ((nextEntry (parseBlock blk) (fieldOf blk 128 2) (fieldOf blk 132 4)).1 < (parseBlock blk).entries.length)
          else decide (fieldOf blk 128 2 = fieldOf blk 0 2) && recordOk s 0 (fieldOf blk 32 8) &&
            decide (Reaches s r (fieldOf b 24 8 + 130) 2 true) && decide (Reaches s r (fieldOf blk 32 8) 128 true)
        | _ => false)) = true := by decide +kernel

/-- Site 0 of replica 0 at step 0, the other replica still undecided; the same for a core without credits; the same site beside
a parcel of another core whose bits have not come. -/
theorem wit_StripsDecideTheirSites :
    let q : SpinRun := { spin0 with cmd := some scmd0 }
    let s := sp q []
    let r : Run := { run0 with spin := some q }
    let par : Parcel := ⟨0, 0, 2, 0, 1⟩
    let sites : List Site := [⟨0, 0, 0⟩]
    let poor : State := { s with power := {} }
    s.runOf 0 = some r ∧ q.cut.find? (fun t => decide (t.core = 0)) = some par ∧ mayStrip s r q scmd0 par 0 0 false = true ∧
    scmd0.limit = none ∧ scmd0.result = none ∧ 0 < q.spins.length ∧ 0 < (decidedOf q scmd0 0).length ∧ 0 < scmd0.flipping.length ∧
    q.plat.order = 0 ∧ (parcelStrips q.plat par (0 % platSteps q.plat))[0]? = some sites ∧
    (sites.map (siteLin q.plat)).Nodup ∧ armBad s r 0 = none ∧ placeLost s 0 q 0 = none ∧
    readsStop s 0 (stripReads q.plat sites) = none ∧ affords s 0 (stripCost s 0 q scmd0 0 0 1 false) = true ∧
    stripGoes s q scmd0 0 0 0 sites false = true ∧ mayStrip poor r q scmd0 par 0 0 false = true ∧
    affords poor 0 (stripCost poor 0 q scmd0 0 0 1 false) = false ∧
    (let ds := decideStrip q scmd0 (platByte s 0 q.plat.va) (s.ctxAt 0).accTable 0 0 0 sites
     ∀ c', (applyStrip q scmd0 0 0 ds).cmd = some c' → phaseDone q c' scmd0.tallied = false) ∧
    (let q2 : SpinRun := { q with cut := [⟨0, 0, 1, 0, 1⟩, ⟨1, 1, 2, 0, 1⟩] }
     let s2 := sp q2 []
     mayStrip s2 { r with spin := some q2 } q2 scmd0 ⟨0, 0, 1, 0, 1⟩ 0 0 false = true ∧
     (parcelStrips q2.plat ⟨0, 0, 1, 0, 1⟩ 0)[0]? = some sites ∧ stripGoes s2 q2 scmd0 0 0 0 sites false = false) :=
  ⟨by decide, by decide, by decide, by decide, by decide, by decide, by decide, by decide, by decide, by decide,
   by decide, by decide, by decide, by decide +kernel, by decide +kernel, by decide +kernel, by decide +kernel, by decide +kernel,
   fun c' h => by cases h; decide +kernel, by decide +kernel⟩

/-- A strip of a group's run; and under SYNC a strip of one site, undecided, and decided and to be resolved. -/
theorem wit_StripsDecideTheirSites_others :
    let par : Parcel := ⟨0, 0, 2, 0, 1⟩
    let may (q : SpinRun) (c : SpinCmd) (sites : List Site) (resolve : Bool) : Bool :=
      let s := sp q []
      let r : Run := { run0 with spin := some q }
      decide (s.runOf 0 = some r) && mayStrip s r q c par 0 0 resolve && decide ((parcelStrips q.plat par 0)[0]? = some sites) &&
      decide (0 < (decidedOf q c 0).length) && decide (armBad s r 0 = none) && decide (placeLost s 0 q 0 = none) &&
      decide (readsStop s 0 (stripReads q.plat sites) = none) && affords s 0 (stripCost s 0 q c 0 0 sites.length resolve) &&
      stripGoes s q c 0 0 0 sites resolve
    let sync (c : SpinCmd) : SpinRun := { spin0 with plat := { plat0 with order := 1 }, cmd := some c }
    let done : SpinCmd := { scmd0 with decided := [3, 3], flipping := [1, 0] }
    may { spin0 with cmd := some scmd0, group := some 0 } scmd0 [⟨0, 0, 0⟩] false = true ∧
    may (sync scmd0) scmd0 [⟨0, 0, 0⟩] false = true ∧ may (sync done) done [⟨0, 0, 0⟩] true = true := by decide +kernel

/-- Two parcels of one site each, and a message of each kind that has not arrived: a start message, the bits of step 0, and
the decisions of a SYNC step; and a core whose spin unit is being reset. -/
theorem wit_EasementMessagesComplete :
    let cut : List Parcel := [⟨0, 0, 1, 0, 1⟩, ⟨1, 1, 2, 0, 1⟩]
    let a : Parcel := ⟨0, 0, 1, 0, 1⟩
    let b : Parcel := ⟨1, 1, 2, 0, 1⟩
    ([(startStep, 0, 0), (0, 1, 0), (0, 2, 1)] : List (Nat × Nat × Nat)).all (fun x =>
      let m := ((1, 0, x.1, 1, x.2.1), 1)
      let c : SpinCmd := { scmd0 with mail := [((0, 1, x.1, 0, x.2.1), 0), m] }
      let q : SpinRun := { spin0 with plat := { plat0 with order := x.2.2 }, cut := cut, cmd := some c }
      let r : Run := { run0 with cores := [0, 1], spin := some q }
      let s : State := { s0 with cores := [(1, { work := work0 })], runs := [r] }
      let z : State := s.updCore 1 (fun y => { y with quiesce := 1 })
      decide (s.runOf 1 = some r) && decide (q.cut.find? (fun t => decide (t.core = 0)) = some a) &&
      decide (q.cut.find? (fun t => decide (t.core = 1)) = some b) &&
      decide (c.mail.find? (fun e => decide (e.1.1 = 1 ∧ e.1.2.1 = 0)) = some m) && unitQuiet (s.coreAt 1) .spin &&
      decide (bandSites q.plat a b = [⟨0, 0, 0⟩]) && decide (siteColour 0 0 0 = 0) &&
      decide (z.runOf 1 = some r) && !unitQuiet (z.coreAt 1) .spin && decide (groupOf z 0 = none) && decide (q.group = none)) =
    true := by decide +kernel

/-- A traverse of 18 steps done, two still to run, and the last one done. -/
theorem wit_TraverseBoundariesComplete :
    ([2, 1] : List Nat).all (fun n =>
      let c : SpinCmd := { scmd0 with tallied := 18, remaining := n, tallies := [zeros 48, zeros 48] }
      let q : SpinRun := { spin0 with cmd := some c }
      let s := (sp q (cmdBytes [(0, 1, 0x21)])).updWork 0 (fun w => { w with spinU := { w.spinU with running := true } })
      let r : Run := { run0 with spin := some q }
      let ws := (namedReplicas c.mask).map (planeWrite s 0 q.plat q.spins)
      decide (s.findRun k0 = some r) && decide (runActive s r = true) && decide (r.benchWait = none) &&
      decide ((s.ctxAt k0.ctx).snapRun ≠ some k0) && decide (q.group = none) && decide (c.block = none) &&
      decide (c.started = true) && decide (c.result = none) && decide (c.limit = none) &&
      decide (platSteps q.plat ≤ c.tallied) && decide (c.ahead = []) && decide (phaseMask q.plat 0 ≠ 0) &&
      decide (namedReplicas c.mask ≠ []) && decide (c.remaining = n) && decide (c.schedule = false) &&
      decide (∀ w, w ∈ ws → rangeStop s 0 w.1 w.2.length true = none) &&
      affords s 0 (nearCost s 0 (writeRanges ws)) &&
      decide (∀ m, m ∈ namedReplicas c.mask → (c.tallies.getD m []).length = 48) &&
      decide ((s.workAt 0).run = some k0) && decide ((spinHead (s.workAt 0)).isSome = true) &&
      memWf (s.workAt 0).store) = true := by decide +kernel

/-! ### Witnesses: engines, vector unit, DMA (07, 11) -/

/-- Whether the work of an engine command ends with a status. -/
def endsAs (o : EngOut) (st : Status) : Bool :=
  match o with
  | .done x _ => decide (x = st)
  | _ => false

/-- Whether core 0's credits cover a DENSE_ANNEAL whose work is given. -/
def coveredAs (s : State) (o : EngOut) (r : Run) (bs : List Byte) : Bool :=
  match o with
  | .done _ v => affords s 0 (annealCost s v r bs 0)
  | _ => false

/-- The small block with bytes of near memory from 0x10000 on, and a command at the head of a unit of core 0. -/
def sn (u : EngineUnit) (bs : List Byte) (fs : List (Nat × Nat × Nat)) : State :=
  { su u bs with near := fs.foldl (fun m f => memStore m (0x10000 + f.1) f.2.1 f.2.2) [] }

/-- DENSE_MATMUL of one BF16 product of zeros: operand block at 0x10000, output block at 0x10040. -/
theorem wit_EngineCommandsComplete_matmul :
    let b := cmdBytes [(0, 1, 0x31), (4, 4, 1), (8, 4, 1), (12, 4, 1), (24, 8, 0x10000)]
    let s := sn .dense b [(0, 8, 0x10100), (16, 8, 0x10200), (32, 8, 0x10040), (0x48, 8, 0x10300)]
    let f := fieldOf b
    let opb := vaRead s 0 (f 24 8) 64
    let ob := vaRead s 0 (fieldOf opb 32 8) 64
    let x : MatIn := ⟨b, [], [], [], [], [], [], vaRead s 0 (fieldOf opb 0 8) 64, vaRead s 0 (fieldOf opb 16 8) 64⟩
    let cells := [[outCell ob ⟨laccNum (cellBf (x.aRaw 0) (x.wRaw 0) 0 1).1, none⟩ (some 0x3F80_0000)]]
    unitReady s 0 .dense = some (run0, ⟨1, b⟩) ∧ cmdOp b = 0x31 ∧ matmulStatus b = none ∧ f 1 1 % 4 = 0 ∧ f 16 4 = 0 ∧
    (s.coreAt 0).bankGood = 0xFFF ∧ Fetches s run0 (f 24 8) 64 ∧ operandBad opb = false ∧ fieldOf opb 8 8 = 0 ∧
    fieldOf opb 24 8 = 0 ∧ fieldOf opb 32 8 ≠ 0 ∧ fieldOf opb 40 8 = 0 ∧ Fetches s run0 (fieldOf opb 32 8) 64 ∧
    outStatus ob 1 1 false = none ∧ fieldOf ob 0 1 ≤ 2 ∧ storedBytes (bitOf (f 2 1) 0) 1 1 16 = 64 ∧
    storedBytes (bitOf (f 2 1) 1) 1 1 16 = 64 ∧ Fetches s run0 (fieldOf opb 0 8) 64 ∧ Fetches s run0 (fieldOf opb 16 8) 64 ∧
    Delivers s run0 (outWrites ob 1 cells) ∧
    affords s 0 (runUp (chargeDense s run0 b (matmulBody s 0 run0 b))) = true := by decide +kernel

/-- DENSE_CONVERT of one FP32 element to SYM8 with computed scales: block at 0x10000. -/
theorem wit_EngineCommandsComplete_convert :
    let b := cmdBytes [(0, 1, 0x33), (4, 4, 1), (8, 4, 1), (16, 8, 0x10100), (24, 8, 0x10000), (32, 8, 0x10200)]
    let s := sn .dense b [(0, 1, 4), (8, 8, 0x10400), (24, 8, 0x10500)]
    let q := vaRead s 0 0x10000 64
    unitReady s 0 .dense = some (run0, ⟨1, b⟩) ∧ cmdOp b = 0x33 ∧ convertCmdStatus b = none ∧ Fetches s run0 0x10000 64 ∧
    weightBlkBad q 1 = false ∧ fieldOf q 2 1 = 0 ∧ fieldOf q 40 8 = 0 ∧ 0x10200 + 1 * rowPad 1 (fmtWidth (qFmt q)) ≤ 2 ^ 48 ∧
    fieldOf q 8 8 + 1 ≤ 2 ^ 48 ∧ fieldOf q 24 8 + 4 ≤ 2 ^ 48 ∧ rowPad 1 (8 * inBytes 0) = 64 ∧ Fetches s run0 0x10100 64 ∧
    Delivers s run0 [(0x10200, zeros (1 * fmtWidth (qFmt q) / 8)), (0x10500, zeros 4), (0x10400, zeros 1)] ∧
    affords s 0 (runUp (chargeDense s run0 b (denseConvertBody s run0 b))) = true := by decide +kernel

/-- DENSE_ANNEAL of one traverse of one variable, SYNC_KEEP, BF16: block at 0x10000. -/
theorem wit_EngineCommandsComplete_anneal :
    let b := cmdBytes [(0, 1, 0x32), (1, 1, 2), (4, 4, 1), (8, 8, 0x10000), (16, 8, 1), (24, 4, 512), (28, 4, 1024)]
    let s := sn .dense b [(0, 4, 1), (8, 8, 0x10100), (56, 8, 0x10200)]
    let f := fieldOf b
    let s1 := s.updWork 0 (fun w => { w with denseU := { w.denseU with running := true } })
    let ab := vaRead s 0 (f 8 8) 64
    let old := vaRead s 0 (fieldOf ab 56 8) 64
    let tallies := (tallyArray s 0 b).map laccOfImage
    let x : StepIn := ⟨b, 1, ⟨⟨[], [], [], vaRead s 0 (fieldOf ab 8 8) 64, 1, 1⟩, noCodes, noCodes⟩, betaArray s 0 b, (s.ctxAt 0).accTable⟩
    let o := annealAll x 0 1 ⟨(List.range 64).map (fun k => leNat ((old.drop (k * 64)).take 1) % 2), tallies, 0, 0, false⟩
    unitReady s 0 .dense = some (run0, ⟨1, b⟩) ∧ cmdOp b = 0x32 ∧ turnOf (s.workAt 0) .dense 1 = true ∧ run0.cores ≠ [] ∧
    (∀ n, n ∈ run0.cores → annealHead (runWork s1 run0 n) = some b) ∧ annealFirst run0 b (betaArray s 0 b) = none ∧ f 1 1 = 2 ∧
    storeBad s 0 (f 24 4) 256 = none ∧ storeBad s 0 (f 28 4) 3072 = none ∧
    f 4 4 ≠ 0 ∧ (s.coreAt 0).bankGood = 0xFFF ∧ Fetches s run0 (f 8 8) 64 ∧ annealBlock b ab = none ∧ annealSecond b ab = false ∧
    fieldOf ab 16 8 = 0 ∧ fieldOf ab 40 8 = 0 ∧ fieldOf ab 0 4 = 1 ∧ rowPad 1 16 = 64 ∧ rowPad 1 1 = 64 ∧
    Fetches s run0 (fieldOf ab 8 8) 64 ∧ Fetches s run0 (fieldOf ab 56 8) 64 ∧
    (∀ k, k ∈ namedReplicas (f 16 8) → laccFinite (tallies.getD k (.fin 0)) = true) ∧ o.full = false ∧
    Delivers s run0 [(fieldOf ab 56 8 + 0 * 64, rowImage 1 (o.rows.getD 0 0) (old.take 1))] ∧
    coveredAs s1 (annealBody s1 run0 b) run0 b = true := by decide +kernel

/-- The small block without credits. -/
def poor (s : State) : State := { s with power := { s.power with credits := [] } }

/-- Commands that end otherwise: with a count of zero, and a DENSE_ANNEAL with no replica named; and a DENSE_MATMUL and a
DENSE_CONVERT whose near bytes the credits do not cover. -/
theorem wit_EngineCommandsComplete :
    (let b := cmdBytes [(0, 1, 0x31)]
     unitReady (su .dense b) 0 .dense = some (run0, ⟨1, b⟩) ∧ cmdOp b = 0x31 ∧
     endsAs (matmulBody (su .dense b) 0 run0 b) stLenZero = true ∧
     affords (su .dense b) 0 (runUp (chargeDense (su .dense b) run0 b (matmulBody (su .dense b) 0 run0 b))) = true) ∧
    (let b := cmdBytes [(0, 1, 0x33)]
     unitReady (su .dense b) 0 .dense = some (run0, ⟨1, b⟩) ∧ cmdOp b = 0x33 ∧
     endsAs (denseConvertBody (su .dense b) run0 b) stLenZero = true ∧
     affords (su .dense b) 0 (runUp (chargeDense (su .dense b) run0 b (denseConvertBody (su .dense b) run0 b))) = true) ∧
    (let b := cmdBytes [(0, 1, 0x31), (4, 4, 1), (8, 4, 1), (12, 4, 1), (24, 8, 0x10000)]
     let s := poor (sn .dense b [(0, 8, 0x10100), (16, 8, 0x10200), (32, 8, 0x10040), (0x48, 8, 0x10300)])
     unitReady s 0 .dense = some (run0, ⟨1, b⟩) ∧ endsAs (matmulBody s 0 run0 b) stDone = true ∧
     (payUnits s 0 .dense (runUp (chargeDense s run0 b (matmulBody s 0 run0 b)))).2 = false) ∧
    (let b := cmdBytes [(0, 1, 0x33), (4, 4, 1), (8, 4, 1), (16, 8, 0x10100), (24, 8, 0x10000), (32, 8, 0x10200)]
     let s := poor (sn .dense b [(0, 1, 4), (8, 8, 0x10400), (24, 8, 0x10500)])
     unitReady s 0 .dense = some (run0, ⟨1, b⟩) ∧ endsAs (denseConvertBody s run0 b) stDone = true ∧
     (payUnits s 0 .dense (runUp (chargeDense s run0 b (denseConvertBody s run0 b)))).2 = false) ∧
    (let b := cmdBytes [(0, 1, 0x32)]
     let s1 := (su .dense b).updWork 0 (fun w => { w with denseU := { w.denseU with running := true } })
     unitReady (su .dense b) 0 .dense = some (run0, ⟨1, b⟩) ∧ cmdOp b = 0x32 ∧ turnOf ((su .dense b).workAt 0) .dense 1 = true ∧
     run0.cores ≠ [] ∧ (∀ n, n ∈ run0.cores → annealHead (runWork s1 run0 n) = some b ∧ (s1.workAt n).run = some run0.key) ∧
     endsAs (annealBody s1 run0 b) stBadField = true ∧ coveredAs s1 (annealBody s1 run0 b) run0 b = true) := by decide +kernel

/-- The small block with core 0's vector engine at work. -/
def vecAt (s : State) : State := s.updCore 0 (fun c => { c with vecMode := 1 })
/-- Whether core 0's credits cover a vector command whose work is given. -/
def vecCovered (s : State) (o : EngOut) : Bool := affords (vecAt s) 0 (runUp o)

/-- COMBINE of one partial, which a core with a DMA command and no credits holds back, and CONVERT of one FP32 element under CURRENT ASY8, blocks at 0x10000; COMBINE, CONVERT, READOUT
and ENERGY with a count or mask of zero. -/
theorem wit_VectorResultsComplete_combine_convert :
    (let b := cmdBytes [(0, 1, 0x41), (4, 4, 1), (8, 8, 0x10100), (24, 8, 0x10000), (36, 4, 1), (50, 6, 1)]
     let s := sn .vector b [(8, 8, 0x10300)]
     let ob := vaRead s 0 0x10000 64
     let cells := [[outCell ob (combineCell b (vaRead s 0 0x10100 64)) none]]
     unitReady s 0 .vector = some (run0, ⟨1, b⟩) ∧ vectorHeld s run0 0 = false ∧ cmdOp b = 0x41 ∧ combineStatus b = none ∧
     Fetches s run0 0x10000 64 ∧ outStatus ob 1 1 true = none ∧ fieldOf ob 0 1 ≤ 2 ∧ fieldOf ob 16 8 = 0 ∧
     Fetches s run0 0 0 ∧ partStride 1 48 = 64 ∧ Fetches s run0 0x10100 64 ∧ Delivers s run0 (outWrites ob 1 cells) ∧
     vecCovered s (combineBody 0 (vecAt s) run0 b) = true ∧
     (let z := (poor s).updWork 0 (fun w => { w with dmaU := { issued := 1, queue := [⟨1, []⟩] } })
      unitReady z 0 .vector = some (run0, ⟨1, b⟩) ∧ endsAs (combineBody 0 (vecAt z) run0 b) stDone = true ∧
      (payUnits (vecAt z) 0 .vector (runUp (combineBody 0 (vecAt z) run0 b))).2 = false)) ∧
    (let b := cmdBytes [(0, 1, 0x42), (4, 4, 1), (8, 8, 0x10100), (16, 8, 0x10200), (24, 8, 0x10000), (36, 4, 1)]
     let s := sn .vector b [(0, 1, 6), (8, 8, 0x10400), (16, 8, 0x10500)]
     let q := vaRead s 0 0x10000 64
     unitReady s 0 .vector = some (run0, ⟨1, b⟩) ∧ cmdOp b = 0x42 ∧ convertStatus b = none ∧ Fetches s run0 0x10000 64 ∧
     activationBlkBad b q = false ∧ fieldOf q 2 1 = 0 ∧ fieldOf q 40 8 = 0 ∧ rowPad 1 (8 * inBytes 0) = 64 ∧
     Fetches s run0 0x10100 64 ∧ fmtWidth (qFmt q) = 8 ∧
     Delivers s run0 [(0x10200, zeros 1), (0x10400, zeros 4), (0x10500, zeros 1)] ∧
     vecCovered s (convertBody (vecAt s) run0 b) = true) ∧
    ([(0x41, combineBody 0), (0x42, convertBody), (0x44, readoutBody), (0x45, energyBody 0)] :
      List (Nat × (State → Run → List Byte → EngOut))).all (fun p =>
        let b := cmdBytes [(0, 1, p.1)]
        let s := su .vector b
        decide (unitReady s 0 .vector = some (run0, ⟨1, b⟩)) && decide (vectorHeld s run0 0 = false) && decide (cmdOp b = p.1) &&
        endsAs (p.2 (vecAt s) run0 b) stLenZero && vecCovered s (p.2 (vecAt s) run0 b)) = true := by decide +kernel

/-- The header of a plat of one site with one chain, but for HDR_CRC. -/
def platBytes : List Byte :=
  memReadN (List.foldl (fun m (f : Nat × Nat × Nat) => memStore m f.1 f.2.1 f.2.2) []
    [(0, 4, 0x54414C50), (4, 2, 1), (8, 4, 1), (12, 4, 1), (16, 2, 1), (18, 1, 6), (19, 1, 1), (24, 4, 1), (32, 8, 2048),
     (40, 8, 256), (48, 8, 320), (56, 8, 384), (64, 8, 512), (72, 8, 640), (80, 8, 768), (88, 8, 832), (96, 8, 1)]) 0 256
/-- The header with HDR_CRC. -/
def platHdr : List Byte := platBytes.take 28 ++ natLe 4 2072165604 ++ platBytes.drop 32
/-- A READOUT or ENERGY of replica 0 of that plat at 0x10000. -/
def platCmd (op : Nat) : List Byte := cmdBytes [(0, 1, op), (8, 8, 0x10000), (16, 8, 0x11000), (32, 8, 1)]
/-- The small block with that plat, its scales one, its zone scale 1, its site of the chain index 0. -/
def platState (op : Nat) : State :=
  { su .vector (platCmd op) with
    near := memWriteN (memStore (memStore [] 0x10100 8 0x3F8000003F800000) 0x10306 1 0x01) 0x10000 platHdr }

/-- A part of the header. -/
def platPart (i : Nat) : List Byte := (platBytes.drop (32 * i)).take 32

/-- A step of CRC-32C by one byte. -/
def crcByte (c : Nat) (b : Byte) : Nat := crc32Step 8 (c ^^^ b.toNat)

/-- The code of a string by that of its first part. -/
theorem fold_part (c d v : Nat) (x rest : List Byte) (h : x.foldl crcByte c = d) (h' : rest.foldl crcByte d = v) :
    (x ++ rest).foldl crcByte c = v := by
  rw [List.foldl_append, h, h']

/-- The check code by its steps. -/
theorem crc_of_fold (bs l : List Byte) (w v : Nat) (e : bs = l) (h : l.foldl crcByte 0xFFFF_FFFF = w) (hv : w ^^^ 0xFFFF_FFFF = v) :
    crc32c bs = v := by
  subst e h
  exact hv

/-- The bytes of the header with a zero HDR_CRC, in eight parts. -/
theorem platHdr_parts : platHdr.take 28 ++ zeros 4 ++ platHdr.drop 32 = platPart 0 ++ (platPart 1 ++ (platPart 2 ++
    (platPart 3 ++ (platPart 4 ++ (platPart 5 ++ (platPart 6 ++ platPart 7)))))) := by decide +kernel

/-- HDR_CRC of the header (R109). -/
theorem platHdr_crc : crc32c (platHdr.take 28 ++ zeros 4 ++ platHdr.drop 32) = 2072165604 :=
  crc_of_fold _ _ 2222801691 _ platHdr_parts (
    fold_part 4294967295 347634894 2222801691 (platPart 0) _ (by decide +kernel) <|
    fold_part 347634894 2894680209 2222801691 (platPart 1) _ (by decide +kernel) <|
    fold_part 2894680209 1525571559 2222801691 (platPart 2) _ (by decide +kernel) <|
    fold_part 1525571559 1958156249 2222801691 (platPart 3) _ (by decide +kernel) <|
    fold_part 1958156249 1247431960 2222801691 (platPart 4) _ (by decide +kernel) <|
    fold_part 1247431960 3987945728 2222801691 (platPart 5) _ (by decide +kernel) <|
    fold_part 3987945728 1234153032 2222801691 (platPart 6) _ (by decide +kernel) <|
    (by decide +kernel)) (by decide)

/-- The header passes its checks. -/
theorem platHdr_status : platHeaderStatus platHdr = none := by
  simp only [platHeaderStatus, platHdr_crc]
  decide +kernel

/-- The plat is valid. -/
theorem platState_valid (op : Nat) (h : op = 0x44 ∨ op = 0x45) :
    ∃ sc, validatePlat (platState op) 0 0x10000 = .ok (platParse 0x10000 platHdr) sc := by
  have e : vaRead (platState op) 0 0x10000 256 = platHdr := by rcases h with rfl | rfl <;> decide +kernel
  refine ⟨readScales (platState op) 0 (platParse 0x10000 platHdr), ?_⟩
  simp only [validatePlat, e, platHdr_status]
  rcases h with rfl | rfl <;> decide +kernel

/-- READOUT and ENERGY of replica 0 of the plat. -/
theorem wit_VectorResultsComplete_plat :
    ([0x44, 0x45] : List Nat).all (fun op =>
      let b := platCmd op
      let s := platState op
      let p := platParse 0x10000 platHdr
      let sc := readScales s 0 p
      let plane := vaRead s 0 (p.va + p.spinOff) (spinPlaneBytes p)
      decide (unitReady s 0 .vector = some (run0, ⟨1, b⟩)) && decide (vectorHeld s run0 0 = false) && decide (cmdOp b = op) &&
      decide (maskStatus b (if op = 0x44 then 2 else 1) = none) && decide (groupOf s 0 = none) &&
      decide (p.chains = 1) && decide (vecMask b < 2 ^ p.replicas) &&
      decide (Fetches s run0 (p.va + p.spinOff) (spinPlaneBytes p)) &&
      ((p.va, 256) :: (scaleReads p ++ chainReads p) ++ drawReads p).all (fun a => decide (Fetches s run0 a.1 a.2)) &&
      decide (Delivers s run0 [(0x11000, chainRecords p (chainEntries s 0 p) (chainSiteList s 0 p) 0
        (readPlane p (fun i => plane.getD i 0) 0))]) &&
      decide (Delivers s run0 [(0x11000, laccImage (platEnergy p sc (platByte s 0 p.va)
        (readPlane (withHalo p) (fun i => plane.getD i 0) 0).testBit))])) = true := by decide +kernel

/-- AXPY of one element, ROTATE of one row of 128, EXCHANGE of two positions that are a permutation. -/
theorem wit_VectorResultsComplete :
    (let b := cmdBytes [(0, 1, 0x47), (4, 4, 1), (8, 8, 0x10000), (16, 8, 0x1FFFC)]
     let s := su .vector b
     unitReady s 0 .vector = some (run0, ⟨1, b⟩) ∧ vectorHeld s run0 0 = false ∧ cmdOp b = 0x47 ∧ axpyBad b = false ∧
     fieldOf b 4 4 ≠ 0 ∧ Fetches s run0 (fieldOf b 8 8) 4 ∧ Fetches s run0 (fieldOf b 16 8) 4 ∧
     Reaches s run0 (fieldOf b 16 8) 4 true ∧ vecCovered s (axpyBody (vecAt s) run0 b) = true) ∧
    (let b := cmdBytes [(0, 1, 0x43), (4, 4, 1), (8, 8, 0x10000)]
     let s := su .vector b
     unitReady s 0 .vector = some (run0, ⟨1, b⟩) ∧ cmdOp b = 0x43 ∧ rotateStatus b = none ∧
     Reaches s run0 (fieldOf b 8 8) 512 false ∧ Reaches s run0 (fieldOf b 8 8) 512 true ∧
     vecCovered s (rotateBody (vecAt s) run0 b) = true) ∧
    (let b := cmdBytes [(0, 1, 0x46), (4, 4, 2), (8, 8, 1024), (16, 8, 64), (24, 8, 2048)]
     let s := (su .vector b).updWork 0 (fun w => { w with store := [(65, 1)] })
     let pos := (storeRead s 0 (fieldOf b 16 8) 2).map BitVec.toNat
     unitReady s 0 .vector = some (run0, ⟨1, b⟩) ∧ vectorHeld s run0 0 = false ∧ cmdOp b = 0x46 ∧ exchangeStatus run0 b = none ∧
     affords s 0 (s.power.charge * creditUnit) = true ∧
     storeBad s 0 (fieldOf b 8 8) 96 = none ∧ storeBad s 0 (fieldOf b 24 8) 8 = none ∧ storeBad s 0 (fieldOf b 16 8) 2 = none ∧
     (∀ p, p ∈ pos → p < 2) ∧ pos.Nodup) := by decide +kernel

/-- The DMA command of a kind that moves 64 bytes between two places of its sides. -/
def dmaBytes (kind src dst : Nat) : List Byte :=
  cmdBytes [(0, 1, 1), (1, 1, kind), (4, 4, 1), (8, 8, 64), (16, 8, src), (24, 8, dst)]

/-- The four kinds, each side at the end of its page or of the data area, with credits and without; and a PEER that names no
core. -/
theorem wit_DmaCommandsComplete :
    ([(0, 0x10FC0, 131008), (1, 131008, 0x10FC0), (2, 131008, 0), (3, 0x10FC0, 0x10000)] : List (Nat × Nat × Nat)).all (fun p =>
      let b := dmaBytes p.1 p.2.1 p.2.2
      let s := su .dma b
      let f := fieldOf b
      decide (unitReady s 0 .dma = some (run0, ⟨1, b⟩)) && decide (dmaStatus run0 b = none) && decide (f 8 8 ≠ 0) &&
      decide ((s.workAt 0).dmaU.moved = 0) && decide (f 16 8 % 4096 + f 8 8 ≤ 4096) && decide (f 24 8 % 4096 + f 8 8 ≤ 4096) &&
      decide (dmaOverlap b = false) && decide (f 4 4 ≤ 1) &&
      (payUnits s 0 .dma (nearCharge 64)).2 && !(payUnits (poor s) 0 .dma (nearCharge 64)).2 &&
      (let z := dmaBytes p.1 p.2.1 p.2.2 ++ []
       let w := z.take 48 ++ natLe 4 1 ++ z.drop 52
       decide (unitReady (su .dma w) 0 .dma = some (run0, ⟨1, w⟩)) && decide (fieldOf w 0 1 = 1 ∧ 1 ≤ fieldOf w 48 4)) &&
      (if p.1 = 0 ∨ p.1 = 3 then decide (Reaches s run0 (f 16 8) 64 false) else decide (storeBad s 0 (f 16 8) 64 = none)) &&
      (decide (p.1 = 0 ∨ p.1 = 2) || decide (Reaches s run0 (f 24 8) 64 true))) = true := by decide +kernel

/-- A command that ended DONE, and one whose status ends the RUN, of the spin unit too. -/
theorem wit_CommandsComplete :
    (∀ st : Status, st = stDone ∨ st = stMemUe →
      let s := sw (fun w => { w with denseU := { issued := 1, queue := [⟨1, []⟩], running := true, result := some st }
                                     spinU := { issued := 1, queue := [⟨1, []⟩], running := true, result := some st } })
      s.runOf 0 = some run0 ∧ run0.benchWait = none ∧ (s.ctxAt 0).snapRun ≠ some run0.key ∧
      (∀ u, u = .dense ∨ u = .spin → ((s.workAt 0).unitQ u).queue = [⟨1, []⟩] ∧ ((s.workAt 0).unitQ u).result = some st)) ∧
    endsRun stDone = false ∧ endsRun stMemUe = true ∧ run0.status = none := by
  refine ⟨fun st h => ?_, by decide, by decide, rfl⟩
  rcases h with rfl | rfl <;>
    exact ⟨by decide, rfl, by decide, fun u hu => by rcases hu with rfl | rfl <;> exact ⟨by decide, by decide⟩⟩

/-! ### Witnesses: rings, descriptors and RUNs (12) -/

/-- The small block with a ring 0 of context 0. -/
def rg (q : Ring) : State := sc (fun c => { c with rings := [(0, q)] })
/-- A configured ring of 64 descriptors at page 1 with its completion queue. -/
def ring0 : Ring := { base := 0x10000, cfg := 6, cqBase := 0x10000, cqCfg := 6, configured := true }
/-- The same ring with a descriptor fetched. -/
def ready (bs : List Byte) : State := rg { ring0 with fetched := [⟨3, bs, false, 0⟩], head := 4, tail := 4 }

/-- A tail that fills the ring, one past it, one of a stopped ring; an empty completion queue. -/
theorem wit_DoorbellsAndRingControlComplete :
    hostUp s0 = true ∧ s0.power.chip = 0 ∧
    (let s := rg { ring0 with head := 2 ^ 32 - 1, tail := 2 ^ 32 - 1 }
     let q := s.ringAt 0 0
     let d (v : Word) := (v.toNat % 2 ^ 32 + 2 ^ 32 - q.head) % 2 ^ 32
     q.configured = true ∧ ringCount q ≤ d 63 ∧ d 63 = 2 ^ ringLog q ∧ 2 ^ ringLog q < d 64 ∧ q.held = []) ∧
    (s0.ringAt 0 0).configured = false ∧ (s0.ctxAt 0).st ≠ 3 ∧ (s0.ringAt 0 0).held = [] ∧ heldPlace s0 = none ∧
    ringLog (s0.ringAt 0 0) < 6 ∧
    (let s := { (rg { ring0 with configured := false, cfg := 16 }) with poolFar := 1024 }
     let q := s.ringAt 0 0
     q.configured = false ∧ (s.ctxAt 0).st ≠ 3 ∧ q.held = [] ∧ q.inflight.length < 64 ∧ ringLog q = 16 ∧ cqLog q = 6 ∧
     heldPlace s = some .far) ∧
    (let q := (rg ring0).ringAt 0 0
     q.configured = true ∧ q.inflight = [] ∧ q.finished = []) := by decide +kernel

/-- An empty ring, the ring whose turn it is and one whose turn it is not, and one whose next descriptor is a RUN of a context
without RUNs. -/
theorem wit_FetchAndRunStartComplete :
    mayFetch (rg ring0) 0 ((rg ring0).ringAt 0 0) = true ∧ ((rg ring0).ringAt 0 0).head = ((rg ring0).ringAt 0 0).tail ∧
    (let q : Ring := { ring0 with head := 63, tail := 64 }
     let s := sc (fun c => { c with rings := [(0, q), (1, q)] })
     nextFetch s = some (0, 0) ∧ rangeStop s 0 (slotVa q q.head) 64 false = none ∧ nextFetch s ≠ some (0, 1) ∧
     (s.ringAt 0 1).head ≠ (s.ringAt 0 1).tail) ∧
    (let b := cmdBytes [(0, 1, 1), (8, 8, 0x10000), (24, 8, 1)]
     let s := { ready b with runs := [] }
     nextOf s 0 0 1 [1] = some ⟨3, b, false, 0⟩ ∧ checkRun s 0 b = none ∧ runCores s 0 b = [0]) := by decide +kernel

/-- One descriptor of each kind, next in its ring; COPY between the ends of the page. -/
theorem wit_QueueDescriptorsComplete :
    (let b := cmdBytes [(0, 1, 0)]
     nextOf (ready b) 0 0 0 [1] = some ⟨3, b, false, 0⟩ ∧ ((ready b).ringAt 0 0).fetched = [⟨3, b, false, 0⟩]) ∧
    (let b := cmdBytes [(0, 1, 5)]
     nextOf (ready b) 0 0 5 [1] = some ⟨3, b, false, 0⟩ ∧ onlyStakes ((ready b).ringAt 0 0) = true) ∧
    (let b := cmdBytes [(0, 1, 2), (4, 1, 2), (8, 8, 0x1FFF8), (24, 8, 2 ^ 64 - 1)]
     let s := ready b
     nextOf s 0 0 2 [1, 2] = some ⟨3, b, false, 0⟩ ∧ (s.ctxAt 0).st = 1 ∧ (s.ctxAt 0).holders = [] ∧ rangeStop s 0 (fieldOf b 8 8) 8 false = none ∧
     vaLoad s 0 (fieldOf b 8 8) 8 &&& fieldOf b 24 8 = fieldOf b 16 8 &&& fieldOf b 24 8) ∧
    (let b := cmdBytes [(0, 1, 3), (4, 1, 1), (8, 8, 0x1FFF8), (16, 8, 1)]
     nextOf (ready b) 0 0 3 [1] = some ⟨3, b, false, 0⟩ ∧ onlyStakes ((ready b).ringAt 0 0) = true ∧
     rangeStop (ready b) 0 (fieldOf b 8 8) 8 false = none ∧ rangeStop (ready b) 0 (fieldOf b 8 8) 8 true = none) ∧
    (let b := cmdBytes [(0, 1, 4), (8, 8, 0x10FC0), (16, 8, 0x1FFC0), (24, 8, 64)]
     let s := ready b
     nextOf s 0 0 4 [1] = some ⟨3, b, false, 0⟩ ∧ (s.ringAt 0 0).inflight = [] ∧ (⟨3, b, false, 0⟩ : Desc).moved = 0 ∧ overQuota (s.ctxAt 0) = false ∧
     fieldOf b 24 8 ≠ 0 ∧ fieldOf b 8 8 % 4096 + fieldOf b 24 8 ≤ 4096 ∧ fieldOf b 16 8 % 4096 + fieldOf b 24 8 ≤ 4096 ∧
     fieldOf b 8 8 + fieldOf b 24 8 ≤ fieldOf b 16 8 ∧ rangeStop s 0 (fieldOf b 8 8) 64 false = none ∧
     rangeStop s 0 (fieldOf b 16 8) 64 true = none) := by decide +kernel

/-- A record that is wanted and one that is not; a held record; a page request of an access. -/
theorem wit_RecordsAndPagesComplete :
    let d : Desc := ⟨3, cmdBytes [(0, 1, 0)], false, 0⟩
    (let s := rg { ring0 with finished := [⟨d, stBadField, 0⟩] }
     let q := s.ringAt 0 0
     q.stopping = false ∧ q.held = [] ∧ q.finished = [⟨d, stBadField, 0⟩] ∧ wantsRecord ⟨d, stBadField, 0⟩ = true ∧
     cqFull q = false ∧ recordWaits s 0 0 = false ∧ recordPage s 0 0 = .present) ∧
    wantsRecord ⟨d, stDone, 0⟩ = false ∧
    (let s := rg { ring0 with held := [⟨⟨d, stDone, 0⟩, 0, false⟩], cqTail := 63 }
     hostUp s = true ∧ s.power.chip = 0 ∧ (s.ringAt 0 0).held = [⟨⟨d, stDone, 0⟩, 0, false⟩] ∧ cqFull (s.ringAt 0 0) = false ∧
     recordWaits s 0 0 = false ∧ recordPage s 0 0 = .present) ∧
    findPri { s0 with pris := [⟨0, 5, none⟩] } 0 5 = some ⟨0, 5, none⟩ := by decide +kernel

/-- A header with one code word in place on core 0. -/
theorem wit_RunDispatchCompletes :
    let near := memStore (memStore (memStore (memStore (memStore [] 0x10000 4 0x4C425244) 0x10004 2 1) 0x10006 1 1) 0x10008 4 4) 0x10014 4 64
    let r : Run := { run0 with phase := .waiting }
    let s := { s0 with near := near, runs := [r], cores := [(0, { plot := some 0, image := some (0, 0x10000, 0) })] }
    let h := vaRead s 0 r.program 64
    s.findRun k0 = some r ∧ mayDispatch s r = true ∧ overQuota (s.ctxAt 0) = false ∧
    (s.plotAt (s.ctxAt 0).plot).holder = some 0 ∧ Reaches s r r.program 64 false ∧ hdrStatus h r.program r.param = none ∧
    (∀ n, n ∈ r.cores → (s.coreAt n).image = some (0, r.program, (parseHdr h).crc)) ∧
    Reaches s r r.param (parseHdr h).paramBytes false ∧ r.cores.Nodup ∧ (parseHdr h).flags % 2 = 1 := by decide +kernel

/-- Two contexts on plot 0, each with a RUN. -/
def two : State :=
  { s0 with ctxs := [(0, ctx0), (1, ctx0)], runs := [run0, { run0 with key := ⟨1, 0, 0⟩, phase := .waiting }] }

/-- A store without errors. -/
theorem storeBad_clean (s : State) (core off n : Nat) (h : s.badLines = []) : storeBad s core off n = none := by
  simp [storeBad, h]

/-- No save and no restore of theirs meets an error. -/
theorem wit_RunsAndSlicesEnd_saves (n : Nat) : saveUe two 0 n = none ∧ restoreUe two 1 n = none := by
  have h : two.badLines = [] := rfl
  have a : (two.ctxAt 0).areas = [] := rfl
  have b : (two.ctxAt 1).areas = [] := rfl
  constructor
  · unfold saveUe
    split
    · simp [storeBad_clean _ _ _ _ h, areaLost, a]
    · rfl
  · simp [restoreUe, areaLost, b]

/-- A RUN whose control cores have ended, in its context's reset too; one that runs; one whose time has passed; a slice that
passes to context 1. -/
theorem wit_RunsAndSlicesEnd :
    let d : Desc := ⟨5, cmdBytes [(0, 1, 1)], false, 0⟩
    let s (w : Work → Work) (f : Run → Run) : State :=
      { (rg { ring0 with inflight := [d] }).updWork 0 w with runs := [f run0] }
    let e : Work → Work := fun w => { w with cc0 := { w.cc0 with mode := .ended } }
    let late : Run → Run := fun r => { r with timedOut := true }
    (s e id).findRun k0 = some run0 ∧ runEnd (s e id) run0 = some stDone ∧ run0.spin = none ∧ run0.block = none ∧ (s e id).boot.d3hot = false ∧ ((s e id).ctxAt 0).st ≠ 4 ∧
    ((s e id).ringAt 0 0).inflight.filter (fun x => decide (x.slot = k0.slot)) = [d] ∧
    (let t := (s e id).updCtx 0 (fun c => { c with st := 4 })
     (t.ctxAt 0).st = 4 ∧ t.findRun k0 = some run0 ∧ runEnd t run0 = some stDone) ∧
    run0.phase = .dispatched ∧ run0.status = none ∧ holdsPlot (s id id) 0 = true ∧ ((s id id).ctxAt 0).st = 1 ∧
    timeCounts (s id id) run0 = true ∧ (s id late).findRun k0 = some (late run0) ∧ (late run0).timedOut = true ∧
    ((s id late).ringAt 0 0).inflight.filter (fun x => decide (x.slot = k0.slot)) = [d] ∧
    (∀ p : Nat × EngineUnit, p ∈ [(1, .dma)] → p.1 ∉ run0.cores) ∧ 0 ∈ run0.cores ∧
    (let t := two
     chipRuns t = true ∧ (t.plotAt 0).st ≠ 0 ∧ nextHolder t 0 = some 1 ∧ (t.plotAt 0).holder ≠ some 1 ∧
     (∀ x, x ∈ t.runs → x.key.ctx = 1 → x.phase = .waiting)) := by decide +kernel

/-! ### Witnesses: contexts, memory, plots, BARs (13, 17) -/

/-- Port 1 is up, has a partner, and a service 7 on it runs for a context of a timed plot. -/
def pt (q : Port) (v : Service) : State :=
  { s0 with
    ports := [{}, q]
    services := List.replicate 7 {} ++ [v]
    plots := [(0, { mask := 3, timed := true, st := 2, holder := some 0 })] }
/-- Port 1. -/
def port1 : Port := { link := true, mac := 5, time := 1, partner := some ⟨9, 1, 2, true, 1, 10, true⟩ }

/-- Contexts at rest, attached and detached, in reset and with a pending fault. -/
theorem wit_ContextsAndFaultsComplete :
    let rest : State := { (sc (fun c => { c with plotValid := false })) with runs := [], poolFar := 512 }
    let full : State := { (sc id) with runs := [] }
    let fault : State := { (sc (fun c => { c with st := 2, holders := [(.desc 0 3, 2)],
                                                  rings := [(0, { ring0 with inflight := [⟨3, [], false, 0⟩] })] })) with runs := [] }
    hostUp s0 = true ∧ s0.power.chip = 0 ∧ (s0.ctxAt 4095).st = 0 ∧ ringsStopped (rest.ctxAt 0) = true ∧
    (rest.ctxAt 0).plotValid = false ∧ hasRun rest 0 = false ∧ (rest.ctxAt 0).st = 1 ∧
    attachRefused (rest.updCtx 0 (fun x => { x with plot := 0 })) 0 0 = false ∧
    attachRefused ((pt port1 {}).updCtx 0 (fun x => { x with plot := 0 })) 0 0 = true ∧ (full.ctxAt 0).plotValid = true ∧
    hasRun full 0 = false ∧ (s0.ctxAt 0).st ≠ 0 ∧ ((sc (fun c => { c with st := 4 })).ctxAt 0).st = 4 ∧
    hostUp fault = true ∧ (fault.ctxAt 0).st = 2 ∧ (∀ x, x ∈ fault.runs → x.key.ctx ≠ 0) ∧
    (fault.ctxAt 0).holders = [(.desc 0 3, 2)] ∧
    (fault.ringAt 0 0).inflight.filter (fun e => decide (e.slot = 3)) = [⟨3, [], false, 0⟩] := by decide +kernel

/-- No invalidation in progress, one of the last page in progress, a context without a spin command, one whose RUN waits. -/
theorem wit_InvalidationsAndSnapshotsComplete :
    let q : SpinRun := { spin0 with cmd := some scmd0 }
    let r : Run := { run0 with spin := some q, phase := .preempted }
    let s : State := { (sc (fun c => { c with snapAddr := 0x10000, snapBytes := 4480 })) with runs := [r] }
    hostUp s0 = true ∧ s0.power.chip = 0 ∧ (s0.ctxAt 0).inval = none ∧ (2 ^ 32 - 1 < 2 ^ 32) ∧
    ((sc (fun c => { c with inval := some (2 ^ 32 - 1, 1) })).ctxAt 0).inval = some (2 ^ 32 - 1, 1) ∧
    (s0.plotAt (s0.ctxAt 0).plot).st ≠ 2 ∧ (s0.ctxAt 0).snapRun = none ∧ snapshotRun s0 0 = none ∧
    snapshotRun s 0 = some r ∧ runActive s r = false ∧ (s.ctxAt 0).snapRun = none ∧
    slotBad s 0 q ((q.cmd.map SpinCmd.mask).getD 0) (s.ctxAt 0).snapAddr (s.ctxAt 0).snapBytes = false := by decide +kernel

/-- A near line and a far line that exist, and a row that is due for repair. -/
theorem wit_ScrubAndRepairComplete :
    memRuns s0 = true ∧ lineExists s0 .near 1 = true ∧ lineExists s0 .far 0 = true ∧
    3 ≤ tabGet 0 ({ s0 with rowErrors := [(rowKey 0 0, 3)] } : State).rowErrors (rowKey 0 0) := by decide +kernel

/-- A FREE entry that passes its checks, one that names no core, one that is CONFIGURED and not busy, one with a core to
replace. -/
theorem wit_PlotsComplete :
    let free : State := { s0 with plots := [(63, { mask := 4 })], ctxs := [] }
    let idle : State := { s0 with runs := [] }
    let dead : State := { idle with boot := { boot0 with pending := [(1, 1)] } }
    hostUp s0 = true ∧ (free.plotAt 63).st = 0 ∧ (free.plotAt 63).timed = false ∧ configureStatus free 63 = none ∧
    configureStatus free 0 = some stLenZero ∧ (free.plotAt 0).st = 0 ∧
    (idle.plotAt 0).st ≠ 0 ∧ plotBusy idle 0 = false ∧ plotPending idle (maskCores (idle.plotAt 0).mask) = [] ∧
    plotBusy dead 0 = false ∧ plotPending dead (maskCores (dead.plotAt 0).mask) = [(1, 1)] ∧
    (maskCores (dead.plotAt 0).mask).filter (fun m => decide (dead.boot.enabled.getD m 144 = 1)) = [1] ∧
    1 < dead.boot.enabled.length ∧ spareFor dead 1 = some 3 := by decide +kernel

/-- A TIMED entry of three cores, a whole cluster, with its admission block and declaration in near memory. -/
def tm : State :=
  { s0 with cores := [], runs := [], ctxs := [(0, { ctx0 with plot := 63, tlb := [(1, 0x10033)] })], poolNear := 1000
            plots := [(63, { mask := 7, timed := true, exclusive := true, admitVa := 0x10000 })]
            near := memWriteN [] 0x10000 (cmdBytes [(16, 8, 0x10040), (24, 2, 1)] ++ cmdBytes [(0, 1, 0x41), (4, 4, 1)]) }
/-- The TIMED entry at the address of its admission block. -/
def adm (s : State) (va : Nat) : Admission := admission s 0 va 0 [0, 1, 2] (2 ^ 64)
/-- A TIMED entry whose admission is given, one whose block is misaligned, one whose block cannot be read. -/
theorem wit_PlotsComplete_timed :
    let far : State := { tm with plots := [(63, { mask := 7, timed := true, exclusive := true, admitVa := 1 })] }
    let bad : State := { tm with badLines := [(.near, 0x400)] }
    configureStatus tm 63 = none ∧ (adm tm 0x10000).status = stDone ∧
    tablesUe (formPlot (writeAdmission tm 0 0x10000 (adm tm 0x10000)) 63 (adm tm 0x10000)) 0 = none ∧
    configureStatus far 63 = none ∧ (adm far 1).status ≠ stDone ∧ (adm far 1).ue = none ∧
    configureStatus bad 63 = none ∧ (adm bad 0x10000).status ≠ stDone ∧ (adm bad 0x10000).ue = some (.near, 0x400) ∧
    (bad.ctxAt 0).st = 1 := by decide +kernel

/-- The host's access is open, and memory has its form. -/
theorem wit_Bar4AccessesComplete :
    hostUp s0 = true ∧ s0.power.chip = 0 ∧ memWf s0.near = true ∧ memWf s0.far = true ∧ (bar4Target s0 63).isSome = true ∧
    bar4Target s0 (2 ^ 36) = none := by decide +kernel

/-- Writes at the last offset, the last context, ring, plot, group and service. -/
theorem wit_RegisterWritesComplete :
    recUp s0 = true ∧ s0.power.chip = 0 ∧ s0.boot.mode ≠ 2 ∧ (2 ^ 26 - 1) % 8 ≠ 0 ∧ 15 < s0.fab.groups.length ∧
    7 < s0.services.length := by decide +kernel

/-- A chip in recovery mode whose host access is open. -/
theorem wit_RecoveryModeDecodesLittle :
    let s : State := { s0 with boot := { boot0 with mode := 2 } }
    s.boot.mode = 2 ∧ s.power.chip = 0 ∧ recUp s = true ∧ ¬ (0x10000 < 0x10000 ∨ 0x70000 ≤ 0x10000 ∧ 0x10000 < 0x78100) ∧
    ¬ (0x78100 < 0x10000 ∨ 0x70000 ≤ 0x78100 ∧ 0x78100 < 0x78100) := by decide +kernel

/-! ### Witnesses: fabric (08) -/

/-- The small block with link 7 changed. -/
def lk (l : Link) : State := { s0 with fab := { s0.fab with valid := true, links := List.replicate 7 {} ++ [l] } }

/-- Each state that an event leaves, on link 7. -/
theorem wit_LinkStatesFollowEvents :
    7 < (lk {}).fab.links.length ∧ linksRun (lk {}) 7 = true ∧ ((lk {}).linkAt 7).st = 0 ∧
    ((lk { st := 1 }).linkAt 7).st = 1 ∧ laneWidth (0x03 &&& ((lk { st := 1 }).linkAt 7).lanes) ≠ 0 ∧
    laneWidth (0x01 &&& ((lk { st := 1 }).linkAt 7).lanes) = 0 ∧ s0.fab.valid = false ∧
    ((lk { st := 4, lanes := 0xC0 }).linkAt 7).st = 4 ∧ laneWidth (0xFF &&& ((lk { st := 4, lanes := 0xC0 }).linkAt 7).lanes) ≠ 0 ∧
    laneWidth (0x0F &&& ((lk { st := 4, lanes := 0xC0 }).linkAt 7).lanes) = 0 ∧
    ((lk { st := 3 }).linkAt 7).st = 3 ∧ hostUp (lk {}) = true ∧ (lk {}).power.chip = 0 ∧
    ((lk { st := 5 }).linkAt 7).st = 5 ∧ ((lk { st := 6 }).linkAt 7).st = 6 := by decide +kernel

/-- The CRC of zeros is zero (R219). -/
theorem crc64_zeros (n : Nat) : crc64 (zeros n) = 0 := by
  have h : ∀ k, (List.replicate k (0 : Byte)).foldl (fun c b => crc64Step 8 (c ^^^ (b.toNat * 2 ^ 56))) 0 = 0 := by
    intro k
    induction k with
    | zero => rfl
    | succ k ih =>
      have e : crc64Step 8 (0 ^^^ ((0 : Byte).toNat * 2 ^ 56)) = 0 := by decide +kernel
      rw [List.replicate_succ, List.foldl_cons, e]
      exact ih
  exact h n

/-- A link in IDENTIFY with its nonce drawn, one that is UP, one that has gone DOWN. -/
theorem wit_IdentificationAndFlitsComplete :
    ((lk { st := 2 }).linkAt 7).st = 2 ∧ (lk { st := 2 }).fab.valid = true ∧ ((lk { st := 2 }).linkAt 7).identifying = false ∧
    idConflicts (lk { st := 2 }) 0 5 = true ∧ idConflicts (lk { st := 2 }) 1023 5 = false ∧
    ((lk { st := 6, partner := 4 }).linkAt 7).st = 6 ∧ 5 ≠ ((lk { st := 6, partner := 4 }).linkAt 7).partner ∧
    ((lk { st := 3 }).linkAt 7).st = 3 ∧ (zeros 256).length = 256 ∧ ((lk { st := 3 }).linkAt 7).expected = 0 ∧
    ((lk { st := 3, expected := 7 }).linkAt 7).expected ≠ 0 ∧
    (zeros 255 ++ [1]).length = 256 ∧ ((lk { st := 3 }).linkAt 7).lastReplay ≠ 1 ∧
    (let l := (lk { st := 3, lastReplay := 9, replayRun := 31 }).linkAt 7
     l.st = 3 ∧ l.lastReplay = 9 ∧ l.replayRun = 31) ∧
    ((lk { lost := false }).linkAt 7).st ≠ 3 ∧ ((lk { lost := false }).linkAt 7).lost = false := by decide +kernel

/-- A flit of zeros is good, one of zeros that ends in 1 is not. -/
theorem wit_IdentificationAndFlitsComplete_crc :
    crc64 ((zeros 256).take 248) = leNat ((zeros 256).drop 248) ∧
    crc64 ((zeros 255 ++ [1]).take 248) ≠ leNat ((zeros 255 ++ [1]).drop 248) := by
  have h : (zeros 256).take 248 = zeros 248 := by decide +kernel
  have h' : (zeros 255 ++ [1]).take 248 = zeros 248 := by decide +kernel
  rw [h, h', crc64_zeros]
  decide +kernel

/-- A map with a record of chip 1,023, which a newer number replaces past the wrap, and a link in UP. -/
theorem wit_TopologyMapFollowsRecords :
    let old : LinkState := ⟨1023, 65535, 0, 0, 0, []⟩
    let s : State := { (lk { st := 3 }) with fab := { (lk { st := 3 }).fab with topo := [old] } }
    fabHears s = true ∧ (1023 : Nat) ≠ s.fab.chip ∧ s.fab.topo.find? (fun q => decide (q.chip = 1023)) = some old ∧ newerSeq 0 old.seq = true ∧
    s.boot.aonRst = true ∧ s.fab.valid = true ∧ hostUp s = true ∧ s.power.chip = 0 ∧ (∀ g, g ∈ s.fab.groups → g.st = 0) ∧
    (∀ l, l ∈ s.fab.links → l.st ≠ 2) ∧ (∀ l, l ∈ (lk { st := 6 }).fab.links → l.st ≠ 2) ∧ ((lk { st := 6 }).linkAt 7).st = 6 ∧
    5 ≠ (lk { st := 6 }).fab.chip := by decide +kernel

/-- The small block with group entry 15 changed, its link 7 in UP. -/
def gr (g : Group) : State := { s0 with fab := { s0.fab with
  groups := List.replicate 15 {} ++ [g], links := List.replicate 7 {} ++ [{ st := 3 }] } }

/-- A group that arms, one that fails a check, a lead that plans for itself and chip 1, one that forms. -/
theorem wit_GroupsFormAndPlan :
    let arm : Group := { ctrl := BitVec.ofNat 64 (1 * 2 ^ 20), list := BitVec.ofNat 64 (2 * 2 ^ 48 + 0x10000), plan := 0x10100
                         stopBench := 0x10200 }
    let act : Group := { st := 2, plan := 0x10000, members := [0], joined := [0] }
    let form : Group := { st := 1, members := [0, 1, 2], joined := [0] }
    let near := memStore (memStore (memStore (memStore [] 0x10000 4 1) 0x10004 4 1) 0x10008 2 1) 0x1000C 1 1
    let p : State := { gr act with near := near }
    let i (chip : Nat) : JoinInfo := { joinInfo (gr form) ((gr form).groupAt 15) with chip := chip }
    hostUp (gr arm) = true ∧ 15 < (gr arm).fab.groups.length ∧ ((gr arm).groupAt 15).st = 0 ∧ armStatus (gr arm) 15 = none ∧
    ((gr arm).groupAt 15).lead ≠ (gr arm).fab.chip ∧
    rangeStop (gr arm) ((gr arm).groupAt 15).context ((gr arm).groupAt 15).listVa (2 * ((gr arm).groupAt 15).count) false = none ∧
    armStatus (gr {}) 15 = some stLenZero ∧ ((gr {}).groupAt 15).st ≠ 3 ∧
    mayPlan p (p.groupAt 15) = true ∧ rangeStop p (p.groupAt 15).context (p.groupAt 15).plan 64 false = none ∧
    rangeStop p (p.groupAt 15).context (p.groupAt 15).plan 128 true = none ∧
    planStatus (vaRead p (p.groupAt 15).context (p.groupAt 15).plan 64) = none ∧
    choosePlan p (p.groupAt 15) (vaRead p (p.groupAt 15).context (p.groupAt 15).plan 64) = some (1, 1, [0]) ∧
    ((gr form).groupAt 15).st = 1 ∧ ((gr form).groupAt 15).lead = (gr form).fab.chip ∧
    joinAgrees (gr form) ((gr form).groupAt 15) (i 2) = true ∧ 2 ∉ ((gr form).groupAt 15).joined ∧
    ((gr form).groupAt 15).joined.length + 1 ≠ ((gr form).groupAt 15).members.length ∧
    (let last : Group := { form with joined := [0, 1] }
     let state (k : Nat) : LinkState := ⟨k, 0, 0, 0, 0, []⟩
     let near : State := { gr last with fab := { (gr last).fab with topo := [state 1] } }
     let all : State := { gr last with fab := { (gr last).fab with topo := [state 1, state 2] } }
     joinAgrees all (all.groupAt 15) (i 2) = true ∧ 2 ∉ last.joined ∧ last.joined.length + 1 = last.members.length ∧
     last.members.all (fun m => decide (m = all.fab.chip) || all.fab.topo.any (fun q => decide (q.chip = m))) = true ∧
     joinAgrees near (near.groupAt 15) (i 2) = true ∧
     last.members.all (fun m => decide (m = near.fab.chip) || near.fab.topo.any (fun q => decide (q.chip = m))) = false) ∧
    ((gr {}).groupAt 15).st = 0 ∧ (gr form).power.chip = 0 ∧ fabHears (gr {}) = true ∧ fabHears (gr form) = true := by decide +kernel

/-- A slab group whose run has not started, one of lock step, and one that runs. -/
theorem wit_GroupTrafficCompletes :
    let slab : Group := { ctrl := BitVec.ofNat 64 (7 * 2 ^ 48 + 2 ^ 20), st := 2, gx := 2, gy := 1, cells := [0, 1], members := [0, 1] }
    let pair : Group := { slab with ctrl := BitVec.ofNat 64 (2 ^ 34), runStart := some ([], [], [], 0, 0) }
    let m : FabEasement := ⟨7, 7, 63, false, startStep, 0, []⟩
    15 < (gr slab).fab.groups.length ∧ groupRun (gr slab) 15 = none ∧ slabOpen ((gr slab).groupAt 15) = true ∧
    m.groupId = bitsOf ((gr slab).groupAt 15).ctrl.toNat 63 48 ∧
    1 ∈ childCells ((gr slab).groupAt 15) (ownCell (gr slab) ((gr slab).groupAt 15)) ∧ waitingRun (gr slab) 15 = none ∧
    ((gr slab).groupAt 15).partials = [] ∧ ((gr slab).groupAt 15).lead ≠ (gr slab).fab.chip ∧
    ((gr pair).groupAt 15).kind = 1 ∧ ((gr pair).groupAt 15).st = 2 ∧ (presentStart ((gr pair).groupAt 15)).isSome = true ∧
    groupRun (gr pair) 15 = none ∧ fabHears (gr slab) = true ∧ (gr slab).power.chip = 0 ∧ ((gr { slab with st := 3 }).groupAt 15).st = 3 ∧
    1 ∈ ((gr { slab with st := 3 }).groupAt 15).members ∧ (1 : Nat) ≠ (gr slab).fab.chip ∧
    routeTo (gr { slab with st := 3 }) 1 = none ∧ groupRun (gr { slab with st := 3 }) 15 = none ∧
    (let s : State := { gr { slab with st := 3 } with
       fab := { (gr { slab with st := 3 }).fab with links := List.replicate 7 { st := 0, partner := 1, lost := false } ++ [{ st := 3 }] } }
     fabHears s = true ∧ waitingRun s 15 = none ∧ routeTo s 1 = none ∧ directPartner s 1 = true ∧ (s.groupAt 15).st = 3) := by decide +kernel

/-! ### Witnesses: RNG, resets and power (09, 15, 18) -/

/-- The small block with the RNG in a state, source 7 as given and all others settled and passed. -/
def rn (st : Nat) (x : Source) : State :=
  { s0 with rng := { st := st, settled := true, sources := List.replicate 7 { passed := true } ++ [x] } }

/-- A sample that no test fails, one that fails for the third time, one in RAW_TAP with room in the FIFO and without, a full
window and block, each state and command, and a chip without REFCLK_AON. -/
theorem wit_RngCompletes :
    let good : Source := { passed := true }
    let bad : Source := { passed := true, consec := 2, rctBit := some true, rctRun := 1023 }
    rngRuns s0 = true ∧ rngRuns (rn 2 good) = true ∧ rngRuns { s0 with boot := { boot0 with aonClock := false } } = false ∧
    rngRuns (rn 4 good) = true ∧ ((rn 4 good).rng.src 7).passed = true ∧ ((rn 4 good).rng.src 7).retest = false ∧
    (testSample ((rn 4 good).rng.src 7) true).2 = false ∧ (rn 4 good).rng.settled = true ∧ (rn 4 good).rng.fifo.length < 4096 ∧
    ({ (rn 4 good).rng with tapSrc := 7 } : Rng).tapSrc = 7 ∧
    4096 ≤ ({ (rn 4 good).rng with fifo := List.replicate 4096 true } : Rng).fifo.length ∧
    7 < (rn 2 good).rng.sources.length ∧ (rn 2 good).rng.st = 2 ∧ (rn 2 good).rng.settled = true ∧
    ((rn 2 good).rng.src 7).latched = false ∧ ((rn 2 good).rng.src 7).passed = true ∧ ((rn 2 good).rng.src 7).retest = false ∧
    ((rn 2 good).rng.block.length < 512 ∧ 7 < (rn 2 good).rng.feeds.length ∧
     ({ (rn 2 good).rng with turn := 7 } : Rng).src 7 = good) ∧
    hostUp s0 = true ∧ s0.power.chip = 0 ∧
    (testSample ((rn 2 good).rng.src 7) true).2 = false ∧ (testSample ((rn 2 bad).rng.src 7) true).2 = true ∧
    5 ≤ (rn 2 bad).rng.unlatched ∧ ((rn 2 { winCount := 65536 }).rng.src 7).winCount = 65536 ∧
    (let r : Rng := { st := 2, block := List.replicate 512 false, drbg := some (0, 0, 0), reseeding := true, blocks := [0] }
     512 ≤ r.block.length ∧ r.drbg.isSome = true ∧ r.blocks.length < 2) ∧ s0.boot.aonRst = true ∧ s0.rng.st = 1 ∧
    s0.rng.st ≠ 4 ∧ (rn 4 good).rng.st = 4 ∧ 4 ≤ (rn 4 good).rng.unlatched ∧
    (let s : State := { s0 with rng := { waiting := [.seed k0] } }
     s.rng.waiting = [.seed k0] ∧ s.rng.st ≠ 2 ∧ s.findRun k0 = some run0 ∧ run0.status = none) := by decide +kernel

/-- No source has a sample that waits for its turn. -/
theorem wit_RngCompletes_feeds (st : Nat) (x : Source) : ∀ j, (rn st x).rng.feeds.getD j [] = [] := by
  intro j
  simp only [rn, List.getD_eq_getElem?_getD, List.getElem?_replicate]
  split <;> rfl

/-- At reset; after bring-up; an image that is refused. -/
theorem wit_PackageResetsComplete :
    State.reset.boot.aonRst = false ∧ State.reset.boot.thermtrip = false ∧ imageCause State.reset = 0 ∧
    imageCause { State.reset with flash := { imageValid := false } } ≠ 0 ∧
    (let b : Boot := { aonRst := true, clocks := true, mode := 0, step := 8 }
     b.rails = true ∧ b.thermtrip = false) ∧ boot0.aonRst = true ∧ boot0.aonPower = true := by decide

/-- At reset every compute die's signature of the challenge of the first boot is good. -/
theorem wit_PackageResetsComplete_dies : ∀ d, d < 4 →
    dieBinds State.reset (bindText State.reset.flash.image.digest (State.reset.boot.boots + 1)) d = true := by decide +kernel

/-- The small block's chip, with an image that is accepted and one that is refused. -/
theorem wit_WarmAndFunctionResetsComplete :
    s0.boot.aonRst = true ∧ s0.boot.perst = true ∧ s0.boot.rails = true ∧ s0.boot.thermtrip = false ∧
    s0.boot.fuseFault = false ∧ imageCause s0 = 0 ∧ s0.boot.mapGood = true ∧
    imageCause { s0 with flash := { imageValid := false } } ≠ 0 ∧ s0.boot.link = true ∧ s0.power.chip = 0 := by decide +kernel

/-- Core 0 holds a RUN, core 127 is not enabled, core 1 quiesces. -/
theorem wit_CoreResetsComplete :
    hostUp s0 = true ∧ s0.power.chip = 0 ∧ s0.power.rstBusy = none ∧ s0.coreEnabled 0 = true ∧ s0.runOf 0 = some run0 ∧
    run0.status = none ∧ s0.coreEnabled 127 = false ∧
    ((s0.updCore 1 (fun c => { c with quiesce := 1 })).coreAt 1).quiesce = 1 := by decide +kernel

/-- Core 0 takes the reset, and quiesces for its DMA unit with 16 commands in the queue. -/
theorem wit_EngineResetsComplete :
    hostUp s0 = true ∧ s0.power.rstBusy = none ∧ s0.coreEnabled 0 = true ∧ (15 : BitVec 4) ≠ 0 ∧ (s0.coreAt 0).quiesce = 0 ∧
    (let s := (sw (fun w => { w with dmaU := { queue := List.replicate 16 ⟨1, []⟩ } })).updCore 0 (fun c =>
       { c with quiesce := 2, quiesceUnits := 1 })
     (s.coreAt 0).quiesce = 2 ∧ (∀ u, u ∈ [EngineUnit.dma, .spin, .dense, .vector] → ((s.workAt 0).unitQ u).queue.length ≤ 16)) := by
  decide +kernel

/-- No ring of a chip without contexts is configured, so no WAIT is next. -/
theorem nextOf_without_contexts (s : State) (h : s.ctxs = []) : ∀ c n, nextOf (wakeFully s) c n 2 [1, 2] = none := by
  intro c n
  have e : ((wakeFully s).ringAt c n).configured = false := by
    have k : (wakeFully s).ctxs = [] := by rw [← h]; rfl
    simp only [State.ringAt, State.ctxAt, k, tabGet]
    rfl
  simp [nextOf, e]

/-- A chip that may idle, core 1 of plot 0 retained, its store with an uncorrectable word, or clean. -/
def asleep (bad : List (Level × Nat)) : State :=
  { s0 with runs := [], cores := [(1, { phys := 1, power := 1, plot := some 0 })], power := { deepIdle := true }, badLines := bad }

/-- No other core than core 1 is in a plot. -/
theorem asleep_clean (bad : List (Level × Nat)) (m : Nat) (h : m ≠ 1) : SaveClean (asleep bad) m := by
  intro c e
  have k : ((asleep bad).coreAt m).plot = none := by
    have n : ¬ 1 = m := fun z => h z.symm
    simp [State.coreAt, asleep, tabGet, n]
  simp [k] at e

/-- Core 1's save, clean and not. -/
theorem wit_PowerStatesComplete_saves :
    mayIdle (asleep []) = true ∧ (asleep []).power.deepIdle = true ∧ SaveClean (asleep []) 1 ∧
    (let s := asleep [(.coreStore, 2 ^ 20)]
     mayIdle s = true ∧ s.power.deepIdle = true ∧ (s.coreAt 1).plot.bind (fun p => (s.plotAt p).holder) = some 0 ∧
     storeBad s 1 0 8388608 = some (2 ^ 20) ∧ (s.ctxAt 0).st = 1) :=
  ⟨by decide +kernel, rfl, fun c e => by
    have k : c = 0 := by
      have z : (asleep []).coreAt 1 = { phys := 1, power := 1, plot := some 0 } := rfl
      have w : ((asleep []).plotAt 0).holder = some 0 := rfl
      rw [z] at e
      simpa [w] using e.symm
    subst k
    decide +kernel, by decide +kernel⟩

/-- A chip that runs, one that may idle, one that idles and one in D3hot. -/
theorem wit_PowerStatesComplete :
    let idle : State := { s0 with ctxs := [], plots := [], cores := [], runs := [] }
    hostUp s0 = true ∧ s0.power.chip = 0 ∧ chipRuns s0 = true ∧ s0.coreEnabled 2 = true ∧ (s0.workAt 2).run = none ∧
    (s0.coreAt 2).quiesce = 0 ∧ (s0.coreAt 2).power = 0 ∧ inTimed s0 (s0.coreAt 2) = false ∧ (s0.coreAt 2).plot = none ∧ underTest s0 2 = false ∧ s0.boot.thermtrip = false ∧
    ({ s0 with boot := { boot0 with d3hot := true } } : State).boot.d3hot = true ∧
    mayIdle idle = true ∧ idle.power.deepIdle = false ∧ mayIdle { idle with power := { deepIdle := true } } = true ∧
    hostUp idle = true ∧ mayIdle s0 = false ∧ ({ idle with power := { chip := 2 } } : State).ctxs = [] ∧ s0.boot.link = true ∧
    s0.boot.d3hot = false := by decide +kernel

/-- Five sensors at and beside the limits, a throttled die before and after 100 cool reads, a round, and a core that fails. -/
theorem wit_ThermalAndSurveyComplete :
    s0.boot.aonRst = true ∧ s0.boot.rails = true ∧ s0.boot.thermtrip = false ∧ ([115, 103, 100, 99, 0] : List Nat).length = 5 ∧
    s0.power.dieTemp.length = 5 ∧ s0.power.creditThr.length = 5 ∧ s0.power.clockThr.length = 5 ∧
    (let p : Power := { creditThr := [true, false, false, false, false], dieTemp := [100, 0, 0, 0, 0] }
     p.creditThr.getD 0 false = true ∧ 0 < p.halvings.length ∧ p.coolReads.getD 0 0 < 100 ∧ 100 ≤ p.dieTemp.getD 0 0 ∧
     100 ≤ ({ p with coolReads := [100, 0, 0, 0, 0] } : Power).coolReads.getD 0 0) ∧
    chipRuns s0 = true ∧ ({ surveyH := 4 } : Power).surveyH ≠ 0 ∧ ({ surveyH := 4 } : Power).survey = [] ∧
    (let s : State := { s0 with power := { survey := [2, 3] } }
     (1, 2) ∉ s.boot.pending ∧ 2 ∉ s.boot.outCores ∧ s.flash.retire.length < 4096 ∧
     (∀ n, n < 128 → logicalOf s 2 = some n → (s.coreAt n).plot = none)) := by decide +kernel

/-! ### Witnesses: ports and services (14) -/

/-- A service block on port 1, with queue 0x11000, parameters 0x12000, done value 0x13000, no payload, admission 0x14000. -/
def svcBytes : List Byte :=
  memReadN (List.foldl (fun m (f : Nat × Nat × Nat) => memStore m f.1 f.2.1 f.2.2) []
    [(0, 1, 1), (2, 1, 1), (4, 2, 3), (8, 4, 50000), (12, 4, 5000), (24, 6, 1), (32, 8, 0x11000), (40, 8, 0x12000), (48, 4, 64),
     (56, 8, 0x13000), (64, 4, 1), (88, 8, 0x14000)]) 0 128
/-- Service 7 in a state. -/
def svc7 (st : Nat) : Service := { ctx := 0, addr := 0x10000, st := st, block := svcBytes }

/-- A port that may come up, one that is up with and without a partner, locked and in holdover. -/
theorem wit_PortsComplete :
    1 < (pt port1 {}).ports.length ∧ portRuns (pt { port1 with link := false } {}) 1 = true ∧ portUp (pt port1 {}) 1 = true ∧
    (pt port1 {}).power.chip = 0 ∧ ((pt port1 {}).portAt 1).partner ≠ none ∧
    ((pt { port1 with partner := none } {}).portAt 1).partner = none ∧ partnerTlv ⟨9, 1, 2, true, 1, 10, true⟩ = true ∧
    partnerTlv ⟨9, 1, 2, true, 1, 9, true⟩ = false ∧ samePartner ⟨9, 1, 2, true, 1, 10, true⟩ ⟨9, 1, 3, true, 1, 10, true⟩ = false ∧
    samePartner ⟨9, 1, 2, true, 1, 10, true⟩ ⟨9, 1, 2, false, 1, 10, true⟩ = true ∧
    (⟨9, 1, 2, true, 1, 10, false⟩ : Lldpdu).fcsOk = false ∧ (50 : Nat) ≤ (-50 : Int).natAbs ∧
    (49 : Int).natAbs < 50 ∧ ((pt port1 {}).portAt 1).goodSyncs < 7 ∧ 7 ≤ ((pt { port1 with goodSyncs := 7 } {}).portAt 1).goodSyncs ∧
    ((pt port1 {}).portAt 1).time = 1 ∧ ((pt { port1 with time := 2 } {}).portAt 1).time = 2 ∧
    ((pt port1 (svc7 2)).svcAt 7).st = 2 ∧ ((pt port1 (svc7 2)).svcAt 7).port = 1 := by decide +kernel

/-- A service block in memory that fails its checks, and one with an admission block and a declaration of no command. -/
theorem wit_ServiceCommandsComplete :
    let s : State := { pt port1 (svc7 0) with
      near := memWriteN (memStore (memStore (memStore (memStore (memStore (memStore [] 0x14000 1 1) 0x14004 4 2000) 0x14010 8 0x14100) 0x14018 2 1)
        0x14100 1 0x46) 0x11010 1 12) 0x10000 svcBytes }
    let b := vaRead s 0 0x10000 128
    7 < s.services.length ∧ hostUp s = true ∧ s.power.chip = 0 ∧ (s.svcAt 7).st = 0 ∧ vaBad (s.svcAt 7).addr 128 = false ∧
    rangeStop s 0 (s.svcAt 7).addr 128 false = none ∧
    svcBlockStatus (pt port1 (svc7 0)) 0 (vaRead (pt port1 (svc7 0)) 0 0x10000 128) = some stLenZero ∧
    svcBlockStatus s 0 b = none ∧ holdsTimed s 0 = true ∧ serviceTaken s 7 b = false ∧ (s.portAt (fieldOf b 0 1)).time = 1 ∧
    (let a := admission s 0 (fieldOf b 88 8) 1 (maskCores (s.plotAt (s.ctxAt 0).plot).mask) (min (fieldOf b 8 4) (fieldOf b 12 4 - 3000))
     let s1 := writeAdmission s 0 (fieldOf b 88 8) a
     a.status = stDone ∧ rangeStop s1 0 (fieldOf b 32 8) 64 false = none ∧
     rangeStop s1 0 (fieldOf b 80 8) (fieldOf b 68 4) false = none ∧ rangeStop s1 0 (fieldOf b 56 8) 8 false = none ∧
     vaLoad s1 0 (fieldOf b 32 8 + 16) 1 = 12) ∧
    ((pt port1 (svc7 1)).svcAt 7).st ≠ 0 ∧ ((pt port1 (svc7 3)).svcAt 7).st = 3 := by decide +kernel

/-- A MEASUREMENT frame for service 3 from the partner with one payload byte. -/
def meas : RxFrame := ⟨9, 5, true, [1, 1, 0, 3] ++ zeros 12 ++ [0, 1] ++ zeros 14 ++ [0xAB], 0x88B5, false⟩

/-- A good 802.1AS message; a frame with a bad FCS, one for no service, one for the service that has room for no byte, one that
it takes. -/
theorem wit_ServiceCyclesComplete_frames :
    (let sync : RxFrame := { meas with etherType := 0x88F7 }
     frameGood sync = true ∧ netFrame sync = true ∧ (frameGood meas && netFrame meas) = false ∧ frameLen meas = 51 ∧
     frameGood { meas with tagged := true, bytes := zeros 1501 } = false) ∧
    let s := pt port1 (svc7 2)
    let t := pt port1 { svc7 2 with block := memReadN (memStore (memWriteN [] 0 svcBytes) 52 4 23488) 0 128 }
    7 < s.services.length ∧ 1 < s.ports.length ∧ portUp s 1 = true ∧ s.power.chip = 0 ∧ frameOk { meas with fcsOk := false } = false ∧
    frameOk meas = true ∧ addressed s 1 meas.dst = true ∧ beField meas.bytes 1 1 = 1 ∧
    (let m : RxFrame := { meas with bytes := [1, 1, 0, 4] ++ meas.bytes.drop 4 }
     frameOk m = true ∧ addressed s 1 m.dst = true ∧ beField m.bytes 1 1 = 1 ∧ 7 ∈ portServices s 1 ∧
     (portServices s 1).find? (fun k => decide (fieldOf (s.svcAt k).block 4 2 = beField m.bytes 2 2)) = none) ∧
    (portServices s 1).find? (fun k => decide (fieldOf (s.svcAt k).block 4 2 = beField meas.bytes 2 2)) = some 7 ∧
    accepts s (s.svcAt 7) meas = false ∧
    (portServices t 1).find? (fun k => decide (fieldOf (t.svcAt k).block 4 2 = beField meas.bytes 2 2)) = some 7 ∧
    accepts t (t.svcAt 7) meas = true ∧ memWf (t.svcAt 7).buffer = true := by decide +kernel

/-- An instant whose queue has room; a read that is on time, one that is late; a frame that is due. -/
theorem wit_ServiceCyclesComplete :
    let s := pt port1 (svc7 2)
    let v := s.svcAt 7
    let f := fieldOf v.block
    let await (n : Nat) : State := { pt port1 { svc7 2 with awaiting := true, lastPosted := true, posted := n } with near := memStore [] 0x13000 8 1 }
    v.st = 2 ∧ v.contextLost = false ∧ rangeStop s 0 (f 32 8) 64 false = none ∧ vaLoad s 0 (f 32 8 + 16) 1 = 0 ∧
    (vaLoad s 0 (f 32 8) 8 + 2 ^ 64 - vaLoad s 0 (f 32 8 + 8) 8) % 2 ^ 64 ≠ 2 ^ vaLoad s 0 (f 32 8 + 16) 1 ∧
    rangeStop s 0 (f 40 8 + v.posted % 1 * f 48 4) (64 + f 52 4) true = none ∧
    rangeStop s 0 (f 32 8 + 64 + 16 * (vaLoad s 0 (f 32 8) 8 % 1)) 16 true = none ∧ rangeStop s 0 (f 32 8) 8 true = none ∧
    rangeStop (await 1) 0 (f 56 8) 8 false = none ∧ f 64 4 ≠ 0 ∧ rangeStop (await 1) 0 (f 72 8) (f 68 4) false = none ∧
    f 64 4 * 1 % 2 ^ 64 ≤ (vaLoad (await 1) 0 (f 56 8) 8 + 2 ^ 64 - v.v0) % 2 ^ 64 ∧
    (vaLoad (await 2) 0 (f 56 8) 8 + 2 ^ 64 - v.v0) % 2 ^ 64 < f 64 4 * 2 % 2 ^ 64 ∧
    (let d : DueFrame := ⟨2, 0, 1, 5000, 0, 0, []⟩
     let u := pt port1 { svc7 2 with due := some d }
     (u.svcAt 7).st ≠ 0 ∧ (u.svcAt 7).due = some d ∧ dueBefore u 7 = [] ∧ portUp u (u.svcAt 7).port = true) := by
  decide +kernel

/-- Services 6 and 7 of port 1, both due at the same instant. -/
theorem wit_LowerServiceTransmitsFirst :
    let d : DueFrame := ⟨2, 0, 1, 5000, 0, 0, []⟩
    let v : Service := { svc7 2 with due := some d }
    let s : State := { pt port1 v with services := List.replicate 6 {} ++ [v, v] }
    7 < s.services.length ∧ (s.svcAt 6).st ≠ 0 ∧ (s.svcAt 7).st ≠ 0 ∧ (s.svcAt 6).contextLost = false ∧
    (s.svcAt 7).contextLost = false ∧ (s.svcAt 6).port = (s.svcAt 7).port ∧ portUp s (s.svcAt 7).port = true ∧
    (s.svcAt 6).due = some d ∧ (s.svcAt 7).due = some d ∧ (s.svcAt 6).firstSafe = false ∧ (s.svcAt 7).firstSafe = false ∧
    (∀ k, k < 7 → k ≠ 6 → (s.svcAt k).port ≠ (s.svcAt 7).port ∨ dueTime (s.svcAt k) = none) := by
  decide +kernel

/-! ### Witnesses: security, sideband, updates (16, 17) and the whole machine -/

/-- Connections that are free, that wait and that have just begun, with the RNG in start-up and ready; another code. -/
theorem wit_SpdmRequestsComplete :
    (0x81 : Nat) ≠ 0x84 ∧
    let s (k : Spdm) (r : Rng) : State := { s0 with mgmt := { doe := k }, rng := r }
    spdmUp (s {} {}) .doe = true ∧ ((s {} {}).conn .doe).busy = 0 ∧ ((s { stage := 3 } {}).conn .doe).stage = 3 ∧
    ((s { stage := 3, busy := 1 } {}).conn .doe).busy ≠ 0 ∧ ((s { stage := 2 } {}).conn .doe).stage < 3 ∧
    (s {} {}).rng.st ≠ 0 ∧ (s {} {}).rng.st ≠ 2 ∧ (s {} {}).rng.st ≠ 5 ∧
    (s {} {}).rng.waiting.length < 4096 ∧
    (let r : Rng := { st := 2, drbg := some (1, 2, 3) }
     r.reseeding = false ∧ r.waiting = [] ∧ r.drbg = some (1, 2, 3) ∧ 3 < 65535) := by decide +kernel

/-- The chain has a first byte. -/
theorem wit_SpdmRequestsComplete_chain (s : State) : 0 < (chainBytes s).length := by
  simp [chainBytes, storedCert, Cert.der, derSeq, derTlv]

/-- The sideband answers, in the fuse-fault state too; a sensor that is present and one that is not; the tap is closed and
open. -/
theorem wit_SidebandCommandsComplete :
    sidebandUp s0 = true ∧ s0.boot.rails = true ∧ 4 ≤ s0.boot.step ∧ s0.boot.fuseFault = false ∧ mapped s0 = true ∧
    s0.mgmt.sensors.getD 15 none = some 0 ∧ ({ sensors := [none] } : Mgmt).sensors.getD 0 none = none ∧ 63 ∈ pldmTypes s0 ∧
    sidebandUp { s0 with boot := { boot0 with fuseFault := true } } = true ∧ (1 : Nat) ≠ 0 ∧
    s0.boot.mode ≠ 2 ∧ (1023 < 1024) ∧ s0.rng.st ≠ 0 ∧ s0.rng.st ≠ 4 ∧ (rn 4 {}).rng.st = 4 := by decide +kernel

/-- No update open, one of the sideband, one of the host at the last page of the configuration block. -/
theorem wit_UpdatesComplete :
    let s (u : Update) : State := { s0 with mgmt := { update := u } }
    memWf (({} : Flash).region 2) = true ∧ sidebandUp (s {}) = true ∧ (s {}).mgmt.update.owner = 0 ∧ recUp (s {}) = true ∧
    s0.power.chip = 0 ∧ (s { st := 1, owner := 2, component := 2 }).mgmt.update.owner ≠ 0 ∧
    61440 - 1 + ([0xAB] : List Byte).length ≤ regionBytes 2 ∧ (57344 : Nat) % 256 = 0 ∧ 57344 + 4096 ≤ regionBytes 2 := by decide +kernel

/-- Some command answers a next state. -/
theorem wit_NoCommandChangesFusesOrQueue : ∃ t, exec .updateAbort s0 = .next t := ⟨_, rfl⟩

/-- The canonical form holds at reset. -/
theorem wit_StepsKeepMemoriesCanonical : MemoriesCanonical State.reset ∧ step State.reset = .next State.reset := by
  refine ⟨⟨by decide, by decide, by decide, by decide, by decide, by decide, by decide, by decide, ?_, ?_, ?_⟩, rfl⟩
  · intro v hv
    have : v = {} := List.eq_of_mem_replicate hv
    subst this
    decide
  · intro p hp
    cases hp
  · intro p hp
    cases hp

/-! ### Checks against the spec's worked examples -/

/-- The state after a command. -/
def after (s : State) (i : Instr) : State :=
  match exec i s with
  | .next t => t
  | _ => s

/-- The example of R132: 2 · β · fr and its table index, and the index under METROPOLIS. -/
theorem test_decision_argument :
    thermalArg 0x3F333333 (.fin ⟨3 * 2 ^ 29 + 1, -30⟩) = 0x40066666 ∧ tableIndex 0x40066666 = 4634 ∧
    tableIndex (fpNegate 0x40066666) = 3558 := by decide +kernel

/-- The example of R271: the counter words of ACCEPT at site (3, 2, 1). -/
theorem test_counter_words :
    (let c := ctrOf 0 3 (siteIndex 3 2 1) 0x000100000024 5 0
     c.x0 = 0x00000024 ∧ c.x1 = 0x00050001 ∧ c.x2 = 0x00200003 ∧ c.x3 = 0x00030100) := by decide +kernel

/-- The example of R270: the words and keys after rounds 3 and 4 from zero. -/
theorem test_counter_rounds :
    (let c := ctrRounds 3 (ctrOf 0 0 0 0 0 0)
     c.x0 = 0xBBD90241 ∧ c.x1 = 0xC640DE2A ∧ c.x2 = 0xE1C7525B ∧ c.x3 = 0xB3B3CB65) ∧
    (let c := ctrRounds 4 (ctrOf 0 0 0 0 0 0)
     c.x0 = 0x0AB5545A ∧ c.x1 = 0x3944EDE8 ∧ c.x2 = 0xC35B6C89 ∧ c.x3 = 0x7DA8AC5E ∧ c.k0 = 0xFD29F054 ∧ c.k1 = 0x6147D0B4) := by
  decide +kernel

/-- The example of R93: scale, zero point and codes of a row under CURRENT ASY8. -/
theorem test_row_conversion :
    rowScale 6 (.fin ⟨6, 0⟩) (.fin ⟨-3, -1⟩) = (0xE1E2FFFA, 51, 0) ∧
    ([0x3F400000, 0xBFC00000, 0x40400000, 0x3DCCCCCD, 0x40100000, 0xBF000000, 0x40C00000, 0x3F800000, 0] : List Nat).map
      (fun x => (rowCode 6 0xE1E2FFFA 51 (fpVal fmt32 x)).1) = [76, 0, 153, 54, 127, 34, 255, 85, 51] := by decide +kernel

/-- The example of R97: scale and zero point of the step after, under BOOST. -/
theorem test_row_conversion_boosted : rowScale 6 (.fin ⟨29, -1⟩) (.fin ⟨-3, 0⟩) = (0x191AFFFC, 44, 0) := by decide +kernel

/-- The example of R398: the page of a virtual address and where its entry leads. -/
theorem test_translation :
    let s := sc (fun c => { c with tlb := [(0x5A3C2468, 0x1234560033)] })
    xlate s 0 0x5A3C24681234 false = .ok .near 0x1234561234 := by decide +kernel

/-- The example of R444: a ZL96-B with 35, 30, 23 and 36 good cores. -/
theorem test_core_selection :
    let good := (List.range 144).filter (fun p => decide (p ≠ 7 ∧ p ≠ 80 ∧ ¬ (66 ≤ p ∧ p < 72) ∧ ¬ (96 ≤ p ∧ p < 108)))
    let e := selectCores 1 good
    e.length = 96 ∧ e.take 25 = List.range 7 ++ (List.range 18).map (· + 8) ∧ good.length - e.length = 28 := by decide +kernel

/-- The example of R296: W of its declaration with T = 142. -/
theorem test_admission_clocks : wcetOf 142 [(1, 0, 1, 32768), (0x21, 0, 1, 200), (1, 0, 1, 4096)] = 33460 := by decide +kernel

/-- The example of R503: the driver's addresses, as writes that reach their registers. -/
theorem test_bar0_addresses :
    ((after s0 (.registerWrite 0x10050 8 2)).bar4Near = 2) ∧
    bar4Target (after s0 (.registerWrite 0x10050 8 2)) 0x234561234 = some (.near, 0x1234561234) ∧
    (let s := { s0 with cores := [(17, { flips := 5 })], boot := { boot0 with enabled := List.range 18 } }
     readBar0 s 0x82258 8 = natLe 8 5) := by decide +kernel

/-! ### Single instructions and commands -/

/-- The value of a register after an instruction of control core 0 on given values of g2 and g3. -/
def result (a b : Word) (i : Instr) (k : BitVec 5) : Word :=
  reg (after (sw (fun w => { w with cc0 := { w.cc0 with regs := [(2, a), (3, b)] } })) i) h0 k

/-- R310: DIVU and REMU by zero; SHL uses the low six bits; SAR keeps the sign. -/
theorem test_alu_corners :
    result 7 0 (.divu h0 1 2 3) 1 = BitVec.allOnes 64 ∧ result 7 0 (.remu h0 1 2 3) 1 = 7 ∧
    result 3 65 (.shl h0 1 2 3) 1 = 6 ∧ result (BitVec.ofInt 64 (-8)) 1 (.sar h0 1 2 3) 1 = BitVec.ofInt 64 (-4) ∧
    result 7 0 (.add h0 0 2 2) 0 = 0 := by decide +kernel

/-- R310: MULH and MULHU of minus one by two; CLZ and POPC of zero; LDK and APK. -/
theorem test_alu_wide :
    result (BitVec.allOnes 64) 2 (.mulh h0 1 2 3) 1 = BitVec.allOnes 64 ∧ result (BitVec.allOnes 64) 2 (.mulhu h0 1 2 3) 1 = 1 ∧
    result 0 0 (.clz h0 1 2) 1 = 64 ∧ result 0 0 (.popc h0 1 2) 1 = 0 ∧
    result 0 0 (.ldk h0 1 (BitVec.ofInt 21 (-1))) 1 = BitVec.allOnes 64 ∧ result 0xABCD 0 (.apk h0 2 0x1234) 2 = 0xABCD1234 := by
  decide +kernel

/-- R310: a signed load of a word, a store of the low bytes, a branch backwards. -/
theorem test_memory_and_branch :
    reg (after (sw (fun w => { w with store := [(67, 0x80)] })) (.ldws h0 1 3 0)) h0 1 = BitVec.ofInt 64 (-(2 ^ 31)) ∧
    (((after (sw (fun w => { w with cc0 := { w.cc0 with regs := [(2, 0x1234), (3, 64)] } })) (.stb h0 2 3 1)).workAt 0).store = [(64, 0x11), (65, 0x34)]) ∧
    ((after (sw (fun w => { w with cc0 := { w.cc0 with pc := 16 } })) (.beq h0 2 2 (BitVec.ofInt 16 (-2)))).hart h0).pc = 8 := by
  decide +kernel

/-- The example of R357: the write of tail 41 to an empty ring of context 9. -/
theorem test_tail_doorbell :
    let s := { s0 with ctxs := [(9, { st := 1, rings := [(0, { ring0 with head := 40, tail := 40 })] })] }
    ((after s (.tailDoorbell 9 0 41)).ringAt 9 0).tail = 41 ∧ ((after s (.tailDoorbell 9 0 41)).ringAt 9 0).dbPending = true := by
  decide +kernel

/-- R469: a cap of 300 W is held at 400 W, one of zero stands for 1,000 W. -/
theorem test_power_cap : (after s0 (.capW 300)).power.capW = 400 ∧ (after s0 (.capW 0)).power.capW = 1000 := by decide +kernel

/-- The three-site chain of R141: SYM4 codes −2 along x, biases +5, all scales 1.0. -/
def chain3 : SpinRun :=
  let p : PlatInfo := { plat0 with codeWidth := 2, order := 1, dimX := 3, gDimX := 3, slabX1 := 3, couplOff := 384, biasOff := 1024 }
  { spin0 with plat := p, cut := [⟨0, 0, 3, 0, 1⟩], lscale := [(0x3F800000, 0x3F800000)], zscale := [(0x38, 0x38)], spins := [7] }
/-- Its bytes: the codes of direction 0 in the records of sites 0 and 1, and the biases. -/
def chain3Byte (a : Nat) : Byte :=
  if a = 384 ∨ a = 448 then 0x0E else if a = 1024 ∨ a = 1088 ∨ a = 1152 then 5 else 0

/-- Its new bits and energy changes, in whole units, when every site has decided to flip under a policy. -/
def chain3Resolve (policy : Nat) : List (Bool × Int) :=
  let c : SpinCmd := { scmd0 with policy := policy, before := [7], flipping := [7], decided := [7] }
  ([⟨0, 0, 0⟩, ⟨1, 0, 0⟩, ⟨2, 0, 0⟩] : List Site).map (fun i =>
    let r := resolveSite chain3 c chain3Byte 0 0 i
    (r.new, r.delta / 2 ^ 200))

/-- The example of R141: fields 3, 1, 3; under KEEP all flip and the changes sum to −30, under YIELD site 0 alone, by −6. -/
theorem test_sync_chain :
    ([⟨0, 0, 0⟩, ⟨1, 0, 0⟩, ⟨2, 0, 0⟩] : List Site).map (fun i =>
      siteField chain3.plat chain3.scales chain3Byte (fun _ => true) i) = [3 * 2 ^ 200, 1 * 2 ^ 200, 3 * 2 ^ 200] ∧
    (chain3Resolve 0).map Prod.fst = [false, false, false] ∧ ((chain3Resolve 0).map Prod.snd).sum = -30 ∧
    chain3Resolve 1 = [(false, -6), (true, 0), (true, 0)] := by decide +kernel

end Sys2Proof.Tests
end

section
/-! Every operation of the model keeps the canonical form of every memory, the fuses and the queue: what that means, and
the rules for the updates of the state. -/

namespace Sys2Proof.Laws

open Sys2Proof.Machine Sys2Proof.Safety

/-! ### The canonical form, part by part -/

/-- A core's work with its store in the canonical form. -/
def WorkOk (w : Work) : Prop := memWf w.store = true

/-- A core with its store in the canonical form. -/
def CoreOk (c : Core) : Prop := WorkOk c.work

/-- A context with its tables and save areas in the canonical form. -/
def CtxOk (x : Ctx) : Prop :=
  memWf x.accTable = true ∧ memWf x.exchTable = true ∧ ∀ w, w ∈ x.saves → WorkOk w.2

/-- A service entry with its frame buffer in the canonical form. -/
def SvcOk (v : Service) : Prop := memWf v.buffer = true

/-- A flash with its image and configuration in the canonical form. -/
def FlashOk (f : Flash) : Prop := memWf f.imageBytes = true ∧ memWf f.cfg = true

/-- `MemoriesCanonical`, by names of its parts. -/
structure Canonical (s : State) : Prop where
  near : memWf s.near = true
  far : memWf s.far = true
  host : memWf s.host = true
  msixTable : memWf s.msixTable = true
  flash : FlashOk s.flash
  bootCfg : memWf s.boot.cfg = true
  update : memWf s.mgmt.update.buffer = true
  services : ∀ v, v ∈ s.services → SvcOk v
  cores : ∀ p, p ∈ s.cores → CoreOk p.2
  ctxs : ∀ p, p ∈ s.ctxs → CtxOk p.2

theorem canonical_iff (s : State) : Canonical s ↔ MemoriesCanonical s :=
  ⟨fun h => ⟨h.near, h.far, h.host, h.msixTable, h.flash.1, h.flash.2, h.bootCfg, h.update, h.services, h.cores, h.ctxs⟩,
   fun ⟨hn, hf, hh, hm, hi, hc, hb, hu, hs, hk, hx⟩ => ⟨hn, hf, hh, hm, ⟨hi, hc⟩, hb, hu, hs, hk, hx⟩⟩

/-! ### Tables and lists of entries that satisfy a predicate -/

theorem forall_tabSet {α : Type} {P : α → Prop} {t : Tab α} (h : ∀ p, p ∈ t → P p.2) (k : Nat) {v : α} (hv : P v) :
    ∀ p, p ∈ tabSet t k v → P p.2 := by
  induction t with
  | nil => simpa [tabSet] using hv
  | cons q r ih =>
    obtain ⟨j, w⟩ := q
    have hw : P w := h (j, w) (by simp)
    have hr : ∀ p, p ∈ r → P p.2 := fun p hp => h p (by simp [hp])
    intro p hp
    simp only [tabSet] at hp
    split at hp
    · rcases List.mem_cons.1 hp with rfl | hp
      · exact hv
      · exact hr p hp
    · split at hp
      · rcases List.mem_cons.1 hp with rfl | hp
        · exact hv
        · exact h p hp
      · rcases List.mem_cons.1 hp with rfl | hp
        · exact hw
        · exact ih hr p hp

theorem tabGet_of_forall {α : Type} {P : α → Prop} {d : α} (hd : P d) {t : Tab α} (h : ∀ p, p ∈ t → P p.2) (k : Nat) :
    P (tabGet d t k) := by
  induction t with
  | nil => exact hd
  | cons q r ih =>
    simp only [tabGet]
    split
    · exact h q (by simp)
    · exact ih (fun p hp => h p (by simp [hp]))

theorem tabFind_of_forall {α : Type} {P : α → Prop} {t : Tab α} (h : ∀ p, p ∈ t → P p.2) {k : Nat} {v : α}
    (hv : tabFind t k = some v) : P v := by
  induction t with
  | nil => simp [tabFind] at hv
  | cons q r ih =>
    simp only [tabFind] at hv
    split at hv
    · exact Option.some.inj hv ▸ h q (by simp)
    · exact ih (fun p hp => h p (by simp [hp])) hv

theorem forall_tabDel {α : Type} {P : α → Prop} {t : Tab α} (h : ∀ p, p ∈ t → P p.2) (k : Nat) :
    ∀ p, p ∈ tabDel t k → P p.2 := fun p hp => h p (List.mem_of_mem_filter hp)

theorem forall_listUpd {α : Type} {P : α → Prop} {l : List α} (h : ∀ x, x ∈ l → P x) (i : Nat) {f : α → α}
    (hf : ∀ x, P x → P (f x)) : ∀ x, x ∈ listUpd l i f → P x := by
  induction l generalizing i with
  | nil => simp [listUpd]
  | cons y r ih =>
    have hy : P y := h y (by simp)
    have hr : ∀ x, x ∈ r → P x := fun x hx => h x (by simp [hx])
    cases i with
    | zero => simpa [listUpd] using ⟨hf y hy, hr⟩
    | succ n => simpa [listUpd] using ⟨hy, ih hr n⟩

theorem forall_mapSnd {α β : Type} {P : α → Prop} {Q : β → Prop} {t : Tab α} (h : ∀ p, p ∈ t → P p.2)
    {f : Nat × α → Nat × β} (hf : ∀ p, P p.2 → Q (f p).2) : ∀ p, p ∈ t.map f → Q p.2 := by
  intro p hp
  obtain ⟨q, hq, rfl⟩ := List.mem_map.1 hp
  exact hf q (h q hq)

/-- A memory without a listed byte has the canonical form. -/
@[simp] theorem memWf_nil : memWf [] = true := rfl

theorem workOk_default : WorkOk {} := memWf_nil
theorem coreOk_default : CoreOk {} := memWf_nil
theorem ctxOk_default : CtxOk {} := ⟨memWf_nil, memWf_nil, by simp⟩

/-- Writes folded over a list keep the canonical form. -/
theorem memWf_foldl {α : Type} {f : Memory → α → Memory} (hf : ∀ m a, memWf m = true → memWf (f m a) = true)
    {m : Memory} (h : memWf m = true) (l : List α) : memWf (l.foldl f m) = true := by
  induction l generalizing m with
  | nil => exact h
  | cons a r ih => exact ih (hf m a h)

/-! ### What every operation keeps -/

/-- From `s₀` to `s` the queue and the fuses are as they were, and every memory keeps the canonical form. -/
structure Keeps (s₀ s : State) : Prop where
  pending : s.pending = s₀.pending
  fuses : s.fuses = s₀.fuses
  canonical : Canonical s₀ → Canonical s

/-- The outcome of a command is a next state, to which `Keeps` leads. -/
inductive KeepsOut (s₀ : State) : Host.Outcome State Fault Refusal → Prop where
  | next {s : State} (h : Keeps s₀ s) : KeepsOut s₀ (.next s)

/-- The work of an engine command ends in a state to which `Keeps` leads, or stops. -/
inductive KeepsEng (s₀ : State) : EngOut → Prop where
  | done {s : State} {st : Status} (h : Keeps s₀ s) : KeepsEng s₀ (.done st s)
  | stop {x : Stop} {write : Bool} : KeepsEng s₀ (.stop x write)

/-- The parts of the state that hold no memory, no fuse and no queue, left out. -/
def kept (s : State) :=
  ((s.pending, s.fuses, s.near, s.far, s.host, s.msixTable),
   (s.flash.imageBytes, s.flash.cfg, s.boot.cfg, s.mgmt.update.buffer), (s.services, s.cores, s.ctxs))

section
variable {s₀ s t : State}

theorem Keeps.refl (s : State) : Keeps s s := ⟨rfl, rfl, id⟩

theorem Keeps.trans (h : Keeps s₀ s) (k : Keeps s t) : Keeps s₀ t :=
  ⟨k.pending.trans h.pending, k.fuses.trans h.fuses, k.canonical ∘ h.canonical⟩

/-- One more update that leaves queue and fuses alone. -/
theorem Keeps.update (h : Keeps s₀ s) (hc : Canonical s → Canonical t) (hp : t.pending = s.pending := by rfl)
    (hf : t.fuses = s.fuses := by rfl) : Keeps s₀ t :=
  h.trans ⟨hp, hf, hc⟩

theorem Keeps.of_canonical (hp : s.pending = s₀.pending) (hf : s.fuses = s₀.fuses) (h : Canonical s₀ → Keeps s₀ s) :
    Keeps s₀ s := ⟨hp, hf, fun k => (h k).canonical k⟩

/-- An update of parts that hold no memory. -/
theorem Keeps.frame (h : Keeps s₀ s) (e : kept t = kept s := by rfl) : Keeps s₀ t := by
  simp only [kept, Prod.mk.injEq] at e
  obtain ⟨⟨hp, hf, hn, hfar, hh, hm⟩, ⟨hi, hc, hb, hu⟩, hs, hk, hx⟩ := e
  refine h.update (fun c => ?_) hp hf
  exact ⟨hn ▸ c.near, hfar ▸ c.far, hh ▸ c.host, hm ▸ c.msixTable, ⟨hi ▸ c.flash.1, hc ▸ c.flash.2⟩, hb ▸ c.bootCfg,
    hu ▸ c.update, hs ▸ c.services, hk ▸ c.cores, hx ▸ c.ctxs⟩

theorem Keeps.ite {p : Prop} [Decidable p] {a b : State} (ha : Keeps s₀ a) (hb : Keeps s₀ b) :
    Keeps s₀ (if p then a else b) := by split <;> assumption

theorem KeepsEng.ite {p : Prop} [Decidable p] {a b : EngOut} (ha : KeepsEng s₀ a) (hb : KeepsEng s₀ b) :
    KeepsEng s₀ (if p then a else b) := by split <;> assumption

theorem Keeps.foldl {α : Type} {l : List α} {f : State → α → State} (h : Keeps s₀ s)
    (hf : ∀ t a, Keeps s₀ t → Keeps s₀ (f t a)) : Keeps s₀ (l.foldl f s) := by
  induction l generalizing s with
  | nil => exact h
  | cons a r ih => exact ih (hf s a h)

/-! ### The parts of the state -/

theorem Keeps.setCore {n : Nat} {c : Core} (h : Keeps s₀ s) (hc : Canonical s → CoreOk c) : Keeps s₀ (s.setCore n c) :=
  h.update fun k => { k with cores := forall_tabSet k.cores n (hc k) }

theorem Canonical.coreAt (k : Canonical s) (n : Nat) : CoreOk (s.coreAt n) := tabGet_of_forall coreOk_default k.cores n

theorem Canonical.workAt (k : Canonical s) (n : Nat) : WorkOk (s.workAt n) := k.coreAt n

theorem Canonical.ctxAt (k : Canonical s) (n : Nat) : CtxOk (s.ctxAt n) := tabGet_of_forall ctxOk_default k.ctxs n

theorem Keeps.updCore {n : Nat} {f : Core → Core} (h : Keeps s₀ s)
    (hf : ∀ c, CoreOk c → CoreOk (f c) := by exact fun _ h => h) : Keeps s₀ (s.updCore n f) :=
  h.setCore fun k => hf _ (k.coreAt n)

theorem Keeps.updWork {n : Nat} {f : Work → Work} (h : Keeps s₀ s)
    (hf : ∀ w, WorkOk w → WorkOk (f w) := by exact fun _ h => h) : Keeps s₀ (s.updWork n f) :=
  h.updCore fun c hc => hf c.work hc

theorem WorkOk.setCc {w : Work} (h : WorkOk w) (b : Bool) (c : CCore) : WorkOk (w.setCc b c) := by
  simpa [WorkOk] using h

theorem WorkOk.setUnitQ {w : Work} (h : WorkOk w) (u : EngineUnit) (q : UnitQ) : WorkOk (w.setUnitQ u q) := by
  cases u <;> exact h

theorem Keeps.setHart {x : Hart} {c : CCore} (h : Keeps s₀ s) : Keeps s₀ (s.setHart x c) :=
  h.updWork fun _ hw => hw.setCc ..

theorem Keeps.updHart {x : Hart} {f : CCore → CCore} (h : Keeps s₀ s) : Keeps s₀ (s.updHart x f) := h.setHart

/-- Every core changed in a way that keeps its store's canonical form. -/
theorem Keeps.mapCores {f : Nat × Core → Nat × Core} (h : Keeps s₀ s) (hf : ∀ p, CoreOk p.2 → CoreOk (f p).2) :
    Keeps s₀ { s with cores := List.map f s.cores } :=
  h.update fun k => { k with cores := forall_mapSnd k.cores hf }

theorem Keeps.setCtx {n : Nat} {x : Ctx} (h : Keeps s₀ s) (hx : Canonical s → CtxOk x) : Keeps s₀ (s.setCtx n x) :=
  h.update fun k => { k with ctxs := forall_tabSet k.ctxs n (hx k) }

theorem Keeps.updCtx {n : Nat} {f : Ctx → Ctx} (h : Keeps s₀ s)
    (hf : ∀ x, CtxOk x → CtxOk (f x) := by exact fun _ h => h) : Keeps s₀ (s.updCtx n f) :=
  h.setCtx fun k => hf _ (k.ctxAt n)

theorem Keeps.updRing {c r : Nat} {f : Ring → Ring} (h : Keeps s₀ s) : Keeps s₀ (s.updRing c r f) := h.updCtx

theorem CtxOk.setSave {x : Ctx} (h : CtxOk x) (n : Nat) {w : Work} (hw : WorkOk w) :
    CtxOk { x with saves := tabSet x.saves n w } := ⟨h.1, h.2.1, forall_tabSet h.2.2 n hw⟩

theorem CtxOk.filterSaves {x : Ctx} (h : CtxOk x) (p : Nat × Work → Bool) : CtxOk { x with saves := x.saves.filter p } :=
  ⟨h.1, h.2.1, fun w hw => h.2.2 w (List.mem_of_mem_filter hw)⟩

theorem CtxOk.mapSaves {x : Ctx} (h : CtxOk x) {f : Nat × Work → Nat × Work} (hf : ∀ p, WorkOk p.2 → WorkOk (f p).2) :
    CtxOk { x with saves := List.map f x.saves } := ⟨h.1, h.2.1, forall_mapSnd h.2.2 hf⟩

theorem Keeps.setPlot {n : Nat} {p : Plot} (h : Keeps s₀ s) : Keeps s₀ (s.setPlot n p) := h.frame
theorem Keeps.updPlot {n : Nat} {f : Plot → Plot} (h : Keeps s₀ s) : Keeps s₀ (s.updPlot n f) := h.frame
theorem Keeps.updRun {k : RunKey} {f : Run → Run} (h : Keeps s₀ s) : Keeps s₀ (s.updRun k f) := h.frame
theorem Keeps.updLink {n : Nat} {f : Link → Link} (h : Keeps s₀ s) : Keeps s₀ (s.updLink n f) := h.frame
theorem Keeps.updGroup {n : Nat} {f : Group → Group} (h : Keeps s₀ s) : Keeps s₀ (s.updGroup n f) := h.frame
theorem Keeps.updPort {n : Nat} {f : Port → Port} (h : Keeps s₀ s) : Keeps s₀ (s.updPort n f) := h.frame
theorem Keeps.emit {o : Out} (h : Keeps s₀ s) : Keeps s₀ (s.emit o) := h.frame
theorem Keeps.tick (h : Keeps s₀ s) : Keeps s₀ s.tick := h.frame

theorem Keeps.updSvc {n : Nat} {f : Service → Service} (h : Keeps s₀ s)
    (hf : ∀ v, SvcOk v → SvcOk (f v) := by exact fun _ h => h) : Keeps s₀ (s.updSvc n f) :=
  h.update fun k => { k with services := forall_listUpd k.services n hf }

/-- Bytes written into a memory level. -/
theorem Keeps.setLevel {l : Level} {m : Memory} (h : Keeps s₀ s) (hm : Canonical s → memWf m = true) :
    Keeps s₀ (setLevel s l m) := by
  cases l with
  | near => exact h.update fun k => { k with near := hm k }
  | far => exact h.update fun k => { k with far := hm k }
  | host => exact h.update fun k => { k with host := hm k }
  | coreStore => exact h

theorem Keeps.setNear {m : Memory} (h : Keeps s₀ s) (hm : Canonical s → memWf m = true) : Keeps s₀ { s with near := m } :=
  h.setLevel (l := .near) hm

theorem Keeps.setHost {m : Memory} (h : Keeps s₀ s) (hm : Canonical s → memWf m = true) : Keeps s₀ { s with host := m } :=
  h.setLevel (l := .host) hm

theorem Canonical.levelMem (k : Canonical s) (l : Level) : memWf (levelMem s l) = true := by
  cases l with
  | near => exact k.near
  | far => exact k.far
  | host => exact k.host
  | coreStore => exact memWf_nil

end

end Sys2Proof.Laws
end

section
/-! Every operation of the model keeps the canonical form: a rule for each, named after it, in the model's order. A rule takes
what holds of the state that the operation starts from, and cites the rules of the operations that it is made of: `frame`
where it writes no memory, `updCore`, `updCtx` and the like where it writes one. -/

namespace Sys2Proof.Laws

open Sys2Proof.Machine Sys2Proof.Safety

section
variable {s₀ s : State}
set_option Elab.async false

/-! ### Messages that leave the chip -/

theorem Keeps.sendFlit {n : Nat} {payload : List Byte} (h : Keeps s₀ s) : Keeps s₀ (sendFlit n s payload) :=
  h.updLink.tick.tick

theorem Keeps.transmit {n chip : Nat} {m : FabMsg} (h : Keeps s₀ s) : Keeps s₀ (transmit s n chip m) :=
  (h.tick.emit.foldl (fun _ _ h1 => h1.sendFlit)).updLink

theorem Keeps.sendFab {chip : Nat} {m : FabMsg} (h : Keeps s₀ s) : Keeps s₀ (sendFab s chip m) := by
  unfold Machine.sendFab
  dsimp only
  split
  · exact h.transmit
  · exact h.frame

theorem Keeps.sendFabs {chips : List Nat} {m : FabMsg} (h : Keeps s₀ s) : Keeps s₀ (sendFabs s chips m) :=
  h.foldl fun _ _ h1 => h1.sendFab

theorem Keeps.drainFab (h : Keeps s₀ s) : Keeps s₀ (drainFab s) := h.frame.foldl (fun _ _ h1 => h1.sendFab)

theorem Keeps.moveSending {n : Nat} (h : Keeps s₀ s) : Keeps s₀ (moveSending s n) := h.frame.drainFab

/-! ### Status codes, events and MSI-X vectors -/

theorem Keeps.raiseVector {v : Nat} (h : Keeps s₀ s) : Keeps s₀ (raiseVector s v) := .ite (.ite h h.frame) h.emit

theorem Keeps.flushVectors (h : Keeps s₀ s) : Keeps s₀ (flushVectors s) := h.frame

theorem Keeps.msixWrite {off : Nat} {bs : List Byte} (h : Keeps s₀ s) : Keeps s₀ (msixWrite s off bs) := by
  have hw : Keeps s₀ { s with msixTable := bs.zipIdx.foldl (fun m p =>
      memWrite m (off + p.2) (p.1 ^^^ (if (off + p.2) % 16 = 12 then 1 else 0))) s.msixTable } :=
    h.update fun k => { k with msixTable := memWf_foldl (fun _ _ hm => memWf_write hm _ _) k.msixTable _ }
  exact hw.flushVectors

theorem Keeps.raiseEvent {bit : Nat} (h : Keeps s₀ s) : Keeps s₀ (raiseEvent s bit) :=
  (Keeps.ite h.frame h.frame.emit).raiseVector

theorem Keeps.scaleClamp {ctx : Nat} (h : Keeps s₀ s) : Keeps s₀ (scaleClamp s ctx) := by
  unfold Machine.scaleClamp
  extract_lets src
  have h1 : Keeps s₀ src := h.updCtx
  exact h1.frame.raiseEvent

theorem Keeps.scaleClamps {ctx n : Nat} (h : Keeps s₀ s) : Keeps s₀ (scaleClamps s ctx n) := by
  induction n generalizing s with
  | zero => exact h
  | succ k ih => exact ih h.scaleClamp

theorem Keeps.timingBroken {plot cause : Nat} (h : Keeps s₀ s) : Keeps s₀ (timingBroken s plot cause) :=
  .ite h.frame.raiseEvent h

/-! ### Memory levels, virtual addresses, faults and the pages of a context -/

theorem Keeps.allotArea {c core : Nat} {t : State} (h : Keeps s₀ s) (e : allotArea c s core = some t) :
    Keeps s₀ t := by
  obtain ⟨_, -, rfl⟩ := Option.map_eq_some_iff.1 e
  exact h.updCtx

/-- A fold that may fail keeps what each of its steps keeps. -/
theorem Keeps.foldlM {α : Type} {l : List α} {f : State → α → Option State} {t : State} (h : Keeps s₀ s)
    (hf : ∀ u a v, Keeps s₀ u → f u a = some v → Keeps s₀ v) (e : l.foldlM f s = some t) : Keeps s₀ t := by
  induction l generalizing s with
  | nil => exact Option.some.inj e ▸ h
  | cons a r ih =>
    obtain ⟨u, hu, hr⟩ := Option.bind_eq_some_iff.1 e
    exact ih (hf s a u h hu) hr

theorem Keeps.allotAreas {cs cores : List Nat} {t : State} (h : Keeps s₀ s) (e : allotAreas s cs cores = some t) :
    Keeps s₀ t :=
  h.foldlM (fun _ _ _ hu eu => hu.foldlM (fun _ _ _ hv ev => hv.allotArea ev) eu) e

theorem Keeps.pieceWrite {c : Nat} {bs : List Byte} {va : Nat} {p : Nat × Nat} (h : Keeps s₀ s) :
    Keeps s₀ (pieceWrite c bs va s p) := by
  unfold Machine.pieceWrite
  split
  · exact h.setLevel fun k => memWf_writeN (k.levelMem _) _ _
  · exact h

theorem Keeps.vaWrite {c va : Nat} {bs : List Byte} (h : Keeps s₀ s) : Keeps s₀ (vaWrite s c va bs) :=
  h.foldl fun _ _ h1 => h1.pieceWrite

theorem Keeps.cachePages {c va n : Nat} (h : Keeps s₀ s) : Keeps s₀ (cachePages s c va n) := by
  unfold Machine.cachePages
  exact h.updCtx

theorem Keeps.chargeMem {c n : Nat} (h : Keeps s₀ s) : Keeps s₀ (chargeMem s c n) := h.updCtx

theorem Keeps.chargeLink {gi n : Nat} (h : Keeps s₀ s) : Keeps s₀ (chargeLink s gi n) := h.updCtx

theorem Keeps.sendGroup {gi : Nat} {chips : List Nat} {m : FabMsg} (h : Keeps s₀ s) :
    Keeps s₀ (sendGroup s gi chips m) :=
  h.sendFabs.chargeLink

theorem Keeps.sendAll {g : Nat} {m : GroupMsg} (h : Keeps s₀ s) : Keeps s₀ (sendAll s g m) := h.sendGroup

theorem Keeps.sendStop {g : Nat} {st : Status} {lost : Option Nat} (h : Keeps s₀ s) :
    Keeps s₀ (sendStop s g st lost) :=
  h.sendGroup

theorem Keeps.storeWrite {core off : Nat} {bs : List Byte} (h : Keeps s₀ s) : Keeps s₀ (storeWrite s core off bs) :=
  Keeps.updWork h.frame fun _ hw => memWf_writeN hw _ _

theorem Keeps.markT {c : Nat} (h : Keeps s₀ s) : Keeps s₀ (markT s c) := .ite h.timingBroken h

theorem Keeps.markUnlocked {c va n : Nat} (h : Keeps s₀ s) : Keeps s₀ (markUnlocked s c va n) := .ite h h.markT

theorem Keeps.markAccess {c va n : Nat} (h : Keeps s₀ s) : Keeps s₀ (markAccess s c va n) :=
  .ite h.markUnlocked.markT h.markUnlocked

theorem Keeps.writeEach {c : Nat} {ws : List (Nat × List Byte)} (h : Keeps s₀ s) : Keeps s₀ (writeEach s c ws) :=
  h.foldl fun _ _ h1 => .ite h1.markAccess.vaWrite.tick h1

theorem Keeps.endRecord {r : Run} {st : Status} {reset : Bool} (h : Keeps s₀ s) : Keeps s₀ (endRecord s r st reset) :=
  h.writeEach

theorem Keeps.finishDesc {c r slot : Nat} {st : Status} {detail : Nat} (h : Keeps s₀ s) :
    Keeps s₀ (finishDesc s c r slot st detail) :=
  h.updRing

theorem Keeps.leaveGroup {r : Run} {st : Status} (h : Keeps s₀ s) : Keeps s₀ (leaveGroup s r st) := by
  unfold Machine.leaveGroup
  dsimp only
  split
  · exact h
  · split
    · exact h
    · exact .ite h (.ite h.updGroup h.updGroup.sendStop)

theorem CoreOk.freeCore {c : Core} (h : CoreOk c) (k : RunKey) : CoreOk (freeCore k c) := by
  unfold Machine.freeCore
  split <;> exact h

theorem Keeps.dropRun {k : RunKey} {st : Status} {reset : Bool} (h : Keeps s₀ s) :
    Keeps s₀ (dropRun s k st reset) := by
  unfold Machine.dropRun
  extract_lets s1 src s2
  have h1 : Keeps s₀ s1 := by
    unfold s1
    split
    · exact h.endRecord.leaveGroup
    · exact h
  have h2 : Keeps s₀ s2 := (h1.mapCores (f := fun p => (p.1, freeCore k p.2)) fun _ hc => hc.freeCore k).frame
  exact h2.updCtx fun x hx => hx.filterSaves _

theorem CoreOk.lastStatus {c : Core} (h : CoreOk c) (u : EngineUnit) (st : Status) : CoreOk (lastStatus u st c) := by
  cases u <;> exact h

theorem CoreOk.endUnits {c : Core} (h : CoreOk c) (k : RunKey) (st : Status) : CoreOk (endUnits k st c) := by
  have hs (u : EngineUnit) (x : Core) (hx : CoreOk x) :
      CoreOk (if (x.work.unitQ u).queue.isEmpty then x else Machine.lastStatus u st x) := by
    split
    · exact hx
    · exact hx.lastStatus u st
  unfold Machine.endUnits
  split
  · exact hs _ _ (hs _ _ (hs _ _ h))
  · exact h

theorem Keeps.stopRun {k : RunKey} {st : Status} (h : Keeps s₀ s) : Keeps s₀ (stopRun s k st) :=
  (h.mapCores (f := fun p => (p.1, endUnits k st p.2)) fun _ hc => hc.endUnits k st).dropRun

theorem Keeps.completeRun {k : RunKey} {st : Status} {detail : Nat} (h : Keeps s₀ s) :
    Keeps s₀ (completeRun s k st detail) :=
  h.stopRun.finishDesc

theorem Keeps.loseServices {c : Nat} (h : Keeps s₀ s) : Keeps s₀ (loseServices s c) := by
  refine h.update fun k => { k with services := fun v hv => ?_ }
  obtain ⟨w, hw, rfl⟩ := List.mem_map.1 hv
  split <;> exact k.services w hw

theorem Keeps.faultCtx {c : Nat} {own : Option (Nat × Nat × Status)} (h : Keeps s₀ s) : Keeps s₀ (faultCtx s c own) :=
  .ite h ((((h.foldl (fun _ _ h1 => h1.stopRun)).updCtx).loseServices).raiseVector)

theorem Keeps.raiseFault {c : Nat} {f : FaultRec} {w : Holder} (h : Keeps s₀ s) : Keeps s₀ (raiseFault s c f w) := by
  unfold Machine.raiseFault
  extract_lets x s1 s2
  have h1 : Keeps s₀ s1 := h.updCtx
  have hr (y : Core) (hy : CoreOk y) : CoreOk (restSpin c y) := by
    unfold restSpin
    split
    · split <;> exact hy
    · exact hy
  have h2 : Keeps s₀ s2 := (h1.mapCores (f := fun p => (p.1, restSpin c p.2)) fun _ hy => hr _ hy).frame
  exact .ite h2.raiseVector.markT (.ite h.updCtx.markT h)

theorem Keeps.requestPage {c page : Nat} {ring : Option Nat} (h : Keeps s₀ s) :
    Keeps s₀ (requestPage s c page ring) :=
  .ite h h.frame.emit.markT

theorem Keeps.logEvent {type kind unit detail : Nat} (h : Keeps s₀ s) : Keeps s₀ (logEvent s type kind unit detail) :=
  h.frame

theorem Keeps.logRetire {type kind unit detail : Nat} (h : Keeps s₀ s) :
    Keeps s₀ (logRetire s type kind unit detail) :=
  .ite h.logEvent h.frame

theorem Keeps.mapChanged (h : Keeps s₀ s) : Keeps s₀ (mapChanged s) := h.foldl (fun _ _ h1 => .ite h1.timingBroken h1)

theorem Keeps.leaveService {kind unit : Nat} (h : Keeps s₀ s) : Keeps s₀ (leaveService s kind unit) := by
  unfold Machine.leaveService
  dsimp only
  split
  · split
    · exact h.frame.updCore
    · exact h.frame
  · split
    · exact h.frame.updCore
    · exact h.frame

theorem Keeps.retireUnit {kind unit detail : Nat} (h : Keeps s₀ s) : Keeps s₀ (retireUnit s kind unit detail) := by
  unfold Machine.retireUnit
  dsimp only
  split
  · exact h
  · split
    · exact .ite (.ite h.logRetire.frame.updCore h.logRetire.frame) h.logRetire.leaveService.mapChanged
    · exact h.logRetire.leaveService.mapChanged

theorem Keeps.retireChannel {chan detail : Nat} (h : Keeps s₀ s) : Keeps s₀ (retireChannel s chan detail) :=
  .ite h h.logRetire.frame.mapChanged

theorem Keeps.noteUe {l : Level} {line : Nat} (h : Keeps s₀ s) : Keeps s₀ (noteUe s l line) := by
  unfold Machine.noteUe
  dsimp only
  split
  · exact .ite h.logEvent.frame.retireChannel h.logEvent.frame
  · exact h.logEvent
  · exact h.logEvent.retireUnit
  · exact h

theorem Keeps.memUe {c : Nat} {l : Level} {line ring slot : Nat} (h : Keeps s₀ s) :
    Keeps s₀ (memUe s c l line ring slot) := by
  unfold Machine.memUe
  extract_lets s1
  have h1 : Keeps s₀ s1 := h.markT.updCtx
  exact h1.noteUe.faultCtx

theorem Keeps.deviceUe {c : Nat} {l : Level} {line : Nat} (h : Keeps s₀ s) : Keeps s₀ (deviceUe s c l line) := by
  unfold Machine.deviceUe
  extract_lets s1
  have h1 : Keeps s₀ s1 := h.markT.updCtx
  exact h1.noteUe.faultCtx

theorem Keeps.stopAccess {c : Nat} {x : Stop} {write : Bool} {unit core ring slot : Nat} {hart : Holder}
    (h : Keeps s₀ s) : Keeps s₀ (stopAccess s c x write unit core ring slot hart) := by
  unfold Machine.stopAccess
  split
  · exact h.raiseFault
  · exact h.requestPage
  · exact h.memUe

/-! ### The entropy path and the DRBG -/

theorem Keeps.setRng {r : Rng} (h : Keeps s₀ s) : Keeps s₀ (State.setRng s r) := h.frame

theorem Keeps.wakeRun {k : RunKey} {w : CcWait} (h : Keeps s₀ s) : Keeps s₀ (wakeRun s k w) := by
  unfold Machine.wakeRun
  refine Keeps.updCtx (h.mapCores fun p hp => ?_) fun x hx => hx.mapSaves fun p hp => ?_
  · split <;> exact hp
  · split <;> exact hp

theorem Keeps.endRunWith {k : RunKey} {st : Status} (h : Keeps s₀ s) : Keeps s₀ (endRunWith s k st) := h.updRun

theorem Keeps.setConn {p : SpdmPort} {c : Spdm} (h : Keeps s₀ s) : Keeps s₀ (State.setConn s p c) := by
  unfold Machine.State.setConn
  dsimp only
  split
  · exact h.frame
  · exact h.frame

theorem Keeps.queueNoise {w : NoiseFor} (h : Keeps s₀ s) : Keeps s₀ (State.queueNoise s w) := h.setRng

theorem Keeps.spdmUnsigned {p : SpdmPort} (h : Keeps s₀ s) : Keeps s₀ (spdmUnsigned s p) := h.setConn.emit

theorem Keeps.answerNoise {w : NoiseFor} {res : Status × List Byte} (h : Keeps s₀ s) :
    Keeps s₀ (answerNoise s w res) := by
  unfold Machine.answerNoise
  dsimp only
  split
  · exact .ite h.updRun.wakeRun h.updRun.endRunWith
  · exact .ite h.updLink.emit h.updLink
  · exact .ite h.updLink.emit h.updLink
  · exact .ite h.setConn.queueNoise h.spdmUnsigned
  · exact .ite h.setConn.emit h.spdmUnsigned

theorem Keeps.serveWaiting {fuel : Nat} (h : Keeps s₀ s) : Keeps s₀ (serveWaiting fuel s) := by
  induction fuel generalizing s with
  | zero => exact h
  | succ k ih =>
    unfold Machine.serveWaiting
    split
    · exact ih h.setRng.answerNoise
    · exact h

theorem Keeps.failWaiting (h : Keeps s₀ s) : Keeps s₀ (failWaiting s) := h.setRng.foldl (fun _ _ h1 => h1.answerNoise)

theorem Keeps.requestNoise {w : NoiseFor} (h : Keeps s₀ s) : Keeps s₀ (requestNoise s w) :=
  .ite h.answerNoise (.ite h.answerNoise h.setRng.serveWaiting)

theorem Keeps.enterFailed (h : Keeps s₀ s) : Keeps s₀ (enterFailed s) := h.setRng.logEvent.failWaiting

theorem Keeps.afterFailure {i : Nat} {wasLatched : Bool} (h : Keeps s₀ s) : Keeps s₀ (afterFailure s i wasLatched) :=
  .ite ((Keeps.ite h.logEvent h).enterFailed) (.ite h.logEvent h)

theorem Keeps.sampleStep {i : Nat} {b : Bool} (h : Keeps s₀ s) : Keeps s₀ (sampleStep s i b) :=
  .ite h (.ite h.setRng (.ite h.setRng (.ite h.setRng.afterFailure (.ite h.setRng h.setRng))))

theorem KeepsOut.execEntropySample {source : Nat} {bit : Bool} (h : Keeps s₀ s) :
    KeepsOut s₀ (execEntropySample source bit s) :=
  .next h.sampleStep

theorem KeepsOut.execEstimateWindow {source : Nat} (h : Keeps s₀ s) : KeepsOut s₀ (execEstimateWindow source s) :=
  .next (.ite h.setRng h)

theorem Keeps.useBlocks (h : Keeps s₀ s) : Keeps s₀ (useBlocks s) := by
  unfold Machine.useBlocks
  dsimp only
  split
  · exact h.setRng.serveWaiting
  · split
    · exact .ite h.setRng.serveWaiting h
    · exact h

theorem KeepsOut.execConditionerBlock (h : Keeps s₀ s) : KeepsOut s₀ (execConditionerBlock s) :=
  .next (.ite h h.setRng.useBlocks)

theorem KeepsOut.execRngSettlingEnd (h : Keeps s₀ s) : KeepsOut s₀ (execRngSettlingEnd s) := .next (.ite h.setRng h)

theorem Keeps.startReseed (h : Keeps s₀ s) : Keeps s₀ (startReseed s) := .ite h.setRng h

theorem KeepsOut.execDrbgReseedDue (h : Keeps s₀ s) : KeepsOut s₀ (execDrbgReseedDue s) := .next h.startReseed

theorem Keeps.enterRawTap (h : Keeps s₀ s) : Keeps s₀ (enterRawTap s) := .ite h h.setRng

theorem Keeps.exitRawTap (h : Keeps s₀ s) : Keeps s₀ (exitRawTap s) := .ite h (.ite h.setRng.enterFailed h.setRng)

theorem Keeps.setTapSrc {n : Nat} (h : Keeps s₀ s) : Keeps s₀ (setTapSrc s n) := h.setRng

theorem Keeps.readRngData (h : Keeps s₀ s) : Keeps s₀ (readRngData s).1 := by
  unfold Machine.readRngData
  split
  · exact h.setRng
  · exact h

theorem Keeps.readRngRaw (h : Keeps s₀ s) : Keeps s₀ (readRngRaw s).1 := h.setRng

theorem KeepsOut.execRngRequestTimeout (h : Keeps s₀ s) : KeepsOut s₀ (execRngRequestTimeout s) := by
  unfold Machine.execRngRequestTimeout
  dsimp only
  refine .next ?_
  split
  · exact h
  · exact .ite h h.setRng.answerNoise

/-! ### The operand forms of the control cores -/

theorem Keeps.retireWith {w : Hart} {pc : Word} {f : CCore → CCore} (h : Keeps s₀ s) :
    Keeps s₀ (retireWith s w pc f) :=
  h.updCore fun _ hc => hc.setCc _ _

theorem Keeps.retire {hart : Hart} (h : Keeps s₀ s) : Keeps s₀ (retire s hart) := h.retireWith

theorem Keeps.retireReg {hart : Hart} {rd : BitVec 5} {v : Word} (h : Keeps s₀ s) :
    Keeps s₀ (retireReg s hart rd v) :=
  h.retireWith

theorem Keeps.waitHart {w : Hart} {x : CcWait} (h : Keeps s₀ s) : Keeps s₀ (waitHart s w x) := h.updHart

theorem Keeps.trapHart {w : Hart} {r : Run} {cause : Nat} {st : Status} {code : Nat} (h : Keeps s₀ s) :
    Keeps s₀ (trapHart s w r cause st code) := by
  unfold Machine.trapHart
  refine Keeps.updRun (h.updCore fun c hc => ?_)
  have hw : WorkOk (if w.cc then { c with trap1 := trapWord st cause code (s.hart w).pc.toNat r.key.ctx }
      else { c with trap0 := trapWord st cause code (s.hart w).pc.toNat r.key.ctx }).work := by split <;> exact hc
  exact hw.setCc _ _

theorem Keeps.hartStep {hart : Hart} {body : Run → CCore → State} (h : Keeps s₀ s)
    (hk : ∀ a0 a1, Keeps s₀ (body a0 a1)) : Keeps s₀ (hartStep s hart body) := by
  unfold Machine.hartStep
  split
  · exact h
  · exact .ite h.trapHart (hk _ _)

theorem Keeps.aluStep {hart : Hart} {rd : BitVec 5} {f : CCore → Word} (h : Keeps s₀ s) :
    Keeps s₀ (aluStep s hart rd f) :=
  h.hartStep fun _ _ => h.retireReg

theorem Keeps.branchStep {hart : Hart} {off : BitVec 16} {taken : CCore → Bool} (h : Keeps s₀ s) :
    Keeps s₀ (branchStep s hart off taken) :=
  h.hartStep fun _ _ => h.retireWith

theorem Keeps.areaStep {w : Hart} {addr : CCore → Word} {n : Nat} {reads : Bool} {body : CCore → Nat → State}
    (h : Keeps s₀ s) (hk : ∀ c a, Keeps s₀ (body c a)) : Keeps s₀ (areaStep s w addr n reads body) := by
  refine h.hartStep fun r c => .ite h.trapHart (.ite h.trapHart ?_)
  split
  · exact h.memUe
  · exact hk _ _

theorem Keeps.loadStep {hart : Hart} {rd rs1 : BitVec 5} {imm : BitVec 16} {n : Nat} {f : Nat → Word}
    (h : Keeps s₀ s) : Keeps s₀ (loadStep s hart rd rs1 imm n f) :=
  h.areaStep fun _ _ => h.retireReg

theorem Keeps.storeStep {hart : Hart} {rd rs1 : BitVec 5} {imm : BitVec 16} {n : Nat} (h : Keeps s₀ s) :
    Keeps s₀ (storeStep s hart rd rs1 imm n) :=
  h.areaStep fun _ _ => h.storeWrite.retire

/-! ### The context that holds a plot -/

theorem Keeps.switchCore {old : Option Nat} {new core : Nat} (h : Keeps s₀ s) :
    Keeps s₀ (switchCore old new s core) := by
  unfold Machine.switchCore
  extract_lets w back s1 s2
  have hw (k : Canonical s) : WorkOk w := k.workAt core
  have hback (k : Canonical s) : WorkOk back := by
    unfold back
    split
    · next e => exact tabFind_of_forall (k.ctxAt new).2.2 e
    · exact hw k
  have h1 : Keeps s₀ s1 := by
    unfold s1
    split
    · exact h.setCtx fun k => (k.ctxAt _).setSave core (hw k)
    · exact h
  have h2 : Keeps s₀ s2 := h1.updCtx fun x hx => ⟨hx.1, hx.2.1, forall_tabDel hx.2.2 _⟩
  exact .of_canonical h2.pending h2.fuses fun k => Keeps.updCore h2.frame fun _ _ => hback (h.canonical k)

theorem Keeps.passUe {x : Option (RunKey × Level × Nat)} (h : Keeps s₀ s) : Keeps s₀ (passUe s x) := by
  unfold Machine.passUe
  split
  · exact h.memUe
  · exact h

theorem Keeps.loadCode {code : List (BitVec 32)} {image : Option (Nat × Nat × Nat)} {cores : List Nat}
    (h : Keeps s₀ s) : Keeps s₀ (loadCode s code image cores) :=
  h.foldl fun _ _ h1 => h1.updCore

theorem Keeps.reloadRun {k : RunKey} (h : Keeps s₀ s) : Keeps s₀ (reloadRun s k) := by
  unfold Machine.reloadRun
  dsimp only
  split
  · exact h
  · split
    · exact h
    · split
      · exact h
      · split
        · exact h.stopAccess
        · exact .ite h.cachePages.markAccess.loadCode h.cachePages.markAccess.loadCode.completeRun

theorem Keeps.reloadRuns {c : Nat} (h : Keeps s₀ s) : Keeps s₀ (reloadRuns s c) :=
  h.foldl fun _ _ h1 => h1.reloadRun

theorem Keeps.switchPlot {p new : Nat} (h : Keeps s₀ s) : Keeps s₀ (switchPlot s p new) := by
  unfold Machine.switchPlot
  dsimp only
  split
  · exact h
  · split
    · exact h.passUe.passUe
    · exact (((h.passUe.foldl (fun _ _ h1 => h1.switchCore)).frame).updPlot).reloadRuns

theorem Keeps.yieldCheck {k : RunKey} (h : Keeps s₀ s) : Keeps s₀ (yieldCheck s k) := by
  unfold Machine.yieldCheck
  dsimp only
  split
  · exact h
  · split
    · split
      · exact h.switchPlot
      · exact h
    · exact h

/-! ### What waits and what wakes it -/

theorem Keeps.finishNext {c r : Nat} {st : Status} (h : Keeps s₀ s) : Keeps s₀ (finishNext s c r st) := h.updRing

theorem Keeps.waitStep {ctx ring : Nat} (h : Keeps s₀ s) : Keeps s₀ (waitStep s ctx ring) := by
  unfold Machine.waitStep
  dsimp only
  split
  · exact h
  · split
    · exact h
    · split
      · exact h.updRing.stopAccess
      · exact .ite h.finishNext h.updRing

theorem Keeps.evalWaits (h : Keeps s₀ s) : Keeps s₀ (evalWaits s) := h.foldl (fun _ _ h1 => h1.waitStep)

theorem Keeps.pollHart {r : Run} {core : Nat} {cc : Bool} (h : Keeps s₀ s) : Keeps s₀ (pollHart r core s cc) :=
  .ite h (.ite h.retire h.updHart)

theorem Keeps.pollCore {r : Run} {core : Nat} (h : Keeps s₀ s) : Keeps s₀ (pollCore r s core) := by
  refine .ite (h.foldl fun _ _ h1 => h1.pollHart) (.ite (h.setCtx fun k => ?_) h)
  have hw : WorkOk (tabGet {} (s.ctxAt r.key.ctx).saves core) := tabGet_of_forall workOk_default (k.ctxAt _).2.2 core
  exact (k.ctxAt _).setSave core hw

theorem Keeps.pollRun {k : RunKey} (h : Keeps s₀ s) : Keeps s₀ (pollRun s k) := by
  unfold Machine.pollRun
  split
  · exact h
  · exact .ite (h.foldl (fun _ _ h1 => h1.pollCore)) h

theorem Keeps.wakeWaits (h : Keeps s₀ s) : Keeps s₀ (wakeWaits s) :=
  .ite ((h.foldl (fun _ _ h1 => h1.pollRun)).evalWaits) h

theorem Keeps.waitYield {hart : Hart} {w : CcWait} {r : Run} (h : Keeps s₀ s) : Keeps s₀ (waitYield s hart w r) :=
  h.waitHart.yieldCheck

/-! ### Control-core instructions that issue, wait and signal -/

theorem Keeps.spendUnits {core n : Nat} (h : Keeps s₀ s) : Keeps s₀ (spendUnits s core n) := h.frame

theorem Keeps.spend {core n : Nat} (h : Keeps s₀ s) : Keeps s₀ (spend s core n) := .ite h.spendUnits h

theorem Keeps.setPaid {core : Nat} {u : EngineUnit} {n : Nat} (h : Keeps s₀ s) : Keeps s₀ (setPaid s core u n) :=
  h.updWork fun _ hw => hw.setUnitQ _ _

theorem Keeps.payPart {core : Nat} {u : EngineUnit} {n : Nat} (h : Keeps s₀ s) : Keeps s₀ (payPart s core u n).1 := by
  unfold Machine.payPart
  extract_lets paid m
  split
  · exact h.spend.setPaid
  · exact h

theorem Keeps.payEach {cores : List Nat} {u : EngineUnit} {cost : Nat → Nat} (h : Keeps s₀ s) :
    Keeps s₀ (payEach s cores u cost).1 := by
  have hp (l : List Nat) (t : State × Bool) (ht : Keeps s₀ t.1) : Keeps s₀ (l.foldl (fun (t : State × Bool) core =>
      let q := Machine.payPart t.1 core u (cost core); (q.1, t.2 && q.2)) t).1 := by
    induction l generalizing t with
    | nil => exact ht
    | cons a r ih => exact ih _ ht.payPart
  unfold Machine.payEach
  extract_lets p
  split
  · exact (hp cores (s, true) h).foldl fun _ _ h1 => .ite h1.setPaid h1
  · exact hp cores (s, true) h

theorem Keeps.payUnits {core : Nat} {u : EngineUnit} {n : Nat} (h : Keeps s₀ s) : Keeps s₀ (payUnits s core u n).1 :=
  h.payEach

theorem Keeps.addCharge {n : Nat} (h : Keeps s₀ s) : Keeps s₀ (State.addCharge s n) := h.frame

theorem Keeps.issueTo {w : Hart} {rd : BitVec 5} {r : Run} {a : Nat} {u : EngineUnit} (h : Keeps s₀ s) :
    Keeps s₀ (issueTo s w rd r a u) := by
  unfold Machine.issueTo
  extract_lets x q bytes n op s1 s2 p cls amount s3
  have h1 : Keeps s₀ s1 := h.updWork fun _ hw => hw.setUnitQ _ _
  have h2 : Keeps s₀ s2 := h1.retireReg
  have h3 : Keeps s₀ s3 := .ite h2.timingBroken h2
  split
  · exact h.waitYield
  · split
    · exact h.memUe
    · exact h3.updRun

theorem Keeps.storeGuard {hart : Hart} {r : Run} {a n : Nat} {body : State} (h : Keeps s₀ s) (h' : Keeps s₀ body) :
    Keeps s₀ (storeGuard s hart r a n body) := by
  unfold Machine.storeGuard
  split
  · exact h.memUe
  · exact h'

theorem KeepsOut.execIssue {hart : Hart} {rd rs1 : BitVec 5} (h : Keeps s₀ s) :
    KeepsOut s₀ (execIssue hart rd rs1 s) := by
  unfold Machine.execIssue
  refine .next (h.hartStep fun _ _ => ?_)
  extract_lets a op
  refine h.storeGuard ?_
  split
  · exact h.trapHart
  · split
    · exact h.trapHart
    · split
      · exact h.trapHart
      · split
        · exact h.issueTo
        · exact h.trapHart

theorem KeepsOut.execDma {hart : Hart} {rd rs1 : BitVec 5} (h : Keeps s₀ s) : KeepsOut s₀ (execDma hart rd rs1 s) :=
  .next (h.hartStep (fun _ _ => .ite h.trapHart (.ite h.trapHart h.issueTo)))

theorem KeepsOut.execEwait {hart : Hart} {rd rs1 : BitVec 5} (h : Keeps s₀ s) :
    KeepsOut s₀ (execEwait hart rd rs1 s) := by
  unfold Machine.execEwait
  refine .next (h.hartStep fun _ _ => ?_)
  split
  · exact h.trapHart
  · exact h.waitYield
  · exact h.retireReg

theorem KeepsOut.execEpoll {hart : Hart} {rd rs1 : BitVec 5} (h : Keeps s₀ s) :
    KeepsOut s₀ (execEpoll hart rd rs1 s) := by
  unfold Machine.execEpoll
  refine .next (h.hartStep fun _ _ => ?_)
  split
  · exact h.trapHart
  · exact h.retireReg
  · exact h.retireReg

theorem Keeps.drainStep {hart : Hart} {r : Run} {body : State} (h : Keeps s₀ s) (h' : Keeps s₀ body) :
    Keeps s₀ (drainStep s hart r body) :=
  .ite h' h.waitYield

theorem KeepsOut.execEdrain {hart : Hart} {rd : BitVec 5} (h : Keeps s₀ s) : KeepsOut s₀ (execEdrain hart rd s) :=
  .next (h.hartStep (fun _ _ => h.drainStep h.updWork.retireReg))

theorem KeepsOut.execFence {hart : Hart} (h : Keeps s₀ s) : KeepsOut s₀ (execFence hart s) :=
  .next (h.hartStep (fun _ _ => h.drainStep h.retire))

theorem Keeps.hartAccess {hart : Hart} {r : Run} {va n : Nat} {write : Bool} {body : State} (h : Keeps s₀ s)
    (h' : Keeps s₀ body) : Keeps s₀ (hartAccess s hart r va n write body) := by
  unfold Machine.hartAccess
  split
  · exact h.stopAccess
  · exact h'.markAccess

theorem KeepsOut.execWaitValue {hart : Hart} {rd rs1 rs2 : BitVec 5} {test : WaitTest} (h : Keeps s₀ s) :
    KeepsOut s₀ (execWaitValue hart rd rs1 rs2 test s) :=
  .next (h.hartStep (fun _ _ => .ite h.trapHart (h.hartAccess (.ite h.retire h.waitYield))))

theorem KeepsOut.execSignal {hart : Hart} {rd rs1 rs2 : BitVec 5} {add : Bool} (h : Keeps s₀ s) :
    KeepsOut s₀ (execSignal hart rd rs1 rs2 add s) :=
  .next (h.hartStep (fun _ _ => .ite h.trapHart (h.drainStep
    (h.hartAccess (h.hartAccess h.vaWrite.retireReg.wakeWaits)))))

theorem Keeps.releaseBarrier {r : Run} {hart : Hart} (h : Keeps s₀ s) : Keeps s₀ (releaseBarrier r s hart) :=
  .ite h.retire h

theorem Keeps.releaseBarriers {r : Run} (h : Keeps s₀ s) : Keeps s₀ (releaseBarriers s r) :=
  h.foldl fun _ _ h1 => h1.releaseBarrier

theorem KeepsOut.execCbarrier {hart : Hart} (h : Keeps s₀ s) : KeepsOut s₀ (execCbarrier hart s) :=
  .next (h.hartStep (fun _ _ => .ite h.updHart.retire.releaseBarriers h.updHart.waitYield))

theorem KeepsOut.execRbarrier {hart : Hart} (h : Keeps s₀ s) : KeepsOut s₀ (execRbarrier hart s) :=
  .next (h.hartStep (fun _ _ => .ite h.trapHart (.ite h.updWork.retire.releaseBarriers h.updWork.waitYield)))

theorem KeepsOut.execEnqueue {hart : Hart} {rd rs1 : BitVec 5} {imm : BitVec 16} (h : Keeps s₀ s) :
    KeepsOut s₀ (execEnqueue hart rd rs1 imm s) :=
  .next (h.hartStep (fun _ _ => .ite h.trapHart (.ite h.trapHart
    (.ite h.trapHart (h.drainStep (.ite h.retireReg
      (.ite h.retireReg (h.storeGuard (h.hartAccess h.vaWrite.updRing.retireReg.wakeWaits)))))))))

theorem Keeps.returnEntry {take : State} {hart : Hart} {rd : BitVec 5} {r : Run} {va off : Nat} {entry : List Byte}
    (h : Keeps s₀ s) (h' : Keeps s₀ take) : Keeps s₀ (returnEntry s take hart rd r va off entry) := by
  unfold Machine.returnEntry
  extract_lets param n s1 s2 s3 s4 done
  have h1 : Keeps s₀ s1 := .ite h'.storeWrite h'
  have h2 : Keeps s₀ s2 := h1.storeWrite
  have h3 : Keeps s₀ s3 := h2.updWork
  have h4 : Keeps s₀ s4 := h3.updRun
  have h5 : Keeps s₀ done := h4.retireReg
  exact .ite (h.hartAccess h5) h5

theorem KeepsOut.execWaitQueue {hart : Hart} {rd rs1 rs2 : BitVec 5} (h : Keeps s₀ s) :
    KeepsOut s₀ (execWaitQueue hart rd rs1 rs2 s) := by
  unfold Machine.execWaitQueue
  refine .next (h.hartStep fun _ _ => ?_)
  extract_lets va off log mine taken prod cons e s1 s2
  have h1 : Keeps s₀ s1 := h.vaWrite
  have h2 : Keeps s₀ s2 := h1.updRun
  split
  · exact h.trapHart
  · split
    · exact h.trapHart
    · split
      · exact h.trapHart
      · refine h.hartAccess ?_
        split
        · exact h.returnEntry h
        · exact .ite h.waitYield (h.hartAccess (h.hartAccess (h.returnEntry h2)))

theorem KeepsOut.execQpost {hart : Hart} {rd rs1 rs2 : BitVec 5} (h : Keeps s₀ s) :
    KeepsOut s₀ (execQpost hart rd rs1 rs2 s) :=
  .next (h.hartStep (fun _ _ => .ite h.trapHart (.ite h.trapHart
    (h.hartAccess (.ite h.retireReg (h.storeGuard (h.hartAccess
      (h.hartAccess h.vaWrite.vaWrite.retireReg.wakeWaits))))))))

theorem KeepsOut.execSeed {hart : Hart} {rd : BitVec 5} (h : Keeps s₀ s) : KeepsOut s₀ (execSeed hart rd s) := by
  unfold Machine.execSeed
  refine .next (h.hartStep fun _ _ => ?_)
  extract_lets w s1 s2
  have h1 : Keeps s₀ s1 := h.updRun.markT
  have h2 : Keeps s₀ s2 := h1.requestNoise
  split
  · exact h.trapHart
  · split
    · exact h.updWork.retireReg
    · split
      · exact h.waitYield
      · split
        · exact h2
        · split
          · exact h2.updWork.retireReg
          · exact h2.waitYield

theorem KeepsOut.execReadTime {hart : Hart} {rd : BitVec 5} {arg : BitVec 8} (h : Keeps s₀ s) :
    KeepsOut s₀ (execReadTime hart rd arg s) :=
  .next (h.hartStep (fun _ _ => .ite h.retireReg.tick (.ite (.ite h.retireReg h.retireReg.tick) h.trapHart)))

theorem KeepsOut.execRdid {hart : Hart} {rd : BitVec 5} {arg : BitVec 8} (h : Keeps s₀ s) :
    KeepsOut s₀ (execRdid hart rd arg s) :=
  .next (h.hartStep (fun _ _ => .ite h.retireReg (.ite h.retireReg
    (.ite h.retireReg (.ite h.retireReg (.ite h.retireReg
      (.ite h.retireReg (.ite h.retireReg (.ite h.retireReg h.trapHart)))))))))

theorem KeepsOut.execYieldSlice {hart : Hart} (h : Keeps s₀ s) : KeepsOut s₀ (execYieldSlice hart s) :=
  .next (h.hartStep (fun _ _ => h.retireWith.yieldCheck))

theorem KeepsOut.execTrap {hart : Hart} {rs1 : BitVec 5} {arg : BitVec 8} (h : Keeps s₀ s) :
    KeepsOut s₀ (execTrap hart rs1 arg s) :=
  .next (h.hartStep (fun _ _ => h.trapHart))

theorem CoreOk.restoreCore {c : Core} (h : CoreOk c) : CoreOk (restoreCore c) := by
  unfold Machine.restoreCore
  split <;> exact h

/-! ### Rings, doorbells, descriptors and completion records -/

theorem Keeps.wakeFully (h : Keeps s₀ s) : Keeps s₀ (wakeFully s) := by
  unfold Machine.wakeFully
  split
  · exact h.frame
  · exact (h.mapCores (f := fun p => (p.1, restoreCore p.2)) fun _ hc => hc.restoreCore).frame

theorem Keeps.wakeChip (h : Keeps s₀ s) : Keeps s₀ (wakeChip s) := .ite h.wakeFully.evalWaits h

theorem Keeps.wakeIdle (h : Keeps s₀ s) : Keeps s₀ (wakeIdle s) := .ite h.wakeChip h

theorem Keeps.raiseErr {c : Nat} (h : Keeps s₀ s) : Keeps s₀ (raiseErr s c) := h.raiseVector

theorem Keeps.writeRecord {c r : Nat} {f : Finished} {endNs : Nat} (h : Keeps s₀ s) :
    Keeps s₀ (writeRecord s c r f endNs) := by
  unfold Machine.writeRecord
  extract_lets q s1 s2
  have h1 : Keeps s₀ s1 := h.setHost fun k => memWf_writeN k.host _ _
  have h2 : Keeps s₀ s2 := h1.updRing
  exact .ite h2.raiseVector h2

theorem Keeps.checkFull {c r : Nat} (h : Keeps s₀ s) : Keeps s₀ (checkFull s c r) := .ite h.updRing.raiseErr h

theorem Keeps.holdRecord {c r : Nat} {f : Finished} {endNs : Nat} {fault : Bool} (h : Keeps s₀ s) :
    Keeps s₀ (holdRecord s c r f endNs fault) :=
  (Keeps.ite h.updRing.raiseErr h.updRing).checkFull

theorem Keeps.stopCheck {c r : Nat} (h : Keeps s₀ s) : Keeps s₀ (stopCheck s c r) := .ite h.updRing h

theorem Keeps.deliverHeld {fuel : Nat} {retry : Bool} {c r : Nat} (h : Keeps s₀ s) :
    Keeps s₀ (deliverHeld fuel retry s c r) := by
  induction fuel generalizing s with
  | zero => exact h
  | succ k ih =>
    unfold Machine.deliverHeld
    extract_lets q
    split
    · exact h.updRing
    · refine .ite h (.ite h.updRing (.ite h ?_))
      split
      · exact ih h.updRing.writeRecord
      · exact h.requestPage
      · exact h.updRing.raiseErr

theorem Keeps.holdFinished {c r : Nat} (h : Keeps s₀ s) : Keeps s₀ (holdFinished s c r) := by
  unfold Machine.holdFinished
  split
  · exact h
  · exact h.updRing.tick.holdRecord.stopCheck

theorem Keeps.deliverFinished {c r : Nat} {again : Bool} (h : Keeps s₀ s) :
    Keeps s₀ (deliverFinished s c r again) := by
  unfold Machine.deliverFinished
  dsimp only
  split
  · exact h
  · split
    · exact h.updRing.stopCheck
    · split
      · exact h
      · split
        · exact h.updRing.tick.holdRecord.stopCheck
        · split
          · exact h.updRing.tick.holdRecord.stopCheck
          · split
            · exact h
            · split
              · exact h.updRing.tick.writeRecord.stopCheck
              · exact .ite h.holdFinished h.requestPage
              · exact h.holdFinished

theorem Keeps.tailWrite {c r t : Nat} (h : Keeps s₀ s) : Keeps s₀ (tailWrite s c r t) :=
  .ite h.updRing h.updRing.raiseErr

theorem KeepsOut.execTailDoorbell {ctx ring : Nat} {value : Word} (h : Keeps s₀ s) :
    KeepsOut s₀ (execTailDoorbell ctx ring value s) :=
  .next (.ite h.wakeChip.tailWrite h)

theorem Keeps.cqHeadWrite {c r hart : Nat} (h : Keeps s₀ s) : Keeps s₀ (cqHeadWrite s c r hart) :=
  h.updRing.deliverHeld

theorem KeepsOut.execCqHeadDoorbell {ctx ring : Nat} {value : Word} (h : Keeps s₀ s) :
    KeepsOut s₀ (execCqHeadDoorbell ctx ring value s) :=
  .next (.ite h.wakeChip.cqHeadWrite h)

theorem Keeps.fetchStep {ctx ring : Nat} (h : Keeps s₀ s) : Keeps s₀ (fetchStep s ctx ring) := by
  unfold Machine.fetchStep
  dsimp only
  split
  · exact h.updRing.memUe
  · exact h.stopAccess
  · split
    · exact h.updRing
    · exact h.updRing

theorem KeepsOut.execDescriptorFetch {ctx ring : Nat} (h : Keeps s₀ s) :
    KeepsOut s₀ (execDescriptorFetch ctx ring s) :=
  .next (.ite h.updRing (.ite h.frame.updCtx.fetchStep h))

theorem KeepsOut.execNop {ctx ring : Nat} (h : Keeps s₀ s) : KeepsOut s₀ (execNop ctx ring s) := by
  unfold Machine.execNop
  refine .next ?_
  split
  · exact h
  · exact h.finishNext

theorem KeepsOut.execFenceDescriptor {ctx ring : Nat} (h : Keeps s₀ s) :
    KeepsOut s₀ (execFenceDescriptor ctx ring s) := by
  unfold Machine.execFenceDescriptor
  refine .next ?_
  split
  · exact h
  · exact .ite h.finishNext h

theorem KeepsOut.execWait {ctx ring : Nat} (h : Keeps s₀ s) : KeepsOut s₀ (execWait ctx ring s) := .next h.waitStep

theorem Keeps.startNext {c r : Nat} {d : Desc} (h : Keeps s₀ s) : Keeps s₀ (startNext s c r d) := h.updRing.checkFull

theorem Keeps.signalStep {c r : Nat} {d : Desc} (h : Keeps s₀ s) : Keeps s₀ (signalStep s c r d) := by
  unfold Machine.signalStep
  dsimp only
  split
  · exact h.stopAccess
  · split
    · exact h.stopAccess
    · exact h.markAccess.vaWrite.finishDesc.wakeWaits

theorem KeepsOut.execSignalDescriptor {ctx ring : Nat} (h : Keeps s₀ s) :
    KeepsOut s₀ (execSignalDescriptor ctx ring s) := by
  unfold Machine.execSignalDescriptor
  refine .next ?_
  split
  · exact .ite h.signalStep h
  · split
    · exact h
    · exact .ite h.startNext.signalStep h

theorem Keeps.copyLoop {fuel c src dst n done : Nat} {free : Bool} (h : Keeps s₀ s) :
    Keeps s₀ (copyLoop fuel s c src dst n done free).1 := by
  induction fuel generalizing s done with
  | zero => exact h
  | succ k ih =>
    unfold Machine.copyLoop
    extract_lets m data
    split
    · exact h
    · split
      · exact h
      · split
        · exact h
        · exact ih h.vaWrite

theorem Keeps.copyStep {c r : Nat} {d : Desc} (h : Keeps s₀ s) : Keeps s₀ (copyStep s c r d) := by
  unfold Machine.copyStep
  dsimp only
  split
  · exact h.cachePages.cachePages.markAccess.markAccess.copyLoop.chargeMem.tick.finishDesc.wakeWaits
  · exact h.cachePages.cachePages.markAccess.markAccess.copyLoop.chargeMem.tick.updRing.stopAccess

theorem KeepsOut.execCopy {ctx ring : Nat} (h : Keeps s₀ s) : KeepsOut s₀ (execCopy ctx ring s) := by
  unfold Machine.execCopy
  dsimp only
  refine .next ?_
  split
  · exact .ite h.updCtx.finishNext h.updCtx.startNext.copyStep
  · split
    · exact .ite h.copyStep h
    · exact h

theorem KeepsOut.execDescriptorComplete {ctx ring slot : Nat} (h : Keeps s₀ s) :
    KeepsOut s₀ (execDescriptorComplete ctx ring slot s) := by
  unfold Machine.execDescriptorComplete
  refine .next ?_
  split
  · exact .ite h.deliverFinished h
  · exact h

theorem Keeps.priEnd {ctx page : Nat} {ok : Bool} (h : Keeps s₀ s) : Keeps s₀ (priEnd s ctx page ok) := by
  unfold Machine.priEnd
  split
  · exact h
  · extract_lets s1 setPage s2 mark
    have h1 : Keeps s₀ s1 := h.frame
    have h2 : Keeps s₀ s2 := .ite h1.frame h1
    split
    · exact .ite h2 h1.frame
    · exact .ite (.ite h2.deliverHeld h2.updRing.raiseErr) (.ite h2.deliverFinished h2.holdFinished)

theorem KeepsOut.execPriResponse {ctx page : Nat} {ok : Bool} (h : Keeps s₀ s) :
    KeepsOut s₀ (execPriResponse ctx page ok s) :=
  .next h.priEnd

theorem KeepsOut.execPriTimeout {ctx page : Nat} (h : Keeps s₀ s) : KeepsOut s₀ (execPriTimeout ctx page s) :=
  .next h.priEnd

theorem Keeps.ringStart {c r : Nat} (h : Keeps s₀ s) : Keeps s₀ (ringStart s c r) :=
  .ite h (.ite h.updRing.deliverHeld.checkFull h.updRing.raiseErr)

theorem Keeps.ringStop {c r : Nat} (h : Keeps s₀ s) : Keeps s₀ (ringStop s c r) := .ite h.updRing.stopCheck h

theorem Keeps.ringRetry {c r : Nat} (h : Keeps s₀ s) : Keeps s₀ (ringRetry s c r) := .ite h h.deliverHeld

theorem Keeps.ringHead {c r hart : Nat} (h : Keeps s₀ s) : Keeps s₀ (ringHead s c r hart) := .ite h h.updRing

theorem KeepsOut.execStart {ctx ring : Nat} (h : Keeps s₀ s) : KeepsOut s₀ (execStart ctx ring s) :=
  .next (.ite h.wakeChip.ringStart h)

theorem KeepsOut.execStop {ctx ring : Nat} (h : Keeps s₀ s) : KeepsOut s₀ (execStop ctx ring s) :=
  .next (.ite h.wakeChip.ringStop h)

theorem KeepsOut.execRetryCompletions {ctx ring : Nat} (h : Keeps s₀ s) :
    KeepsOut s₀ (execRetryCompletions ctx ring s) :=
  .next (.ite h.wakeChip.ringRetry h)

theorem KeepsOut.execRingHeadWrite {ctx ring : Nat} {head : BitVec 32} (h : Keeps s₀ s) :
    KeepsOut s₀ (execRingHeadWrite ctx ring head s) :=
  .next (.ite h.wakeChip.ringHead h)

/-! ### Spin commands up to their first step and at their end -/

theorem Keeps.setResult {u : EngineUnit} {st : Status} {core : Nat} (h : Keeps s₀ s) :
    Keeps s₀ (setResult u st s core) :=
  h.updWork fun _ hw => hw.setUnitQ _ _

theorem Keeps.setSpinResults {r : Run} {st : Status} (h : Keeps s₀ s) : Keeps s₀ (setSpinResults s r st) :=
  h.foldl fun _ _ h1 => h1.setResult

theorem Keeps.sendBand {gi chip : Nat} {m : FabEasement} (h : Keeps s₀ s) : Keeps s₀ (sendBand s gi chip m) :=
  h.sendGroup

theorem Keeps.sendTally {gi chip step replica : Nat} {image : List Byte} (h : Keeps s₀ s) :
    Keeps s₀ (sendTally s gi chip step replica image) :=
  h.sendGroup

theorem Keeps.sendTallies {gi step : Nat} {tallies : List (List Byte)} (h : Keeps s₀ s) :
    Keeps s₀ (sendTallies s gi step tallies) :=
  h.sendGroup

theorem Keeps.sendBands {gi : Nat} {p : PlatInfo} {mask : Nat} {masks : List Nat} {colour : Option Nat} {step : Nat}
    {decision : Bool} (h : Keeps s₀ s) : Keeps s₀ (sendBands s gi p mask masks colour step decision) :=
  .ite h (h.foldl (fun _ _ h1 => h1.foldl (fun _ _ h2 => h2.sendBand)))

theorem Keeps.relayBand {gi : Nat} {p : PlatInfo} {m : FabEasement} (h : Keeps s₀ s) :
    Keeps s₀ (relayBand s gi p m) :=
  .ite h (h.foldl (fun _ _ h1 => .ite h1 h1.sendBand))

theorem Keeps.putAll {c : Nat} {ws : List (Nat × List Byte)} (h : Keeps s₀ s) : Keeps s₀ (putAll s c ws) :=
  h.foldl fun _ _ h1 => h1.markAccess.vaWrite

theorem Keeps.nearThen {r : Run} {l : List (Nat × Nat)} {body : State → State} (h : Keeps s₀ s)
    (hk : ∀ t, Keeps s₀ t → Keeps s₀ (body t)) : Keeps s₀ (nearThen s r l body) :=
  .ite (hk _ h.payUnits) h.payUnits

theorem Keeps.spinStop {r : Run} {x : Stop} {write : Bool} (h : Keeps s₀ s) : Keeps s₀ (spinStop s r x write) :=
  h.stopAccess

theorem Keeps.writeThen {r : Run} {ws : List (Nat × List Byte)} {body : State → State} (h : Keeps s₀ s)
    (hk : ∀ t, Keeps s₀ t → Keeps s₀ (body t)) : Keeps s₀ (writeThen s r ws body) := by
  unfold Machine.writeThen
  split
  · exact h.spinStop
  · exact h.nearThen fun _ h1 => hk _ h1.putAll

theorem Keeps.endRefused {r : Run} {st : Status} {tell ends : Bool} (h : Keeps s₀ s) :
    Keeps s₀ (endRefused s r st tell ends) := by
  unfold Machine.endRefused
  dsimp only
  split
  · exact h.updRun
  · exact .ite h.updRun.updGroup.sendAll h.updRun.updGroup

theorem Keeps.refuseSpin {r : Run} {st : Status} {tell ends : Bool} (h : Keeps s₀ s) :
    Keeps s₀ (refuseSpin s r st tell ends) :=
  h.writeThen fun _ h1 => h1.tick.setSpinResults.endRefused

theorem Keeps.chargeStream {k : RunKey} {q : SpinRun} {c : SpinCmd} (h : Keeps s₀ s) :
    Keeps s₀ (chargeStream s k q c) :=
  .ite h h.chargeMem

theorem Keeps.checkTraverses {k : RunKey} {c : SpinCmd} (h : Keeps s₀ s) : Keeps s₀ (checkTraverses s k c) :=
  .ite h.timingBroken h

theorem Keeps.storeTallies {r : Run} {mask off : Nat} {ts : List (List Byte)} (h : Keeps s₀ s) :
    Keeps s₀ (storeTallies s r mask off ts) :=
  h.foldl (fun _ _ h1 => h1.foldl (fun _ _ h2 => h2.storeWrite))

theorem Keeps.restCore {k : RunKey} {core : Nat} (h : Keeps s₀ s) : Keeps s₀ (restCore k s core) := by
  refine .ite h.updCore (h.updCtx fun x hx => hx.mapSaves fun p hp => ?_)
  split <;> exact hp

theorem Keeps.clearBusy {q : SpinRun} (h : Keeps s₀ s) : Keeps s₀ (clearBusy s q) :=
  h.foldl fun _ _ h1 => h1.updCore

theorem Keeps.closeSpin {k : RunKey} (h : Keeps s₀ s) : Keeps s₀ (closeSpin s k) := by
  unfold Machine.closeSpin
  split
  · exact h
  · split
    · exact h
    · split
      · exact h
      · split
        · exact h
        · refine h.writeThen fun _ h1 => ?_
          extract_lets s2 s3 s4 s5
          have h2 : Keeps s₀ s2 := .ite h1.storeTallies h1
          have h3 : Keeps s₀ s3 := h2.tick.setSpinResults
          have h4 : Keeps s₀ s4 := h3.foldl fun _ _ h5 => h5.restCore
          have h5 : Keeps s₀ s5 := h4.updRun
          split
          · extract_lets s6
            have h6 : Keeps s₀ s6 := h5.updGroup
            exact .ite h6.sendTallies h6
          · exact h5

theorem Keeps.abortSpin {r : Run} {st : Status} (h : Keeps s₀ s) : Keeps s₀ (abortSpin s r st) := by
  unfold Machine.abortSpin
  dsimp only
  split
  · exact (h.leaveGroup.writeEach.setSpinResults.foldl (fun _ _ h1 => h1.restCore)).updRun
  · exact h.writeEach.setSpinResults.endRefused

theorem Keeps.launchSpin {k : RunKey} {q : SpinRun} {c : SpinCmd} (h : Keeps s₀ s) :
    Keeps s₀ (launchSpin s k q c) := by
  unfold Machine.launchSpin
  extract_lets nonFinite put stop empty msgs waits q1 s1 s2
  have h1 : Keeps s₀ s1 := h.updRun.chargeStream.checkTraverses
  have h2 : Keeps s₀ s2 := h1.foldl fun _ _ h3 => h3.updWork
  split
  · exact h.updRun.closeSpin
  · split
    · exact h.updRun.closeSpin
    · split
      · exact h.updRun.closeSpin
      · split
        · exact (h2.foldl (fun _ _ h3 => h3.relayBand)).sendBands
        · exact h2

/-! ### Commands of the dense engine -/

theorem Keeps.touch {c va n : Nat} (h : Keeps s₀ s) : Keeps s₀ (touch s c va n) :=
  h.markAccess.addCharge.cachePages.chargeMem

theorem KeepsEng.engRead {c va n : Nat} {k : State → List Byte → EngOut} (h : Keeps s₀ s)
    (hk : ∀ t a1, Keeps s₀ t → KeepsEng s₀ (k t a1)) : KeepsEng s₀ (engRead s c va n k) := by
  unfold Machine.engRead
  split
  · exact .done h
  · split
    · exact .stop
    · exact hk _ _ h.touch

theorem KeepsEng.engReads {c : Nat} {l : List (Nat × Nat)} {k : State → EngOut} (h : Keeps s₀ s)
    (hk : ∀ t, Keeps s₀ t → KeepsEng s₀ (k t)) : KeepsEng s₀ (engReads s c l k) := by
  induction l generalizing s with
  | nil => exact hk _ h
  | cons a r ih => exact .engRead h fun _ _ h1 => ih h1

theorem KeepsEng.engWrite {c : Nat} {ws : List (Nat × List Byte)} {k : State → EngOut} (h : Keeps s₀ s)
    (hk : ∀ t, Keeps s₀ t → KeepsEng s₀ (k t)) : KeepsEng s₀ (engWrite s c ws k) := by
  unfold Machine.engWrite
  split
  · exact .done h
  · split
    · exact .stop
    · exact hk _ (h.foldl (fun _ _ h1 => h1.touch.vaWrite))

theorem KeepsEng.clipAdd {c a clipped total : Nat} {k : State → EngOut} (h : Keeps s₀ s)
    (hk : ∀ t, Keeps s₀ t → KeepsEng s₀ (k t)) : KeepsEng s₀ (clipAdd s c a clipped total k) :=
  .ite (hk _ h) (.engRead h (fun _ _ h1 => .engWrite h1 (fun _ h2 => hk _ h2)))

theorem Keeps.whenPaid {s1 : State} {cores : List Nat} {u : EngineUnit} {cost : Nat → Nat} {k : State → State}
    (h : Keeps s₀ s) (h' : Keeps s₀ s1) (hk : ∀ t, Keeps s₀ t → Keeps s₀ (k t)) :
    Keeps s₀ (whenPaid s s1 cores u cost k) :=
  .ite (hk _ h'.frame.payEach) h.payEach

theorem Keeps.engEnd {r : Run} {core : Nat} {u : EngineUnit} {o : EngOut} (h : Keeps s₀ s) (ho : KeepsEng s₀ o) :
    Keeps s₀ (engEnd s r core u o) := by
  cases ho with
  | done ht => exact h.whenPaid ht fun _ h1 => h1.setResult
  | stop => exact h.stopAccess

theorem KeepsEng.chargeDense {r : Run} {bs : List Byte} {o : EngOut} (ho : KeepsEng s₀ o) :
    KeepsEng s₀ (chargeDense s r bs o) := by
  cases ho with
  | done ht => exact .done (.ite ht.addCharge ht)
  | stop => exact .stop

theorem Keeps.engineStep {core op : Nat} {body : Run → List Byte → EngOut} (h : Keeps s₀ s)
    (hk : ∀ r bs, KeepsEng s₀ (body r bs)) : Keeps s₀ (engineStep s core op body) := by
  unfold Machine.engineStep
  split
  · exact h
  · exact .ite h (h.engEnd (hk _ _).chargeDense)

theorem KeepsEng.outputStage {c core : Nat} {ob : List Byte} {n : Nat} {rows : List (List OutCell)} (h : Keeps s₀ s) :
    KeepsEng s₀ (outputStage s c core ob n rows) :=
  .engWrite h (fun _ h1 => .ite (.clipAdd h1 (fun _ h2 => .done h2.updCore)) (.done h1.updCore))

theorem KeepsEng.readQblk {c a : Nat} {formats : List Nat} {k : State → List Byte → EngOut} (h : Keeps s₀ s)
    (hk : ∀ t a1, Keeps s₀ t → KeepsEng s₀ (k t a1)) : KeepsEng s₀ (readQblk s c a formats k) :=
  .ite (hk _ _ h) (.engRead h (fun _ _ h1 => .ite (.done h1) (hk _ _ h1)))

theorem KeepsEng.firstEnd {α : Type} {l : List α} {f : α → Option EngOut} {k : EngOut}
    (hf : ∀ a o, f a = some o → KeepsEng s₀ o) (hk : KeepsEng s₀ k) : KeepsEng s₀ (firstEnd l f k) := by
  unfold Machine.firstEnd
  cases e : l.findSome? f with
  | none => exact hk
  | some o =>
    obtain ⟨a, -, ha⟩ := List.exists_of_findSome?_eq_some e
    exact hf a o ha

theorem KeepsEng.of_rowEnd {c r : Nat} {q : List Byte} {o : EngOut} (h : Keeps s₀ s) (e : rowEnd s c q r = some o) :
    KeepsEng s₀ o := by
  simp only [Machine.rowEnd] at e
  split at e
  · exact Option.some.inj e ▸ .stop
  · split at e
    · exact Option.some.inj e ▸ .done h
    · split at e
      · exact Option.some.inj e ▸ .stop
      · split at e
        · exact Option.some.inj e ▸ .done h
        · cases e

theorem KeepsEng.readRows {c m : Nat} {q : List Byte} {k : State → List Byte → List Byte → EngOut} (h : Keeps s₀ s)
    (hk : ∀ t a b, Keeps s₀ t → KeepsEng s₀ (k t a b)) : KeepsEng s₀ (readRows s c q m k) :=
  .ite (.ite (.done h) (.firstEnd (fun _ _ e => .of_rowEnd h e)
    (.engRead h fun _ _ h1 => .engRead h1 fun _ _ h2 => hk _ _ _ h2))) (hk _ _ _ h)

theorem KeepsEng.of_columnEnd {c i : Nat} {q : List Byte} {strict : Bool} {o : EngOut} (h : Keeps s₀ s)
    (e : columnEnd s c q strict i = some o) : KeepsEng s₀ o := by
  simp only [Machine.columnEnd] at e
  split at e
  · exact Option.some.inj e ▸ .stop
  · split at e
    · exact Option.some.inj e ▸ .done h
    · split at e
      · exact Option.some.inj e ▸ .done h
      · cases e

theorem KeepsEng.readS2 {c n : Nat} {q : List Byte} {strict : Bool} {k : State → List Byte → EngOut} (h : Keeps s₀ s)
    (hk : ∀ t a, Keeps s₀ t → KeepsEng s₀ (k t a)) : KeepsEng s₀ (readS2 s c q n strict k) :=
  .ite (.ite (.done h) (.firstEnd (fun _ _ e => .of_columnEnd h e) (.engRead h hk))) (hk _ _ h)

theorem KeepsEng.matmulRun {c core : Nat} {t : MatIn} {opb ob : List Byte} (h : Keeps s₀ s) :
    KeepsEng s₀ (matmulRun s c core t opb ob) :=
  .ite (.engWrite h.updCore (fun _ h1 => .done h1)) (.outputStage h.updCore)

theorem KeepsEng.matmulLoad {c core : Nat} {bs opb qa qw ob : List Byte} (h : Keeps s₀ s) :
    KeepsEng s₀ (matmulLoad s c core bs opb qa qw ob) := by
  unfold Machine.matmulLoad
  dsimp only
  split
  · exact .done h
  · split
    · exact .done h
    · exact .readRows h (fun _ _ _ h1 => .readS2 h1
      (fun _ _ h2 => .engRead h2 (fun _ _ h3 => .engRead h3
        (fun _ _ h4 => .engRead h4 (fun _ _ h5 => .matmulRun h5)))))

theorem KeepsEng.matmulBody {core : Nat} {r : Run} {bs : List Byte} (h : Keeps s₀ s) :
    KeepsEng s₀ (matmulBody s core r bs) := by
  unfold Machine.matmulBody
  extract_lets c
  split
  · exact .done h
  · refine .engRead h fun _ _ h1 => ?_
    split
    · exact .done h1
    · refine .readQblk h1 fun _ _ h2 => ?_
      refine .readQblk h2 fun _ _ h3 => ?_
      extract_lets np
      split
      · exact .done h3
      · split
        · exact .ite (.done h3) (.matmulLoad h3)
        · split
          · exact .done h3
          · refine .engRead h3 fun _ _ h4 => ?_
            split
            · exact .done h4
            · exact .matmulLoad h4

theorem Keeps.parityError {c acc core bank : Nat} {agree : Bool} (h : Keeps s₀ s) :
    Keeps s₀ (parityError s c acc core bank agree) :=
  h.updCore.foldl fun _ _ h1 => h1.retireUnit

theorem Keeps.parityErrors {c acc : Nat} {l : List (Nat × Nat × Bool)} (h : Keeps s₀ s) :
    Keeps s₀ (parityErrors s c acc l) :=
  h.foldl fun _ _ h1 => .ite h1.parityError h1

theorem KeepsOut.execDenseMatmul {core : Nat} {parity : List (Nat × Bool)} (h : Keeps s₀ s) :
    KeepsOut s₀ (execDenseMatmul core parity s) := by
  unfold Machine.execDenseMatmul
  dsimp only
  refine .next ?_
  split
  · split
    · exact .ite ((h.engineStep (fun _ _ => .matmulBody h)).parityErrors) (h.engineStep (fun _ _ => .matmulBody h))
    · exact h.engineStep fun _ _ => .matmulBody h
  · exact h.engineStep fun _ _ => .matmulBody h

theorem KeepsEng.convertColumns {c : Nat} {bs q src s2 sw : List Byte} (h : Keeps s₀ s) :
    KeepsEng s₀ (convertColumns s c bs q src s2 sw) :=
  .engWrite h (fun _ h1 => .clipAdd h1.scaleClamps (fun _ h2 => .done h2))

theorem KeepsEng.denseConvertBody {r : Run} {bs : List Byte} (h : Keeps s₀ s) :
    KeepsEng s₀ (denseConvertBody s r bs) := by
  unfold Machine.denseConvertBody
  dsimp only
  split
  · exact .done h
  · exact .engRead h (fun _ _ h1 => .ite (.done h1)
    (.ite (.readS2 h1 (fun _ _ h2 => .engRead h2 (fun _ _ h3 => .engRead h3 (fun _ _ h4 => .convertColumns h4))))
      (.engRead h1 (fun _ _ h2 => .engRead h2 (fun _ _ h3 => .convertColumns h3)))))

theorem KeepsOut.execDenseConvert {core : Nat} (h : Keeps s₀ s) : KeepsOut s₀ (execDenseConvert core s) :=
  .next (h.engineStep (fun _ _ => .denseConvertBody h))

/-! ### DENSE_ANNEAL -/

theorem KeepsEng.readCodes {c : Nat} {t : ArrayAt} {s2 : List Byte} {fin : State → CodeIn → EngOut} (h : Keeps s₀ s)
    (hk : ∀ t a1, Keeps s₀ t → KeepsEng s₀ (fin t a1)) : KeepsEng s₀ (readCodes s c t s2 fin) :=
  .engRead h (fun _ _ h1 => .engRead h1 (fun _ _ h2 => hk _ _ h2))

theorem KeepsEng.readBlocks {c : Nat} {bi : Bool} {ab : List Byte}
    {fin : State → ArrayAt → ArrayAt → ArrayAt → EngOut} (h : Keeps s₀ s)
    (hk : ∀ t a1 a2 a3, Keeps s₀ t → KeepsEng s₀ (fin t a1 a2 a3)) : KeepsEng s₀ (readBlocks s c bi ab fin) :=
  .readQblk h (fun _ _ h1 => .readQblk h1 (fun _ _ h2 => .readQblk h2 (fun _ _ h3 => hk _ _ _ _ h3)))

theorem KeepsEng.readProblem {c core : Nat} {bs ab : List Byte} {fin : State → Problem → EngOut} (h : Keeps s₀ s)
    (hk : ∀ t a1, Keeps s₀ t → KeepsEng s₀ (fin t a1)) : KeepsEng s₀ (readProblem s c core bs ab fin) :=
  .readBlocks h (fun _ _ _ _ h1 => .ite (.done h1) (.ite (.done h1)
    (.readS2 h1 (fun _ _ h2 => .readS2 h2 (fun _ _ h3 => .readS2 h3
      (fun _ _ h4 => .readCodes h4 (fun _ _ h5 => .ite (.done h5)
        (.readCodes h5 (fun _ _ h6 => .readCodes h6 (fun _ _ h7 => hk _ _ h7))))))))))

theorem Keeps.setAnnealResults {r : Run} {st : Status} (h : Keeps s₀ s) : Keeps s₀ (setAnnealResults s r st) :=
  h.foldl fun _ _ h1 => h1.setResult

theorem KeepsEng.annealRun {r : Run} {bs ab : List Byte} {t : Problem} {betas : List (BitVec 32)} (h : Keeps s₀ s) :
    KeepsEng s₀ (annealRun s r bs ab t betas) :=
  .ite (.done h) (.ite (.done h) (.engRead h (fun _ _ h1 => .engWrite h1
    (fun _ h2 => .done h2.storeTallies.updCore))))

theorem KeepsEng.annealBody {r : Run} {bs : List Byte} (h : Keeps s₀ s) : KeepsEng s₀ (annealBody s r bs) := by
  unfold Machine.annealBody
  extract_lets c core betas
  split
  · exact .done h
  · exact .stop
  · refine .engRead h fun _ _ h1 => ?_
    split
    · exact .done h1
    · exact .ite (.done h1) (.readProblem h1 (fun _ _ h2 => .annealRun h2))

theorem Keeps.gatherAnneal {k : RunKey} (h : Keeps s₀ s) : Keeps s₀ (gatherAnneal s k) := by
  unfold Machine.gatherAnneal
  split
  · exact h
  · next r _ =>
    extract_lets ws heads
    split
    · exact h
    · next bs _ =>
      refine .ite h (.ite h.setAnnealResults ?_)
      have ho : KeepsEng s₀ (annealBody s r bs) := .annealBody h
      split
      · next e =>
        rw [e] at ho
        cases ho with
        | done h1 => exact h.whenPaid h1 fun _ h2 => h2.setAnnealResults
      · exact h.stopAccess

theorem KeepsOut.execDenseAnneal {core : Nat} {parity : List (Nat × Nat × Bool)} (h : Keeps s₀ s) :
    KeepsOut s₀ (execDenseAnneal core s parity) := by
  unfold Machine.execDenseAnneal
  dsimp only
  refine .next ?_
  split
  · exact h
  · exact .ite h (.ite h.updWork.gatherAnneal h.updWork.gatherAnneal.parityErrors)

/-! ### Admission -/

theorem Keeps.ueOf {c : Nat} {ue : Option (Level × Nat)} (h : Keeps s₀ s) : Keeps s₀ (ueOf s c ue) := by
  unfold Machine.ueOf
  split
  · exact h.deviceUe
  · exact h

theorem Keeps.writeAdmission {c va : Nat} {a : Admission} (h : Keeps s₀ s) : Keeps s₀ (writeAdmission s c va a) :=
  .ite h h.vaWrite

/-! ### The events of a spin run -/

theorem Keeps.checkThen {r : Run} {p : PlatInfo} {bs : List Byte} {lead : Option (List Byte)}
    {body : State → Run → List Byte → State} (h : Keeps s₀ s) (hk : ∀ t a1 a2, Keeps s₀ t → Keeps s₀ (body t a1 a2)) :
    Keeps s₀ (checkThen s r p bs lead body) := by
  unfold Machine.checkThen
  dsimp only
  split
  · exact h.updRun.refuseSpin
  · exact h.updRun.spinStop
  · exact hk _ _ _ h.updRun

theorem Keeps.placeThen {r : Run} {p : PlatInfo} {sc : PlatScales} {bs blk : List Byte} {cut : List Parcel}
    {body : SpinRun → State} (h : Keeps s₀ s) (hk : ∀ a0, Keeps s₀ (body a0)) :
    Keeps s₀ (placeThen s r p sc bs blk cut body) := by
  unfold Machine.placeThen
  split
  · exact h.refuseSpin
  · exact h
  · exact hk _

theorem Keeps.drawThen {r : Run} {p : PlatInfo} {body : State} (h : Keeps s₀ s) (h' : Keeps s₀ body) :
    Keeps s₀ (drawThen s r p body) := by
  unfold Machine.drawThen
  split
  · exact h.spinStop
  · exact h'

theorem Keeps.sendStart {r : Run} {p : PlatInfo} {sc : PlatScales} {g : Nat} {bs : List Byte} (h : Keeps s₀ s) :
    Keeps s₀ (sendStart s r p sc g bs) :=
  .ite h (h.drawThen (h.updGroup.foldl (fun _ _ h1 => h1.sendTally)))

theorem Keeps.holdRun {r : Run} {q : SpinRun} {g : Nat} (h : Keeps s₀ s) : Keeps s₀ (holdRun s r q g) :=
  .ite h.updRun.updGroup.sendAll h.updRun.updGroup

theorem Keeps.markReads {c : Nat} {l : List (Nat × Nat)} (h : Keeps s₀ s) : Keeps s₀ (markReads s c l) :=
  h.foldl fun _ _ h1 => h1.markAccess

theorem Keeps.markUses {c : Nat} {l : List (Nat × Nat)} (h : Keeps s₀ s) : Keeps s₀ (markUses s c l) :=
  h.foldl fun _ _ h1 => h1.markUnlocked

theorem Keeps.markStart {r : Run} {q : SpinRun} {bs blk : List Byte} (h : Keeps s₀ s) :
    Keeps s₀ (markStart s r q bs blk) := by
  unfold Machine.markStart
  dsimp only
  split
  · exact .ite h.markReads h.markReads.markT
  · exact h.markReads

theorem Keeps.openSpin {k : RunKey} (h : Keeps s₀ s) : Keeps s₀ (openSpin s k) := by
  unfold Machine.openSpin
  dsimp only
  split
  · exact h
  · split
    · exact h
    · split
      · exact h
      · exact .ite h (h.writeThen (fun _ h1 => (Keeps.ite h1.storeTallies h1).launchSpin))

theorem Keeps.acceptSpin {r : Run} {q : SpinRun} {bs blk : List Byte} {betas : List (BitVec 32)}
    {tallies : List (List Byte)} (h : Keeps s₀ s) : Keeps s₀ (acceptSpin s r q bs blk betas tallies) := by
  unfold Machine.acceptSpin
  refine h.nearThen fun _ h1 => ?_
  extract_lets c s1
  have h2 : Keeps s₀ s1 := h1.markStart.updRun
  split
  · exact h2.updGroup.openSpin
  · exact h2.openSpin

theorem Keeps.leadSend {r : Run} {p : PlatInfo} {sc : PlatScales} {g : Nat} {bs blk : List Byte}
    {betas : List (BitVec 32)} (h : Keeps s₀ s) : Keeps s₀ (leadSend s r p sc g bs blk betas) :=
  .ite h h.updGroup.sendAll

theorem Keeps.leadGo {r : Run} {q : SpinRun} {g : Nat} {bs blk : List Byte} (h : Keeps s₀ s) :
    Keeps s₀ (leadGo s r q g bs blk) := by
  unfold Machine.leadGo
  dsimp only
  split
  · exact h
  · exact .ite ((Keeps.ite h h.updGroup.sendAll).acceptSpin) h

theorem Keeps.memberSpin {r : Run} {q : SpinRun} {g : Nat} {bs blk : List Byte}
    {d : List (BitVec 32) × List (List Byte) × List Byte × Nat × Nat} (h : Keeps s₀ s) :
    Keeps s₀ (memberSpin s r q g bs blk d) :=
  .ite h.acceptSpin (.ite h h.updGroup.sendGroup)

theorem Keeps.groupSpin {r : Run} {p : PlatInfo} {sc : PlatScales} {g : Nat} {bs : List Byte}
    {betas : List (BitVec 32)} {cut : List Parcel} (h : Keeps s₀ s) :
    Keeps s₀ (groupSpin s r p sc g bs betas cut) := by
  unfold Machine.groupSpin
  extract_lets G
  split
  · refine h.checkThen fun _ _ _ h1 => ?_
    split
    · exact h1.refuseSpin
    · exact h1.drawThen h1.leadSend
    · extract_lets s2 r2
      have h2 : Keeps s₀ s2 := h1.holdRun
      exact h2.drawThen h2.leadSend.leadGo
  · split
    · exact .ite h.sendStart (h.checkThen (fun _ _ _ h1 => h1.placeThen (fun _ => h1.holdRun.sendStart)))
    · exact .ite h.refuseSpin (h.checkThen (fun _ _ _ h1 => h1.placeThen (fun _ => h1.holdRun.memberSpin)))

theorem Keeps.startSpin {r : Run} {bs : List Byte} {cut : List Parcel} (h : Keeps s₀ s) :
    Keeps s₀ (startSpin s r bs cut) := by
  unfold Machine.startSpin
  dsimp only
  split
  · exact h.refuseSpin
  · split
    · exact h.refuseSpin
    · split
      · exact h.updCtx.refuseSpin
      · split
        · exact h.refuseSpin
        · split
          · exact h.memUe
          · split
            · exact h.refuseSpin
            · exact h.spinStop
            · split
              · exact h.groupSpin
              · exact h.checkThen (fun _ _ _ h1 => h1.placeThen (fun _ => h1.drawThen h1.acceptSpin))

theorem Keeps.gatherSpin {k : RunKey} {cut : List Parcel} (h : Keeps s₀ s) : Keeps s₀ (gatherSpin s k cut) := by
  unfold Machine.gatherSpin
  dsimp only
  split
  · exact h
  · split
    · exact h
    · exact .ite h (.ite h.openSpin (.ite h.refuseSpin h.startSpin))

theorem Keeps.takeSpin {core op : Nat} {cut : List Parcel} (h : Keeps s₀ s) : Keeps s₀ (takeSpin s core op cut) := by
  unfold Machine.takeSpin
  dsimp only
  split
  · exact h
  · exact .ite h h.updWork.gatherSpin

theorem KeepsOut.execSpinTraverse {core : Nat} {cut : List Parcel} (h : Keeps s₀ s) :
    KeepsOut s₀ (execSpinTraverse core cut s) :=
  .next h.takeSpin

theorem KeepsOut.execSpinSchedule {core : Nat} {cut : List Parcel} (h : Keeps s₀ s) :
    KeepsOut s₀ (execSpinSchedule core cut s) :=
  .next h.takeSpin

theorem Keeps.loadTable {core op : Nat} {put : Ctx → Memory → Ctx} (h : Keeps s₀ s)
    (hput : ∀ x m, CtxOk x → memWf m = true → CtxOk (put x m)) : Keeps s₀ (loadTable s core op put) := by
  unfold Machine.loadTable
  split
  · exact h
  · split
    · exact h
    · split
      · exact h.setResult
      · extract_lets off
        split
        · exact h.memUe
        · exact Keeps.setResult (h.updCtx fun x hx => hput x _ hx (memWf_writeN memWf_nil 0 _))

theorem KeepsOut.execTableLoad {core : Nat} (h : Keeps s₀ s) : KeepsOut s₀ (execTableLoad core s) :=
  .next (h.loadTable fun _ _ hx hm => ⟨hm, hx.2⟩)

theorem KeepsOut.execExchTableLoad {core : Nat} (h : Keeps s₀ s) : KeepsOut s₀ (execExchTableLoad core s) :=
  .next (h.loadTable fun _ _ hx hm => ⟨hx.1, hm, hx.2.2⟩)

theorem Keeps.takenDone {q : SpinRun} {mask : Nat} {k : RunKey} {traverse : Bool} (h : Keeps s₀ s) :
    Keeps s₀ (takenDone s q mask k traverse) := by
  refine Keeps.wakeWaits (h.updRun.wakeRun.updCtx fun x hx => ?_)
  split <;> exact hx

theorem Keeps.holdServe {k : RunKey} (h : Keeps s₀ s) : Keeps s₀ (holdServe s k) := by
  unfold Machine.holdServe
  split
  · exact h
  · split
    · exact h
    · split
      · exact h
      · split
        · exact .ite (h.writeThen (fun _ h1 => h1.updRun.takenDone)) h
        · exact h

theorem Keeps.finishSpin {k : RunKey} (h : Keeps s₀ s) : Keeps s₀ (finishSpin s k) := by
  unfold Machine.finishSpin
  split
  · exact h
  · split
    · exact h
    · split
      · exact h
      · split
        · extract_lets at' g0 c1 last reads ws
          split
          · split
            · exact h.spinStop
            · split
              · exact h.spinStop
              · refine h.nearThen fun _ h1 => ?_
                extract_lets s1 s2
                have h2 : Keeps s₀ s1 := h1.markReads.putAll.updRun
                have h3 : Keeps s₀ s2 := h2.closeSpin
                split
                · exact .ite h3.updGroup h3
                · exact h3
          · exact h
        · exact h

theorem Keeps.putCmd {k : RunKey} {c : SpinCmd} (h : Keeps s₀ s) : Keeps s₀ (putCmd s k c) := h.updRun

theorem Keeps.joinStops {k : RunKey} (h : Keeps s₀ s) : Keeps s₀ (joinStops s k) := by
  unfold Machine.joinStops
  dsimp only
  split
  · exact h
  · split
    · exact h
    · exact .ite h.putCmd h

theorem Keeps.tellStop {k : RunKey} (h : Keeps s₀ s) : Keeps s₀ (tellStop s k) := by
  unfold Machine.tellStop
  split
  · exact h
  · split
    · exact .ite h.updGroup.sendAll.joinStops h
    · exact h

theorem Keeps.requestStop {k : RunKey} {st : Status} (h : Keeps s₀ s) : Keeps s₀ (requestStop s k st) :=
  h.updRun.tellStop.finishSpin

theorem Keeps.tellWall {q : SpinRun} {c : SpinCmd} {g : Nat} (h : Keeps s₀ s) : Keeps s₀ (tellWall s q c g) :=
  .ite h h.updGroup.sendAll

theorem Keeps.agreeWall {k : RunKey} {c : SpinCmd} {g : Nat} (h : Keeps s₀ s) : Keeps s₀ (agreeWall s k c g) :=
  .ite h.putCmd h

theorem Keeps.heedWall {k : RunKey} (h : Keeps s₀ s) : Keeps s₀ (heedWall s k) := by
  unfold Machine.heedWall
  split
  · exact h
  · split
    · exact h
    · exact .ite h h.tellWall.agreeWall

theorem Keeps.heedStops {k : RunKey} (h : Keeps s₀ s) : Keeps s₀ (heedStops s k) := by
  unfold Machine.heedStops
  split
  · exact h
  · split
    · exact h
    · exact .ite h.requestStop h

theorem Keeps.lockCompare {g : Nat} {k : RunKey} (h : Keeps s₀ s) : Keeps s₀ (lockCompare s g k) := by
  unfold Machine.lockCompare
  dsimp only
  split
  · exact h.requestStop
  · exact h.updGroup

theorem Keeps.bandOnce {k : RunKey} {q : SpinRun} {c : SpinCmd} {g : Nat} {t : State} (h : Keeps s₀ s)
    (e : bandOnce s k q c g = some t) : Keeps s₀ t := by
  simp only [Machine.bandOnce] at e
  split at e
  · cases e
  · exact Option.some.inj e ▸ h.updRun.sendBands

theorem Keeps.lockSend {k : RunKey} {q : SpinRun} {c : SpinCmd} {g phase : Nat} (h : Keeps s₀ s) :
    Keeps s₀ (lockSend s k q c g phase) :=
  .ite h h.updGroup.sendGroup.lockCompare

theorem Keeps.tallyOnce {k : RunKey} {q : SpinRun} {c : SpinCmd} {t : State} (h : Keeps s₀ s)
    (e : tallyOnce s k q c = some t) : Keeps s₀ t := by
  simp only [Machine.tallyOnce] at e
  split at e
  · cases e
  · split at e
    · exact Option.some.inj e ▸ h.updRun
    · split at e
      · exact Option.some.inj e ▸ h.updRun.lockSend
      · split at e
        · cases e
        · split at e
          · exact Option.some.inj e ▸ .ite h.updRun.updGroup.sendStop.tellStop h.updRun.updGroup
          · exact Option.some.inj e ▸ h.updRun.updGroup.foldl fun _ _ h1 => h1.sendTally

theorem Keeps.bandRun {fuel : Nat} {k : RunKey} (h : Keeps s₀ s) : Keeps s₀ (bandRun fuel s k) := by
  induction fuel generalizing s with
  | zero => exact h
  | succ n ih =>
    unfold Machine.bandRun
    split
    · exact h
    · split
      · exact h
      · next e =>
        obtain ⟨g, -, eg⟩ := Option.bind_eq_some_iff.1 e
        exact ih (h.bandOnce eg)

theorem Keeps.tallyRun {fuel : Nat} {k : RunKey} (h : Keeps s₀ s) : Keeps s₀ (tallyRun fuel s k) := by
  induction fuel generalizing s with
  | zero => exact h
  | succ n ih =>
    unfold Machine.tallyRun
    split
    · exact h
    · split
      · exact h
      · next e => exact ih (h.tallyOnce e)

theorem Keeps.settleSpin {k : RunKey} (h : Keeps s₀ s) : Keeps s₀ (settleSpin s k) :=
  h.heedWall.heedStops.bandRun.tallyRun.holdServe.finishSpin

theorem Keeps.stripCount {core phase step sites flips coll yields : Nat} (h : Keeps s₀ s) :
    Keeps s₀ (stripCount s core phase step sites flips coll yields) :=
  h.updCore

theorem Keeps.stripWait {core : Nat} (h : Keeps s₀ s) : Keeps s₀ (stripWait s core) := h.updCore

theorem Keeps.runStrip {r : Run} {q : SpinRun} {c : SpinCmd} {par : Parcel} {replica step : Nat} {sites : List Site}
    {resolve : Bool} (h : Keeps s₀ s) : Keeps s₀ (runStrip s r q c par replica step sites resolve) := by
  unfold Machine.runStrip
  dsimp only
  split
  · exact h.markUses.spend.stripCount.updRun.settleSpin
  · split
    · exact h.markUses.spend.stripCount.updRun.settleSpin
    · split
      · exact .ite h.markUses.spend.stripCount.updRun.sendBands h.markUses.spend.stripCount.updRun
      · exact h.markUses.spend.stripCount.updRun

theorem Keeps.countCorrected {core n : Nat} (h : Keeps s₀ s) : Keeps s₀ (countCorrected s core n) := .ite h h.updCore

theorem KeepsOut.execStripIssue {core replica step strip : Nat} {resolve : Bool} {corrected : Nat} (h : Keeps s₀ s) :
    KeepsOut s₀ (execStripIssue core replica step strip resolve s corrected) := by
  unfold Machine.execStripIssue
  refine .next ?_
  split
  · exact h
  · split
    · exact h
    · split
      · split
        · exact h
        · split
          · exact h
          · split
            · exact h
            · split
              · exact h.stripWait
              · split
                · exact h.memUe
                · exact h.memUe
                · split
                  · exact h.stopAccess
                  · exact h.countCorrected.runStrip
      · exact h

theorem KeepsOut.execEasementMessage {dst src step replica : Nat} {kind : EasementKind} (h : Keeps s₀ s) :
    KeepsOut s₀ (execEasementMessage dst src step replica kind s) := by
  unfold Machine.execEasementMessage
  dsimp only
  refine .next ?_
  split
  · exact h
  · split
    · exact h
    · split
      · split
        · exact h
        · exact .ite h (.ite h.abortSpin h.updRun)
      · exact h

theorem Keeps.boundaryTallies {q : SpinRun} {held : Bool} {step : Nat} {tallies : List (List Byte)} (h : Keeps s₀ s) :
    Keeps s₀ (boundaryTallies s q held step tallies) := by
  unfold Machine.boundaryTallies
  dsimp only
  split
  · exact .ite h.updGroup.sendTallies h.updGroup
  · exact h

theorem Keeps.boundaryStep {r : Run} {q : SpinRun} {c : SpinCmd} {known : Bool} (h : Keeps s₀ s) :
    Keeps s₀ (boundaryStep s r q c known) := by
  unfold Machine.boundaryStep
  extract_lets k clean reads capture c1 bench c2 takes ws c3 c4
  split
  · exact h.spinStop
  · split
    · exact h.spinStop
    · refine h.nearThen fun t ht => ?_
      extract_lets s1 s2 s3 s4
      have h1 : Keeps s₀ s1 := ht.markReads.putAll
      have h2 : Keeps s₀ s2 := (Keeps.ite h1.markT h1).clearBusy
      have h3 : Keeps s₀ s3 := .ite h2.takenDone h2
      have h4 : Keeps s₀ s4 := h3.boundaryTallies
      exact (Keeps.ite h4.updRun.closeSpin h4.updRun.chargeStream.checkTraverses.settleSpin).wakeWaits

theorem Keeps.wallTest {k : RunKey} {q : SpinRun} {c : SpinCmd} (h : Keeps s₀ s) : Keeps s₀ (wallTest s k q c) := by
  unfold Machine.wallTest
  split
  · exact h
  · split
    · exact h.putCmd
    · exact .ite h.tellWall.agreeWall h

theorem KeepsOut.execTraverseBoundary {run : RunKey} {wall : Bool} (h : Keeps s₀ s) :
    KeepsOut s₀ (execTraverseBoundary run wall s) := by
  unfold Machine.execTraverseBoundary
  extract_lets s
  have h1 : Keeps s₀ s := h.settleSpin
  refine .next ?_
  split
  · exact h
  · split
    · exact h
    · split
      · exact h1
      · split
        · exact h1
        · split
          · exact h1
          · extract_lets P s1 c1
            have h2 : Keeps s₀ s1 := .ite h1.wallTest h1
            split
            · exact h1.closeSpin
            · split
              · exact h1.closeSpin
              · split
                · exact h1
                · split
                  · exact h2
                  · split
                    · split
                      · exact h2.boundaryStep
                      · exact .ite h2.boundaryStep h2
                    · exact h2.boundaryStep

/-! ### BENCHMARK, END and snapshots -/

theorem Keeps.serveIdle {k : RunKey} (h : Keeps s₀ s) : Keeps s₀ (serveIdle s k) := by
  unfold Machine.serveIdle
  dsimp only
  split
  · exact h
  · split
    · exact .ite h (h.writeThen (fun _ h1 => h1.takenDone))
    · exact h

theorem Keeps.holdSpin {k : RunKey} {traverse : Bool} (h : Keeps s₀ s) : Keeps s₀ (holdSpin s k traverse) := h.updRun

theorem Keeps.refuseBench {k : RunKey} (h : Keeps s₀ s) : Keeps s₀ (refuseBench s k) := h.updRun.wakeRun

theorem Keeps.chooseHold {k : RunKey} (h : Keeps s₀ s) : Keeps s₀ (chooseHold s k) := by
  unfold Machine.chooseHold
  dsimp only
  split
  · exact h
  · split
    · exact h
    · exact .ite h h.updGroup.sendAll

theorem Keeps.askHold {k : RunKey} (h : Keeps s₀ s) : Keeps s₀ (askHold s k) := by
  unfold Machine.askHold
  dsimp only
  split
  · exact h
  · exact .ite h.chooseHold (.ite h h.updGroup.sendGroup)

theorem Keeps.requestBench {r : Run} {va size : Nat} {traverse : Bool} (h : Keeps s₀ s) :
    Keeps s₀ (requestBench s r va size traverse) := by
  unfold Machine.requestBench
  dsimp only
  split
  · split
    · exact h.refuseBench
    · split
      · exact h.updRun
      · split
        · exact .ite h.refuseBench h.updRun.serveIdle
        · exact h.refuseBench
  · exact .ite h.refuseBench (.ite h.updRun.holdSpin.chooseHold.settleSpin h.updRun.serveIdle)

theorem Keeps.retryBench {r : Run} (h : Keeps s₀ s) : Keeps s₀ (retryBench s r) :=
  .ite h.updRun.refuseBench h.chooseHold.settleSpin.serveIdle

theorem Keeps.takeBench {hart : Hart} {rd : BitVec 5} {k : RunKey} (h : Keeps s₀ s) :
    Keeps s₀ (takeBench s hart rd k) := by
  unfold Machine.takeBench
  split
  · exact h
  · split
    · exact h.updWork.retireReg
    · exact h.waitYield

theorem KeepsOut.execBenchmark {hart : Hart} {rd rs1 : BitVec 5} {arg : BitVec 8} (h : Keeps s₀ s) :
    KeepsOut s₀ (execBenchmark hart rd rs1 arg s) :=
  .next (h.hartStep (fun _ _ => .ite h.trapHart (.ite h.trapHart
    (.ite h.trapHart (.ite h.trapHart (.ite h.takeBench
      (.ite h.retryBench.takeBench (h.storeGuard h.requestBench.takeBench))))))))

theorem KeepsOut.execEndProgram {hart : Hart} {rs1 : BitVec 5} (h : Keeps s₀ s) :
    KeepsOut s₀ (execEndProgram hart rs1 s) :=
  .next (h.hartStep (fun _ _ => h.drainStep h.retireWith.releaseBarriers.gatherSpin.gatherAnneal.yieldCheck))

theorem Keeps.requestSnapshot {c : Nat} (h : Keeps s₀ s) : Keeps s₀ (requestSnapshot s c) := by
  unfold Machine.requestSnapshot
  dsimp only
  split
  · exact h
  · split
    · exact h.updCtx
    · split
      · exact h.updCtx
      · exact .ite h.updCtx (.ite h.updCtx.markT.holdSpin.askHold.settleSpin h.updCtx.markT.holdSpin.askHold)

theorem KeepsOut.execSnapshotRequest {ctx : Nat} (h : Keeps s₀ s) : KeepsOut s₀ (execSnapshotRequest ctx s) :=
  .next (.ite h.wakeChip.requestSnapshot h)

/-! ### Commands of the vector engine -/

theorem Keeps.vectorStep {core op : Nat} {body : State → Run → List Byte → EngOut} (h : Keeps s₀ s)
    (hk : ∀ t a1 a2, Keeps s₀ t → KeepsEng s₀ (body t a1 a2)) : Keeps s₀ (vectorStep s core op body) := by
  unfold Machine.vectorStep
  dsimp only
  split
  · exact h
  · exact .ite h (.ite h.updCore (h.updCore.engEnd (hk _ _ _ h.updCore)))

theorem KeepsEng.combineBody {core : Nat} {r : Run} {bs : List Byte} (h : Keeps s₀ s) :
    KeepsEng s₀ (combineBody core s r bs) := by
  unfold Machine.combineBody
  extract_lets c f N S
  split
  · exact .done h
  · refine .engRead h fun _ _ h1 => ?_
    split
    · exact .done h1
    · extract_lets fa
      exact .engRead h1 (fun _ _ h2 => .engRead h2 (fun _ _ h3 => .outputStage h3))

theorem KeepsOut.execCombine {core : Nat} (h : Keeps s₀ s) : KeepsOut s₀ (execCombine core s) :=
  .next (h.vectorStep (fun _ _ _ h1 => .combineBody h1))

theorem KeepsEng.convertWrite {c : Nat} {bs q hist sc zp src : List Byte} (h : Keeps s₀ s) :
    KeepsEng s₀ (convertWrite s c bs q hist sc zp src) :=
  .engWrite h.tick (fun _ h1 => .clipAdd h1.scaleClamps (fun _ h2 => .done h2))

theorem KeepsEng.convertBody {r : Run} {bs : List Byte} (h : Keeps s₀ s) : KeepsEng s₀ (convertBody s r bs) := by
  unfold Machine.convertBody
  dsimp only
  split
  · exact .done h
  · exact .engRead h (fun _ _ h1 => .ite (.done h1)
    (.ite (.engRead h1 (fun _ _ h2 => .ite (.done h2) (.engRead h2 (fun _ _ h3 => .convertWrite h3))))
      (.ite (.readRows h1 (fun _ _ _ h2 => .engRead h2 (fun _ _ h3 => .convertWrite h3)))
        (.engRead h1 (fun _ _ h2 => .convertWrite h2)))))

theorem KeepsOut.execConvert {core : Nat} (h : Keeps s₀ s) : KeepsOut s₀ (execConvert core s) :=
  .next (h.vectorStep (fun _ _ _ h1 => .convertBody h1))

theorem KeepsEng.rotateBody {r : Run} {bs : List Byte} (h : Keeps s₀ s) : KeepsEng s₀ (rotateBody s r bs) := by
  unfold Machine.rotateBody
  dsimp only
  split
  · exact .done h
  · exact .engRead h (fun _ _ h1 => .engWrite h1 (fun _ h2 => .done h2))

theorem KeepsOut.execRotate {core : Nat} (h : Keeps s₀ s) : KeepsOut s₀ (execRotate core s) :=
  .next (h.vectorStep (fun _ _ _ h1 => .rotateBody h1))

theorem KeepsEng.readPlanes {c base : Nat} {p : PlatInfo} {ks acc : List Nat} {k : State → List Nat → EngOut}
    (h : Keeps s₀ s) (hk : ∀ t l, Keeps s₀ t → KeepsEng s₀ (k t l)) :
    KeepsEng s₀ (readPlanes s c p base ks acc k) := by
  induction ks generalizing s acc with
  | nil => exact hk _ _ h
  | cons n r ih => exact .engRead h fun _ _ h1 => ih h1

theorem KeepsEng.withPlat {c va mask : Nat} {k : State → PlatInfo → PlatScales → EngOut} (h : Keeps s₀ s)
    (hk : ∀ t a1 a2, Keeps s₀ t → KeepsEng s₀ (k t a1 a2)) : KeepsEng s₀ (withPlat s c va mask k) := by
  unfold Machine.withPlat
  split
  · exact .done h
  · exact .stop
  · exact .ite (.done h) (.engReads h (fun _ h1 => hk _ _ _ h1))

theorem KeepsEng.readoutBody {r : Run} {bs : List Byte} (h : Keeps s₀ s) : KeepsEng s₀ (readoutBody s r bs) := by
  unfold Machine.readoutBody
  dsimp only
  split
  · exact .done h
  · exact .withPlat h (fun _ _ _ h1 => .readPlanes h1 (fun _ _ h2 => .engWrite h2 (fun _ h3 => .done h3)))

theorem KeepsOut.execReadout {core : Nat} (h : Keeps s₀ s) : KeepsOut s₀ (execReadout core s) :=
  .next (h.vectorStep (fun _ _ _ h1 => .readoutBody h1))

theorem KeepsEng.energyPlat {c : Nat} {bs : List Byte} (h : Keeps s₀ s) : KeepsEng s₀ (energyPlat s c bs) :=
  .withPlat h (fun _ _ _ h1 => .engReads h1 (fun _ h2 => .readPlanes h2
    (fun _ _ h3 => .engReads h3 (fun _ h4 => .engWrite h4 (fun _ h5 => .done h5)))))

theorem Keeps.countUpper {core n : Nat} (h : Keeps s₀ s) : Keeps s₀ (countUpper s core n) := h.addCharge.updCore

theorem KeepsEng.energyDense {c core : Nat} {bs : List Byte} (h : Keeps s₀ s) :
    KeepsEng s₀ (energyDense s c core bs) := by
  unfold Machine.energyDense
  extract_lets f named
  refine .engRead h fun _ _ h1 => ?_
  extract_lets bi cmd n stride
  split
  · exact .done h1
  · exact .engRead h1 (fun _ _ h2 => .readProblem h2
    (fun _ _ h3 => .engRead h3 (fun _ _ h4 => .engWrite h4 (fun _ h5 => .done h5.countUpper))))

theorem KeepsEng.energyBody {core : Nat} {r : Run} {bs : List Byte} (h : Keeps s₀ s) :
    KeepsEng s₀ (energyBody core s r bs) := by
  unfold Machine.energyBody
  split
  · exact .done h
  · exact .ite (.energyPlat h) (.energyDense h)

theorem KeepsOut.execEnergy {core : Nat} {parity : List (Nat × Bool)} (h : Keeps s₀ s) :
    KeepsOut s₀ (execEnergy core s parity) := by
  unfold Machine.execEnergy
  dsimp only
  refine .next ?_
  split
  · split
    · exact h.vectorStep fun _ _ _ h1 => .energyBody h1
    · split
      · exact (h.vectorStep (fun _ _ _ h1 => .energyBody h1)).parityErrors
      · exact h.vectorStep fun _ _ _ h1 => .energyBody h1
  · exact h.vectorStep fun _ _ _ h1 => .energyBody h1

theorem KeepsEng.exchangeBody {core : Nat} {r : Run} {bs : List Byte} (h : Keeps s₀ s) :
    KeepsEng s₀ (exchangeBody core s r bs) := by
  unfold Machine.exchangeBody
  dsimp only
  split
  · exact .done h
  · split
    · exact .stop
    · exact .ite (.done h) (.done h.storeWrite.updCore)

theorem KeepsOut.execExchange {core : Nat} (h : Keeps s₀ s) : KeepsOut s₀ (execExchange core s) :=
  .next (h.vectorStep (fun _ _ _ h1 => .exchangeBody h1))

theorem KeepsEng.axpyBody {r : Run} {bs : List Byte} (h : Keeps s₀ s) : KeepsEng s₀ (axpyBody s r bs) :=
  .ite (.done h) (.ite (.done h) (.engRead h (fun _ _ h1 => .engRead h1
    (fun _ _ h2 => .engWrite h2 (fun _ h3 => .done h3)))))

theorem KeepsOut.execAxpy {core : Nat} (h : Keeps s₀ s) : KeepsOut s₀ (execAxpy core s) :=
  .next (h.vectorStep (fun _ _ _ h1 => .axpyBody h1))

/-! ### DMA commands, completions and polling -/

theorem Keeps.dmaLoop {fuel c core peer done : Nat} {bs : List Byte} {free : Bool} (h : Keeps s₀ s) :
    Keeps s₀ (dmaLoop fuel s c core peer bs done free).1 := by
  induction fuel generalizing s done with
  | zero => exact h
  | succ k ih =>
    unfold Machine.dmaLoop
    extract_lets f n v src dst m stopRead near p data s1 s2
    have hp : Keeps s₀ p.1 := h.payUnits
    have h1 : Keeps s₀ s1 := .ite hp.touch hp
    have h2 : Keeps s₀ s2 := .ite h1.touch.vaWrite h1.storeWrite
    clear_value stopRead
    split
    · exact h
    · cases stopRead with
      | some x => exact h
      | none =>
        dsimp only
        split
        · exact h
        · split
          · exact hp
          · exact ih h2

theorem KeepsOut.execDmaCommand {core : Nat} (h : Keeps s₀ s) : KeepsOut s₀ (execDmaCommand core s) := by
  unfold Machine.execDmaCommand
  dsimp only
  refine .next ?_
  split
  · exact h
  · split
    · exact h.setResult
    · split
      · exact .ite h.dmaLoop.updWork.tick.setResult h.dmaLoop.updWork.tick
      · exact h.dmaLoop.updWork.tick.stopAccess

theorem WorkOk.completeHead {w : Work} (h : WorkOk w) (u : EngineUnit) (n : Nat) (st : Status) :
    WorkOk (completeHead u n st w) := by
  cases u <;> exact h

theorem Keeps.completeUnit {core : Nat} {u : EngineUnit} (h : Keeps s₀ s) : Keeps s₀ (completeUnit s core u) := by
  unfold Machine.completeUnit
  extract_lets w
  split
  · next r q _ st _ _ _ =>
    extract_lets s1 s2
    have hc (c : Core) (hc : CoreOk c) : CoreOk { c with work := completeHead u q.ordinal st c.work } :=
      WorkOk.completeHead hc u q.ordinal st
    have h1 : Keeps s₀ s1 := h.updCore fun c hok => (hc c hok).lastStatus u st
    have h2 : Keeps s₀ s2 := .ite h1.updRun h1
    exact .ite h2.serveIdle h2
  · exact h

theorem KeepsOut.execCommandComplete {core : Nat} {unit : EngineUnit} (h : Keeps s₀ s) :
    KeepsOut s₀ (execCommandComplete core unit s) :=
  .next h.completeUnit.wakeWaits

theorem KeepsOut.execWaitValuePoll (h : Keeps s₀ s) : KeepsOut s₀ (execWaitValuePoll s) := .next h.wakeWaits

/-! ### RUN descriptors -/

theorem KeepsOut.execRun {ctx ring : Nat} (h : Keeps s₀ s) : KeepsOut s₀ (execRun ctx ring s) := by
  unfold Machine.execRun
  dsimp only
  refine .next ?_
  split
  · exact h
  · split
    · exact h.finishNext
    · exact h.startNext.frame

theorem Keeps.goCore {r : Run} {p : ProgHdr} {params : List Byte} {core : Nat} (h : Keeps s₀ s) :
    Keeps s₀ (goCore r p params s core) := by
  unfold Machine.goCore
  extract_lets n k
  exact Keeps.updCore h.frame fun c hc => memWf_writeN hc p.paramOff params

theorem Keeps.seqStop {r : Run} {x : Stop} {core : Nat} (h : Keeps s₀ s) : Keeps s₀ (seqStop s r x core) :=
  h.stopAccess

theorem Keeps.go {r : Run} {p : ProgHdr} (h : Keeps s₀ s) : Keeps s₀ (go s r p) := by
  unfold Machine.go
  dsimp only
  split
  · exact h.seqStop
  · exact (h.cachePages.markAccess.foldl (fun _ _ h1 => h1.goCore)).updRun

theorem Keeps.loadAndGo {r : Run} {p : ProgHdr} (h : Keeps s₀ s) : Keeps s₀ (loadAndGo s r p) := by
  unfold Machine.loadAndGo
  dsimp only
  split
  · exact h.go
  · split
    · exact h.seqStop
    · exact .ite h.cachePages.markAccess.loadCode.go h.cachePages.markAccess.loadCode.completeRun

theorem Keeps.freshTiming {plot : Nat} (h : Keeps s₀ s) : Keeps s₀ (freshTiming s plot) :=
  .ite h.updPlot.timingBroken h.updPlot

theorem KeepsOut.execRunDispatch {run : RunKey} (h : Keeps s₀ s) : KeepsOut s₀ (execRunDispatch run s) := by
  unfold Machine.execRunDispatch
  dsimp only
  refine .next ?_
  split
  · exact h
  · split
    · exact h
    · split
      · exact h.updCtx.completeRun
      · split
        · exact h.switchPlot.freshTiming
        · split
          · exact h.switchPlot.freshTiming.seqStop
          · split
            · exact h.switchPlot.freshTiming.cachePages.markAccess.completeRun
            · exact h.switchPlot.freshTiming.cachePages.markAccess.loadAndGo

theorem Keeps.endRun {k : RunKey} {st : Status} {detail : Nat} (h : Keeps s₀ s) : Keeps s₀ (endRun s k st detail) :=
  .ite h.dropRun h.completeRun

theorem KeepsOut.execRunComplete {run : RunKey} (h : Keeps s₀ s) : KeepsOut s₀ (execRunComplete run s) := by
  unfold Machine.execRunComplete
  refine .next ?_
  split
  · exact h
  · split
    · exact h
    · exact h.endRun

theorem KeepsOut.execRunTimeout {run : RunKey} (h : Keeps s₀ s) : KeepsOut s₀ (execRunTimeout run s) := by
  unfold Machine.execRunTimeout
  refine .next ?_
  split
  · exact h
  · exact .ite h.updRun h

theorem Keeps.startUnitReset {st : Status} {p : Nat × EngineUnit} (h : Keeps s₀ s) :
    Keeps s₀ (startUnitReset st s p) := by
  refine h.updCore fun c hc => ?_
  have h1 : CoreOk (if (c.work.unitQ p.2).queue.isEmpty then c else lastStatus p.2 st c) := by
    split
    · exact hc
    · exact hc.lastStatus p.2 st
  exact h1

theorem KeepsOut.execDrainWindowExpiry {run : RunKey} {stuck : List (Nat × EngineUnit)} (h : Keeps s₀ s) :
    KeepsOut s₀ (execDrainWindowExpiry run stuck s) := by
  unfold Machine.execDrainWindowExpiry
  refine .next ?_
  split
  · exact h
  · split
    · exact h
    · split
      · exact h.endRun
      · extract_lets s1
        have h1 : Keeps s₀ s1 := h.foldl fun _ _ h2 => h2.startUnitReset
        exact .ite h1.dropRun (.ite h1.endRun h1.faultCtx)

theorem KeepsOut.execTimeSliceEnd {plot : Nat} (h : Keeps s₀ s) : KeepsOut s₀ (execTimeSliceEnd plot s) := by
  unfold Machine.execTimeSliceEnd
  refine .next ?_
  split
  · exact h
  · exact .ite h.switchPlot h

/-! ### Contexts -/

theorem Keeps.writeEnable {c : Nat} {bit : Bool} (h : Keeps s₀ s) : Keeps s₀ (writeEnable s c bit) :=
  .ite h.updCtx (.ite h.updCtx h)

theorem Keeps.detach {c : Nat} (h : Keeps s₀ s) : Keeps s₀ (detach s c) :=
  .ite (h.updPlot.updCtx fun _ hx => ⟨hx.1, hx.2.1, by simp⟩) h

theorem Keeps.attachAreas {c p : Nat} {t : State} (h : Keeps s₀ s) (e : attachAreas s c p = some t) : Keeps s₀ t := by
  unfold Machine.attachAreas at e
  split at e
  · exact h.allotAreas e
  · exact Option.some.inj e ▸ h

/-- An update that may fail, and then changes nothing. -/
theorem Keeps.getD {o : Option State} (h : Keeps s₀ s) (ho : ∀ t, o = some t → Keeps s₀ t) : Keeps s₀ (o.getD s) := by
  cases o with
  | none => exact h
  | some t => exact ho t rfl

theorem Keeps.writePlot {c plot : Nat} {bit : Bool} (h : Keeps s₀ s) : Keeps s₀ (writePlot s c bit plot) := by
  unfold Machine.writePlot
  extract_lets x s1
  have h1 : Keeps s₀ s1 := h.detach.updCtx
  exact .ite h (.ite h1 (.ite h1.updCtx (h1.getD fun _ e => h1.attachAreas e).updCtx))

theorem Keeps.discardRuns {c : Nat} {p : Run → Bool} (h : Keeps s₀ s) : Keeps s₀ (discardRuns s c p) :=
  h.foldl fun _ _ h1 => h1.dropRun

theorem Keeps.tellReset {c : Nat} (h : Keeps s₀ s) : Keeps s₀ (tellReset c s) := h.foldl (fun _ _ h1 => h1.sendStop)

theorem Keeps.resetCtx {c : Nat} (h : Keeps s₀ s) : Keeps s₀ (resetCtx s c) := by
  unfold Machine.resetCtx
  extract_lets s1 s2
  have h2 : Keeps s₀ s2 := h.tellReset.discardRuns.loseServices.frame
  exact .ite h (h2.updCtx fun _ _ => ctxOk_default)

theorem Keeps.endReset {c : Nat} (h : Keeps s₀ s) : Keeps s₀ (endReset s c) := .ite h.discardRuns.updCtx h

theorem Keeps.clearFault {c : Nat} (h : Keeps s₀ s) : Keeps s₀ (clearFault s c) := by
  unfold Machine.clearFault
  extract_lets s1
  have h1 : Keeps s₀ s1 := h.updCtx
  exact .ite h1.frame.reloadRuns h1

theorem Keeps.resumeFault {c : Nat} (h : Keeps s₀ s) : Keeps s₀ (resumeFault s c) := .ite h.clearFault h

theorem Keeps.abortUnit {c core : Nat} {u : EngineUnit} {st : Status} (h : Keeps s₀ s) :
    Keeps s₀ (abortUnit s c core u st) := by
  unfold Machine.abortUnit
  split
  · exact h
  · split
    · exact h
    · split
      · exact .ite h.abortSpin h.setResult
      · exact .ite h.setAnnealResults h.setResult
      · exact h.setResult

theorem Keeps.abortHolder {c : Nat} {hart : Holder × Nat} (h : Keeps s₀ s) : Keeps s₀ (abortHolder c s hart) := by
  unfold Machine.abortHolder
  dsimp only
  split
  · exact h.abortUnit
  · split
    · exact .ite h.trapHart h
    · exact h
  · split
    · exact h.finishDesc
    · split
      · exact .ite h.finishNext h
      · exact h
  · exact .ite h.updRing h
  · exact .ite h.completeRun h

theorem Keeps.giveBack {p c : Nat} {old : Option Nat} (h : Keeps s₀ s) : Keeps s₀ (giveBack s p c old) := by
  unfold Machine.giveBack
  split
  · exact .ite h.switchPlot h
  · exact h

theorem Keeps.abortFaults {c : Nat} (h : Keeps s₀ s) : Keeps s₀ (abortFaults s c) := by
  unfold Machine.abortFaults
  extract_lets x here s0 s1 s2
  have h1 : Keeps s₀ s0 := .ite h.switchPlot h
  have h2 : Keeps s₀ s1 := h1.foldl fun _ _ h3 => h3.abortHolder
  have h3 : Keeps s₀ s2 := .ite h2.giveBack h2
  exact .ite h (.ite h1 (.ite h3.clearFault h3))

theorem KeepsOut.execEnable {ctx : Nat} {bit : Bool} (h : Keeps s₀ s) : KeepsOut s₀ (execEnable ctx bit s) :=
  .next (.ite h.wakeChip.writeEnable h)

theorem KeepsOut.execPlotValid {ctx : Nat} {bit : Bool} {plot : Nat} (h : Keeps s₀ s) :
    KeepsOut s₀ (execPlotValid ctx bit plot s) :=
  .next (.ite h.wakeChip.writePlot h)

theorem KeepsOut.execReset {ctx : Nat} (h : Keeps s₀ s) : KeepsOut s₀ (execReset ctx s) :=
  .next (.ite h.wakeChip.resetCtx h)

theorem KeepsOut.execContextResetEnd {ctx : Nat} (h : Keeps s₀ s) : KeepsOut s₀ (execContextResetEnd ctx s) :=
  .next h.endReset

theorem KeepsOut.execAbortFault {ctx : Nat} (h : Keeps s₀ s) : KeepsOut s₀ (execAbortFault ctx s) :=
  .next (.ite h.wakeChip.abortFaults h)

theorem KeepsOut.execResume {ctx : Nat} (h : Keeps s₀ s) : KeepsOut s₀ (execResume ctx s) :=
  .next (.ite h.wakeChip.resumeFault h)

theorem Keeps.lockLeaves {c : Nat} (h : Keeps s₀ s) : Keeps s₀ (lockLeaves s c) := by
  unfold Machine.lockLeaves
  dsimp only
  split
  · exact h.deviceUe
  · exact (h.foldl (fun _ _ h1 => h1.cachePages)).updCtx

theorem Keeps.startInval {c page count : Nat} (h : Keeps s₀ s) : Keeps s₀ (startInval s c page count) := by
  unfold Machine.startInval
  extract_lets n
  exact h.updCtx

theorem Keeps.endInval {c : Nat} (h : Keeps s₀ s) : Keeps s₀ (endInval s c) := by
  unfold Machine.endInval
  dsimp only
  split
  · exact h
  · exact .ite h.updCtx.lockLeaves h.updCtx

theorem KeepsOut.execCtxInvalPages {ctx page count : Nat} (h : Keeps s₀ s) :
    KeepsOut s₀ (execCtxInvalPages ctx page count s) :=
  .next (.ite h.wakeChip.startInval h)

theorem KeepsOut.execCtxInvalAll {ctx : Nat} (h : Keeps s₀ s) : KeepsOut s₀ (execCtxInvalAll ctx s) :=
  .next (.ite h.wakeChip.startInval h)

theorem KeepsOut.execInvalidationComplete {ctx : Nat} (h : Keeps s₀ s) :
    KeepsOut s₀ (execInvalidationComplete ctx s) :=
  .next h.endInval

theorem KeepsOut.execAtsInvalidation {ctx page state : Nat} (h : Keeps s₀ s) :
    KeepsOut s₀ (execAtsInvalidation ctx page state s) :=
  .next h.frame

theorem Keeps.markBad {l : Level} {line : Nat} (h : Keeps s₀ s) : Keeps s₀ (markBad s l line) := .ite h h.frame

theorem Keeps.scrubLine {l : Level} {line : Nat} {find : ScrubFind} (h : Keeps s₀ s) :
    Keeps s₀ (scrubLine s l line find) := by
  unfold Machine.scrubLine
  extract_lets s0 k
  have h1 : Keeps s₀ s0 := .ite h.frame h
  split
  · exact h
  · split
    · exact h1
    · exact .ite h1.frame h1
    · exact .ite h1.markBad h1.markBad.noteUe

theorem KeepsOut.execPatrolScrub {level : Level} {line : Nat} {find : ScrubFind} (h : Keeps s₀ s) :
    KeepsOut s₀ (execPatrolScrub level line find s) :=
  .next (.ite h.scrubLine h)

theorem Keeps.openLine {line : Nat} (h : Keeps s₀ s) : Keeps s₀ (openLine s line) := by
  unfold Machine.openLine
  exact (h.setNear fun k => memWf_writeN k.near _ _).tick

theorem Keeps.repairRow {chan row : Nat} {spareLeft : Bool} (h : Keeps s₀ s) :
    Keeps s₀ (repairRow s chan row spareLeft) :=
  .ite h (.ite h.retireChannel (h.frame.foldl (fun _ _ h1 => h1.openLine)))

theorem KeepsOut.execPostPackageRepair {channel row : Nat} {spareLeft : Bool} (h : Keeps s₀ s) :
    KeepsOut s₀ (execPostPackageRepair channel row spareLeft s) :=
  .next (.ite h.repairRow h)

/-! ### Plots -/

theorem Keeps.plotReason {p : Nat} {st : Status} (h : Keeps s₀ s) : Keeps s₀ (plotReason s p st) := h.updPlot

theorem Keeps.beginTest (h : Keeps s₀ s) : Keeps s₀ (beginTest s) := by
  unfold Machine.beginTest
  dsimp only
  split
  · exact h
  · exact h.frame.updCore

theorem Keeps.dropTests {gone : Nat → Bool} (h : Keeps s₀ s) : Keeps s₀ (dropTests s gone) :=
  .ite h.frame h.frame.beginTest

theorem Keeps.formPlot {p : Nat} {a : Admission} (h : Keeps s₀ s) : Keeps s₀ (formPlot s p a) := by
  unfold Machine.formPlot
  extract_lets q cores s0 s1 s2
  have h0 : Keeps s₀ s0 := h.getD fun _ e => h.allotAreas e
  have h1 : Keeps s₀ s1 := h0.foldl fun _ _ ht => ht.updCore
  exact h1.dropTests.setPlot

theorem Keeps.configurePlot {p : Nat} (h : Keeps s₀ s) : Keeps s₀ (configurePlot s p) := by
  unfold Machine.configurePlot
  dsimp only
  split
  · exact h
  · split
    · exact h.plotReason
    · exact .ite h.formPlot (.ite h.writeAdmission.formPlot.lockLeaves h.writeAdmission.ueOf.plotReason)

theorem Keeps.releasePlot {p : Nat} (h : Keeps s₀ s) : Keeps s₀ (releasePlot s p) := by
  unfold Machine.releasePlot
  extract_lets q cores pend att s1 s2 s3
  have h1 : Keeps s₀ s1 := h.foldl fun _ _ h2 => h2.loseServices.detach
  have h2 : Keeps s₀ s2 := h1.setPlot
  have h3 : Keeps s₀ s3 := h2.foldl fun _ _ h4 => h4.updCore
  exact .ite h (.ite h.plotReason (.ite h3 ((h3.foldl (fun _ _ h4 => h4.leaveService)).mapChanged)))

theorem Keeps.replaceCore {p n : Nat} (h : Keeps s₀ s) : Keeps s₀ (replaceCore p s n) := by
  unfold Machine.replaceCore
  extract_lets phys src s1
  split
  · extract_lets b
    have h1 : Keeps s₀ { s with boot := b, badLines := withoutStore n s.badLines } := h.frame
    exact h1.dropTests.setCore fun _ => coreOk_default
  · exact h.leaveService.updPlot

theorem Keeps.reconfigurePlot {p : Nat} (h : Keeps s₀ s) : Keeps s₀ (reconfigurePlot s p) := by
  unfold Machine.reconfigurePlot
  extract_lets q cores pend banks dead s1
  have h1 : Keeps s₀ banks := h.foldl fun _ _ h2 => h2.leaveService
  have h2 : Keeps s₀ s1 := h1.foldl fun _ _ h3 => h3.replaceCore
  exact .ite h (.ite h.plotReason ((Keeps.ite h2 h2.mapChanged).plotReason))

theorem KeepsOut.execConfigure {plot : Nat} (h : Keeps s₀ s) : KeepsOut s₀ (execConfigure plot s) :=
  .next (.ite h.wakeChip.configurePlot h)

theorem KeepsOut.execRelease {plot : Nat} (h : Keeps s₀ s) : KeepsOut s₀ (execRelease plot s) :=
  .next (.ite h.wakeChip.releasePlot h)

theorem KeepsOut.execReconfigure {plot : Nat} (h : Keeps s₀ s) : KeepsOut s₀ (execReconfigure plot s) :=
  .next (.ite h.wakeChip.reconfigurePlot h)

/-! ### The boundary fabric -/

theorem Keeps.putRecord {r : LinkState} (h : Keeps s₀ s) : Keeps s₀ (putRecord s r) := h.frame.drainFab

theorem Keeps.floodRecord {r : LinkState} (h : Keeps s₀ s) : Keeps s₀ (floodRecord s r) :=
  h.foldl fun _ _ h1 => h1.transmit

theorem Keeps.floodOwn (h : Keeps s₀ s) : Keeps s₀ (floodOwn s) := .ite h.frame.putRecord.floodRecord h

theorem KeepsOut.execLinkStateRefresh (h : Keeps s₀ s) : KeepsOut s₀ (execLinkStateRefresh s) :=
  .next (.ite h.floodOwn h)

theorem KeepsOut.execTopologyRecordExpiry {chip : Nat} (h : Keeps s₀ s) :
    KeepsOut s₀ (execTopologyRecordExpiry chip s) :=
  .next (.ite h.frame.drainFab h)

theorem Keeps.failGroup {n : Nat} {st : Status} (h : Keeps s₀ s) : Keeps s₀ (failGroup s n st) := h.updGroup.sendAll

theorem Keeps.formCheck {n : Nat} (h : Keeps s₀ s) : Keeps s₀ (formCheck s n) :=
  .ite h (.ite h.failGroup (.ite h.updGroup.sendAll h))

theorem Keeps.formAll (h : Keeps s₀ s) : Keeps s₀ (formAll s) := h.foldl (fun _ _ h1 => h1.formCheck)

theorem Keeps.controlStep {f : State → State} (h : Keeps s₀ s) (hk : ∀ t, Keeps s₀ t → Keeps s₀ (f t)) :
    Keeps s₀ (controlStep s f) :=
  .ite (hk _ h.wakeIdle) h

theorem Keeps.takeRecord {rec : LinkState} (h : Keeps s₀ s) : Keeps s₀ (takeRecord rec s) :=
  .ite h h.putRecord.floodRecord.formAll

theorem KeepsOut.execLinkStateRecord {rec : LinkState} (h : Keeps s₀ s) : KeepsOut s₀ (execLinkStateRecord rec s) :=
  .next (h.controlStep (fun _ h1 => h1.takeRecord))

theorem Keeps.leaveUp {n st : Nat} {f : Link → Link} (h : Keeps s₀ s) : Keeps s₀ (leaveUp s n st f) :=
  .ite h.updLink.floodOwn h.updLink

theorem Keeps.enterUp {n : Nat} (h : Keeps s₀ s) : Keeps s₀ (enterUp s n) :=
  (Keeps.ite h.updLink.floodOwn h.updLink).drainFab

theorem Keeps.enterIdentify {n : Nat} (h : Keeps s₀ s) : Keeps s₀ (enterIdentify s n) :=
  .ite h.updLink.moveSending.updLink.requestNoise h.updLink.moveSending.updLink

theorem Keeps.linkDown {n : Nat} (h : Keeps s₀ s) : Keeps s₀ (linkDown s n) := h.leaveUp.moveSending

theorem Keeps.trainingFails {n : Nat} (h : Keeps s₀ s) : Keeps s₀ (trainingFails s n) :=
  (Keeps.ite h.logEvent h).linkDown

theorem KeepsOut.execLinkSignalDetect {link : Nat} (h : Keeps s₀ s) : KeepsOut s₀ (execLinkSignalDetect link s) :=
  .next (.ite h.updLink h)

theorem KeepsOut.execLinkDownRetry {link : Nat} {signal : Bool} (h : Keeps s₀ s) :
    KeepsOut s₀ (execLinkDownRetry link signal s) :=
  .next (.ite h.updLink h)

theorem KeepsOut.execLinkTrainingComplete {link : Nat} {lanes : BitVec 8} (h : Keeps s₀ s) :
    KeepsOut s₀ (execLinkTrainingComplete link lanes s) :=
  .next (.ite h (.ite h.trainingFails h.updLink.enterIdentify))

theorem KeepsOut.execLinkTrainingTimeout {link : Nat} (h : Keeps s₀ s) :
    KeepsOut s₀ (execLinkTrainingTimeout link s) :=
  .next (.ite h.trainingFails (.ite h.linkDown h))

theorem Keeps.identified {link : Nat} {info : IdentifyInfo} (h : Keeps s₀ s) : Keeps s₀ (identified s link info) :=
  .ite h.updLink (.ite (.ite h.updLink h.frame.formAll) h.updLink.enterUp)

theorem KeepsOut.execIdentifyExchange {link : Nat} {info : IdentifyInfo} (h : Keeps s₀ s) :
    KeepsOut s₀ (execIdentifyExchange link info s) :=
  .next (.ite h.updLink (.ite h h.updLink.requestNoise.identified))

theorem KeepsOut.execLossOfSignal {link : Nat} (h : Keeps s₀ s) : KeepsOut s₀ (execLossOfSignal link s) :=
  .next (.ite h.linkDown h)

theorem Keeps.markLinks (h : Keeps s₀ s) : Keeps s₀ (markLinks s) := h.foldl (fun _ _ h1 => h1.markT)

theorem Keeps.enterRetrain {n : Nat} {f : Link → Link} (h : Keeps s₀ s) : Keeps s₀ (enterRetrain s n f) :=
  h.leaveUp.markLinks

theorem KeepsOut.execLaneLoss {link lane : Nat} (h : Keeps s₀ s) : KeepsOut s₀ (execLaneLoss link lane s) :=
  .next (.ite h.enterRetrain h)

theorem Keeps.retrainLink {n : Nat} (h : Keeps s₀ s) : Keeps s₀ (retrainLink s n) :=
  .ite h.enterRetrain (.ite h.updLink h)

theorem KeepsOut.execRetrain {link : Nat} (h : Keeps s₀ s) : KeepsOut s₀ (execRetrain link s) :=
  .next (.ite h.wakeChip.retrainLink h)

theorem KeepsOut.execRetrainComplete {link : Nat} {samePartner : Bool} {lanes : BitVec 8} (h : Keeps s₀ s) :
    KeepsOut s₀ (execRetrainComplete link samePartner s lanes) :=
  .next (.ite h (.ite h.linkDown (.ite h.updLink.enterUp h.updLink.enterIdentify)))

theorem KeepsOut.execFlitReceive {link : Nat} {flit : List Byte} {corrected number : Nat} (h : Keeps s₀ s) :
    KeepsOut s₀ (execFlitReceive link flit corrected s number) :=
  .next (.ite h (.ite h.updLink.updLink h.updLink.updLink.emit))

theorem KeepsOut.execFlitNak {link failed : Nat} (h : Keeps s₀ s) : KeepsOut s₀ (execFlitNak link failed s) :=
  .next (.ite h (.ite (((h.updLink.foldl (fun _ _ h1 => h1.emit)).markLinks).enterRetrain)
    ((h.updLink.foldl (fun _ _ h1 => h1.emit)).markLinks)))

theorem KeepsOut.execPartnerLost {link : Nat} (h : Keeps s₀ s) : KeepsOut s₀ (execPartnerLost link s) :=
  .next (.ite h h.updLink.emit.raiseEvent.floodOwn)

theorem Keeps.writeChipId {valid : Bool} {chip : Nat} (h : Keeps s₀ s) : Keeps s₀ (writeChipId s valid chip) :=
  .ite h (h.frame.foldl (fun _ _ h1 => .ite h1.updLink (.ite h1.enterIdentify h1)))

theorem KeepsOut.execFabChipId {valid : Bool} {chip : Nat} (h : Keeps s₀ s) :
    KeepsOut s₀ (execFabChipId valid chip s) :=
  .next (.ite h.wakeChip.writeChipId h)

theorem Keeps.takeJoin {n : Nat} {i : JoinInfo} (h : Keeps s₀ s) : Keeps s₀ (takeJoin n s i) :=
  .ite h (.ite h.failGroup h.updGroup.formCheck)

theorem Keeps.groupReason {n : Nat} {st : Status} (h : Keeps s₀ s) : Keeps s₀ (groupReason s n st) := h.updGroup

theorem Keeps.groupStopped {n : Nat} {x : Stop} (h : Keeps s₀ s) : Keeps s₀ (groupStopped s n x) := h.ueOf.groupReason

theorem Keeps.armGroup {n : Nat} (h : Keeps s₀ s) : Keeps s₀ (armGroup s n) := by
  unfold Machine.armGroup
  dsimp only
  split
  · exact h
  · split
    · exact h.groupReason
    · split
      · exact h.groupStopped
      · exact .ite (h.updGroup.foldl (fun _ _ h1 => h1.takeJoin)) h.updGroup.updGroup.sendGroup

theorem KeepsOut.execArm {group : Nat} (h : Keeps s₀ s) : KeepsOut s₀ (execArm group s) :=
  .next (.ite h.wakeChip.armGroup h)

theorem KeepsOut.execJoin {group : Nat} {info : JoinInfo} (h : Keeps s₀ s) : KeepsOut s₀ (execJoin group info s) :=
  .next (h.controlStep (fun _ h1 => .ite h1.updGroup h1.takeJoin))

theorem Keeps.disbandGroup {n : Nat} (h : Keeps s₀ s) : Keeps s₀ (disbandGroup s n) := .ite h h.updGroup

theorem KeepsOut.execDisband {group : Nat} (h : Keeps s₀ s) : KeepsOut s₀ (execDisband group s) :=
  .next (.ite h.wakeChip.disbandGroup h)

theorem Keeps.planGroup {n : Nat} (h : Keeps s₀ s) : Keeps s₀ (planGroup s n) := by
  unfold Machine.planGroup
  dsimp only
  split
  · exact h
  · split
    · exact h.groupStopped
    · split
      · exact h.groupReason
      · split
        · exact h.groupReason
        · exact h.vaWrite.updGroup.foldl fun _ _ h1 => h1.sendGroup

theorem KeepsOut.execPlan {group : Nat} {proposed : List Nat} (h : Keeps s₀ s) :
    KeepsOut s₀ (execPlan group proposed s) :=
  .next (.ite h.wakeChip.planGroup h)

theorem Keeps.groupGoesOn {n : Nat} (h : Keeps s₀ s) : Keeps s₀ (groupGoesOn s n) := by
  unfold Machine.groupGoesOn
  split
  · exact h.gatherSpin.settleSpin
  · exact h

theorem Keeps.takeMessage {group : Nat} {msg : GroupMsg} (h : Keeps s₀ s) : Keeps s₀ (takeMessage s group msg) := by
  unfold Machine.takeMessage
  dsimp only
  split
  · exact .ite h.updGroup h
  · exact .ite h.updGroup h
  · exact .ite h h.vaWrite.updGroup
  · exact .ite h.updGroup.groupGoesOn h
  · exact .ite h.updGroup.groupGoesOn h
  · exact .ite h.updGroup.groupGoesOn h
  · exact .ite h.updGroup.groupGoesOn h
  · exact .ite h.updGroup.groupGoesOn h
  · exact .ite h.updGroup h
  · split
    · exact h.chooseHold.settleSpin
    · exact h
  · exact .ite h (.ite h.sendGroup h.updGroup.groupGoesOn)
  · split
    · exact h
    · split
      · exact h.updGroup.heedStops.joinStops.settleSpin
      · exact h.updGroup

theorem KeepsOut.execGroupMessage {group : Nat} {msg : GroupMsg} (h : Keeps s₀ s) :
    KeepsOut s₀ (execGroupMessage group msg s) :=
  .next (h.controlStep (fun _ h1 => h1.takeMessage))

theorem KeepsOut.execFabricEasement {group : Nat} {msg : FabEasement} (h : Keeps s₀ s) :
    KeepsOut s₀ (execFabricEasement group msg s) := by
  unfold Machine.execFabricEasement
  dsimp only
  refine .next ?_
  split
  · exact h
  · split
    · exact .ite h.updGroup.updRun.relayBand.settleSpin h.updGroup
    · exact h.updGroup

theorem KeepsOut.execTallyPartial {group step replica cell : Nat} {image : List Byte} (h : Keeps s₀ s) :
    KeepsOut s₀ (execTallyPartial group step replica cell image s) := by
  unfold Machine.execTallyPartial
  dsimp only
  refine .next ?_
  split
  · exact h
  · split
    · exact h.updGroup.groupGoesOn.settleSpin
    · exact h.updGroup.groupGoesOn

theorem KeepsOut.execTallyBroadcast {group step : Nat} {tallies : List (List Byte)} (h : Keeps s₀ s) :
    KeepsOut s₀ (execTallyBroadcast group step tallies s) := by
  unfold Machine.execTallyBroadcast
  dsimp only
  refine .next ?_
  split
  · exact h
  · split
    · exact h.updGroup
    · exact h.updGroup.finishSpin

theorem Keeps.stopWaiting {r : Run} {q : SpinRun} {n : Nat} (h : Keeps s₀ s) : Keeps s₀ (stopWaiting s r q n) :=
  h.writeThen fun _ h1 => h1.tick.setSpinResults.endRefused

theorem Keeps.groupStop {n : Nat} {st : Status} (h : Keeps s₀ s) : Keeps s₀ (groupStop s n st) := by
  unfold Machine.groupStop
  dsimp only
  split
  · exact (Keeps.ite h.updGroup h).groupGoesOn
  · split
    · exact .ite h.updGroup h
    · split
      · exact h.putCmd.requestStop
      · exact .ite (.ite h.stopWaiting.updGroup h.stopWaiting) h

theorem Keeps.memberLost {group chip : Nat} (h : Keeps s₀ s) : Keeps s₀ (memberLost s group chip) :=
  .ite h (((Keeps.ite h.emit.raiseEvent h).sendStop).groupStop)

theorem KeepsOut.execMemberLost {group chip : Nat} (h : Keeps s₀ s) : KeepsOut s₀ (execMemberLost group chip s) :=
  .next (.ite h h.memberLost)

theorem Keeps.takeStop {group : Nat} {status : Status} {lost : Option Nat} (h : Keeps s₀ s) :
    Keeps s₀ (takeStop group status lost s) := by
  unfold Machine.takeStop
  dsimp only
  split
  · exact h
  · split
    · exact .ite h.memberLost h.groupStop
    · exact (Keeps.ite h.sendStop h).groupStop

theorem KeepsOut.execFabricStop {group : Nat} {status : Status} {lost : Option Nat} (h : Keeps s₀ s) :
    KeepsOut s₀ (execFabricStop group status s lost) :=
  .next (h.controlStep (fun _ h1 => h1.takeStop))

theorem Keeps.takeDigest {group step digest : Nat} {parcels : List Nat} (h : Keeps s₀ s) :
    Keeps s₀ (takeDigest group step digest parcels s) := by
  unfold Machine.takeDigest
  dsimp only
  split
  · exact h
  · split
    · exact h.updGroup.lockCompare.settleSpin
    · exact h.updGroup

theorem KeepsOut.execLockstepDigest {group step digest : Nat} {parcels : List Nat} (h : Keeps s₀ s) :
    KeepsOut s₀ (execLockstepDigest group step digest parcels s) :=
  .next (h.controlStep (fun _ h1 => h1.takeDigest))

/-! ### Field ports and control services -/

theorem KeepsOut.execPortLinkUp {port : Nat} (h : Keeps s₀ s) : KeepsOut s₀ (execPortLinkUp port s) :=
  .next (.ite h.updPort.emit.tick.tick.tick h)

theorem KeepsOut.execLldpTransmit {port : Nat} (h : Keeps s₀ s) : KeepsOut s₀ (execLldpTransmit port s) :=
  .next (.ite h.emit.tick.tick h)

theorem Keeps.dropFrame {port : Nat} (h : Keeps s₀ s) : Keeps s₀ (dropFrame s port) := h.updPort

theorem KeepsOut.execLldpduReceive {port : Nat} {pdu : Lldpdu} (h : Keeps s₀ s) :
    KeepsOut s₀ (execLldpduReceive port pdu s) :=
  .next (.ite h (.ite h.wakeIdle.dropFrame h.wakeIdle.updPort))

theorem Keeps.sendDecision {n : Nat} {f : DueFrame} {head : List Byte} (h : Keeps s₀ s) :
    Keeps s₀ (sendDecision s n f head) :=
  .ite h.updSvc.emit h.updSvc

theorem Keeps.safeNow {n cause : Nat} (h : Keeps s₀ s) : Keeps s₀ (safeNow s n cause) :=
  h.sendDecision.tick.raiseEvent

theorem Keeps.servicesLosePartner {p : Nat} (h : Keeps s₀ s) : Keeps s₀ (servicesLosePartner s p) := by
  refine h.foldl fun _ _ ht => ht.updSvc fun v hv => ?_
  split <;> exact hv

theorem Keeps.losePartner {p : Nat} (h : Keeps s₀ s) : Keeps s₀ (losePartner s p) :=
  .ite h h.updPort.emit.raiseEvent.servicesLosePartner

theorem KeepsOut.execLldpPartnerLoss {port : Nat} (h : Keeps s₀ s) : KeepsOut s₀ (execLldpPartnerLoss port s) :=
  .next (.ite h.losePartner h)

theorem KeepsOut.execPortLinkDown {port : Nat} (h : Keeps s₀ s) : KeepsOut s₀ (execPortLinkDown port s) :=
  .next h.updPort.losePartner

theorem KeepsOut.execSyncReceive {port : Nat} {offsetNs : ℤ} {timeNs : Nat} {fcsOk : Bool} (h : Keeps s₀ s) :
    KeepsOut s₀ (execSyncReceive port offsetNs timeNs s fcsOk) :=
  .next (.ite h (.ite h.wakeIdle.dropFrame h.wakeIdle.updPort))

theorem KeepsOut.execSyncTimeout {port : Nat} (h : Keeps s₀ s) : KeepsOut s₀ (execSyncTimeout port s) :=
  .next (.ite h.updPort h)

theorem Keeps.loseTime {n : Nat} (h : Keeps s₀ s) : Keeps s₀ (loseTime s n) := .ite h h.safeNow.updSvc

theorem KeepsOut.execHoldoverExpiry {port : Nat} (h : Keeps s₀ s) : KeepsOut s₀ (execHoldoverExpiry port s) :=
  .next (.ite (h.updPort.foldl (fun _ _ h1 => h1.loseTime)) h)

theorem Keeps.measLost {port : Nat} (h : Keeps s₀ s) : Keeps s₀ (measLost port s) := h.foldl (fun _ _ h1 => h1.updSvc)

theorem SvcOk.takeMeasurement {v : Service} (h : SvcOk v) (t : State) (f : RxFrame) :
    SvcOk (takeMeasurement t f v) := by
  unfold Machine.takeMeasurement
  split
  · exact h
  · exact memWf_writeN h _ _

theorem KeepsOut.execMeasurement {port : Nat} {frame : RxFrame} (h : Keeps s₀ s) :
    KeepsOut s₀ (execMeasurement port frame s) := by
  unfold Machine.execMeasurement
  extract_lets s0
  have h0 : Keeps s₀ s0 := h.wakeIdle
  refine .next (.ite h (.ite h0 (.ite h0.dropFrame (.ite h0 ?_))))
  split
  · exact h0.measLost
  · exact h0.updSvc fun v hv => hv.takeMeasurement s frame

theorem Keeps.portStop {c : Nat} {x : Stop} (h : Keeps s₀ s) : Keeps s₀ (portStop s c x) := by
  unfold Machine.portStop
  split
  · exact h.deviceUe
  · exact h

theorem Keeps.postEntry {n : Nat} (h : Keeps s₀ s) : Keeps s₀ (postEntry s n).1 := by
  unfold Machine.postEntry
  extract_lets v c q log prod cons m blk s1 s2 s3
  have h3 : Keeps s₀ s3 := h.vaWrite.vaWrite.vaWrite
  split
  · exact h.portStop
  · split
    · exact h
    · split
      · exact h.portStop
      · exact h3.updSvc

theorem SvcOk.partnerBack {v : Service} (h : SvcOk v) (t : State) : SvcOk (partnerBack t v) := by
  unfold Machine.partnerBack
  split
  · exact h
  · split
    · exact h
    · split <;> exact h

theorem KeepsOut.execServiceInstant {svc : Nat} (h : Keeps s₀ s) : KeepsOut s₀ (execServiceInstant svc s) := by
  unfold Machine.execServiceInstant
  extract_lets s1 v p
  have h1 : Keeps s₀ s1 := h.updSvc fun _ hv => hv.partnerBack s
  have hp : Keeps s₀ p.1 := by
    unfold p
    split
    · exact h1.postEntry
    · exact h1
  exact .next (.ite h hp.updSvc)

theorem Keeps.missInstant {n : Nat} (h : Keeps s₀ s) : Keeps s₀ (missInstant s n) := .ite h.updSvc.raiseEvent h.updSvc

theorem Keeps.decideInstant {n : Nat} (h : Keeps s₀ s) : Keeps s₀ (decideInstant s n) := h.updSvc

theorem SvcOk.countLate {v : Service} (h : SvcOk v) (n : Nat) : SvcOk (countLate n v) := h

theorem Keeps.judgeInstant {n : Nat} (h : Keeps s₀ s) : Keeps s₀ (judgeInstant s n) := by
  unfold Machine.judgeInstant
  extract_lets v rise step s1
  have h1 : Keeps s₀ s1 := h.updSvc fun _ hv => hv.countLate _
  split
  · exact h.portStop.missInstant
  · split
    · split
      · exact h1.portStop.missInstant
      · exact h1.decideInstant
    · exact h1.missInstant

theorem KeepsOut.execDecisionRead {svc : Nat} (h : Keeps s₀ s) : KeepsOut s₀ (execDecisionRead svc s) :=
  .next (.ite h (.ite h.updSvc (.ite h.updSvc.judgeInstant (.ite h.updSvc.updSvc (.ite h.updSvc.updSvc h.updSvc)))))

theorem Keeps.transmitDue {n : Nat} (h : Keeps s₀ s) : Keeps s₀ (transmitDue s n) := by
  unfold Machine.transmitDue
  dsimp only
  split
  · exact h
  · split
    · exact (Keeps.ite h h.sendDecision.raiseEvent).updSvc
    · split
      · exact h
      · exact .ite h.sendDecision.updSvc.raiseEvent h.sendDecision.updSvc

theorem KeepsOut.execDecisionTransmit {svc : Nat} (h : Keeps s₀ s) : KeepsOut s₀ (execDecisionTransmit svc s) :=
  .next (h.foldl (fun _ _ h1 => h1.transmitDue))

theorem Keeps.svcReason {n : Nat} {st : Status} (h : Keeps s₀ s) : Keeps s₀ (svcReason s n st) := h.updSvc

theorem Keeps.svcStopped {n : Nat} {x : Stop} (h : Keeps s₀ s) : Keeps s₀ (svcStopped s n x) := h.portStop.svcReason

theorem Keeps.finishStart {n : Nat} {b : List Byte} {a : Admission} {now : Nat} (h : Keeps s₀ s) :
    Keeps s₀ (finishStart s n b a now) := by
  unfold Machine.finishStart
  dsimp only
  split
  · exact h.svcStopped
  · split
    · exact h.svcReason
    · split
      · exact h.svcStopped
      · exact h.updSvc

theorem Keeps.startService {n now : Nat} (h : Keeps s₀ s) : Keeps s₀ (startService s n now) := by
  unfold Machine.startService
  dsimp only
  split
  · exact h
  · split
    · exact h.svcReason
    · split
      · exact h.svcStopped
      · split
        · exact h.svcReason
        · exact .ite h.svcReason (.ite h.svcReason (.ite h.writeAdmission.finishStart
          h.writeAdmission.ueOf.svcReason))

theorem Keeps.stopService {n : Nat} (h : Keeps s₀ s) : Keeps s₀ (stopService s n) := .ite h h.updSvc

theorem Keeps.resumeService {n : Nat} (h : Keeps s₀ s) : Keeps s₀ (resumeService s n) := .ite h.updSvc h

theorem KeepsOut.execSvcStart {svc timeNs : Nat} (h : Keeps s₀ s) : KeepsOut s₀ (execSvcStart svc timeNs s) :=
  .next (.ite h.wakeChip.startService h)

theorem KeepsOut.execSvcStop {svc : Nat} (h : Keeps s₀ s) : KeepsOut s₀ (execSvcStop svc s) :=
  .next (.ite h.wakeChip.stopService h)

theorem KeepsOut.execSvcResume {svc : Nat} (h : Keeps s₀ s) : KeepsOut s₀ (execSvcResume svc s) :=
  .next (.ite h.wakeChip.resumeService h)

/-- The boot part replaced by one whose configuration block has the canonical form. -/
theorem Keeps.setBoot {b : Boot} (h : Keeps s₀ s) (hb : Canonical s → memWf b.cfg = true) :
    Keeps s₀ { s with boot := b } :=
  h.update fun k => { k with bootCfg := hb k }

/-! ### Bring-up and the wide resets -/

theorem Keeps.readFlash (h : Keeps s₀ s) : Keeps s₀ (readFlash s) := by
  unfold Machine.readFlash
  extract_lets src s0 s1 s2 s3 c cap t power boot fab
  have h1 : Keeps s₀ s1 := h.frame.logEvent
  have h2 : Keeps s₀ s2 := .ite h1 h1.logEvent
  have h3 : Keeps s₀ s3 := .ite h2 h2.logEvent
  have hm : memWf (memWriteN [] 0 (cfgBytes s3)) = true := memWf_writeN memWf_nil ..
  generalize memWriteN [] 0 (cfgBytes s3) = m at hm ⊢
  have hb : Keeps s₀ { s3 with boot := { s3.boot with cfg := m } } := h3.setBoot fun _ => hm
  clear_value s3
  exact hb.frame

theorem Keeps.logDisagree {u : Nat × Nat} (h : Keeps s₀ s) : Keeps s₀ (logDisagree s u) := h.logEvent.frame

theorem Keeps.logUnsigned {d : Nat} (h : Keeps s₀ s) : Keeps s₀ (logUnsigned s d) := h.logEvent.frame

theorem Keeps.logFailures {f : BringUp} (h : Keeps s₀ s) : Keeps s₀ (logFailures s f) := by
  unfold Machine.logFailures
  extract_lets us ds s1
  have h1 : Keeps s₀ s1 := (h.foldl (fun _ _ h2 => h2.logDisagree)).foldl fun _ _ h2 => h2.logUnsigned
  exact .ite h1 h1.raiseEvent

theorem coreOk_mapCores {s : State} : ∀ p, p ∈ mapCores s → CoreOk p.2 := by
  intro p hp
  obtain ⟨_, _, rfl⟩ := List.mem_map.1 hp
  exact memWf_nil

/-- The cores replaced by cores whose stores have the canonical form. -/
theorem Keeps.setCores {t : Tab Core} (h : Keeps s₀ s) (ht : Canonical s → ∀ p, p ∈ t → CoreOk p.2) :
    Keeps s₀ { s with cores := t } :=
  h.update fun k => { k with cores := ht k }

theorem Keeps.formMap {f : BringUp} (h : Keeps s₀ s) : Keeps s₀ (formMap s f) := by
  unfold Machine.formMap
  extract_lets good en src b s1 src
  have h1 : Keeps s₀ s1 := h.frame
  exact (h1.setCores (t := Machine.mapCores s1) fun _ => coreOk_mapCores).frame

theorem Keeps.formFar {f : BringUp} (h : Keeps s₀ s) : Keeps s₀ (formFar s f) :=
  ((h.foldl (fun _ _ h1 => h1.logEvent)).foldl (fun _ _ h1 => h1.logEvent)).frame

theorem Keeps.formNear {f : BringUp} (h : Keeps s₀ s) : Keeps s₀ (formNear s f) :=
  (h.foldl (fun _ _ h1 => h1.logEvent)).frame

theorem Keeps.bringUnits {found : BringUp} (h : Keeps s₀ s) : Keeps s₀ (bringUnits s found) := by
  unfold Machine.bringUnits
  extract_lets f s1 s2 boot
  have h2 : Keeps s₀ s2 := h.logFailures.formMap.formNear.formFar
  clear_value s2
  exact h2.frame

theorem services_blank : ∀ v, v ∈ List.replicate 8 ({} : Service) → SvcOk v := by
  intro v hv
  rw [List.eq_of_mem_replicate hv]
  exact memWf_nil

theorem Keeps.blankState {b : Boot} {r : Rng} {m : Mgmt} (h : Keeps s₀ s) (hb : Canonical s → memWf b.cfg = true)
    (hm : memWf m.update.buffer = true := by exact memWf_nil) : Keeps s₀ (blankState s b r m) :=
  h.update fun k =>
    { near := memWf_nil
      far := memWf_nil
      host := k.host
      msixTable := memWf_nil
      flash := k.flash
      bootCfg := hb k
      update := hm
      services := services_blank
      cores := by simp [Machine.blankState]
      ctxs := by simp [Machine.blankState] }

theorem Keeps.enterRecovery (h : Keeps s₀ s) : Keeps s₀ (enterRecovery s) := h.frame

theorem Keeps.bringUp {f : BringUp} (h : Keeps s₀ s) : Keeps s₀ (bringUp s f) := by
  unfold Machine.bringUp
  extract_lets b s1
  have h1 : Keeps s₀ s1 := h.readFlash
  clear_value s1
  exact .ite h (.ite h.frame (.ite h1.enterRecovery (.ite h1.frame h1.bringUnits)))

theorem KeepsOut.execColdReset {found : BringUp} (h : Keeps s₀ s) : KeepsOut s₀ (execColdReset found s) := by
  have hb : Keeps s₀ (blankState s (coldBoot s found) {} {}) := h.blankState fun _ => memWf_nil
  exact .next (.ite h hb.bringUp)

theorem KeepsOut.execBootDone (h : Keeps s₀ s) : KeepsOut s₀ (execBootDone s) := .next (.ite h.frame h)

theorem KeepsOut.execPerstRelease (h : Keeps s₀ s) : KeepsOut s₀ (execPerstRelease s) := .next (.ite h.frame h.frame)

theorem Keeps.retireFromMap {u : Nat × Nat} (h : Keeps s₀ s) : Keeps s₀ (retireFromMap s u) := .ite h h.leaveService

theorem memWf_dropStacks {m : Memory} (h : memWf m = true) (s : State) (ks : List Nat) :
    memWf (dropStacks s ks m) = true :=
  memWfFrom_filter _ h

theorem Keeps.retainMap (h : Keeps s₀ s) : Keeps s₀ (retainMap s) := by
  unfold Machine.retainMap
  extract_lets us s1 dark out links new moved src b s2 src
  have h1 : Keeps s₀ s1 := h.foldl fun _ _ ht => ht.retireFromMap
  have h2 : Keeps s₀ s2 := h1.frame
  have h3 : Keeps s₀ { s2 with near := dropStacks s2 moved s2.near } := h2.setNear fun k => memWf_dropStacks k.near
    s2 moved
  exact (h3.setCores (t := Machine.mapCores s2) fun _ => coreOk_mapCores).frame

theorem Keeps.selfRefresh {t : State} (h : Keeps s₀ s) (h' : Keeps s₀ t) : Keeps s₀ (selfRefresh s t) := by
  refine ⟨h'.pending, h'.fuses, fun k => ?_⟩
  have ks : Canonical s := h.canonical k
  exact { h'.canonical k with near := ks.near, far := ks.far }

theorem Keeps.warmUp {f : BringUp} (h : Keeps s₀ s) : Keeps s₀ (warmUp s f) := by
  unfold Machine.warmUp
  extract_lets s0 s1 kept
  have h0 : Keeps s₀ s0 := h.blankState fun k => k.bootCfg
  have h1 : Keeps s₀ s1 := h0.readFlash
  have hk : Keeps s₀ kept := h.selfRefresh h1
  clear_value kept s1 s0
  exact .ite (h.selfRefresh h0) (.ite hk.enterRecovery (.ite hk.frame (.ite hk.retainMap h1.bringUnits)))

theorem KeepsOut.execWarmReset {found : BringUp} (h : Keeps s₀ s) : KeepsOut s₀ (execWarmReset found s) :=
  .next (.ite h.frame h.warmUp)

theorem Keeps.flrGroup {n : Nat} (h : Keeps s₀ s) : Keeps s₀ (flrGroup s n) := .ite h h.sendStop

theorem Keeps.setServices {l : List Service} (h : Keeps s₀ s) (hl : Canonical s → ∀ v, v ∈ l → SvcOk v) :
    Keeps s₀ { s with services := l } :=
  h.update fun k => { k with services := hl k }

theorem Keeps.dropCtxs (h : Keeps s₀ s) : Keeps s₀ { s with ctxs := [] } :=
  h.update fun k => { k with ctxs := by simp }

theorem Keeps.setMsixTable {m : Memory} (h : Keeps s₀ s) (hm : Canonical s → memWf m = true) :
    Keeps s₀ { s with msixTable := m } :=
  h.update fun k => { k with msixTable := hm k }

theorem Keeps.flrState (h : Keeps s₀ s) : Keeps s₀ (flrState s) := by
  unfold Machine.flrState
  extract_lets s0 power boot rng fab mgmt s1
  have h0 : Keeps s₀ s0 := h.foldl fun _ _ ht => ht.flrGroup
  have h1 : Keeps s₀ s1 := by
    clear_value s0
    have hc : Keeps s₀ { s0 with ctxs := [], services := List.replicate 8 {}, msixTable := [] } :=
      (h0.dropCtxs.setServices fun _ => services_blank).setMsixTable fun _ => memWf_nil
    exact (hc.mapCores (f := fun p => (p.1, flrCore p.2)) fun _ _ => memWf_nil).frame
  exact h1.foldl fun _ _ ht => ht.leaveService

theorem KeepsOut.execFlr (h : Keeps s₀ s) : KeepsOut s₀ (execFlr s) :=
  .next (.ite ((Keeps.ite h h.wakeFully).flrState) h)

theorem KeepsOut.execAonRstNAssert (h : Keeps s₀ s) : KeepsOut s₀ (execAonRstNAssert s) :=
  .next (h.blankState fun _ => memWf_nil)

theorem KeepsOut.execRailFailure (h : Keeps s₀ s) : KeepsOut s₀ (execRailFailure s) :=
  .next (.ite h (h.blankState fun _ => memWf_nil))

theorem KeepsOut.execD3cold (h : Keeps s₀ s) : KeepsOut s₀ (execD3cold s) := .next (h.blankState fun _ => memWf_nil)

/-! ### Unit resets, power and survey passes -/

theorem Keeps.rstReason {st : Status} (h : Keeps s₀ s) : Keeps s₀ (rstReason s st) := h.frame

theorem Keeps.rstTake {core : Nat} (h : Keeps s₀ s) : Keeps s₀ (rstTake s core) := h.frame

theorem Keeps.dropSeed {k : RunKey} (h : Keeps s₀ s) : Keeps s₀ (dropSeed s k) := h.frame.updRun

theorem Keeps.startCoreReset {core : Nat} (h : Keeps s₀ s) : Keeps s₀ (startCoreReset s core) := by
  unfold Machine.startCoreReset
  dsimp only
  split
  · exact h
  · split
    · exact h.rstReason
    · split
      · exact h.rstTake.updCore
      · exact h.rstTake.updCore.dropSeed.endRunWith

theorem Keeps.startEngineReset {core : Nat} {units : BitVec 4} (h : Keeps s₀ s) :
    Keeps s₀ (startEngineReset s core units) :=
  .ite h (.ite h.rstReason (.ite h.rstReason (h.rstTake.foldl (fun _ _ h1 => h1.startUnitReset))))

theorem KeepsOut.execCoreReset {core : Nat} (h : Keeps s₀ s) : KeepsOut s₀ (execCoreReset core s) :=
  .next (.ite h.wakeChip.startCoreReset h)

theorem KeepsOut.execEngineReset {core : Nat} {units : BitVec 4} (h : Keeps s₀ s) :
    KeepsOut s₀ (execEngineReset core units s) :=
  .next (.ite h.wakeChip.startEngineReset h)

theorem WorkOk.flushUnit {w : Work} (h : WorkOk w) (fuel : Nat) (u : EngineUnit) (st : Status) :
    WorkOk (flushUnit fuel u st w) := by
  induction fuel generalizing w with
  | zero => exact h
  | succ k ih =>
    simp only [Machine.flushUnit]
    split
    · exact h
    · exact ih (h.completeHead u _ st)

theorem CoreOk.loseUnitState {c : Core} (h : CoreOk c) (u : EngineUnit) : CoreOk (loseUnitState u c) := by
  cases u <;> exact h

theorem Keeps.resetUnit {core : Nat} {u : EngineUnit} (h : Keeps s₀ s) : Keeps s₀ (resetUnit core s u) := by
  unfold Machine.resetUnit
  extract_lets s1
  have h1 : Keeps s₀ s1 := by
    unfold s1
    split
    · exact .ite h.abortSpin h
    · exact .ite h.setAnnealResults h
    · exact h
  refine h1.updCore fun c hc => ?_
  extract_lets c1
  have hc1 : CoreOk c1 := by
    unfold c1
    split
    · exact hc
    · exact hc.lastStatus u stUnitReset
  have hw : CoreOk { c1 with work := flushUnit 17 u stUnitReset c1.work } := WorkOk.flushUnit hc1 17 u stUnitReset
  exact hw.loseUnitState u

theorem Keeps.endQuiesce {core : Nat} (h : Keeps s₀ s) : Keeps s₀ (endQuiesce s core) := by
  unfold Machine.endQuiesce
  extract_lets c s1
  have hr : Keeps s₀ (State.updCore { s with badLines := withoutStore core s.badLines } core resetCore) :=
    h.frame.updCore fun _ _ => memWf_nil
  have h1 : Keeps s₀ s1 := .ite hr (Keeps.foldl h fun _ _ ht => ht.resetUnit).updCore
  exact .ite h h1.frame

theorem KeepsOut.execQuiesceEnd {core : Nat} (h : Keeps s₀ s) : KeepsOut s₀ (execQuiesceEnd core s) :=
  .next h.endQuiesce

theorem Keeps.writeCap {w : Nat} (h : Keeps s₀ s) : Keeps s₀ (writeCap s w) := h.frame

theorem KeepsOut.execCapW {watts : Nat} (h : Keeps s₀ s) : KeepsOut s₀ (execCapW watts s) :=
  .next (.ite h.wakeChip.writeCap h)

theorem KeepsOut.execCreditPeriod (h : Keeps s₀ s) : KeepsOut s₀ (execCreditPeriod s) := .next (.ite h h.frame.frame)

theorem Keeps.thermalBroken {d : Nat} (h : Keeps s₀ s) : Keeps s₀ (thermalBroken d s) :=
  h.foldl fun _ _ h1 => h1.timingBroken

theorem Keeps.readDie {d t : Nat} (h : Keeps s₀ s) : Keeps s₀ (readDie s d t) :=
  .ite ((Keeps.ite h.frame.logEvent.raiseEvent h.frame).thermalBroken) (.ite h.frame.logEvent.raiseEvent h.frame)

theorem Keeps.thermTrip {d : Nat} (h : Keeps s₀ s) : Keeps s₀ (thermTrip s d) := h.logEvent.frame

theorem KeepsOut.execThermalSensorRead {dies : List Nat} (h : Keeps s₀ s) :
    KeepsOut s₀ (execThermalSensorRead dies s) := by
  unfold Machine.execThermalSensorRead
  dsimp only
  refine .next ?_
  split
  · exact h
  · split
    · exact (h.foldl (fun _ _ h1 => h1.readDie)).thermTrip
    · exact h.foldl fun _ _ h1 => h1.readDie

theorem KeepsOut.execThrottleStep {die : Nat} (h : Keeps s₀ s) : KeepsOut s₀ (execThrottleStep die s) :=
  .next (.ite h (.ite h.frame (.ite h.frame h)))

theorem KeepsOut.execCoreRetain {core : Nat} (h : Keeps s₀ s) : KeepsOut s₀ (execCoreRetain core s) :=
  .next (.ite h.updCore h)

theorem KeepsOut.execCoreOff {core : Nat} (h : Keeps s₀ s) : KeepsOut s₀ (execCoreOff core s) :=
  .next (.ite (h.frame.updCore fun _ _ => memWf_nil) h)

theorem Keeps.sleepUe {n : Nat} (h : Keeps s₀ s) : Keeps s₀ (sleepUe s n) := by
  unfold Machine.sleepUe
  split
  · exact h
  · split
    · exact h
    · exact h.memUe
    · exact h.deviceUe

theorem CoreOk.sleepCore {c : Core} (h : CoreOk c) (s : State) : CoreOk (sleepCore s c) := by
  unfold Machine.sleepCore
  split
  · split <;> exact h
  · exact memWf_nil

theorem Keeps.enterDeep {chip : Nat} (h : Keeps s₀ s) : Keeps s₀ (enterDeep s chip) := by
  unfold Machine.enterDeep
  extract_lets s1 power boot
  have h1 : Keeps s₀ s1 := h.foldl fun _ _ ht => ht.sleepUe
  exact (h1.mapCores (f := fun p => (p.1, Machine.sleepCore s1 p.2)) fun _ hp => hp.sleepCore s1).frame

theorem Keeps.writeDeepIdle {bit : Bool} (h : Keeps s₀ s) : Keeps s₀ (writeDeepIdle s bit) :=
  .ite h.frame.enterDeep h.frame

theorem KeepsOut.execDeepIdle {bit : Bool} (h : Keeps s₀ s) : KeepsOut s₀ (execDeepIdle bit s) :=
  .next (.ite h.wakeChip.writeDeepIdle h)

theorem KeepsOut.execChipIdle (h : Keeps s₀ s) : KeepsOut s₀ (execChipIdle s) :=
  .next (.ite h (.ite h.enterDeep h.frame))

theorem KeepsOut.execChipWake (h : Keeps s₀ s) : KeepsOut s₀ (execChipWake s) := .next h.wakeChip

theorem Keeps.sleepService {n : Nat} (h : Keeps s₀ s) : Keeps s₀ (sleepService s n) := .ite h h.safeNow.updSvc

theorem Keeps.sleepTimed (h : Keeps s₀ s) : Keeps s₀ (sleepTimed s) := h.foldl (fun _ _ h1 => h1.timingBroken)

theorem KeepsOut.execD3hot (h : Keeps s₀ s) : KeepsOut s₀ (execD3hot s) := by
  unfold Machine.execD3hot
  extract_lets s1 s2
  have h2 : Keeps s₀ s2 := (h.sleepTimed.foldl fun _ _ ht => ht.sleepService).enterDeep
  clear_value s2
  exact .next (.ite h h2.frame)

theorem KeepsOut.execD0 (h : Keeps s₀ s) : KeepsOut s₀ (execD0 s) := .next (.ite h.frame.wakeFully h)

theorem KeepsOut.execSurveyRound (h : Keeps s₀ s) : KeepsOut s₀ (execSurveyRound s) :=
  .next (.ite h.frame.beginTest h)

theorem Keeps.endTest (h : Keeps s₀ s) : Keeps s₀ (endTest s) := by
  unfold Machine.endTest
  extract_lets s1 power
  have h1 : Keeps s₀ s1 := by
    unfold s1
    split
    · exact h
    · exact h.updCore
  exact h1.frame.beginTest

theorem KeepsOut.execSurveyTestComplete {core : Nat} {pass : Bool} (h : Keeps s₀ s) :
    KeepsOut s₀ (execSurveyTestComplete core pass s) := by
  unfold Machine.execSurveyTestComplete
  dsimp only
  refine .next ?_
  split
  · exact h
  · exact .ite h (.ite h.endTest h.endTest.logEvent.retireUnit)

/-! ### Identity, security and management -/

theorem Keeps.spdmSay {p : SpdmPort} {code : Nat} {data : List Byte} (h : Keeps s₀ s) :
    Keeps s₀ (spdmSay s p code data) :=
  h.emit

theorem Keeps.spdmOpen {p : SpdmPort} {stage : Nat} {old request : List Byte} {code : Nat} {data : List Byte}
    (h : Keeps s₀ s) : Keeps s₀ (spdmOpen s p stage old request code data) :=
  h.setConn.spdmSay

theorem Keeps.spdmCerts {p : SpdmPort} {request : List Byte} {code : Nat} {data : List Byte} (h : Keeps s₀ s) :
    Keeps s₀ (spdmCerts s p request code data) :=
  h.setConn.spdmSay

theorem Keeps.spdmMeas {p : SpdmPort} {request data : List Byte} (h : Keeps s₀ s) :
    Keeps s₀ (spdmMeas s p request data) :=
  h.setConn.spdmSay

theorem Keeps.spdmError {p : SpdmPort} {code : Byte} (h : Keeps s₀ s) : Keeps s₀ (spdmError s p code) := h.spdmSay

theorem Keeps.spdmRequest {p : SpdmPort} {stage : Nat} {body : State} (h : Keeps s₀ s) (h' : Keeps s₀ body) :
    Keeps s₀ (spdmRequest s p stage body) :=
  .ite h (.ite h.spdmError (.ite h.spdmError h'))

theorem KeepsOut.execGetVersion {port : SpdmPort} {code : Nat} (h : Keeps s₀ s) :
    KeepsOut s₀ (execGetVersion port s code) :=
  .next (h.spdmRequest (.ite h.spdmOpen h.spdmError))

theorem KeepsOut.execGetCapabilities {port : SpdmPort} {rest : List Byte} (h : Keeps s₀ s) :
    KeepsOut s₀ (execGetCapabilities port s rest) :=
  .next (h.spdmRequest h.spdmOpen)

theorem KeepsOut.execNegotiateAlgorithms {port : SpdmPort} {rest : List Byte} (h : Keeps s₀ s) :
    KeepsOut s₀ (execNegotiateAlgorithms port s rest) :=
  .next (h.spdmRequest h.spdmOpen)

theorem KeepsOut.execGetDigests {port : SpdmPort} (h : Keeps s₀ s) : KeepsOut s₀ (execGetDigests port s) :=
  .next (h.spdmRequest h.spdmCerts)

theorem KeepsOut.execGetCertificate {port : SpdmPort} {slot offset length : Nat} (h : Keeps s₀ s) :
    KeepsOut s₀ (execGetCertificate port slot offset length s) :=
  .next (h.spdmRequest (.ite h.spdmError (.ite h.spdmError h.spdmCerts)))

theorem Keeps.spdmSign {p : SpdmPort} {kind : Nat} {asked body : List Byte} (h : Keeps s₀ s) :
    Keeps s₀ (spdmSign s p kind asked body) :=
  h.setConn.requestNoise

theorem KeepsOut.execChallenge {port : SpdmPort} {slot : Nat} {nonce : List Byte} (h : Keeps s₀ s) :
    KeepsOut s₀ (execChallenge port slot nonce s) :=
  .next (h.spdmRequest (.ite h.spdmError h.spdmSign))

theorem KeepsOut.execGetMeasurements {port : SpdmPort} {index : Nat} {signed : Bool} {nonce : List Byte}
    (h : Keeps s₀ s) : KeepsOut s₀ (execGetMeasurements port index signed nonce s) := by
  unfold Machine.execGetMeasurements
  refine .next ?_
  refine h.spdmRequest ?_
  split
  · exact h.spdmError
  · exact .ite h.spdmSign h.spdmMeas

theorem KeepsOut.execSetEndpointId {eid type : Nat} (h : Keeps s₀ s) : KeepsOut s₀ (execSetEndpointId eid s type) :=
  .next (.ite h.frame h)

theorem KeepsOut.execDynamicAddress {address : Nat} (h : Keeps s₀ s) : KeepsOut s₀ (execDynamicAddress address s) :=
  .next (.ite h.frame h)

theorem Keeps.refreshSensors {temps stackTemps : List Nat} {powerW : Nat} (h : Keeps s₀ s) :
    Keeps s₀ (refreshSensors s temps stackTemps powerW) :=
  .ite h h.frame

theorem Keeps.pldmSay {code : Nat} {data : List Byte} (h : Keeps s₀ s) : Keeps s₀ (pldmSay s code data) := h.emit

theorem Keeps.pldmRequest {health ready : Bool} {body : State} (h : Keeps s₀ s) (h' : Keeps s₀ body) :
    Keeps s₀ (pldmRequest s health ready body) :=
  .ite h (.ite h.pldmSay (.ite h.pldmSay h'))

theorem Keeps.pldmAnswer {a : PldmAsk} (h : Keeps s₀ s) : Keeps s₀ (pldmAnswer s a) := by
  unfold Machine.pldmAnswer
  split
  · exact h.pldmRequest h.frame.pldmSay
  · exact h.pldmRequest h.pldmSay
  · exact h.pldmRequest h.pldmSay
  · exact h.pldmRequest (.ite h.tick.pldmSay h.pldmSay)
  · exact h.pldmRequest (.ite h.pldmSay h.pldmSay)
  · refine h.pldmRequest ?_
    split
    · exact h.pldmSay
    · split
      · exact h.pldmSay
      · exact h.pldmSay
  · exact h.pldmRequest (.ite h.pldmSay h.pldmSay)

theorem KeepsOut.execSensorRefresh {temps stackTemps : List Nat} {powerW : Nat} {ask : Option PldmAsk}
    (h : Keeps s₀ s) : KeepsOut s₀ (execSensorRefresh temps stackTemps powerW s ask) := by
  unfold Machine.execSensorRefresh
  refine .next ?_
  split
  · exact h.refreshSensors
  · exact h.pldmAnswer

theorem KeepsOut.execGetEventLog {first count : Nat} (h : Keeps s₀ s) : KeepsOut s₀ (execGetEventLog first count s) :=
  .next (h.pldmRequest (.ite h.pldmSay h.pldmSay))

theorem KeepsOut.execGetRetirementTable {first count : Nat} (h : Keeps s₀ s) :
    KeepsOut s₀ (execGetRetirementTable first count s) :=
  .next (h.pldmRequest (.ite h.pldmSay h.pldmSay))

theorem Keeps.writeTap {rawTap : Bool} {source : Nat} (h : Keeps s₀ s) : Keeps s₀ (writeTap s rawTap source) :=
  .ite h.setTapSrc.enterRawTap h.setTapSrc.exitRawTap

theorem KeepsOut.execSetRawTap {rawTap : Bool} {source : Nat} (h : Keeps s₀ s) :
    KeepsOut s₀ (execSetRawTap rawTap source s) :=
  .next (h.pldmRequest (.ite h.pldmSay h.writeTap.pldmSay))

theorem Keeps.rawReads {n : Nat} (h : Keeps s₀ s) : Keeps s₀ (rawReads s n).1 := by
  induction n generalizing s with
  | zero => exact h
  | succ k ih => exact ih h.readRngRaw

theorem KeepsOut.execReadRawSamples {reads : Nat} (h : Keeps s₀ s) : KeepsOut s₀ (execReadRawSamples reads s) :=
  .next (h.pldmRequest (.ite h.pldmSay h.rawReads.pldmSay))

theorem KeepsOut.execGetMap (h : Keeps s₀ s) : KeepsOut s₀ (execGetMap s) := .next (h.pldmRequest h.pldmSay)

theorem KeepsOut.execSetPowerCap {watts : Nat} (h : Keeps s₀ s) : KeepsOut s₀ (execSetPowerCap watts s) :=
  .next (h.pldmRequest (.ite h.pldmSay h.writeCap.pldmSay))

theorem KeepsOut.execGetBootStatus (h : Keeps s₀ s) : KeepsOut s₀ (execGetBootStatus s) :=
  .next (h.pldmRequest h.pldmSay)

theorem Keeps.setUpdate {u : Update} (h : Keeps s₀ s) (hu : Canonical s₀ → memWf u.buffer = true) :
    Keeps s₀ (State.setUpdate s u) :=
  ⟨h.pending, h.fuses, fun k => { h.canonical k with update := hu k }⟩

theorem Keeps.setFlash {f : Flash} (h : Keeps s₀ s) (hf : Canonical s → FlashOk f) : Keeps s₀ { s with flash := f } :=
  h.update fun k => { k with flash := hf k }

theorem Keeps.markEntry {component : Nat} {valid : Bool} (h : Keeps s₀ s) : Keeps s₀ (markEntry s component valid) :=
  h.setFlash fun k => by split <;> exact k.flash

theorem Keeps.openUpdate {owner component : Nat} (h : Keeps s₀ s) : Keeps s₀ (openUpdate s owner component) :=
  h.markEntry.setUpdate fun k => (h.canonical k).update

theorem FlashOk.region {f : Flash} (h : FlashOk f) (component : Nat) : memWf (f.region component) = true := by
  unfold Machine.Flash.region
  split
  · exact h.1
  · exact h.2

theorem FlashOk.setRegion {f : Flash} (h : FlashOk f) (component : Nat) {m : Memory} (hm : memWf m = true) :
    FlashOk (f.setRegion component m) := by
  unfold Machine.Flash.setRegion
  split
  · exact ⟨hm, h.2⟩
  · exact ⟨h.1, hm⟩

theorem memWf_eraseSector {m : Memory} (h : memWf m = true) (sector : Nat) : memWf (eraseSector m sector) = true :=
  memWf_writeN h _ _

theorem Keeps.programFlash {off : Nat} {bs : List Byte} (h : Keeps s₀ s) : Keeps s₀ (programFlash s off bs) := by
  unfold Machine.programFlash
  extract_lets u new m
  have hm (k : Canonical s) : memWf m = true :=
    memWf_writeN (memWf_foldl (fun _ n hr => memWf_eraseSector hr n) (k.flash.region _) new) off bs
  have h1 : Keeps s₀ { s with flash := s.flash.setRegion u.component m } :=
    h.setFlash fun k => k.flash.setRegion u.component (hm k)
  exact h1.setUpdate fun k => (h.canonical k).update

theorem Keeps.verifyUpdate (h : Keeps s₀ s) : Keeps s₀ (verifyUpdate s) := by
  unfold Machine.verifyUpdate
  extract_lets u img ok f s1
  have h1 : Keeps s₀ s1 := .ite (h.setFlash fun k => k.flash) h
  have hu (k : Canonical s₀) : memWf u.buffer = true := (h.canonical k).update
  exact .ite (h1.markEntry.setUpdate hu) (h1.setUpdate hu)

theorem Keeps.abortUpdate (h : Keeps s₀ s) : Keeps s₀ (abortUpdate s) := h.setUpdate fun k => (h.canonical k).update

theorem KeepsOut.execRequestUpdate {component : Nat} (h : Keeps s₀ s) : KeepsOut s₀ (execRequestUpdate component s) :=
  .next (h.pldmRequest (.ite h.pldmSay (.ite h.pldmSay h.openUpdate.pldmSay)))

theorem KeepsOut.execFirmwareTransfer {offset : Nat} {data : List Byte} (h : Keeps s₀ s) :
    KeepsOut s₀ (execFirmwareTransfer offset data s) :=
  .next (h.pldmRequest (.ite h.pldmSay (.ite h.pldmSay h.programFlash.pldmSay)))

theorem KeepsOut.execVerifyComplete (h : Keeps s₀ s) : KeepsOut s₀ (execVerifyComplete s) :=
  .next (h.pldmRequest (.ite h.pldmSay h.verifyUpdate.pldmSay))

theorem KeepsOut.execActivateFirmware (h : Keeps s₀ s) : KeepsOut s₀ (execActivateFirmware s) :=
  .next (h.pldmRequest h.pldmSay)

theorem KeepsOut.execUpdateAbort (h : Keeps s₀ s) : KeepsOut s₀ (execUpdateAbort s) :=
  .next (h.pldmRequest (.ite h.pldmSay h.abortUpdate.pldmSay))

theorem Keeps.recReason {st : Status} (h : Keeps s₀ s) :
    Keeps s₀ (recReason s st) := h.setUpdate fun k => (h.canonical k).update

theorem Keeps.recCommand {check : State → Option Status} {body : State → State} (h : Keeps s₀ s)
    (hk : ∀ t, Keeps s₀ t → Keeps s₀ (body t)) : Keeps s₀ (recCommand s check body) := by
  unfold Machine.recCommand
  dsimp only
  split
  · exact h
  · split
    · exact h.wakeChip.recReason
    · exact hk _ h.wakeChip.recReason

theorem Keeps.recOpenStep {component : Nat} (h : Keeps s₀ s) : Keeps s₀ (recOpenStep s component) :=
  h.recCommand fun _ h1 => h1.openUpdate

theorem Keeps.recWriteStep {length : Nat} (h : Keeps s₀ s) : Keeps s₀ (recWriteStep s length) :=
  h.recCommand fun _ h1 => h1.programFlash

theorem Keeps.recVerifyStep (h : Keeps s₀ s) : Keeps s₀ (recVerifyStep s) :=
  h.recCommand fun _ h1 => .ite h1.verifyUpdate.tick.recReason h1.verifyUpdate

theorem Keeps.recAbortStep (h : Keeps s₀ s) : Keeps s₀ (recAbortStep s) := h.recCommand (fun _ h1 => h1.abortUpdate)

theorem KeepsOut.execRecOpen {component : Nat} (h : Keeps s₀ s) : KeepsOut s₀ (execRecOpen component s) :=
  .next h.recOpenStep

theorem KeepsOut.execRecWrite {length : Nat} (h : Keeps s₀ s) : KeepsOut s₀ (execRecWrite length s) :=
  .next h.recWriteStep

theorem KeepsOut.execRecVerify (h : Keeps s₀ s) : KeepsOut s₀ (execRecVerify s) := .next h.recVerifyStep

theorem KeepsOut.execRecAbort (h : Keeps s₀ s) : KeepsOut s₀ (execRecAbort s) := .next h.recAbortStep

/-! ### Register writes and BAR4 -/

theorem Keeps.writeRecCtrl {v : Word} (h : Keeps s₀ s) : Keeps s₀ (writeRecCtrl s v) := by
  unfold Machine.writeRecCtrl
  split
  · exact h.recOpenStep
  · exact h.recWriteStep
  · exact h.recVerifyStep
  · exact h.recAbortStep
  · exact h

theorem Keeps.writeIdentity {off : Nat} {v : Word} (h : Keeps s₀ s) : Keeps s₀ (writeIdentity s off v) :=
  .ite h.writeRecCtrl (.ite (h.setUpdate fun k => (h.canonical k).update)
    (.ite (h.setUpdate fun k => memWf_store (h.canonical k).update _ _ _) h))

theorem Keeps.writePlotCmd {p : Nat} {v : Word} (h : Keeps s₀ s) : Keeps s₀ (writePlotCmd s p v) :=
  .ite h.configurePlot (.ite h.releasePlot (.ite h.reconfigurePlot h))

theorem Keeps.writePlotReg {p r : Nat} {v : Word} (h : Keeps s₀ s) : Keeps s₀ (writePlotReg s p r v) := by
  unfold Machine.writePlotReg
  dsimp only
  split
  · exact .ite h.setPlot h
  · exact .ite h.setPlot h
  · exact .ite h.setPlot h
  · exact h.setPlot
  · exact h.writePlotCmd
  · exact h

theorem Keeps.writeFrontEnd {off : Nat} {v : Word} (h : Keeps s₀ s) : Keeps s₀ (writeFrontEnd s off v) :=
  .ite (.ite h.frame h) (.ite (.ite h.frame h) (.ite (.ite h.frame h)
    (.ite h.frame (.ite h.frame (.ite h.writePlotReg h)))))

theorem Keeps.writeRngCtrl {v : Word} (h : Keeps s₀ s) : Keeps s₀ (writeRngCtrl s v) :=
  .ite h.writeTap.startReseed h.writeTap

theorem Keeps.writeRng {off : Nat} {v : Word} (h : Keeps s₀ s) : Keeps s₀ (writeRng s off v) :=
  .ite h.writeRngCtrl (.ite h.setRng h)

theorem Keeps.writePwrCtrl {v : Word} (h : Keeps s₀ s) : Keeps s₀ (writePwrCtrl s v) := h.frame.writeDeepIdle

theorem Keeps.writeRstUnit {v : Word} (h : Keeps s₀ s) : Keeps s₀ (writeRstUnit s v) :=
  .ite h.startCoreReset (.ite h.startEngineReset h)

theorem Keeps.writePower {off : Nat} {v : Word} (h : Keeps s₀ s) : Keeps s₀ (writePower s off v) :=
  .ite h.writeCap (.ite h.writePwrCtrl (.ite h.writeRstUnit (.ite h.frame (.ite h.frame h))))

theorem Keeps.writeGrpCmd {g : Nat} {v : Word} (h : Keeps s₀ s) : Keeps s₀ (writeGrpCmd s g v) := by
  unfold Machine.writeGrpCmd
  split
  · exact h.armGroup
  · exact h.planGroup
  · exact h.disbandGroup
  · exact h

theorem Keeps.writeGroupReg {g r : Nat} {v : Word} (h : Keeps s₀ s) : Keeps s₀ (writeGroupReg s g r v) :=
  .ite h.writeGrpCmd (.ite h h.updGroup)

theorem Keeps.writeFabric {off : Nat} {v : Word} (h : Keeps s₀ s) : Keeps s₀ (writeFabric s off v) :=
  .ite h.writeChipId (.ite h.frame (.ite (h.foldl (fun _ _ h1 => h1.retrainLink)) (.ite h.writeGroupReg h)))

theorem Keeps.writeSvcCmd {n : Nat} {v : Word} (h : Keeps s₀ s) : Keeps s₀ (writeSvcCmd s n v) := by
  unfold Machine.writeSvcCmd
  split
  · exact h.tick.startService
  · exact h.stopService
  · exact h.resumeService
  · exact h

theorem Keeps.writeSvcReg {n r : Nat} {v : Word} (h : Keeps s₀ s) : Keeps s₀ (writeSvcReg s n r v) :=
  .ite (.ite h.updSvc h) (.ite h.writeSvcCmd h)

theorem Keeps.writePorts {off : Nat} {v : Word} (h : Keeps s₀ s) : Keeps s₀ (writePorts s off v) :=
  .ite (.ite h.updPort h) (.ite h.writeSvcReg h)

theorem Keeps.writeCtxCtrl {c : Nat} {v : Word} (h : Keeps s₀ s) : Keeps s₀ (writeCtxCtrl s c v) := by
  unfold Machine.writeCtxCtrl
  extract_lets b s1 s2 s3 s4 s5
  have h1 : Keeps s₀ s1 := h.updCtx
  have h2 : Keeps s₀ s2 := h1.writePlot
  have h3 : Keeps s₀ s3 := h2.writeEnable
  have h4 : Keeps s₀ s4 := .ite h3.resetCtx h3
  have h5 : Keeps s₀ s5 := .ite h4.abortFaults h4
  exact .ite h5.resumeFault h5

theorem Keeps.writeInval {c : Nat} {v : Word} (h : Keeps s₀ s) : Keeps s₀ (writeInval s c v) :=
  .ite h.startInval h.startInval

theorem Keeps.writeRingCtrl {c r : Nat} {v : Word} (h : Keeps s₀ s) : Keeps s₀ (writeRingCtrl s c r v) := by
  unfold Machine.writeRingCtrl
  extract_lets s1 s2
  have h1 : Keeps s₀ s1 := .ite h.ringStop h
  have h2 : Keeps s₀ s2 := .ite h1.ringRetry h1
  exact .ite h2.ringStart h2

theorem Keeps.writeRingStatus {c r : Nat} {v : Word} (h : Keeps s₀ s) : Keeps s₀ (writeRingStatus s c r v) :=
  h.updRing.ringHead

theorem Keeps.writeRing {c r reg : Nat} {v : Word} (h : Keeps s₀ s) : Keeps s₀ (writeRing s c r reg v) := by
  unfold Machine.writeRing
  dsimp only
  split
  · exact .ite h h.updRing
  · exact .ite h h.updRing
  · exact .ite h h.updRing
  · exact .ite h h.updRing
  · exact h.writeRingCtrl
  · exact h.writeRingStatus
  · exact h

theorem CtxOk.writeAccount {x : Ctx} (h : CtxOk x) (r : Nat) (v : Word) : CtxOk (writeAccount x r v) := by
  unfold Machine.writeAccount
  split <;> exact h

theorem Keeps.writeCtx {c r : Nat} {v : Word} (h : Keeps s₀ s) : Keeps s₀ (writeCtx s c r v) := by
  unfold Machine.writeCtx
  split
  · exact h.writeRing
  · split
    · exact h.writeCtxCtrl
    · exact h.updCtx
    · exact h.updCtx
    · exact h.writeInval
    · exact .ite h.requestSnapshot h
    · exact h.updCtx
    · exact h.updCtx
    · exact h.updCtx
    · exact h.updCtx fun _ hx => hx.writeAccount r v

theorem Keeps.writeReg {off : Nat} {v : Word} (h : Keeps s₀ s) : Keeps s₀ (writeReg s off v) :=
  .ite h.writeIdentity (.ite h.writeFrontEnd (.ite h.writeRng
    (.ite h.writePower (.ite h.writeFabric (.ite h.writePorts (.ite h.msixWrite (.ite h.writeCtx h)))))))

theorem Keeps.barWrite {off size : Nat} {v : Word} (h : Keeps s₀ s) : Keeps s₀ (barWrite s off size v) :=
  .ite h (.ite h.frame h.writeReg)

theorem Keeps.configWrite {off : Nat} {v : Word} (h : Keeps s₀ s) : Keeps s₀ (configWrite s off v) :=
  .ite (.ite h.frame h) (.ite h.frame h)

theorem KeepsOut.execRegisterWrite {off size : Nat} {value : Word} (h : Keeps s₀ s) :
    KeepsOut s₀ (execRegisterWrite off size value s) :=
  .next (.ite h (.ite h.wakeChip.barWrite h.configWrite))

theorem Keeps.bar4Store {o : Nat} {b : Byte} (h : Keeps s₀ s) : Keeps s₀ (bar4Store s o b) := by
  unfold Machine.bar4Store
  split
  · exact h
  · exact h.setLevel fun k => memWf_write (k.levelMem _) _ _

theorem Keeps.bar4Read {off len : Nat} (h : Keeps s₀ s) : Keeps s₀ (bar4Read s off len) := h.emit.tick

theorem Keeps.bar4Write {off : Nat} {data : List Byte} (h : Keeps s₀ s) : Keeps s₀ (bar4Write s off data) :=
  h.foldl fun _ _ h1 => h1.bar4Store

theorem KeepsOut.execBar4Access {write : Bool} {off len : Nat} {data : List Byte} (h : Keeps s₀ s) :
    KeepsOut s₀ (execBar4Access write off len data s) :=
  .next (.ite (.ite h.wakeChip.bar4Write h.wakeChip.bar4Read) (.ite h.emit h))

theorem Keeps.rngWrite {f : State → State} (h : Keeps s₀ s) (hk : ∀ t, Keeps s₀ t → Keeps s₀ (f t)) :
    Keeps s₀ (rngWrite s f) :=
  .ite (hk _ h.wakeChip) h

theorem Keeps.rngReadReg {f : State → State × Word} (h : Keeps s₀ s) (hf : ∀ t, Keeps s₀ t → Keeps s₀ (f t).1) :
    Keeps s₀ (rngReadReg s f) :=
  .ite (hf _ h.wakeChip).emit (.ite h.emit h)

theorem KeepsOut.execReseed (h : Keeps s₀ s) : KeepsOut s₀ (execReseed s) :=
  .next (h.rngWrite (fun _ h1 => h1.startReseed))

theorem KeepsOut.execRawTapEnter (h : Keeps s₀ s) : KeepsOut s₀ (execRawTapEnter s) :=
  .next (h.rngWrite (fun _ h1 => h1.enterRawTap))

theorem KeepsOut.execRawTapExit (h : Keeps s₀ s) : KeepsOut s₀ (execRawTapExit s) :=
  .next (h.rngWrite (fun _ h1 => h1.exitRawTap))

theorem KeepsOut.execTapSrc {source : Nat} (h : Keeps s₀ s) : KeepsOut s₀ (execTapSrc source s) :=
  .next (h.rngWrite (fun _ h1 => h1.setTapSrc))

theorem KeepsOut.execRngData (h : Keeps s₀ s) : KeepsOut s₀ (execRngData s) := .next
    (h.rngReadReg fun _ ht => ht.readRngData)

theorem KeepsOut.execRngRaw (h : Keeps s₀ s) : KeepsOut s₀ (execRngRaw s) := .next
    (h.rngReadReg fun _ ht => ht.readRngRaw)

/-! ### Arithmetic instructions -/

theorem KeepsOut.execAdd {hart : Hart} {rd rs1 rs2 : BitVec 5} (h : Keeps s₀ s) :
    KeepsOut s₀ (execAdd hart rd rs1 rs2 s) :=
  .next h.aluStep

theorem KeepsOut.execSub {hart : Hart} {rd rs1 rs2 : BitVec 5} (h : Keeps s₀ s) :
    KeepsOut s₀ (execSub hart rd rs1 rs2 s) :=
  .next h.aluStep

theorem KeepsOut.execAnd {hart : Hart} {rd rs1 rs2 : BitVec 5} (h : Keeps s₀ s) :
    KeepsOut s₀ (execAnd hart rd rs1 rs2 s) :=
  .next h.aluStep

theorem KeepsOut.execOr {hart : Hart} {rd rs1 rs2 : BitVec 5} (h : Keeps s₀ s) :
    KeepsOut s₀ (execOr hart rd rs1 rs2 s) :=
  .next h.aluStep

theorem KeepsOut.execXor {hart : Hart} {rd rs1 rs2 : BitVec 5} (h : Keeps s₀ s) :
    KeepsOut s₀ (execXor hart rd rs1 rs2 s) :=
  .next h.aluStep

theorem KeepsOut.execShl {hart : Hart} {rd rs1 rs2 : BitVec 5} (h : Keeps s₀ s) :
    KeepsOut s₀ (execShl hart rd rs1 rs2 s) :=
  .next h.aluStep

theorem KeepsOut.execShr {hart : Hart} {rd rs1 rs2 : BitVec 5} (h : Keeps s₀ s) :
    KeepsOut s₀ (execShr hart rd rs1 rs2 s) :=
  .next h.aluStep

theorem KeepsOut.execSar {hart : Hart} {rd rs1 rs2 : BitVec 5} (h : Keeps s₀ s) :
    KeepsOut s₀ (execSar hart rd rs1 rs2 s) :=
  .next h.aluStep

theorem KeepsOut.execSlt {hart : Hart} {rd rs1 rs2 : BitVec 5} (h : Keeps s₀ s) :
    KeepsOut s₀ (execSlt hart rd rs1 rs2 s) :=
  .next h.aluStep

theorem KeepsOut.execSltu {hart : Hart} {rd rs1 rs2 : BitVec 5} (h : Keeps s₀ s) :
    KeepsOut s₀ (execSltu hart rd rs1 rs2 s) :=
  .next h.aluStep

theorem KeepsOut.execMul {hart : Hart} {rd rs1 rs2 : BitVec 5} (h : Keeps s₀ s) :
    KeepsOut s₀ (execMul hart rd rs1 rs2 s) :=
  .next h.aluStep

theorem KeepsOut.execMulh {hart : Hart} {rd rs1 rs2 : BitVec 5} (h : Keeps s₀ s) :
    KeepsOut s₀ (execMulh hart rd rs1 rs2 s) :=
  .next h.aluStep

theorem KeepsOut.execMulhu {hart : Hart} {rd rs1 rs2 : BitVec 5} (h : Keeps s₀ s) :
    KeepsOut s₀ (execMulhu hart rd rs1 rs2 s) :=
  .next h.aluStep

theorem KeepsOut.execDivu {hart : Hart} {rd rs1 rs2 : BitVec 5} (h : Keeps s₀ s) :
    KeepsOut s₀ (execDivu hart rd rs1 rs2 s) :=
  .next h.aluStep

theorem KeepsOut.execRemu {hart : Hart} {rd rs1 rs2 : BitVec 5} (h : Keeps s₀ s) :
    KeepsOut s₀ (execRemu hart rd rs1 rs2 s) :=
  .next h.aluStep

theorem KeepsOut.execMinu {hart : Hart} {rd rs1 rs2 : BitVec 5} (h : Keeps s₀ s) :
    KeepsOut s₀ (execMinu hart rd rs1 rs2 s) :=
  .next h.aluStep

theorem KeepsOut.execMaxu {hart : Hart} {rd rs1 rs2 : BitVec 5} (h : Keeps s₀ s) :
    KeepsOut s₀ (execMaxu hart rd rs1 rs2 s) :=
  .next h.aluStep

theorem KeepsOut.execPopc {hart : Hart} {rd rs1 : BitVec 5} (h : Keeps s₀ s) : KeepsOut s₀ (execPopc hart rd rs1 s) :=
  .next h.aluStep

theorem KeepsOut.execClz {hart : Hart} {rd rs1 : BitVec 5} (h : Keeps s₀ s) : KeepsOut s₀ (execClz hart rd rs1 s) :=
  .next h.aluStep

theorem KeepsOut.execAddi {hart : Hart} {rd rs1 : BitVec 5} {imm : BitVec 16} (h : Keeps s₀ s) :
    KeepsOut s₀ (execAddi hart rd rs1 imm s) :=
  .next h.aluStep

theorem KeepsOut.execAndi {hart : Hart} {rd rs1 : BitVec 5} {imm : BitVec 16} (h : Keeps s₀ s) :
    KeepsOut s₀ (execAndi hart rd rs1 imm s) :=
  .next h.aluStep

theorem KeepsOut.execOri {hart : Hart} {rd rs1 : BitVec 5} {imm : BitVec 16} (h : Keeps s₀ s) :
    KeepsOut s₀ (execOri hart rd rs1 imm s) :=
  .next h.aluStep

theorem KeepsOut.execXori {hart : Hart} {rd rs1 : BitVec 5} {imm : BitVec 16} (h : Keeps s₀ s) :
    KeepsOut s₀ (execXori hart rd rs1 imm s) :=
  .next h.aluStep

theorem KeepsOut.execShli {hart : Hart} {rd rs1 : BitVec 5} {sh : BitVec 6} (h : Keeps s₀ s) :
    KeepsOut s₀ (execShli hart rd rs1 sh s) :=
  .next h.aluStep

theorem KeepsOut.execShri {hart : Hart} {rd rs1 : BitVec 5} {sh : BitVec 6} (h : Keeps s₀ s) :
    KeepsOut s₀ (execShri hart rd rs1 sh s) :=
  .next h.aluStep

theorem KeepsOut.execSari {hart : Hart} {rd rs1 : BitVec 5} {sh : BitVec 6} (h : Keeps s₀ s) :
    KeepsOut s₀ (execSari hart rd rs1 sh s) :=
  .next h.aluStep

theorem KeepsOut.execSlti {hart : Hart} {rd rs1 : BitVec 5} {imm : BitVec 16} (h : Keeps s₀ s) :
    KeepsOut s₀ (execSlti hart rd rs1 imm s) :=
  .next h.aluStep

theorem KeepsOut.execSltiu {hart : Hart} {rd rs1 : BitVec 5} {imm : BitVec 16} (h : Keeps s₀ s) :
    KeepsOut s₀ (execSltiu hart rd rs1 imm s) :=
  .next h.aluStep

theorem KeepsOut.execLdk {hart : Hart} {rd : BitVec 5} {imm : BitVec 21} (h : Keeps s₀ s) :
    KeepsOut s₀ (execLdk hart rd imm s) :=
  .next h.aluStep

theorem KeepsOut.execApk {hart : Hart} {rd : BitVec 5} {imm : BitVec 16} (h : Keeps s₀ s) :
    KeepsOut s₀ (execApk hart rd imm s) :=
  .next h.aluStep

/-! ### Loads, stores, branches and jumps -/

theorem KeepsOut.execLdb {hart : Hart} {rd rs1 : BitVec 5} {imm : BitVec 16} (h : Keeps s₀ s) :
    KeepsOut s₀ (execLdb hart rd rs1 imm s) :=
  .next h.loadStep

theorem KeepsOut.execLdh {hart : Hart} {rd rs1 : BitVec 5} {imm : BitVec 16} (h : Keeps s₀ s) :
    KeepsOut s₀ (execLdh hart rd rs1 imm s) :=
  .next h.loadStep

theorem KeepsOut.execLdw {hart : Hart} {rd rs1 : BitVec 5} {imm : BitVec 16} (h : Keeps s₀ s) :
    KeepsOut s₀ (execLdw hart rd rs1 imm s) :=
  .next h.loadStep

theorem KeepsOut.execLdws {hart : Hart} {rd rs1 : BitVec 5} {imm : BitVec 16} (h : Keeps s₀ s) :
    KeepsOut s₀ (execLdws hart rd rs1 imm s) :=
  .next h.loadStep

theorem KeepsOut.execLdd {hart : Hart} {rd rs1 : BitVec 5} {imm : BitVec 16} (h : Keeps s₀ s) :
    KeepsOut s₀ (execLdd hart rd rs1 imm s) :=
  .next h.loadStep

theorem KeepsOut.execStb {hart : Hart} {rd rs1 : BitVec 5} {imm : BitVec 16} (h : Keeps s₀ s) :
    KeepsOut s₀ (execStb hart rd rs1 imm s) :=
  .next h.storeStep

theorem KeepsOut.execSth {hart : Hart} {rd rs1 : BitVec 5} {imm : BitVec 16} (h : Keeps s₀ s) :
    KeepsOut s₀ (execSth hart rd rs1 imm s) :=
  .next h.storeStep

theorem KeepsOut.execStw {hart : Hart} {rd rs1 : BitVec 5} {imm : BitVec 16} (h : Keeps s₀ s) :
    KeepsOut s₀ (execStw hart rd rs1 imm s) :=
  .next h.storeStep

theorem KeepsOut.execStd {hart : Hart} {rd rs1 : BitVec 5} {imm : BitVec 16} (h : Keeps s₀ s) :
    KeepsOut s₀ (execStd hart rd rs1 imm s) :=
  .next h.storeStep

theorem KeepsOut.execAmoadd {hart : Hart} {rd rs1 rs2 : BitVec 5} (h : Keeps s₀ s) :
    KeepsOut s₀ (execAmoadd hart rd rs1 rs2 s) :=
  .next (h.areaStep (fun _ _ => h.storeWrite.retireReg))

theorem KeepsOut.execBeq {hart : Hart} {rs1 rs2 : BitVec 5} {off : BitVec 16} (h : Keeps s₀ s) :
    KeepsOut s₀ (execBeq hart rs1 rs2 off s) :=
  .next h.branchStep

theorem KeepsOut.execBne {hart : Hart} {rs1 rs2 : BitVec 5} {off : BitVec 16} (h : Keeps s₀ s) :
    KeepsOut s₀ (execBne hart rs1 rs2 off s) :=
  .next h.branchStep

theorem KeepsOut.execBlt {hart : Hart} {rs1 rs2 : BitVec 5} {off : BitVec 16} (h : Keeps s₀ s) :
    KeepsOut s₀ (execBlt hart rs1 rs2 off s) :=
  .next h.branchStep

theorem KeepsOut.execBge {hart : Hart} {rs1 rs2 : BitVec 5} {off : BitVec 16} (h : Keeps s₀ s) :
    KeepsOut s₀ (execBge hart rs1 rs2 off s) :=
  .next h.branchStep

theorem KeepsOut.execBltu {hart : Hart} {rs1 rs2 : BitVec 5} {off : BitVec 16} (h : Keeps s₀ s) :
    KeepsOut s₀ (execBltu hart rs1 rs2 off s) :=
  .next h.branchStep

theorem KeepsOut.execBgeu {hart : Hart} {rs1 rs2 : BitVec 5} {off : BitVec 16} (h : Keeps s₀ s) :
    KeepsOut s₀ (execBgeu hart rs1 rs2 off s) :=
  .next h.branchStep

theorem KeepsOut.execJal {hart : Hart} {rd : BitVec 5} {off : BitVec 21} (h : Keeps s₀ s) :
    KeepsOut s₀ (execJal hart rd off s) :=
  .next (h.hartStep (fun _ _ => h.retireWith))

theorem KeepsOut.execJalr {hart : Hart} {rd rs1 : BitVec 5} {imm : BitVec 16} (h : Keeps s₀ s) :
    KeepsOut s₀ (execJalr hart rd rs1 imm s) :=
  .next (h.hartStep (fun _ _ => .ite h.trapHart h.retireWith))

theorem KeepsOut.execUndefinedInstruction {hart : Hart} (h : Keeps s₀ s) :
    KeepsOut s₀ (execUndefinedInstruction hart s) :=
  .next (h.hartStep (fun _ _ => .ite h h.trapHart))

end

end Sys2Proof.Laws
end

section
/-! Every command keeps the canonical form of every memory: O59. -/

namespace Sys2Proof.Laws

open Sys2Proof.Machine Sys2Proof.Safety

/-- A command ends in a next state, with the queue and the fuses as they were and every memory in the canonical form. -/
theorem keepsOut_exec {s₀ s : State} (i : Instr) (h : Keeps s₀ s) : KeepsOut s₀ (exec i s) := by
  cases i with
  | add => exact .execAdd h
  | sub => exact .execSub h
  | and => exact .execAnd h
  | or => exact .execOr h
  | xor => exact .execXor h
  | shl => exact .execShl h
  | shr => exact .execShr h
  | sar => exact .execSar h
  | slt => exact .execSlt h
  | sltu => exact .execSltu h
  | mul => exact .execMul h
  | mulh => exact .execMulh h
  | mulhu => exact .execMulhu h
  | divu => exact .execDivu h
  | remu => exact .execRemu h
  | minu => exact .execMinu h
  | maxu => exact .execMaxu h
  | popc => exact .execPopc h
  | clz => exact .execClz h
  | addi => exact .execAddi h
  | andi => exact .execAndi h
  | ori => exact .execOri h
  | xori => exact .execXori h
  | shli => exact .execShli h
  | shri => exact .execShri h
  | sari => exact .execSari h
  | slti => exact .execSlti h
  | sltiu => exact .execSltiu h
  | ldk => exact .execLdk h
  | apk => exact .execApk h
  | ldb => exact .execLdb h
  | ldh => exact .execLdh h
  | ldw => exact .execLdw h
  | ldws => exact .execLdws h
  | ldd => exact .execLdd h
  | stb => exact .execStb h
  | sth => exact .execSth h
  | stw => exact .execStw h
  | std => exact .execStd h
  | amoadd => exact .execAmoadd h
  | beq => exact .execBeq h
  | bne => exact .execBne h
  | blt => exact .execBlt h
  | bge => exact .execBge h
  | bltu => exact .execBltu h
  | bgeu => exact .execBgeu h
  | jal => exact .execJal h
  | jalr => exact .execJalr h
  | undefinedInstruction => exact .execUndefinedInstruction h
  | issue => exact .execIssue h
  | dma => exact .execDma h
  | ewait => exact .execEwait h
  | epoll => exact .execEpoll h
  | edrain => exact .execEdrain h
  | fence => exact .execFence h
  | waitValue => exact .execWaitValue h
  | signal => exact .execSignal h
  | cbarrier => exact .execCbarrier h
  | rbarrier => exact .execRbarrier h
  | enqueue => exact .execEnqueue h
  | waitQueue => exact .execWaitQueue h
  | qpost => exact .execQpost h
  | seed => exact .execSeed h
  | readTime => exact .execReadTime h
  | rdid => exact .execRdid h
  | benchmark => exact .execBenchmark h
  | yieldSlice => exact .execYieldSlice h
  | trap => exact .execTrap h
  | endProgram => exact .execEndProgram h
  | spinTraverse => exact .execSpinTraverse h
  | tableLoad => exact .execTableLoad h
  | spinSchedule => exact .execSpinSchedule h
  | exchTableLoad => exact .execExchTableLoad h
  | stripIssue => exact .execStripIssue h
  | easementMessage => exact .execEasementMessage h
  | traverseBoundary => exact .execTraverseBoundary h
  | denseMatmul => exact .execDenseMatmul h
  | denseAnneal => exact .execDenseAnneal h
  | denseConvert => exact .execDenseConvert h
  | combine => exact .execCombine h
  | convert => exact .execConvert h
  | rotate => exact .execRotate h
  | readout => exact .execReadout h
  | energy => exact .execEnergy h
  | exchange => exact .execExchange h
  | axpy => exact .execAxpy h
  | dmaCommand => exact .execDmaCommand h
  | commandComplete => exact .execCommandComplete h
  | waitValuePoll => exact .execWaitValuePoll h
  | tailDoorbell => exact .execTailDoorbell h
  | cqHeadDoorbell => exact .execCqHeadDoorbell h
  | descriptorFetch => exact .execDescriptorFetch h
  | nop => exact .execNop h
  | run => exact .execRun h
  | runDispatch => exact .execRunDispatch h
  | runComplete => exact .execRunComplete h
  | wait => exact .execWait h
  | signalDescriptor => exact .execSignalDescriptor h
  | copy => exact .execCopy h
  | fenceDescriptor => exact .execFenceDescriptor h
  | descriptorComplete => exact .execDescriptorComplete h
  | priResponse => exact .execPriResponse h
  | priTimeout => exact .execPriTimeout h
  | start => exact .execStart h
  | stop => exact .execStop h
  | retryCompletions => exact .execRetryCompletions h
  | ringHeadWrite => exact .execRingHeadWrite h
  | runTimeout => exact .execRunTimeout h
  | drainWindowExpiry => exact .execDrainWindowExpiry h
  | timeSliceEnd => exact .execTimeSliceEnd h
  | enable => exact .execEnable h
  | plotValid => exact .execPlotValid h
  | reset => exact .execReset h
  | abortFault => exact .execAbortFault h
  | resume => exact .execResume h
  | ctxInvalPages => exact .execCtxInvalPages h
  | ctxInvalAll => exact .execCtxInvalAll h
  | invalidationComplete => exact .execInvalidationComplete h
  | atsInvalidation => exact .execAtsInvalidation h
  | snapshotRequest => exact .execSnapshotRequest h
  | patrolScrub => exact .execPatrolScrub h
  | postPackageRepair => exact .execPostPackageRepair h
  | configure => exact .execConfigure h
  | release => exact .execRelease h
  | reconfigure => exact .execReconfigure h
  | bar4Access => exact .execBar4Access h
  | registerWrite => exact .execRegisterWrite h
  | linkSignalDetect => exact .execLinkSignalDetect h
  | linkDownRetry => exact .execLinkDownRetry h
  | linkTrainingComplete => exact .execLinkTrainingComplete h
  | linkTrainingTimeout => exact .execLinkTrainingTimeout h
  | identifyExchange => exact .execIdentifyExchange h
  | lossOfSignal => exact .execLossOfSignal h
  | laneLoss => exact .execLaneLoss h
  | retrain => exact .execRetrain h
  | retrainComplete => exact .execRetrainComplete h
  | flitReceive => exact .execFlitReceive h
  | flitNak => exact .execFlitNak h
  | linkStateRecord => exact .execLinkStateRecord h
  | linkStateRefresh => exact .execLinkStateRefresh h
  | topologyRecordExpiry => exact .execTopologyRecordExpiry h
  | partnerLost => exact .execPartnerLost h
  | memberLost => exact .execMemberLost h
  | arm => exact .execArm h
  | join => exact .execJoin h
  | plan _ proposed => exact .execPlan (proposed := proposed) h
  | disband => exact .execDisband h
  | fabricEasement => exact .execFabricEasement h
  | tallyPartial => exact .execTallyPartial h
  | fabricStop => exact .execFabricStop h
  | lockstepDigest => exact .execLockstepDigest h
  | entropySample => exact .execEntropySample h
  | estimateWindow => exact .execEstimateWindow h
  | conditionerBlock => exact .execConditionerBlock h
  | rngSettlingEnd => exact .execRngSettlingEnd h
  | drbgReseedDue => exact .execDrbgReseedDue h
  | reseed => exact .execReseed h
  | rawTapEnter => exact .execRawTapEnter h
  | rawTapExit => exact .execRawTapExit h
  | tapSrc => exact .execTapSrc h
  | rngData => exact .execRngData h
  | rngRaw => exact .execRngRaw h
  | rngRequestTimeout => exact .execRngRequestTimeout h
  | coldReset => exact .execColdReset h
  | bootDone => exact .execBootDone h
  | perstRelease => exact .execPerstRelease h
  | warmReset => exact .execWarmReset h
  | flr => exact .execFlr h
  | coreReset => exact .execCoreReset h
  | engineReset => exact .execEngineReset h
  | quiesceEnd => exact .execQuiesceEnd h
  | capW => exact .execCapW h
  | deepIdle => exact .execDeepIdle h
  | d3hot => exact .execD3hot h
  | d0 => exact .execD0 h
  | coreRetain => exact .execCoreRetain h
  | coreOff => exact .execCoreOff h
  | chipIdle => exact .execChipIdle h
  | chipWake => exact .execChipWake h
  | creditPeriod => exact .execCreditPeriod h
  | thermalSensorRead => exact .execThermalSensorRead h
  | throttleStep => exact .execThrottleStep h
  | railFailure => exact .execRailFailure h
  | surveyRound => exact .execSurveyRound h
  | surveyTestComplete => exact .execSurveyTestComplete h
  | lldpTransmit => exact .execLldpTransmit h
  | lldpduReceive => exact .execLldpduReceive h
  | lldpPartnerLoss => exact .execLldpPartnerLoss h
  | portLinkDown => exact .execPortLinkDown h
  | syncReceive => exact .execSyncReceive h
  | syncTimeout => exact .execSyncTimeout h
  | holdoverExpiry => exact .execHoldoverExpiry h
  | measurement => exact .execMeasurement h
  | serviceInstant => exact .execServiceInstant h
  | decisionRead => exact .execDecisionRead h
  | decisionTransmit => exact .execDecisionTransmit h
  | svcStart => exact .execSvcStart h
  | svcStop => exact .execSvcStop h
  | svcResume => exact .execSvcResume h
  | getVersion => exact .execGetVersion h
  | getCapabilities => exact .execGetCapabilities h
  | negotiateAlgorithms => exact .execNegotiateAlgorithms h
  | getDigests => exact .execGetDigests h
  | getCertificate => exact .execGetCertificate h
  | challenge => exact .execChallenge h
  | getMeasurements => exact .execGetMeasurements h
  | setEndpointId => exact .execSetEndpointId h
  | sensorRefresh => exact .execSensorRefresh h
  | getEventLog => exact .execGetEventLog h
  | getRetirementTable => exact .execGetRetirementTable h
  | setRawTap => exact .execSetRawTap h
  | readRawSamples => exact .execReadRawSamples h
  | getMap => exact .execGetMap h
  | setPowerCap => exact .execSetPowerCap h
  | getBootStatus => exact .execGetBootStatus h
  | requestUpdate => exact .execRequestUpdate h
  | firmwareTransfer => exact .execFirmwareTransfer h
  | verifyComplete => exact .execVerifyComplete h
  | activateFirmware => exact .execActivateFirmware h
  | recOpen => exact .execRecOpen h
  | recWrite => exact .execRecWrite h
  | recVerify => exact .execRecVerify h
  | recAbort => exact .execRecAbort h
  | portLinkUp => exact .execPortLinkUp h
  | fabChipId => exact .execFabChipId h
  | aonRstNAssert => exact .execAonRstNAssert h
  | d3cold => exact .execD3cold h
  | contextResetEnd => exact .execContextResetEnd h
  | groupMessage => exact .execGroupMessage h
  | tallyBroadcast => exact .execTallyBroadcast h
  | dynamicAddress => exact .execDynamicAddress h
  | updateAbort => exact .execUpdateAbort h

/-- A step takes the front command off the queue, and its command keeps the canonical form. -/
theorem canonical_step {s t : State} (h : Canonical s) (e : step s = .next t) : Canonical t := by
  unfold step at e
  split at e
  · obtain rfl := Host.Outcome.next.inj e
    exact h
  · next c rest _ =>
    have h1 : Canonical { s with pending := rest } := { h with }
    have ho := keepsOut_exec c (.refl { s with pending := rest })
    rw [e] at ho
    cases ho with
    | next hk => exact hk.canonical h1

/-- Settles O59: each command keeps each memory it writes in the canonical form, and leaves the others as they are. -/
theorem stepsKeepMemoriesCanonical : Obligations.StepsKeepMemoriesCanonical := fun s t h e =>
  (canonical_iff t).1 (canonical_step ((canonical_iff s).2 h) e)

end Sys2Proof.Laws
end

section
/-! Stores and the atomic addition of the control cores: O4. -/

namespace Sys2Proof.Laws

open Sys2Proof.Machine Sys2Proof.Safety

section
variable (s : State) (h : Hart) (a : Nat) (bs : List Byte)

/-! ### A write of a core's store -/

@[simp] theorem retireWith_badLines (pc : Word) (f : CCore → CCore) : (retireWith s h pc f).badLines = s.badLines := rfl

theorem storeWrite_coreAt (core : Nat) : (storeWrite s core a bs).coreAt core =
    { s.coreAt core with work := { s.workAt core with store := memWriteN (s.workAt core).store a bs } } :=
  updCore_coreAt_same ..

theorem storeWrite_other {core n : Nat} (hn : n ≠ core) : (storeWrite s core a bs).coreAt n = s.coreAt n :=
  updCore_coreAt_other _ _ hn

@[simp] theorem storeWrite_badLines (core : Nat) :
    (storeWrite s core a bs).badLines = rewritten core a bs.length s.badLines := rfl

/-- A write of the store leaves the control cores alone. -/
@[simp] theorem storeWrite_hart : (storeWrite s h.core a bs).hart h = s.hart h := by
  simp only [State.hart, State.workAt, storeWrite_coreAt]
  rfl

/-- An instruction that retires after a write of the store changes its control core, the store and its errors alone. -/
theorem retireWith_storeWrite_only (pc : Word) (f : CCore → CCore) :
    OnlyHartAndStore s (retireWith (storeWrite s h.core a bs) h pc f) h := by
  refine ⟨rfl, fun n hn => ?_, ?_⟩
  · rw [retireWith_other _ _ _ _ hn, storeWrite_other s a bs hn]
  · simp only [State.workAt, retireWith_coreAt, retireWith_hart, storeWrite_coreAt, storeWrite_hart]
    cases h.cc <;> rfl

/-- The bytes written read as they were written, and every other byte of the store as before. -/
theorem retireWith_storeWrite_byte (pc : Word) (f : CCore → CCore) (hw : memWf (s.workAt h.core).store = true) (x : Nat) :
    storeByte (retireWith (storeWrite s h.core a bs) h pc f) h.core x =
      if a ≤ x ∧ x < a + bs.length then bs.getD (x - a) 0 else storeByte s h.core x := by
  simp only [storeByte, State.workAt, retireWith_coreAt, storeWrite_coreAt, setCc_store]
  exact memRead_memWriteN hw a x bs

end

/-! ### Going on -/

theorem retire_wentOn (s : State) (h : Hart) : WentOn s (retire s h) h 0 ((s.hart h).pc + 4) := by
  refine ⟨fun k _ => ?_, ?_⟩
  · simp only [reg, retire, retireWith_hart]
    rfl
  · simp only [retire, retireWith_hart]
    rfl

/-- An instruction that goes on from a state with the same control core goes on. -/
theorem wentOn_of_hart {s u t : State} {h : Hart} {rd : BitVec 5} {pc : Word} (e : u.hart h = s.hart h)
    (w : WentOn u t h rd pc) : WentOn s t h rd pc := by
  simpa only [WentOn, reg, e] using w

/-! ### Bytes of the store as numbers -/

/-- Bytes written are read back. -/
theorem memReadN_memWriteN {m : Memory} (h : memWf m = true) (a : Nat) (bs : List Byte) :
    memReadN (memWriteN m a bs) a bs.length = bs := by
  induction bs generalizing m a with
  | nil => rfl
  | cons b r ih =>
    have hb : memRead (memWriteN (memWrite m a b) (a + 1) r) a = b := by
      rw [memRead_memWriteN (memWf_write h a b), if_neg (by omega), memRead_memWrite h, if_pos rfl]
    simp only [memWriteN, List.length_cons, memReadN, hb, ih (memWf_write h a b)]

/-! ### The instructions -/

/-- A store of `n` bytes at an allowed offset writes the low bytes of rd and goes on. -/
theorem storeStep_ok {s : State} {h : Hart} {rd rs1 : BitVec 5} {imm : BitVec 16} {n : Nat} {r : Run}
    (hx : Executes s h r) (hal : dataAddr s h rs1 imm % n = 0) (hin : dataAddr s h rs1 imm + n ≤ r.hdr.dataBytes)
    (hbad : n ≠ 8 → storeBad s h.core (dataAddr s h rs1 imm) n = none) :
    storeStep s h rd rs1 imm n =
      retire (storeWrite s h.core (dataAddr s h rs1 imm) (natLe n (reg s h rd).toNat)) h :=
  areaStep_ok hx _ n _ _ (dataAddr_eq s h rs1 imm) hal hin (fun e => hbad (of_decide_eq_true e)) _

/-- A store is its step, of 1, 2, 4 or 8 bytes. -/
theorem exec_store {i : Instr} {h : Hart} {rd rs1 : BitVec 5} {imm : BitVec 16} {n : Nat}
    (e : storeShape i = some (h, rd, rs1, imm, n)) (s : State) :
    exec i s = .next (storeStep s h rd rs1 imm n) ∧ n ≤ 8 := by
  unfold storeShape at e
  split at e <;> cases e <;> exact ⟨rfl, by decide⟩

/-- The words with an error after a write of `n` bytes at a multiple of `n`, at most a word: a whole word has none. -/
theorem mem_rewritten {core a n : Nat} (hn : n ≤ 8) (ha : a % n = 0) (l : List (Level × Nat)) (p : Level × Nat) :
    p ∈ rewritten core a n l ↔ p ∈ l ∧ ¬ (n = 8 ∧ p = (Level.coreStore, core * 2 ^ 20 + a / 8)) := by
  by_cases h8 : n = 8
  · subst h8
    simpa using mem_rewritten_word core a ha l p
  · simp [rewritten_part core a n (by omega) l, h8]

/-- A store to an allowed offset: what it writes and what it leaves. -/
theorem storeStep_complete {s : State} {h : Hart} {rd rs1 : BitVec 5} {imm : BitVec 16} {n : Nat} {r : Run} (hn : n ≤ 8)
    (hw : memWf (s.workAt h.core).store = true) (hx : Executes s h r) (hal : dataAddr s h rs1 imm % n = 0)
    (hin : dataAddr s h rs1 imm + n ≤ r.hdr.dataBytes)
    (hbad : n ≠ 8 → storeBad s h.core (dataAddr s h rs1 imm) n = none) :
    ∃ t, storeStep s h rd rs1 imm n = t ∧ WentOn s t h 0 ((s.hart h).pc + 4) ∧ OnlyHartAndStore s t h ∧
      (∀ p, p ∈ t.badLines ↔
        p ∈ s.badLines ∧ ¬ (n = 8 ∧ p = (Level.coreStore, h.core * 2 ^ 20 + dataAddr s h rs1 imm / 8))) ∧
      ∀ a, storeByte t h.core a =
        if dataAddr s h rs1 imm ≤ a ∧ a < dataAddr s h rs1 imm + n
        then BitVec.ofNat 8 ((reg s h rd).toNat / 256 ^ (a - dataAddr s h rs1 imm))
        else storeByte s h.core a := by
  refine ⟨_, storeStep_ok hx hal hin hbad, ?_, retireWith_storeWrite_only .., fun p => ?_, fun a => ?_⟩
  · have hr := retire_wentOn (storeWrite s h.core (dataAddr s h rs1 imm) (natLe n (reg s h rd).toNat)) h
    rw [storeWrite_hart] at hr
    exact wentOn_of_hart (storeWrite_hart ..) hr
  · rw [retire, retireWith_badLines, storeWrite_badLines, natLe_length]
    exact mem_rewritten hn hal s.badLines p
  · rw [retire, retireWith_storeWrite_byte _ _ _ _ _ _ hw, natLe_length]
    split
    · next ha => exact natLe_getD _ _ _ (by omega)
    · rfl

/-- AMOADD at an allowed offset writes the sum and goes on with the old value in rd. -/
theorem exec_amoadd {s : State} {h : Hart} {rd rs1 rs2 : BitVec 5} {r : Run} (hx : Executes s h r)
    (ha : AreaOk s h r (reg s h rs1).toNat 8) :
    exec (.amoadd h rd rs1 rs2) s =
      .next (retireReg (storeWrite s h.core (reg s h rs1).toNat
        (natLe 8 (BitVec.ofNat 64 (storeNat s h.core (reg s h rs1).toNat 8) + reg s h rs2).toNat)) h rd
        (BitVec.ofNat 64 (storeNat s h.core (reg s h rs1).toNat 8))) := by
  obtain ⟨hal, hin, hbad⟩ := ha
  exact congrArg _ (areaStep_ok hx _ 8 _ true rfl hal hin (fun _ => hbad) _)

theorem storeNat_lt (s : State) (core a n : Nat) : storeNat s core a n < 256 ^ n := by
  simpa [storeNat] using leNat_lt (memReadN (s.workAt core).store a n)

/-- A write of a word without an error ends no error. -/
theorem rewritten_of_storeBad {s : State} {core a : Nat} (ha : a % 8 = 0) (hb : storeBad s core a 8 = none) :
    rewritten core a 8 s.badLines = s.badLines := by
  simp only [storeBad, Option.map_eq_none_iff, List.find?_eq_none, decide_eq_true_eq] at hb
  simp only [rewritten, List.filter_eq_self, decide_eq_true_eq]
  intro p hp
  by_cases e : p.1 = .coreStore
  · have := hb p hp
    simp only [e, true_and] at this
    omega
  · exact .inl e

/-- The number in the store after its bytes have been written by an instruction that retires. -/
theorem retireWith_storeWrite_nat (s : State) (h : Hart) (a n v : Nat) (pc : Word) (f : CCore → CCore)
    (hw : memWf (s.workAt h.core).store = true) :
    storeNat (retireWith (storeWrite s h.core a (natLe n v)) h pc f) h.core a n = v % 256 ^ n := by
  have e := memReadN_memWriteN hw a (natLe n v)
  rw [natLe_length] at e
  simp only [storeNat, State.workAt, retireWith_coreAt, storeWrite_coreAt, setCc_store]
  exact (congrArg leNat e).trans (leNat_natLe n v)

/-- AMOADD at an allowed offset: what it writes and what it leaves. -/
theorem amoadd_complete {s : State} {h : Hart} {rd rs1 rs2 : BitVec 5} {r : Run} (hw : memWf (s.workAt h.core).store = true)
    (hx : Executes s h r) (ha : AreaOk s h r (reg s h rs1).toNat 8) :
    ∃ t, exec (.amoadd h rd rs1 rs2) s = .next t ∧
      (rd ≠ 0 → (reg t h rd).toNat = storeNat s h.core (reg s h rs1).toNat 8) ∧
      WentOn s t h rd ((s.hart h).pc + 4) ∧ OnlyHartAndStore s t h ∧ t.badLines = s.badLines ∧
      storeNat t h.core (reg s h rs1).toNat 8 =
        (storeNat s h.core (reg s h rs1).toNat 8 + (reg s h rs2).toNat) % 2 ^ 64 ∧
      ∀ a, a < (reg s h rs1).toNat ∨ (reg s h rs1).toNat + 8 ≤ a → storeByte t h.core a = storeByte s h.core a := by
  refine ⟨_, exec_amoadd hx ha, ?_⟩
  obtain ⟨hal, -, hbad⟩ := ha
  have hold : storeNat s h.core (reg s h rs1).toNat 8 < 2 ^ 64 := storeNat_lt ..
  generalize storeNat s h.core (reg s h rs1).toNat 8 = old at hold ⊢
  generalize (reg s h rs1).toNat = a at hal hbad ⊢
  obtain ⟨hgo, hrd⟩ := retireReg_wentOn (storeWrite s h.core a (natLe 8 (BitVec.ofNat 64 old + reg s h rs2).toNat)) h rd
    (BitVec.ofNat 64 old)
  rw [storeWrite_hart] at hgo
  refine ⟨fun h0 => ?_, wentOn_of_hart (storeWrite_hart ..) hgo, retireWith_storeWrite_only .., ?_, ?_, fun x hx => ?_⟩
  · rw [hrd, if_neg h0, BitVec.toNat_ofNat, Nat.mod_eq_of_lt hold]
  · rw [retireReg, retireWith_badLines, storeWrite_badLines, natLe_length, rewritten_of_storeBad hal hbad]
  · rw [retireReg, retireWith_storeWrite_nat _ _ _ _ _ _ _ hw, BitVec.toNat_add, BitVec.toNat_ofNat]
    omega
  · rw [retireReg, retireWith_storeWrite_byte _ _ _ _ _ _ hw, natLe_length, if_neg (by omega)]

/-- Settles O4: a store and AMOADD are a write of the core's store before the instruction retires. -/
theorem storesAndAtomicAddComplete : Obligations.StoresAndAtomicAddComplete := by
  unfold Obligations.StoresAndAtomicAddComplete
  refine ⟨fun s i h rd rs1 imm n r hs hw hx hal hin hbad => ?_, fun s h rd rs1 rs2 r hw hx ha => amoadd_complete hw hx ha⟩
  obtain ⟨he, hn⟩ := exec_store hs s
  obtain ⟨t, ht, hdone⟩ := storeStep_complete (rd := rd) hn hw hx hal hin hbad
  exact ⟨t, he.trans (congrArg _ ht), hdone⟩

end Sys2Proof.Laws
end

section
/-! Easement messages within the chip: O20. -/

namespace Sys2Proof.Laws

open Sys2Proof.Machine Sys2Proof.Safety

/-! ### Bits of a mask -/

theorem testBit_add_two_pow {m i : Nat} (h : m.testBit i = false) (j : Nat) :
    (m + 2 ^ i).testBit j = (decide (j = i) || m.testBit j) := by
  induction i generalizing m j with
  | zero =>
    have hm : m % 2 = 0 := Nat.mod_two_eq_zero_iff_testBit_zero.2 h
    cases j with
    | zero => simp [Nat.testBit_zero]; omega
    | succ k =>
      have e : (m + 1) / 2 = m / 2 := by omega
      simp [Nat.testBit_succ, e]
  | succ n ih =>
    cases j with
    | zero =>
      have e : (m + 2 ^ (n + 1)) % 2 = m % 2 := by omega
      simp [Nat.testBit_zero, e]
    | succ k =>
      have e : (m + 2 ^ (n + 1)) / 2 = m / 2 + 2 ^ n := by omega
      rw [Nat.testBit_succ, e, ih (by rwa [Nat.testBit_succ] at h), Nat.testBit_succ]
      simp

/-- A bit of a mask reads as it was set, and every other bit as before. -/
theorem setMaskBit_testBit (m i j : Nat) (b : Bool) : (setMaskBit m i b).testBit j = if j = i then b else m.testBit j := by
  unfold setMaskBit
  by_cases hb : m.testBit i = b
  · rw [if_pos hb]
    split
    · next e => rw [e, hb]
    · rfl
  · rw [if_neg hb]
    cases b with
    | true =>
      rw [if_pos rfl, testBit_add_two_pow (by simpa using hb)]
      by_cases e : j = i <;> simp [e]
    | false =>
      have ht : m.testBit i = true := by simpa using hb
      obtain ⟨k, rfl⟩ : ∃ k, m = k + 2 ^ i := ⟨m - 2 ^ i, (Nat.sub_add_cancel (Nat.ge_two_pow_of_testBit ht)).symm⟩
      have hk : k.testBit i = false := by
        rw [Nat.add_comm, Nat.testBit_two_pow_add_eq] at ht
        simpa using ht
      rw [if_neg (by simp), Nat.add_sub_cancel, testBit_add_two_pow hk]
      by_cases e : j = i <;> simp [e, hk]

/-- Bits copied from one mask into another, place by place. -/
theorem foldl_setMaskBit_testBit {α : Type} (f : α → Nat) (m : Nat) (l : List α) (e j : Nat) :
    (l.foldl (fun e i => setMaskBit e (f i) (m.testBit (f i))) e).testBit j =
      if j ∈ l.map f then m.testBit j else e.testBit j := by
  induction l generalizing e with
  | nil => simp
  | cons a r ih =>
    rw [List.foldl_cons, ih, setMaskBit_testBit]
    by_cases hr : j ∈ r.map f
    · rw [if_pos hr, List.map_cons, if_pos (List.mem_cons_of_mem _ hr)]
    · by_cases ha : j = f a
      · simp [ha]
      · rw [if_neg hr, if_neg ha, if_neg (by simpa [ha] using hr)]

/-- The easement under a key has the bits of the mask at the sites written. -/
theorem writeEasement_testBit (q : SpinRun) (key m : Nat) {sites : List Site} {i : Site} (hi : i ∈ sites) :
    (tabGet 0 (writeEasement q key m sites).easement key).testBit (siteLin q.plat i) = m.testBit (siteLin q.plat i) := by
  unfold writeEasement
  rw [tabGet_tabSet_same, foldl_setMaskBit_testBit (siteLin q.plat), if_pos (List.mem_map_of_mem hi)]

/-! ### The RUN of a core -/

theorem findRun_key {s : State} {k : RunKey} {r : Run} (h : s.findRun k = some r) : r.key = k := by
  simpa using List.find?_some h

theorem findRun_of_runOf {s : State} {core : Nat} {r : Run} (h : s.runOf core = some r) : s.findRun r.key = some r := by
  unfold State.runOf at h
  split at h
  · exact absurd h (by simp)
  · rwa [findRun_key h]

/-- A RUN changed but for its key is found changed. -/
theorem updRun_findRun {s : State} {k : RunKey} {r : Run} (h : s.findRun k = some r) {f : Run → Run}
    (hf : ∀ q, (f q).key = q.key) : (s.updRun k f).findRun k = some (f r) := by
  have hp : ((fun q : Run => q.key == k) ∘ fun q => if q.key = k then f q else q) = fun q => q.key == k := by
    funext q
    by_cases e : q.key = k <;> simp [e, hf]
  have hr : r.key = k := findRun_key h
  unfold State.findRun at h
  simp only [State.findRun, State.updRun, List.find?_map, hp, h, Option.map_some, if_pos hr]

/-! ### What a message does -/

/-- The number of a message's kind. -/
def kindCode (kind : EasementKind) : Nat := match kind with | .start => 0 | .bits => 1 | .decisions => 2

theorem kindCode_inj {k k' : EasementKind} (h : kindCode k = kindCode k') : k = k' := by
  revert h
  cases k <;> cases k' <;> decide

/-- The sites whose bits a message of a step brings: those of the step's colour on a plat of first order (R138). -/
def stepSites (p : PlatInfo) (a b : Parcel) (step : Nat) : List Site :=
  if p.order = 0 then (bandSites p a b).filter (fun i => decide (siteColour i.x i.y i.z = step % platSteps p))
  else bandSites p a b

/-- The run part with the bits that a message from parcel `a` brings to parcel `b`. -/
def withBits (q : SpinRun) (c : SpinCmd) (a b : Parcel) (dst step replica bits : Nat) (kind : EasementKind) : SpinRun :=
  match kind with
  | .start => writeEasement q (easeKey q.plat dst replica c.firstStep) bits (bandSites q.plat a b)
  | .bits => writeEasement q (easeKey q.plat dst replica (step + 1)) bits (stepSites q.plat a b step)
  | .decisions => q

@[simp] theorem withBits_spins (q : SpinRun) (c : SpinCmd) (a b : Parcel) (dst step replica bits : Nat)
    (kind : EasementKind) : (withBits q c a b dst step replica bits kind).spins = q.spins := by cases kind <;> rfl

/-- The spin command after a message has come: it is no longer under way, and its flag is set. -/
def tookMail (c : SpinCmd) (m : (Nat × Nat × Nat × Nat × Nat) × Nat) : SpinCmd :=
  { c with mail := c.mail.erase m, flags := m.1 :: c.flags }

/-- The state after a message has come. -/
def messageTaken (s : State) (k : RunKey) (q : SpinRun) (c : SpinCmd) (m : (Nat × Nat × Nat × Nat × Nat) × Nat) : State :=
  s.updRun k (fun x => { x with spin := some { q with cmd := some (tookMail c m) } })

section
variable {s : State} {dst src : Nat} {r : Run} {q : SpinRun} {c : SpinCmd} {a b : Parcel}
  {m : (Nat × Nat × Nat × Nat × Nat) × Nat} (hrun : s.runOf dst = some r) (hspin : r.spin = some q) (hcmd : q.cmd = some c)
  (hsrc : q.cut.find? (fun t => decide (t.core = src)) = some a)
  (hdst : q.cut.find? (fun t => decide (t.core = dst)) = some b)
  (hmail : c.mail.find? (fun e => decide (e.1.1 = dst ∧ e.1.2.1 = src)) = some m)
include hrun hspin hcmd hsrc hdst hmail

/-- With a message `m` first under way between two cores, EASEMENT_MESSAGE is its coming, the end of the run where the
unit is being reset, or nothing where another message is asked for. -/
theorem exec_easementMessage (step replica : Nat) (kind : EasementKind) :
    exec (.easementMessage dst src step replica kind) s = .next
      (if m.1 ≠ (dst, src, step, replica, kindCode kind) then s
       else if unitQuiet (s.coreAt dst) .spin = false then abortSpin s r stUnitReset
       else messageTaken s r.key (withBits q c a b dst step replica m.2 kind) c m) := by
  have hexec : exec (.easementMessage dst src step replica kind) s = execEasementMessage dst src step replica kind s := rfl
  simp only [hexec, execEasementMessage, hrun, hspin, hcmd, hsrc, hdst, hmail]
  cases kind <;> rfl

/-- A message that is not the first under way does not come. -/
theorem exec_easementMessage_other {step replica : Nat} {kind : EasementKind}
    (h : m.1 ≠ (dst, src, step, replica, kindCode kind)) : exec (.easementMessage dst src step replica kind) s = .next s := by
  rw [exec_easementMessage hrun hspin hcmd hsrc hdst hmail, if_pos h]

end

/-! ### The end of a run by a unit's reset -/

/-- Marks of an access leave the cores as they are. -/
theorem markAccess_cores (s : State) (c va n : Nat) : (markAccess s c va n).cores = s.cores := by
  have h := congrArg State.cores (markAccess_frame s c va n)
  exact h

theorem setLevel_cores (s : State) (l : Level) (m : Memory) : (setLevel s l m).cores = s.cores := by
  cases l <;> rfl

theorem pieceWrite_cores (c : Nat) (bs : List Byte) (va : Nat) (s : State) (p : Nat × Nat) :
    (pieceWrite c bs va s p).cores = s.cores := by
  unfold pieceWrite
  split
  · exact setLevel_cores ..
  · rfl

/-- A fold of steps that leave a part of the state as it is leaves it. -/
theorem foldl_part {α β : Type} {f : State → α → State} (part : State → β) (h : ∀ s a, part (f s a) = part s)
    (l : List α) (s : State) : part (l.foldl f s) = part s := by
  induction l generalizing s with
  | nil => rfl
  | cons a r ih => exact (ih (f s a)).trans (h s a)

theorem vaWrite_cores (s : State) (c va : Nat) (bs : List Byte) : (vaWrite s c va bs).cores = s.cores :=
  foldl_part State.cores (pieceWrite_cores c bs va) _ s

/-- What a RUN writes into the memories leaves the cores as they are. -/
theorem writeEach_cores (s : State) (c : Nat) (ws : List (Nat × List Byte)) : (writeEach s c ws).cores = s.cores := by
  refine foldl_part State.cores (fun t w => ?_) ws s
  split
  · rw [tick_cores, vaWrite_cores, markAccess_cores]
  · rfl

/-- The statuses that the spin units of a list of cores take. -/
theorem foldl_setResult_spin (st : Status) (l : List Nat) (s : State) {k : Nat}
    (h : k ∈ l ∨ (s.workAt k).spinU.result = some st) :
    ((l.foldl (setResult .spin st) s).workAt k).spinU.result = some st := by
  induction l generalizing s with
  | nil => simpa using h
  | cons n l ih =>
    refine ih _ ?_
    by_cases e : k = n
    · subst e
      exact .inr (by simp [setResult, Work.setUnitQ])
    · refine h.imp (fun hk => (List.mem_cons.1 hk).resolve_left e) fun hk => ?_
      simpa [setResult, State.workAt, updWork_coreAt_other s _ e] using hk

/-- A spin unit that has taken its command up takes the run's status. -/
theorem setSpinResults_result (s : State) {r : Run} {k : Nat} (st : Status) (hk : k ∈ r.cores)
    (hrun : (s.workAt k).run = some r.key) (hhead : (spinHead (s.workAt k)).isSome = true) :
    ((setSpinResults s r st).workAt k).spinU.result = some st := by
  refine foldl_setResult_spin st _ s (.inl (List.mem_filter.2 ⟨hk, ?_⟩))
  rwa [runWork, if_pos hrun]

/-- A core that comes to rest keeps its spin unit's queue. -/
theorem restCore_spinU (key : RunKey) (s : State) (core k : Nat) :
    ((restCore key s core).workAt k).spinU = (s.workAt k).spinU := by
  unfold restCore
  split
  · by_cases e : k = core
    · subst e
      simp [State.workAt]
    · simp [State.workAt, updCore_coreAt_other s _ e]
  · rfl

/-- A run that is aborted gives its status to every spin unit that has taken its command up; no group is told (R154). -/
theorem abortSpin_result {s : State} {r : Run} {q : SpinRun} {c : SpinCmd} (st : Status) (hspin : r.spin = some q)
    (hcmd : q.cmd = some c) (hgroup : q.group = none) {k : Nat} (hk : k ∈ r.cores) (hrun : (s.workAt k).run = some r.key)
    (hhead : (spinHead (s.workAt k)).isSome = true) : ((abortSpin s r st).workAt k).spinU.result = some st := by
  have hleave : leaveGroup s r st = s := by simp only [leaveGroup, hspin, hgroup]
  simp only [abortSpin, hspin, hcmd, Option.bind_some, hleave]
  generalize completionWrites s r q { c with result := some st } st = ws
  have hw : (writeEach s r.key.ctx ws).workAt k = s.workAt k := by
    simp only [State.workAt, State.coreAt, writeEach_cores]
  have hset : ((setSpinResults (writeEach s r.key.ctx ws) r st).workAt k).spinU.result = some st :=
    setSpinResults_result _ st hk (hw ▸ hrun) (hw ▸ hhead)
  have hrest := foldl_part (f := restCore r.key) (fun t => (t.workAt k).spinU) (fun t n => restCore_spinU r.key t n k)
    r.cores (setSpinResults (writeEach s r.key.ctx ws) r st)
  exact (congrArg UnitQ.result hrest).trans hset

/-- Settles O20: a message comes only as the first under way, and brings the bits of `withBits`. -/
theorem easementMessagesComplete : Obligations.EasementMessagesComplete := by
  intro s dst src step replica bits kind r q c a b p n m band col hrun hspin hcmd hsrc hdst hmail
  have hn : m.1 = (dst, src, step, replica, kindCode kind) := by cases kind <;> rfl
  have hexec := exec_easementMessage hrun hspin hcmd hsrc hdst hmail step replica kind
  rw [if_neg (not_not_intro hn)] at hexec
  refine ⟨fun hq => ?_, fun step' replica' kind' hne => ?_, fun hq _ hgroup => ?_⟩
  · rw [if_neg (by simp [hq])] at hexec
    refine ⟨_, _, _, hexec, updRun_findRun (findRun_of_runOf hrun) fun _ => rfl, rfl, rfl, rfl, withBits_spins ..,
      ⟨rfl, rfl, rfl⟩, ?_, ?_, ?_⟩
    · rintro rfl i hi
      exact writeEasement_testBit q _ bits hi
    · rintro rfl i hi
      exact writeEasement_testBit q _ bits hi
    · rintro rfl
      rfl
  · refine exec_easementMessage_other hrun hspin hcmd hsrc hdst hmail fun e => hne ?_
    rw [hn] at e
    simp only [Prod.mk.injEq, true_and] at e
    obtain ⟨h1, h2, h3⟩ := e
    rw [h1, h2, kindCode_inj h3]
  · rw [if_pos hq] at hexec
    exact ⟨_, hexec, fun k hk hkrun hhead => abortSpin_result stUnitReset hspin hcmd hgroup hk hkrun hhead⟩

end Sys2Proof.Laws
end

section
/-! What the transfers of an engine's command come to when nothing stops them, and what READOUT leaves in the memories. -/

namespace Sys2Proof.Laws

open Sys2Proof.Machine Sys2Proof.Safety

/-! ### Transfers that nothing stops -/

/-- Transfers of several ranges keep every translation (R399). -/
theorem touched_ways (s : State) (c : Nat) (l : List (Nat × Nat)) : SameWays s (touched s c l) := by
  induction l generalizing s with
  | nil => exact .refl s
  | cons a l ih => exact (touch_ways s c a.1 a.2).trans (ih _)

theorem touched_append (s : State) (c : Nat) (l l' : List (Nat × Nat)) :
    touched s c (l ++ l') = touched (touched s c l) c l' := List.foldl_append

/-- By the same ways the same writes can be made. -/
theorem SameWays.delivers {s t : State} (h : SameWays s t) {r : Run} {ws : List (Nat × List Byte)} (hw : Delivers s r ws) :
    Delivers t r ws := fun w hm => ⟨(hw w hm).1, (h.rangeStop ..).trans (hw w hm).2⟩

/-- By the same ways the same bytes can be read. -/
theorem SameWays.fetches {s t : State} (h : SameWays s t) {r : Run} {va n : Nat} (hf : Fetches s r va n) : Fetches t r va n :=
  ⟨hf.1, (h.rangeStop ..).trans hf.2⟩

theorem engRead_of_fetches {s : State} {r : Run} {va n : Nat} (h : Fetches s r va n) (k : State → List Byte → EngOut) :
    engRead s r.key.ctx va n k = k (touch s r.key.ctx va n) (vaRead s r.key.ctx va n) := by
  obtain ⟨hend, hreach⟩ := h
  rw [engRead, pastEnd, decide_eq_false (Nat.not_lt.mpr hend), if_neg Bool.false_ne_true, hreach]

theorem engReads_of_fetches {s : State} {r : Run} {l : List (Nat × Nat)} (h : ∀ a, a ∈ l → Fetches s r a.1 a.2)
    (k : State → EngOut) : engReads s r.key.ctx l k = k (touched s r.key.ctx l) := by
  induction l generalizing s with
  | nil => rfl
  | cons a l ih =>
    rw [engReads, engRead_of_fetches (h a List.mem_cons_self)]
    exact ih fun b hb => (touch_ways ..).fetches (h b (List.mem_cons_of_mem a hb))

theorem engWrite_of_delivers {s : State} {r : Run} {ws : List (Nat × List Byte)} (h : Delivers s r ws) (k : State → EngOut) :
    engWrite s r.key.ctx ws k = k (written s r.key.ctx ws) := by
  have hend : ws.any (fun w => pastEnd w.1 w.2.length) = false := by
    simpa [pastEnd] using fun a b hw => (h (a, b) hw).1
  have hstop : ws.findSome? (fun w => rangeStop s r.key.ctx w.1 w.2.length true) = none :=
    List.findSome?_eq_none_iff.mpr fun w hw => (h w hw).2
  simp [engWrite, hend, hstop, written]

/-- The ranges of replicas' spin planes from a base (R116). -/
def planeRanges (p : PlatInfo) (base : Nat) (ks : List Nat) : List (Nat × Nat) :=
  ks.map (fun k => (base + k * spinPlaneBytes p, spinPlaneBytes p))

/-- The mask of a replica's spin plane from a base. -/
def planeMask (s : State) (c : Nat) (p : PlatInfo) (base k : Nat) : Nat :=
  readPlane p ((vaRead s c (base + k * spinPlaneBytes p) (spinPlaneBytes p)).getD · 0) 0

/-- By the same ways a plane reads the same. -/
theorem SameWays.planeMask {s t : State} (h : SameWays s t) (c : Nat) (p : PlatInfo) (base : Nat) :
    Laws.planeMask t c p base = Laws.planeMask s c p base := by
  funext k
  rw [Laws.planeMask, h.vaRead, Laws.planeMask]

theorem readPlanes_of_fetches {s : State} {r : Run} {p : PlatInfo} {base : Nat} {ks : List Nat}
    (h : ∀ a, a ∈ planeRanges p base ks → Fetches s r a.1 a.2) (acc : List Nat) (k : State → List Nat → EngOut) :
    readPlanes s r.key.ctx p base ks acc k =
      k (touched s r.key.ctx (planeRanges p base ks)) (acc ++ ks.map (planeMask s r.key.ctx p base)) := by
  induction ks generalizing s acc with
  | nil => simp [readPlanes, planeRanges, touched]
  | cons n ks ih =>
    rw [readPlanes, engRead_of_fetches (h _ List.mem_cons_self),
      ih (fun a ha => (touch_ways ..).fetches (h a (List.mem_cons_of_mem _ ha))), (touch_ways ..).planeMask, List.append_assoc]
    rfl

/-! ### What a change of a core leaves of accesses and plats -/

section
variable (s : State) (core : Nat) (f : Core → Core)

theorem updCore_leafOf : leafOf (s.updCore core f) = leafOf s := rfl
theorem updCore_xlate : xlate (s.updCore core f) = xlate s := by
  funext c va w
  simp only [xlate, updCore_leafOf]
  rfl
theorem updCore_pieceStop : pieceStop (s.updCore core f) = pieceStop s := by
  funext c w p
  simp only [pieceStop, updCore_xlate]
  rfl
theorem updCore_rangeStop : rangeStop (s.updCore core f) = rangeStop s := by
  funext c va n w
  simp only [rangeStop, updCore_pieceStop]
theorem updCore_vaRead : vaRead (s.updCore core f) = vaRead s := by
  funext c va n
  simp only [vaRead, updCore_xlate]
  rfl
theorem updCore_rangeHost : rangeHost (s.updCore core f) = rangeHost s := by
  funext c va n
  simp only [rangeHost, updCore_leafOf]
theorem updCore_fetches {r : Run} {va n : Nat} : Fetches (s.updCore core f) r va n ↔ Fetches s r va n := by
  rw [Fetches, Reaches, updCore_rangeStop]
theorem updCore_delivers {r : Run} {ws : List (Nat × List Byte)} : Delivers (s.updCore core f) r ws ↔ Delivers s r ws := by
  simp only [Delivers, Reaches, updCore_rangeStop]
theorem updCore_readScales : readScales (s.updCore core f) = readScales s := by
  funext c p
  simp only [readScales, updCore_vaRead]
theorem updCore_chainEntries : chainEntries (s.updCore core f) = chainEntries s := by
  funext c p
  simp only [chainEntries, updCore_vaRead]
theorem updCore_chainSiteList : chainSiteList (s.updCore core f) = chainSiteList s := by
  funext c p
  simp only [chainSiteList, updCore_vaRead]
theorem updCore_validatePlat : validatePlat (s.updCore core f) = validatePlat s := by
  funext c va
  unfold validatePlat readsStop chainStatus
  rw [updCore_rangeHost, updCore_rangeStop, updCore_vaRead, updCore_readScales, updCore_chainEntries, updCore_chainSiteList]

end

/-! ### Work that is paid for -/

theorem sameMemories_symm {s t : State} (h : SameMemories s t) : SameMemories t s := by
  obtain ⟨hnear, hfar, hhost⟩ := h
  exact ⟨hnear.symm, hfar.symm, hhost.symm⟩

theorem sameMemories_trans {s t u : State} (h : SameMemories s t) (k : SameMemories t u) : SameMemories s u := by
  obtain ⟨hnear, hfar, hhost⟩ := h
  obtain ⟨knear, kfar, khost⟩ := k
  exact ⟨hnear.trans knear, hfar.trans kfar, hhost.trans khost⟩

theorem payPart_sameMemories (s : State) (core : Nat) (u : EngineUnit) (n : Nat) : SameMemories (payPart s core u n).1 s := by
  unfold payPart spend
  repeat' split
  all_goals exact ⟨rfl, rfl, rfl⟩

/-- Paying for work changes no memory. -/
theorem payUnits_sameMemories (s : State) (core : Nat) (u : EngineUnit) (n : Nat) : SameMemories (payUnits s core u n).1 s := by
  have h := payPart_sameMemories s core u n
  unfold payUnits payEach
  dsimp only [List.foldl]
  repeat' split
  all_goals exact h

/-- A core whose credits cover work pays all of it (R465). -/
theorem payUnits_of_affords {s : State} {core n : Nat} (h : affords s core n = true) (u : EngineUnit) :
    (payUnits s core u n).2 = true := by
  have hpart : (payPart s core u n).2 = true := by
    unfold payPart
    split
    · next hp =>
      have hle : n ≤ tabGet 0 s.power.credits core := by simpa [affords, hp] using h
      simp only [decide_eq_true_eq]
      omega
    · rfl
  simp [payUnits, payEach, hpart]

/-- Work that its core's credits cover leaves the memories as it has made them. -/
theorem engEnd_sameMemories {s s1 : State} {core : Nat} (h : affords s core (s1.power.charge * creditUnit) = true) (r : Run)
    (u : EngineUnit) (st : Status) : SameMemories (engEnd s r core u (.done st s1)) s1 := by
  have hpaid : (payEach s [core] u fun _ => s1.power.charge * creditUnit).2 = true := payUnits_of_affords h u
  rw [engEnd, whenPaid, if_pos hpaid]
  exact payUnits_sameMemories ..

/-- A core whose vector unit works (R216). -/
def vectorAtWork (s : State) (core : Nat) : State := s.updCore core fun c => { c with vecMode := 1 }

/-- A vector command at the head of its unit's queue, whose work its core's credits cover, leaves the memories of its work
(R211, R214). -/
theorem vectorStep_sameMemories {s u : State} {core op : Nat} {r : Run} {q : Cmd} {st : Status}
    {body : State → Run → List Byte → EngOut} (hready : unitReady s core .vector = some (r, q))
    (hheld : vectorHeld s r core = false) (hop : cmdOp q.bytes = op)
    (hbody : body (vectorAtWork s core) r q.bytes = .done st u)
    (hpay : affords (vectorAtWork s core) core (u.power.charge * creditUnit) = true) :
    SameMemories (vectorStep s core op body) u := by
  rw [vectorAtWork] at hbody hpay
  simp only [vectorStep, hready, hop, hheld, hbody, ne_eq, not_true_eq_false, if_false, Bool.false_eq_true]
  exact engEnd_sameMemories hpay ..

/-! ### READOUT -/

/-- What READOUT and ENERGY fetch of a plat beside its planes (R118, R212; log entry 73). -/
def platOperands (p : PlatInfo) : List (Nat × Nat) := (p.va, 256) :: (scaleReads p ++ chainReads p)

/-- Where the spin planes of a READOUT lie (R212). -/
def readoutBase (p : PlatInfo) (bs : List Byte) : Nat :=
  if fieldOf bs 24 8 ≠ 0 then fieldOf bs 8 8 + 4096 else p.va + p.spinOff

/-- The spin planes that a READOUT fetches. -/
def readoutPlanes (p : PlatInfo) (bs : List Byte) : List (Nat × Nat) :=
  planeRanges p (readoutBase p bs) (namedReplicas (vecMask bs))

/-- The chain records that a READOUT writes (R121, R212). -/
def readoutRecords (s : State) (c : Nat) (p : PlatInfo) (bs : List Byte) : List (Nat × List Byte) :=
  (namedReplicas (vecMask bs)).zipIdx.map (fun m => (fieldOf bs 16 8 + m.2 * ((4 * p.chains + 63) / 64 * 64),
    chainRecords p (chainEntries s c p) (chainSiteList s c p) (fieldOf bs 1 1) (planeMask s c p (readoutBase p bs) m.1)))

theorem updCore_readoutRecords (s : State) (core : Nat) (f : Core → Core) :
    readoutRecords (s.updCore core f) = readoutRecords s := by
  funext c p bs
  simp only [readoutRecords, planeMask, updCore_chainEntries, updCore_chainSiteList, updCore_vaRead]

/-- A READOUT's fields and plat pass their checks, and nothing stops its accesses (R118, R212). -/
structure ReadoutGoes (s : State) (r : Run) (bs : List Byte) (p : PlatInfo) (sc : PlatScales) : Prop where
  fields : maskStatus bs 2 = none
  valid : validatePlat s r.key.ctx (if fieldOf bs 24 8 ≠ 0 then fieldOf bs 24 8 else fieldOf bs 8 8) = .ok p sc
  replicas : vecMask bs < 2 ^ p.replicas
  plat : ∀ a, a ∈ platOperands p → Fetches s r a.1 a.2
  planes : ∀ a, a ∈ readoutPlanes p bs → Fetches s r a.1 a.2
  writes : Delivers s r (readoutRecords s r.key.ctx p bs)

/-- A READOUT goes alike whatever its core's registers hold. -/
theorem ReadoutGoes.updCore {s : State} {r : Run} {bs : List Byte} {p : PlatInfo} {sc : PlatScales} (h : ReadoutGoes s r bs p sc)
    (core : Nat) (f : Core → Core) : ReadoutGoes (s.updCore core f) r bs p sc where
  fields := h.fields
  valid := (congrFun (congrFun (updCore_validatePlat s core f) _) _).trans h.valid
  replicas := h.replicas
  plat a ha := (updCore_fetches s core f).mpr (h.plat a ha)
  planes a ha := (updCore_fetches s core f).mpr (h.planes a ha)
  writes := by
    rw [updCore_readoutRecords]
    exact (updCore_delivers s core f).mpr h.writes

/-- The state that the work of a READOUT makes: the leaves of its plat's header, scales and chains and of the named planes
are cached when the records are written (R212, R399). -/
def readoutMade (s : State) (c : Nat) (p : PlatInfo) (bs : List Byte) : State :=
  written (touched s c (platOperands p ++ readoutPlanes p bs)) c (readoutRecords s c p bs)

theorem readoutBody_of_goes {s : State} {r : Run} {bs : List Byte} {p : PlatInfo} {sc : PlatScales}
    (h : ReadoutGoes s r bs p sc) : readoutBody s r bs = .done stDone (readoutMade s r.key.ctx p bs) := by
  have hread := readPlanes_of_fetches (fun a ha => (touched_ways s r.key.ctx (platOperands p)).fetches (h.planes a ha)) []
  rw [(touched_ways ..).planeMask, ← readoutPlanes, ← touched_append] at hread
  have hwrite := engWrite_of_delivers ((touched_ways s r.key.ctx (platOperands p ++ readoutPlanes p bs)).delivers h.writes)
  unfold readoutBody withPlat
  simp only [h.fields, h.valid, if_neg (Nat.not_le.mpr h.replicas)]
  refine (engReads_of_fetches h.plat _).trans ((hread _).trans ?_)
  rw [List.nil_append, List.zipIdx_map, List.map_map]
  exact hwrite _

end Sys2Proof.Laws
end

section
/-! READOUT against O23: a record that is written over the leaf of the next record's page. The device has that leaf cached,
since the plat's header lies in the same page (R399), so that it writes the record; O23 has the planes' leaves cached alone. -/

namespace Sys2Proof.Laws

open Sys2Proof.Machine Sys2Proof.Safety

/-! ### CRC-32C, each step evaluated before the next -/

/-- Steps of CRC-32C, one bit at a time. -/
def crcBits (n c : Nat) : Nat :=
  match n with
  | 0 => c
  | k + 1 =>
    match c % 2 with
    | 0 => crcBits k (c / 2)
    | _ + 1 => crcBits k (c / 2 ^^^ 0x82F6_3B78)

/-- Steps of CRC-32C, one byte at a time. -/
def crcBytes (bs : List Byte) (c : Nat) : Nat :=
  match bs with
  | [] => c
  | b :: r =>
    match crcBits 8 (c ^^^ b.toNat) with
    | 0 => crcBytes r 0
    | n + 1 => crcBytes r (n + 1)

theorem crc32Step_eq_crcBits (n c : Nat) : crc32Step n c = crcBits n c := by
  induction n generalizing c with
  | zero => rfl
  | succ k ih =>
    rw [crc32Step, crcBits]
    split
    · next h => simp only [h, ih]
    · next h => rw [Nat.mod_two_ne_one.mp h]; exact ih _

theorem foldl_crc32Step_eq_crcBytes (bs : List Byte) (c : Nat) :
    bs.foldl (fun c b => crc32Step 8 (c ^^^ b.toNat)) c = crcBytes bs c := by
  induction bs generalizing c with
  | nil => rfl
  | cons b r ih =>
    rw [List.foldl_cons, ih, crcBytes, crc32Step_eq_crcBits]
    split <;> next h => rw [h]

theorem crc32c_eq_crcBytes (bs : List Byte) : crc32c bs = crcBytes bs 0xFFFF_FFFF ^^^ 0xFFFF_FFFF := by
  rw [crc32c, foldl_crc32Step_eq_crcBytes]

/-! ### The state -/

/-- The READOUT: its plat at page 8184, its planes at 0x11000 in page 1, its records, of replicas 0 and 1, from the last 64
bytes of page 8183 on. -/
def readoutCmd : List Byte :=
  memReadN ([(0, 1, 0x44), (8, 8, 0x10000), (16, 8, 0x1FF7FFC0), (24, 8, 0x1FF80000), (32, 8, 3)].foldl
    (fun m f => memStore m f.1 f.2.1 f.2.2) []) 0 64

/-- A dispatched RUN on core 0. -/
def readoutRun : Run :=
  { key := ⟨0, 0, 0⟩, persist := false, cores := [0], program := 0, param := 0, hdr := ⟨0, 64, 0, 0, 0, 0, 0, 0⟩
    phase := .dispatched, status := none, detail := 0, timedOut := false, taken := [], seeds := [], seedWait := false
    spin := none, benches := [], issuedOps := [], benchWait := none, block := none, ended := none }

/-- Near memory. At 0 lies a table that is the root and the next tables too of the context's page tables: its entry 0 points
to itself, its entry 8184 is the leaf of page 8184, at 0x10000 (R397, R398). There lies a plat of one site, two replicas and
one chain, its two scales 1. -/
def readoutNear : Memory :=
  [(0, 1), (65472, 0x33), (65474, 1),
   (0x10000, 0x50), (0x10001, 0x4C), (0x10002, 0x41), (0x10003, 0x54), (0x10004, 1), (0x10008, 1), (0x1000C, 1), (0x10010, 1),
   (0x10012, 6), (0x10013, 2), (0x10018, 1), (0x1001C, 102), (0x1001D, 103), (0x1001E, 48), (0x1001F, 237), (0x10021, 8),
   (0x10029, 1), (0x10030, 64), (0x10031, 1), (0x10038, 128), (0x10039, 1), (0x10041, 2), (0x10048, 128), (0x10049, 2),
   (0x10051, 3), (0x10058, 64), (0x10059, 3), (0x10060, 1),
   (0x10102, 128), (0x10103, 63), (0x10106, 128), (0x10107, 63), (0x10306, 1)]

/-- The chip in operation with the READOUT at the head of core 0's vector unit; the leaves of page 1, at 0x10000, and of page
8183, at 0, are cached. -/
def readoutState : State :=
  { boot := { aonRst := true, bootDone := true, clocks := true, mode := 1, enabled := [0], mapGood := true }
    ctxs := [(0, { enable := true, plotValid := true, st := 1, tlb := [(1, 0x10033), (8183, 0x33)] })]
    plots := [(0, { mask := 1, st := 1, holder := some 0 })]
    cores := [(0, { plot := some 0, work := { run := some ⟨0, 0, 0⟩, vecU := { issued := 1, queue := [⟨1, readoutCmd⟩] } } })]
    runs := [readoutRun], near := readoutNear }

/-- The plat of the READOUT. -/
def readoutPlat : PlatInfo := platParse 0x1FF80000 (memReadN readoutNear 0x10000 256)

/-! ### What O23 asks of a READOUT -/

/-- By O23 the memories are the same whether or not the leaves of the plat are cached when the records are written. -/
theorem readoutMade_sameMemories (h : Obligations.VectorResultsComplete) {s : State} {core : Nat} {r : Run} {q : Cmd}
    {p : PlatInfo} {sc : PlatScales} (hready : unitReady s core .vector = some (r, q)) (hheld : vectorHeld s r core = false)
    (hop : cmdOp q.bytes = 0x44) (hgoes : ReadoutGoes s r q.bytes p sc)
    (hpay : affords (vectorAtWork s core) core
      ((readoutMade (vectorAtWork s core) r.key.ctx p q.bytes).power.charge * creditUnit) = true) :
    SameMemories (readoutMade (vectorAtWork s core) r.key.ctx p q.bytes)
      (written (touched s r.key.ctx (readoutPlanes p q.bytes)) r.key.ctx (readoutRecords s r.key.ctx p q.bytes)) := by
  have hbody : readoutBody (vectorAtWork s core) r q.bytes = _ := readoutBody_of_goes (hgoes.updCore core _)
  have hcovered : affords (vectorAtWork s core) core (runUp (readoutBody (vectorAtWork s core) r q.bytes)) = true := by
    rw [hbody]
    exact hpay
  obtain ⟨hfields, hvalid, hreplicas, hplat, hplanes, hwrites⟩ := hgoes
  obtain ⟨-, hread, -⟩ := h
  have hclause := hread s core [] r q p sc hready hheld
  simp only [hop, true_and] at hclause
  obtain ⟨hclause, -⟩ := hclause (fun k hk => hplanes _ (List.mem_map_of_mem hk)) hreplicas hplat
  obtain ⟨t, hexec, -, hsame⟩ := hclause trivial hfields hvalid hwrites hcovered
  have hstep : vectorStep s core 0x44 readoutBody = t := Host.Outcome.next.inj hexec
  have hmade := vectorStep_sameMemories hready hheld hop hbody hpay
  rw [hstep] at hmade
  exact sameMemories_trans (sameMemories_symm hmade) hsame

/-! ### A READOUT that does otherwise -/

theorem readoutNear_header : platHeaderStatus (memReadN readoutNear 0x10000 256) = none := by
  simp only [platHeaderStatus, crc32c_eq_crcBytes]
  decide +kernel

theorem readoutState_valid :
    validatePlat readoutState 0 0x1FF80000 = .ok readoutPlat (readScales readoutState 0 readoutPlat) := by
  have hread : vaRead readoutState 0 0x1FF80000 256 = memReadN readoutNear 0x10000 256 := by decide +kernel
  have hparse : platParse 0x1FF80000 (memReadN readoutNear 0x10000 256) = readoutPlat := rfl
  simp only [validatePlat, hread, readoutNear_header, hparse]
  decide +kernel

theorem readoutState_goes :
    ReadoutGoes readoutState readoutRun readoutCmd readoutPlat (readScales readoutState 0 readoutPlat) where
  fields := by decide +kernel
  valid := readoutState_valid
  replicas := by decide +kernel
  plat := by decide +kernel
  planes := by decide +kernel
  writes := by decide +kernel

/-- The header's first byte is written over by the READOUT, and stays where the planes' leaves alone are cached. -/
theorem readoutState_differs :
    memRead (readoutMade (vectorAtWork readoutState 0) 0 readoutPlat readoutCmd).near 0x10000 = 0 ∧
    memRead (written (touched readoutState 0 (readoutPlanes readoutPlat readoutCmd)) 0
      (readoutRecords readoutState 0 readoutPlat readoutCmd)).near 0x10000 = 0x50 := by decide +kernel

/-- Refutes O23: READOUT caches the leaves of its plat too, so that the second record goes to a page whose leaf the first has
written over in memory; by O23, which has the planes' leaves cached alone, that record is lost. -/
theorem not_vectorResultsComplete : ¬ Obligations.VectorResultsComplete := by
  intro h
  obtain ⟨hnear, -⟩ := readoutMade_sameMemories h (core := 0) (q := ⟨1, readoutCmd⟩) (by decide +kernel) (by decide +kernel)
    (by decide +kernel) readoutState_goes (by decide +kernel)
  obtain ⟨hover, hkept⟩ := readoutState_differs
  have hbyte : (0 : Byte) = 0x50 := hover.symm.trans ((congrArg (memRead · 0x10000) hnear).trans hkept)
  exact absurd hbyte (by decide)

end Sys2Proof.Laws
end

section
/-! The completion of a unit's head command: O25. -/

namespace Sys2Proof.Laws

open Sys2Proof.Machine Sys2Proof.Safety

/-! ### The head command leaves its queue -/

/-- Completing a command changes of the queues its unit's alone. -/
theorem completeHead_unitQ_other {u v : EngineUnit} (h : v ≠ u) (n : Nat) (st : Status) (w : Work) :
    (completeHead u n st w).unitQ v = w.unitQ v :=
  setUnitQ_unitQ_other w _ h

theorem completeHead_unitQ_same (u : EngineUnit) (n : Nat) (st : Status) (w : Work) :
    (completeHead u n st w).unitQ u = { w.unitQ u with
      queue := (w.unitQ u).queue.drop 1, running := false, result := none, moved := 0, paid := 0
      done := ((n, st) :: (w.unitQ u).done).take 64 } :=
  setUnitQ_unitQ_same w u _

theorem completeHead_store (u : EngineUnit) (n : Nat) (st : Status) (w : Work) :
    (completeHead u n st w).store = w.store := by
  cases u <;> rfl

theorem lastStatus_work (u : EngineUnit) (st : Status) (c : Core) : (lastStatus u st c).work = c.work := by
  cases u <;> rfl

/-- The state after the head command of a unit has left its queue. -/
def headDone (s : State) (core : Nat) (u : EngineUnit) (n : Nat) (st : Status) : State :=
  s.updCore core (fun c => lastStatus u st { c with work := completeHead u n st c.work })

theorem headDone_coreAt (s : State) (core : Nat) (u : EngineUnit) (n : Nat) (st : Status) :
    (headDone s core u n st).coreAt core =
      lastStatus u st { s.coreAt core with work := completeHead u n st (s.workAt core) } :=
  updCore_coreAt_same ..

theorem headDone_workAt (s : State) (core : Nat) (u : EngineUnit) (n : Nat) (st : Status) :
    (headDone s core u n st).workAt core = completeHead u n st (s.workAt core) := by
  rw [State.workAt, headDone_coreAt, lastStatus_work]

/-- What the statuses and queues of a core are after its head command has completed (R159, R216, R314). -/
structure HeadDone (s t : State) (core : Nat) (u : EngineUnit) (rest : List Cmd) (n : Nat) (st : Status) : Prop where
  memories : SameMemories t s
  unit : (t.workAt core).unitQ u = { (s.workAt core).unitQ u with
    queue := rest, running := false, result := none, moved := 0, paid := 0
    done := ((n, st) :: ((s.workAt core).unitQ u).done).take 64 }
  others : ∀ w, w ≠ u → (t.workAt core).unitQ w = (s.workAt core).unitQ w
  store : (t.workAt core).store = (s.workAt core).store
  spin : (t.coreAt core).spinLast = if u = .spin then st else (s.coreAt core).spinLast
  dense : (t.coreAt core).denseLast = if u = .dense then st else (s.coreAt core).denseLast
  vector : (t.coreAt core).vecLast = if u = .vector then st else (s.coreAt core).vecLast

theorem headDone_done {s : State} {core : Nat} {u : EngineUnit} {q : Cmd} {rest : List Cmd} (n : Nat) (st : Status)
    (h : ((s.workAt core).unitQ u).queue = q :: rest) : HeadDone s (headDone s core u n st) core u rest n st where
  memories := ⟨rfl, rfl, rfl⟩
  unit := by rw [headDone_workAt, completeHead_unitQ_same, h]; rfl
  others w hw := by rw [headDone_workAt, completeHead_unitQ_other hw]
  store := by rw [headDone_workAt, completeHead_store]
  spin := by rw [headDone_coreAt]; cases u <;> rfl
  dense := by rw [headDone_coreAt]; cases u <;> rfl
  vector := by rw [headDone_coreAt]; cases u <;> rfl

/-- What has been said of a state holds too of one that differs from it in the RUNs alone. -/
theorem HeadDone.updRun {s t : State} {core : Nat} {u : EngineUnit} {rest : List Cmd} {n : Nat} {st : Status}
    (h : HeadDone s t core u rest n st) (k : RunKey) (f : Run → Run) : HeadDone s (t.updRun k f) core u rest n st :=
  ⟨h.memories, h.unit, h.others, h.store, h.spin, h.dense, h.vector⟩

/-! ### The end of the RUN -/

/-- The state after the RUN has ended where the status ends it (R315). -/
def runEnded (s : State) (r : Run) (st : Status) : State :=
  if endsRun st ∧ r.status = none then s.updRun r.key (fun x => { x with status := some st, phase := .stopping }) else s

theorem serveIdle_unheld {s : State} {k : RunKey} {r : Run} (hr : s.findRun k = some r) (hb : r.benchWait = none)
    (hs : (s.ctxAt k.ctx).snapRun ≠ some k) : serveIdle s k = s := by
  unfold serveIdle
  rw [hr]
  dsimp only
  split
  · rw [if_pos ⟨by simp [hb], hs⟩]
  · rfl

theorem runEnded_ctxAt (s : State) (r : Run) (st : Status) (c : Nat) : (runEnded s r st).ctxAt c = s.ctxAt c := by
  unfold runEnded
  split <;> rfl

/-- The RUN after its end has no other benchmark that waits than before. -/
theorem runEnded_findRun {s : State} {r : Run} (h : s.findRun r.key = some r) (st : Status) :
    ∃ r', (runEnded s r st).findRun r.key = some r' ∧ r'.benchWait = r.benchWait := by
  unfold runEnded
  split
  · exact ⟨_, updRun_findRun h (fun _ => rfl), rfl⟩
  · exact ⟨r, h, rfl⟩

/-- A head command whose work is done leaves its queue and ends its RUN where its status does; with no benchmark and no
snapshot waiting on a spin run nothing more happens (R313 to R315, R329). -/
theorem completeUnit_eq {s : State} {core : Nat} {u : EngineUnit} {r : Run} {q : Cmd} {rest : List Cmd} {st : Status}
    (hheld : u = .spin → r.benchWait = none ∧ (s.ctxAt r.key.ctx).snapRun ≠ some r.key) (hr : s.runOf core = some r)
    (hq : ((s.workAt core).unitQ u).queue = q :: rest) (hst : ((s.workAt core).unitQ u).result = some st) :
    completeUnit s core u = runEnded (headDone s core u q.ordinal st) r st := by
  have hfind : (headDone s core u q.ordinal st).findRun r.key = some r := (findRun_of_runOf hr : s.findRun r.key = some r)
  have hunit : completeUnit s core u = if u = .spin then serveIdle (runEnded (headDone s core u q.ordinal st) r st) r.key
      else runEnded (headDone s core u q.ordinal st) r st := by
    simp only [completeUnit, hr, hq, hst]
    rfl
  rw [hunit]
  split
  · next hu =>
    obtain ⟨hb, hs⟩ := hheld hu
    obtain ⟨r', hr', hb'⟩ := runEnded_findRun hfind st
    exact serveIdle_unheld hr' (hb'.trans hb) (by rw [runEnded_ctxAt]; exact hs)
  · rfl

/-- Settles O25: the head command leaves its queue, and where its status ends the RUN, the RUN ends. -/
theorem commandsComplete : Obligations.CommandsComplete := by
  intro s core u r q rest st hheld hr hq hst
  have hfind : (headDone s core u q.ordinal st).findRun r.key = some r := (findRun_of_runOf hr : s.findRun r.key = some r)
  have hdone : HeadDone s (runEnded (headDone s core u q.ordinal st) r st) core u rest q.ordinal st := by
    unfold runEnded
    split
    · exact (headDone_done q.ordinal st hq).updRun ..
    · exact headDone_done q.ordinal st hq
  obtain ⟨hmem, hunit, hothers, hstore, hspin, hdense, hvec⟩ := hdone
  refine ⟨_, congrArg (fun t => Host.Outcome.next (wakeWaits t)) (completeUnit_eq hheld hr hq hst), hmem, hunit, hothers,
    hstore,
    hspin, hdense, hvec, fun he hn => ?_, fun he => ?_⟩
  · rw [runEnded, if_pos ⟨he, hn⟩]
    exact updRun_findRun hfind (fun _ => rfl)
  · rw [runEnded, if_neg (by simp [he])]
    rfl

end Sys2Proof.Laws
end

section
/-! The loads of the acceptance table and of the exchange table: O17. -/

namespace Sys2Proof.Laws

open Sys2Proof.Machine Sys2Proof.Safety

/-! ### Bytes copied from a core's store -/

theorem memReadN_getD (m : Memory) (a : Nat) {n i : Nat} (h : i < n) : (memReadN m a n).getD i 0 = memRead m (a + i) := by
  induction n generalizing a i with
  | zero => omega
  | succ k ih =>
    cases i with
    | zero => rfl
    | succ j =>
      rw [memReadN, List.getD_cons_succ, ih (a + 1) (by omega)]
      congr 1
      omega

/-- A table of 32,768 bytes of a core's store (R155). -/
def tableOf (s : State) (core off : Nat) : Memory := memWriteN [] 0 (storeRead s core off 32768)

theorem memRead_tableOf (s : State) (core off : Nat) {i : Nat} (h : i < 32768) :
    memRead (tableOf s core off) i = storeByte s core (off + i) := by
  rw [tableOf, memRead_memWriteN rfl, if_pos ⟨Nat.zero_le i, by rw [storeRead, memReadN_length]; omega⟩]
  exact memReadN_getD _ _ h

/-! ### A unit's status -/

theorem setResult_workAt (u : EngineUnit) (st : Status) (s : State) (core : Nat) :
    (setResult u st s core).workAt core =
      (s.workAt core).setUnitQ u { (s.workAt core).unitQ u with running := true, result := some st } :=
  updWork_workAt_same ..

/-- A status given to a unit's head command changes nothing else of its core's queues and control cores. -/
theorem setResult_endsUnit (u : EngineUnit) (st : Status) (s : State) (core : Nat) :
    EndsUnit s (setResult u st s core) core u st := by
  refine ⟨?_, fun w hw => ?_, ?_, ?_⟩
  · rw [setResult_workAt, setUnitQ_unitQ_same]
  · rw [setResult_workAt, setUnitQ_unitQ_other _ _ hw]
  · rw [setResult_workAt]; cases u <;> rfl
  · rw [setResult_workAt]; cases u <;> rfl

theorem setResult_store (u : EngineUnit) (st : Status) (s : State) (core : Nat) :
    ((setResult u st s core).workAt core).store = (s.workAt core).store := by
  rw [setResult_workAt]
  cases u <;> rfl

/-! ### The loads -/

/-- A table load whose fields pass its checks, on words without an error, puts the bytes of the core store into its table
and ends DONE (R155, R174). -/
theorem loadTable_ok {s : State} {core op : Nat} {put : Ctx → Memory → Ctx} {r : Run} {q : Cmd}
    (hready : unitReady s core .spin = some (r, q)) (hop : cmdOp q.bytes = op)
    (hturn : turnOf (s.workAt core) .spin q.ordinal = true) (hcheck : tableCheck r q.bytes = none)
    (hbad : storeBad s core (fieldOf q.bytes 8 4) 32768 = none) :
    loadTable s core op put = setResult .spin stDone (s.updCtx r.key.ctx
      (fun x => put x (tableOf s core (fieldOf q.bytes 8 4)))) core := by
  simp [loadTable, tableOf, hready, hop, hturn, hcheck, hbad]

theorem tableCheck_none {r : Run} {bs : List Byte} (hres : fieldOf bs 1 7 = 0) (hend : fieldOf bs 12 52 = 0)
    (halign : fieldOf bs 8 4 % 64 = 0) (hin : fieldOf bs 8 4 + 32768 ≤ r.hdr.dataBytes) : tableCheck r bs = none := by
  simp [tableCheck, nonzero, outArea, inArea, hres, hend, halign, hin]

/-- What a status DONE leaves after a change of a context. -/
theorem setResult_updCtx_done (s : State) (core ctx : Nat) (f : Ctx → Ctx) :
    (setResult .spin stDone (s.updCtx ctx f) core).ctxAt ctx = f (s.ctxAt ctx) ∧
    EndsUnit s (setResult .spin stDone (s.updCtx ctx f) core) core .spin stDone ∧
    SameMemories (setResult .spin stDone (s.updCtx ctx f) core) s ∧
    ((setResult .spin stDone (s.updCtx ctx f) core).workAt core).store = (s.workAt core).store := by
  refine ⟨?_, setResult_endsUnit .., ⟨rfl, rfl, rfl⟩, setResult_store ..⟩
  rw [setResult, updWork_ctxAt, updCtx_ctxAt_same]

/-- Settles O17: both loads put the bytes of the core store into their own table of the context. -/
theorem tableLoadsComplete : Obligations.TableLoadsComplete := by
  intro s core r q hready hturn hres hend halign hin hbad
  have hcheck := tableCheck_none hres hend halign hin
  refine ⟨fun hop => ?_, fun hop => ?_⟩
  · have hload := loadTable_ok (put := fun x m => { x with accTable := m }) hready hop hturn hcheck hbad
    obtain ⟨hctx, hdone⟩ := setResult_updCtx_done s core r.key.ctx
      (fun x => { x with accTable := tableOf s core (fieldOf q.bytes 8 4) })
    refine ⟨_, congrArg Host.Outcome.next hload, fun i hi => ?_, by rw [hctx], hdone⟩
    rw [hctx]
    dsimp only
    rw [memRead_tableOf s core _ hi]
  · have hload := loadTable_ok (put := fun x m => { x with exchTable := m }) hready hop hturn hcheck hbad
    obtain ⟨hctx, hdone⟩ := setResult_updCtx_done s core r.key.ctx
      (fun x => { x with exchTable := tableOf s core (fieldOf q.bytes 8 4) })
    refine ⟨_, congrArg Host.Outcome.next hload, fun i hi => ?_, by rw [hctx], hdone⟩
    rw [hctx]
    dsimp only
    rw [memRead_tableOf s core _ hi]

end Sys2Proof.Laws
end

section
/-! What accesses of memory rest on: two states with the same memories, tables and cached leaves translate alike, meet the
same stops, read the same bytes, and are left with the same memories by the same writes. -/

namespace Sys2Proof.Laws

open Sys2Proof.Machine Sys2Proof.Safety

/-! ### States that accesses do not tell apart -/

/-- The parts of the state, beside the contexts, that accesses depend on. -/
def accessParts (s : State) :=
  ((s.near, s.far, s.host), (s.hostPages, s.ats, s.badLines), (s.boot, s.fuses, s.poolNear, s.poolFar))

/-- Two states that no access of memory tells apart. -/
structure Twin (s t : State) : Prop where
  parts : accessParts t = accessParts s
  leaves : ∀ c p, tabFind (t.ctxAt c).tlb p = tabFind (s.ctxAt c).tlb p
  root : ∀ c, (t.ctxAt c).ptRoot = (s.ctxAt c).ptRoot

section
variable {s t u : State}

theorem Twin.refl (s : State) : Twin s s := ⟨rfl, fun _ _ => rfl, fun _ => rfl⟩

theorem Twin.symm (h : Twin s t) : Twin t s :=
  ⟨h.parts.symm, fun c p => (h.leaves c p).symm, fun c => (h.root c).symm⟩

theorem Twin.trans (h : Twin s t) (k : Twin t u) : Twin s u :=
  ⟨k.parts.trans h.parts, fun c p => (k.leaves c p).trans (h.leaves c p), fun c => (k.root c).trans (h.root c)⟩

/-- A change of none of the parts. -/
theorem Twin.frame (hp : accessParts t = accessParts s := by rfl) (hc : t.ctxs = s.ctxs := by rfl) : Twin s t :=
  ⟨hp, fun c _ => by rw [State.ctxAt, hc]; rfl, fun c => by rw [State.ctxAt, hc]; rfl⟩

/-- A change of a context that leaves its table and its cached leaves alone. -/
theorem Twin.updCtx (c : Nat) {f : Ctx → Ctx} (hl : ∀ x, (f x).tlb = x.tlb := by exact fun _ => rfl)
    (hr : ∀ x, (f x).ptRoot = x.ptRoot := by exact fun _ => rfl) : Twin s (s.updCtx c f) := by
  refine ⟨rfl, fun d p => ?_, fun d => ?_⟩ <;> by_cases hd : d = c
  · rw [hd, updCtx_ctxAt_same, hl]
  · rw [updCtx_ctxAt_other s f hd]
  · rw [hd, updCtx_ctxAt_same, hr]
  · rw [updCtx_ctxAt_other s f hd]

/-- Changes folded over a list. -/
theorem Twin.foldl {α : Type} {f : State → α → State} (hf : ∀ t a, Twin t (f t a)) (s : State) (l : List α) :
    Twin s (l.foldl f s) := by
  induction l generalizing s with
  | nil => exact .refl s
  | cons a l ih => exact (hf s a).trans (ih _)

/-- The same changes folded over a list. -/
theorem Twin.foldl_both {α : Type} {f g : State → α → State} (hf : ∀ s t a, Twin s t → Twin (f s a) (g t a)) (h : Twin s t)
    (l : List α) : Twin (l.foldl f s) (l.foldl g t) := by
  induction l generalizing s t with
  | nil => exact h
  | cons a l ih => exact ih (hf s t a h)

theorem Twin.sameMemories (h : Twin s t) : SameMemories t s := by
  have e := h.parts
  simp only [accessParts, Prod.mk.injEq] at e
  exact e.1

theorem Twin.eq (h : Twin s t) : t = { s with
    pending := t.pending, fresh := t.fresh, out := t.out, pris := t.pris, rowErrors := t.rowErrors, lastCtx := t.lastCtx
    ctxs := t.ctxs, plots := t.plots, cores := t.cores, runs := t.runs, rng := t.rng, power := t.power, fab := t.fab
    ports := t.ports, services := t.services, mgmt := t.mgmt, flash := t.flash, badAccess := t.badAccess
    badOffset := t.badOffset, bar4Near := t.bar4Near, bar4Far := t.bar4Far, bar4Log2 := t.bar4Log2
    msixTable := t.msixTable, msixPending := t.msixPending } := by
  have e := h.parts
  simp only [accessParts, Prod.mk.injEq] at e
  obtain ⟨⟨hn, hf, hh⟩, ⟨hp, ha, hb⟩, hbo, hfu, hpn, hpf⟩ := e
  rw [← hn, ← hf, ← hh, ← hp, ← ha, ← hb, ← hbo, ← hfu, ← hpn, ← hpf]

/-! ### Translations, stops and bytes -/

theorem Twin.walkPage (h : Twin s t) (c page : Nat) : Machine.walkPage t c page = Machine.walkPage s c page := by
  unfold Machine.walkPage
  rw [h.root, h.eq]
  rfl

theorem Twin.leafOf (h : Twin s t) (c page : Nat) : Machine.leafOf t c page = Machine.leafOf s c page := by
  unfold Machine.leafOf
  rw [h.leaves, h.walkPage]

theorem Twin.xlate (h : Twin s t) (c va : Nat) (write : Bool) : Machine.xlate t c va write = Machine.xlate s c va write := by
  unfold Machine.xlate
  rw [h.leafOf, h.eq]

theorem Twin.rangeStop (h : Twin s t) (c va n : Nat) (write : Bool) :
    Machine.rangeStop t c va n write = Machine.rangeStop s c va n write := by
  have e : pieceStop t c write = pieceStop s c write := by
    funext p
    unfold pieceStop
    rw [h.xlate, h.eq]
    rfl
  unfold Machine.rangeStop
  rw [e]

theorem Twin.vaRead (h : Twin s t) (c va n : Nat) : Machine.vaRead t c va n = Machine.vaRead s c va n := by
  unfold Machine.vaRead
  simp only [h.xlate]
  rw [h.eq]
  rfl

theorem Twin.platByte (h : Twin s t) (c va : Nat) : Machine.platByte t c va = Machine.platByte s c va := by
  funext off
  rw [Machine.platByte, h.vaRead]
  rfl

theorem Twin.rangeHost (h : Twin s t) (c va n : Nat) : Machine.rangeHost t c va n = Machine.rangeHost s c va n := by
  unfold Machine.rangeHost
  simp only [h.leafOf]

theorem Twin.nearSide (h : Twin s t) (c va : Nat) : Machine.nearSide t c va = Machine.nearSide s c va := by
  unfold Machine.nearSide
  rw [h.leafOf]

theorem Twin.nearBytes (h : Twin s t) (c va n : Nat) : Machine.nearBytes t c va n = Machine.nearBytes s c va n := by
  unfold Machine.nearBytes
  simp only [h.nearSide]

theorem Twin.nearCost (h : Twin s t) (c : Nat) (l : List (Nat × Nat)) : Machine.nearCost t c l = Machine.nearCost s c l := by
  unfold Machine.nearCost
  simp only [h.nearBytes]

theorem Twin.writesStop (h : Twin s t) (c : Nat) (ws : List (Nat × List Byte)) :
    Machine.writesStop t c ws = Machine.writesStop s c ws := by
  unfold Machine.writesStop
  simp only [h.rangeStop]

theorem Twin.planeWrite (h : Twin s t) (c : Nat) (p : PlatInfo) (spins : List Nat) :
    Machine.planeWrite t c p spins = Machine.planeWrite s c p spins := by
  funext k
  simp only [Machine.planeWrite, h.vaRead]

/-! ### Writes -/

theorem Twin.levelMem (h : Twin s t) (l : Level) : Machine.levelMem t l = Machine.levelMem s l := by
  rw [h.eq]
  cases l <;> rfl

theorem Twin.setLevel (h : Twin s t) (l : Level) (m : Memory) : Twin (Machine.setLevel s l m) (Machine.setLevel t l m) := by
  have e := h.parts
  simp only [accessParts, Prod.mk.injEq] at e
  obtain ⟨⟨hn, hf, hh⟩, hrest⟩ := e
  have hparts : accessParts (Machine.setLevel t l m) = accessParts (Machine.setLevel s l m) := by
    cases l <;> simp [accessParts, Machine.setLevel, hn, hf, hh, hrest]
  cases l <;> exact ⟨hparts, h.leaves, h.root⟩

theorem Twin.vaWrite (h : Twin s t) (c va : Nat) (bs : List Byte) : Twin (vaWrite s c va bs) (vaWrite t c va bs) := by
  refine Twin.foldl_both (fun s t p h => ?_) h _
  unfold pieceWrite
  rw [h.xlate]
  split
  · rw [h.levelMem]
    exact h.setLevel ..
  · exact h

end

end Sys2Proof.Laws
end

section
/-! The governor: which cores it paces, and what paying for work changes (R33, R464, R465). -/

namespace Sys2Proof.Laws

open Sys2Proof.Machine Sys2Proof.Safety

/-! ### Which cores are paced -/

/-- Two states in which the governor paces the same cores. -/
structure SamePace (s t : State) : Prop where
  reserved : ∀ n, reservedCore t n = reservedCore s n
  draw : ∀ n, fullDraw t (t.workAt n) = fullDraw s (s.workAt n)
  listed : ∀ n, (tabFind t.power.credits n).isSome = (tabFind s.power.credits n).isSome

/-- The parts of the state that pacing and the chip's power state rest on. -/
def paceParts (s : State) := (s.cores, s.runs, s.boot, s.power.credits, s.power.chip, fun n => (s.plotAt n).st)

/-- Whether a RUN's spin run is streamed. -/
def runStreamed (r : Run) : Bool := r.spin.any SpinRun.streamed

section
variable {s t u : State}

theorem SamePace.refl (s : State) : SamePace s s := ⟨fun _ => rfl, fun _ => rfl, fun _ => rfl⟩

theorem SamePace.trans (h : SamePace s t) (k : SamePace t u) : SamePace s u :=
  ⟨fun n => (k.reserved n).trans (h.reserved n), fun n => (k.draw n).trans (h.draw n),
    fun n => (k.listed n).trans (h.listed n)⟩

theorem SamePace.paced (h : SamePace s t) (n : Nat) : Machine.paced t n = Machine.paced s n := by
  rw [Machine.paced, Machine.paced, h.reserved, h.draw, h.listed]

/-- Credits cover the same work where a core's are the same. -/
theorem SamePace.affords (h : SamePace s t) (hc : t.power.credits = s.power.credits) (core n : Nat) :
    Machine.affords t core n = Machine.affords s core n := by
  rw [Machine.affords, Machine.affords, h.paced, hc]

theorem reservedCore_congr (hplot : ∀ n, (t.coreAt n).plot = (s.coreAt n).plot) (hst : ∀ n, (t.plotAt n).st = (s.plotAt n).st)
    (n : Nat) : reservedCore t n = reservedCore s n := by
  unfold reservedCore
  rw [hplot]
  simp only [hst]

theorem SamePace.of_parts (e : paceParts t = paceParts s) : SamePace s t := by
  simp only [paceParts, Prod.mk.injEq] at e
  obtain ⟨hcores, hruns, hboot, hcredits, -, hst⟩ := e
  have hcore (n : Nat) : t.coreAt n = s.coreAt n := by rw [State.coreAt, hcores]; rfl
  have hfind : t.findRun = s.findRun := by funext k; rw [State.findRun, hruns]; rfl
  refine ⟨reservedCore_congr (fun n => by rw [hcore]) (congrFun hst), fun n => ?_, fun n => by rw [hcredits]⟩
  simp only [fullDraw, streamsPlat, State.workAt, hcore, hfind, State.coreCount, hboot]
  rfl

/-- A change of a core that leaves its plot, its RUN and which queues are empty. -/
theorem SamePace.updCore (s : State) (core : Nat) {f : Core → Core}
    (hplot : ∀ c, (f c).plot = c.plot := by exact fun _ => rfl)
    (hrun : ∀ c, (f c).work.run = c.work.run := by exact fun _ => rfl)
    (hspin : ∀ c, (f c).work.spinU.queue = c.work.spinU.queue := by exact fun _ => rfl)
    (hdense : ∀ c, (f c).work.denseU.queue = c.work.denseU.queue := by exact fun _ => rfl)
    (hdma : ∀ c, (f c).work.dmaU.queue = c.work.dmaU.queue := by exact fun _ => rfl) : SamePace s (s.updCore core f) := by
  refine ⟨reservedCore_congr (fun n => ?_) (fun _ => rfl), fun n => ?_, fun _ => rfl⟩ <;> by_cases hn : n = core
  · rw [hn, updCore_coreAt_same, hplot]
  · rw [updCore_coreAt_other s f hn]
  · simp only [fullDraw, streamsPlat, State.workAt, hn, updCore_coreAt_same, hrun, hspin, hdense, hdma]
    rfl
  · simp only [fullDraw, streamsPlat, State.workAt, updCore_coreAt_other s f hn]
    rfl

/-- A RUN changed but for its key leaves the others. -/
theorem updRun_findRun_other {k k' : RunKey} {f : Run → Run} (hf : ∀ q, (f q).key = q.key) (h : k' ≠ k) :
    (s.updRun k f).findRun k' = s.findRun k' := by
  unfold State.findRun State.updRun
  rw [List.find?_map]
  have hp : ((fun r : Run => r.key == k') ∘ fun q => if q.key = k then f q else q) = fun q => q.key == k' := by
    funext q
    by_cases e : q.key = k <;> simp [e, hf]
  rw [hp]
  cases hfind : s.runs.find? (fun q => q.key == k') with
  | none => rfl
  | some r =>
    have hr : r.key = k' := by simpa using List.find?_some hfind
    simp [hr, h]

/-- A change of a RUN that leaves its key and whether its spin run is streamed. -/
theorem SamePace.updRun {k : RunKey} {r : Run} (h : s.findRun k = some r) {f : Run → Run} (hf : ∀ q, (f q).key = q.key)
    (hs : runStreamed (f r) = runStreamed r) : SamePace s (s.updRun k f) := by
  refine ⟨fun _ => rfl, fun n => ?_, fun _ => rfl⟩
  have hstream (o : Option RunKey) : ((o.bind (s.updRun k f).findRun).bind Run.spin).any SpinRun.streamed =
      ((o.bind s.findRun).bind Run.spin).any SpinRun.streamed := by
    cases o with
    | none => rfl
    | some k' =>
      by_cases hk : k' = k
      · subst hk
        rw [Option.bind_some, Option.bind_some, updRun_findRun h hf, h]
        exact hs
      · rw [Option.bind_some, Option.bind_some, updRun_findRun_other hf hk]
  simp only [fullDraw, streamsPlat, updRun_workAt, hstream]
  rfl

end

/-! ### Marks of a timed plot -/

section
variable (s : State)

theorem raiseVector_pace (v : Nat) : paceParts (raiseVector s v) = paceParts s := by
  unfold raiseVector
  repeat' split
  all_goals rfl

theorem raiseEvent_pace (b : Nat) : paceParts (raiseEvent s b) = paceParts s := by
  unfold raiseEvent
  dsimp only
  rw [raiseVector_pace]
  split <;> rfl

/-- A plot whose state does not change. -/
theorem setPlot_st {p : Nat} {q : Plot} (h : q.st = (s.plotAt p).st) (n : Nat) :
    ((s.setPlot p q).plotAt n).st = (s.plotAt n).st := by
  by_cases hn : n = p
  · rw [hn, setPlot_plotAt_same, h]
  · rw [setPlot_plotAt_other s q hn]

theorem timingBroken_pace (p c : Nat) : paceParts (timingBroken s p c) = paceParts s := by
  unfold timingBroken
  dsimp only
  split
  · rw [raiseEvent_pace]
    refine congrArg (fun st => (s.cores, s.runs, s.boot, s.power.credits, s.power.chip, st)) (funext fun n => ?_)
    exact setPlot_st s (p := p) (q := { s.plotAt p with broken := c :: (s.plotAt p).broken }) rfl n
  · rfl

theorem markT_pace (c : Nat) : paceParts (markT s c) = paceParts s := by
  unfold markT
  split
  · exact timingBroken_pace s _ _
  · rfl

theorem markUnlocked_pace (c va n : Nat) : paceParts (markUnlocked s c va n) = paceParts s := by
  unfold markUnlocked
  split
  · rfl
  · exact markT_pace s c

theorem markAccess_pace (c va n : Nat) : paceParts (markAccess s c va n) = paceParts s := by
  unfold markAccess
  dsimp only
  split
  · rw [markT_pace, markUnlocked_pace]
  · exact markUnlocked_pace s c va n

theorem markReads_pace (c : Nat) (l : List (Nat × Nat)) : paceParts (markReads s c l) = paceParts s := by
  unfold markReads
  induction l generalizing s with
  | nil => rfl
  | cons a l ih => exact (ih _).trans (markAccess_pace s c a.1 a.2)

theorem markUses_pace (c : Nat) (l : List (Nat × Nat)) : paceParts (markUses s c l) = paceParts s := by
  unfold markUses
  induction l generalizing s with
  | nil => rfl
  | cons a l ih => exact (ih _).trans (markUnlocked_pace s c a.1 a.2)

end

/-! ### Payments -/

/-- What payments for work of units of a kind change: credits, and what commands have paid. -/
structure Paid (u : EngineUnit) (s t : State) : Prop where
  rest : t = { s with cores := t.cores, power := { s.power with credits := t.power.credits } }
  core : ∀ n, ∃ p, t.coreAt n = { s.coreAt n with work := (s.workAt n).setUnitQ u { (s.workAt n).unitQ u with paid := p } }
  pace : SamePace s t

section
variable {u : EngineUnit} {s t v : State}

theorem setUnitQ_setUnitQ (w : Work) (u : EngineUnit) (q q' : UnitQ) : (w.setUnitQ u q).setUnitQ u q' = w.setUnitQ u q' := by
  cases u <;> rfl

theorem Paid.refl (u : EngineUnit) (s : State) : Paid u s s :=
  ⟨rfl, fun n => ⟨((s.workAt n).unitQ u).paid, by cases u <;> rfl⟩, .refl s⟩

theorem Paid.trans (h : Paid u s t) (k : Paid u t v) : Paid u s v := by
  refine ⟨?_, fun n => ?_, h.pace.trans k.pace⟩
  · have hk := k.rest
    rw [h.rest] at hk
    exact hk
  · obtain ⟨p, hp⟩ := h.core n
    obtain ⟨p', hp'⟩ := k.core n
    refine ⟨p', ?_⟩
    rw [hp']
    simp only [State.workAt, hp, setUnitQ_setUnitQ, setUnitQ_unitQ_same]

theorem Paid.foldl {α : Type} {f : State → α → State} (hf : ∀ t a, Paid u t (f t a)) (s : State) (l : List α) :
    Paid u s (l.foldl f s) := by
  induction l generalizing s with
  | nil => exact .refl u s
  | cons a l ih => exact (hf s a).trans (ih _)

theorem tabFind_map_isSome {α : Type} (l : Tab α) (g : Nat × α → Nat × α) (hg : ∀ p, (g p).1 = p.1) (n : Nat) :
    (tabFind (l.map g) n).isSome = (tabFind l n).isSome := by
  induction l with
  | nil => rfl
  | cons p r ih =>
    obtain ⟨j, v⟩ := p
    have hj : (g (j, v)).1 = j := hg _
    simp only [List.map_cons, tabFind, hj]
    split
    · rfl
    · exact ih

theorem spend_paid (u : EngineUnit) (s : State) (core n : Nat) : Paid u s (spend s core n) := by
  unfold spend
  split
  · refine ⟨rfl, (Paid.refl u s).core, ⟨fun _ => rfl, fun _ => rfl, fun m => ?_⟩⟩
    exact tabFind_map_isSome _ _ (fun p => by split <;> rfl) m
  · exact .refl u s

theorem setPaid_paid (s : State) (core : Nat) (u : EngineUnit) (n : Nat) : Paid u s (setPaid s core u n) := by
  refine ⟨rfl, fun m => ?_, ?_⟩
  · by_cases hm : m = core
    · exact ⟨n, by rw [hm]; exact updCore_coreAt_same s core _⟩
    · obtain ⟨p, hp⟩ := (Paid.refl u s).core m
      exact ⟨p, (updCore_coreAt_other s _ hm).trans hp⟩
  · unfold setPaid State.updWork
    refine SamePace.updCore s core ?_ ?_ ?_ ?_ ?_ <;> intro c <;> cases u <;> rfl

theorem payPart_paid (s : State) (core : Nat) (u : EngineUnit) (n : Nat) : Paid u s (payPart s core u n).1 := by
  unfold payPart
  dsimp only
  split
  · exact (spend_paid u s core _).trans (setPaid_paid _ core u _)
  · exact .refl u s

theorem payEach_paid (s : State) (cores : List Nat) (u : EngineUnit) (cost : Nat → Nat) :
    Paid u s (payEach s cores u cost).1 := by
  have hpay : ∀ (l : List Nat) (p : State × Bool), Paid u s p.1 → Paid u s (l.foldl (fun (t : State × Bool) core =>
      ((payPart t.1 core u (cost core)).1, t.2 && (payPart t.1 core u (cost core)).2)) p).1 := by
    intro l
    induction l with
    | nil => exact fun _ h => h
    | cons a l ih => exact fun p h => ih _ (h.trans (payPart_paid ..))
  unfold payEach
  dsimp only
  split
  · refine (hpay cores (s, true) (.refl u s)).trans (Paid.foldl (fun t a => ?_) _ cores)
    split
    · exact setPaid_paid ..
    · exact .refl u t
  · exact hpay cores (s, true) (.refl u s)

theorem payUnits_paid (s : State) (core : Nat) (u : EngineUnit) (n : Nat) : Paid u s (payUnits s core u n).1 :=
  payEach_paid ..

end

end Sys2Proof.Laws
end

section
/-! Work that credits cover: it is paid, and what one payment leaves covers the next (R33, R464, R465). -/

namespace Sys2Proof.Laws

open Sys2Proof.Machine Sys2Proof.Safety

/-- What a core can pay for a unit's head command: what it has paid, and its credits. -/
def means (s : State) (u : EngineUnit) (core : Nat) : Nat :=
  ((s.workAt core).unitQ u).paid + tabGet 0 s.power.credits core

/-- Whether a core can pay for work of a unit's head command at once. -/
def Covered (s : State) (u : EngineUnit) (core n : Nat) : Prop := paced s core = true → n ≤ means s u core

theorem covered_of_affords {s : State} {core n : Nat} (h : affords s core n = true) (u : EngineUnit) : Covered s u core n := by
  intro hp
  have hle : n ≤ tabGet 0 s.power.credits core := by simpa [affords, hp] using h
  exact hle.trans (Nat.le_add_left ..)

theorem affords_zero (s : State) (core : Nat) : affords s core 0 = true := by
  simp [affords]

section
variable {s : State} {u : EngineUnit}

theorem workAt_updWork_other (s : State) {n m : Nat} (f : Work → Work) (h : m ≠ n) : (s.updWork n f).workAt m = s.workAt m :=
  congrArg Core.work (updWork_coreAt_other s f h)

theorem tabGet_spent (l : Tab Nat) (core n k : Nat) :
    tabGet 0 (l.map fun (p : Nat × Nat) => if p.1 = core then (p.1, p.2 - n) else p) k =
      if k = core then tabGet 0 l k - n else tabGet 0 l k := by
  induction l with
  | nil => simp [tabGet]
  | cons p r ih =>
    obtain ⟨j, v⟩ := p
    rw [List.map_cons]
    by_cases hj : j = core
    · rw [if_pos hj]
      by_cases hk : core = k
      · simp [tabGet, hj, hk]
      · simp [tabGet, hj, hk, Ne.symm hk, ih]
    · rw [if_neg hj]
      by_cases hk : j = k
      · simp [tabGet, hk, hk ▸ hj]
      · simp [tabGet, hk, ih]

theorem spend_credits (s : State) (core n k : Nat) : tabGet 0 (spend s core n).power.credits k =
    if k = core ∧ paced s core = true then tabGet 0 s.power.credits k - n else tabGet 0 s.power.credits k := by
  unfold spend
  split
  · next hp =>
    rw [spendUnits, tabGet_spent]
    simp [hp]
  · next hp => simp [hp]

/-- The state of a core that has paid, as far as its credits go. -/
theorem payPart_of_paced {core n : Nat} (h : paced s core = true) : payPart s core u n =
    (setPaid (spend s core (min (n - ((s.workAt core).unitQ u).paid) (tabGet 0 s.power.credits core))) core u
      (((s.workAt core).unitQ u).paid + min (n - ((s.workAt core).unitQ u).paid) (tabGet 0 s.power.credits core)),
      decide (n ≤ ((s.workAt core).unitQ u).paid + min (n - ((s.workAt core).unitQ u).paid)
        (tabGet 0 s.power.credits core))) := by
  rw [payPart, if_pos h]

theorem payPart_of_unpaced {core : Nat} (h : paced s core = false) (n : Nat) : payPart s core u n = (s, true) := by
  rw [payPart, h]
  rfl

/-- What a core pays goes from its credits to what it has paid: no core's means change. -/
theorem payPart_means (s : State) (u : EngineUnit) (core n k : Nat) : means (payPart s core u n).1 u k = means s u k := by
  cases hp : paced s core with
  | false => rw [payPart_of_unpaced hp]
  | true =>
    rw [payPart_of_paced hp]
    unfold means setPaid
    rw [updWork_power, spend_credits]
    have hwork (m : Nat) : (spend s core m).workAt = s.workAt := by unfold spend; split <;> rfl
    by_cases hk : k = core
    · rw [hk, updWork_workAt_same, setUnitQ_unitQ_same, if_pos ⟨rfl, hp⟩]
      dsimp only
      omega
    · rw [workAt_updWork_other _ _ hk, if_neg (by simp [hk]), hwork]

theorem payPart_paid_of_covered {core n : Nat} (h : Covered s u core n) : (payPart s core u n).2 = true := by
  cases hp : paced s core with
  | false => rw [payPart_of_unpaced hp]
  | true =>
    have hle := h hp
    unfold means at hle
    rw [payPart_of_paced hp, decide_eq_true_eq]
    omega

theorem Covered.payPart {core n : Nat} (h : Covered s u core n) (k m : Nat) : Covered (Machine.payPart s k u m).1 u core n := by
  unfold Covered
  rw [(payPart_paid s k u m).pace.paced, payPart_means]
  exact h

/-- Cores whose means cover the work pay all of it (R465). -/
theorem payEach_of_covered {cores : List Nat} {cost : Nat → Nat} (h : ∀ n, n ∈ cores → Covered s u n (cost n)) :
    (payEach s cores u cost).2 = true := by
  have hpay : ∀ (l : List Nat) (p : State × Bool), p.2 = true → (∀ n, n ∈ l → Covered p.1 u n (cost n)) →
      (l.foldl (fun (t : State × Bool) core =>
        ((payPart t.1 core u (cost core)).1, t.2 && (payPart t.1 core u (cost core)).2)) p).2 = true := by
    intro l
    induction l with
    | nil => exact fun _ hp _ => hp
    | cons a l ih =>
      intro p hp hl
      refine ih _ ?_ (fun n hn => (hl n (List.mem_cons_of_mem a hn)).payPart a (cost a))
      exact Bool.and_eq_true_iff.mpr ⟨hp, payPart_paid_of_covered (hl a List.mem_cons_self)⟩
  unfold payEach
  dsimp only
  rw [if_pos (hpay cores (s, true) rfl h)]

theorem payEach_of_affords {cores : List Nat} {cost : Nat → Nat} (h : ∀ n, n ∈ cores → affords s n (cost n) = true) :
    (payEach s cores u cost).2 = true :=
  payEach_of_covered (fun n hn => covered_of_affords (h n hn) u)

/-- A payment takes no more credits than the work costs. -/
theorem payPart_credits_le (s : State) (u : EngineUnit) (core n : Nat) :
    tabGet 0 s.power.credits core ≤ tabGet 0 (payPart s core u n).1.power.credits core + n := by
  cases hp : paced s core with
  | false => rw [payPart_of_unpaced hp]; exact Nat.le_add_right ..
  | true =>
    rw [payPart_of_paced hp]
    unfold setPaid
    rw [updWork_power, spend_credits, if_pos ⟨rfl, hp⟩]
    omega

theorem payUnits_credits (s : State) (u : EngineUnit) (core n : Nat) :
    (payUnits s core u n).1.power.credits = (payPart s core u n).1.power.credits := by
  unfold payUnits payEach
  dsimp only [List.foldl_cons, List.foldl_nil]
  repeat' split
  all_goals rfl

/-- What a core's credits cover of two pieces of work they still cover when the first is paid. -/
theorem affords_payUnits {core a b : Nat} (h : affords s core (a + b) = true) (u : EngineUnit) :
    affords (payUnits s core u a).1 core b = true := by
  unfold affords at *
  rw [(payUnits_paid s core u a).pace.paced, payUnits_credits]
  have hle := payPart_credits_le s u core a
  rw [Bool.or_eq_true, decide_eq_true_eq] at *
  exact h.imp_right (fun h => by omega)

end

end Sys2Proof.Laws
end

section
/-! Strips of a spin run: O19. -/

namespace Sys2Proof.Laws

open Sys2Proof.Machine Sys2Proof.Safety

/-! ### Masks by replica -/

section
variable {l : List Nat} {replica : Nat}

theorem setMask_length (l : List Nat) (replica i : Nat) (b : Bool) : (setMask l replica i b).length = l.length :=
  listUpd_length ..

theorem setMask_maskBit (h : replica < l.length) (i j : Nat) (b : Bool) :
    maskBit (setMask l replica i b) replica j = if j = i then b else maskBit l replica j := by
  rw [maskBit, setMask, listUpd_getD_same 0 l replica _ h, setMaskBit_testBit]
  rfl

theorem setMask_getD_other {k : Nat} (h : k ≠ replica) (i : Nat) (b : Bool) :
    (setMask l replica i b).getD k 0 = l.getD k 0 :=
  listUpd_getD_other 0 l _ h

/-- Masks after a bit of a replica has been set for each of a list. -/
def setMasks {α : Type} (at' : α → Nat) (bit : α → Bool) (replica : Nat) (as : List α) (l : List Nat) : List Nat :=
  as.foldl (fun l a => setMask l replica (at' a) (bit a)) l

variable {α : Type} {at' : α → Nat} {bit : α → Bool} {as : List α}

theorem setMasks_maskBit_other (h : replica < l.length) {j : Nat} (hj : j ∉ as.map at') :
    maskBit (setMasks at' bit replica as l) replica j = maskBit l replica j := by
  induction as generalizing l with
  | nil => rfl
  | cons a r ih =>
    rw [List.map_cons, List.mem_cons, not_or] at hj
    obtain ⟨ha, hr⟩ := hj
    rw [setMasks, List.foldl_cons, ← setMasks, ih (by rwa [setMask_length]) hr, setMask_maskBit h, if_neg ha]

theorem setMasks_maskBit (h : replica < l.length) (hn : (as.map at').Nodup) {a : α} (ha : a ∈ as) :
    maskBit (setMasks at' bit replica as l) replica (at' a) = bit a := by
  induction as generalizing l with
  | nil => exact absurd ha (List.not_mem_nil)
  | cons x r ih =>
    rw [List.map_cons, List.nodup_cons] at hn
    obtain ⟨hx, hr⟩ := hn
    have hlen : replica < (setMask l replica (at' x) (bit x)).length := by rwa [setMask_length]
    rw [setMasks, List.foldl_cons, ← setMasks]
    rcases List.mem_cons.mp ha with rfl | hmem
    · rw [setMasks_maskBit_other hlen hx, setMask_maskBit h, if_pos rfl]
    · exact ih hlen hr hmem

theorem setMasks_getD_other {k : Nat} (h : k ≠ replica) :
    (setMasks at' bit replica as l).getD k 0 = l.getD k 0 := by
  induction as generalizing l with
  | nil => rfl
  | cons a r ih => rw [setMasks, List.foldl_cons, ← setMasks, ih, setMask_getD_other h]

/-- Bits set for what sites give, site by site. -/
theorem setMasks_map {β : Type} (g : β → α) (bs : List β) :
    setMasks at' bit replica (bs.map g) l = setMasks (at' ∘ g) (bit ∘ g) replica bs l :=
  List.foldl_map

end

/-! ### What a strip writes -/

section
variable {q : SpinRun} {c : SpinCmd} {replica : Nat}

/-- Bits written into shadow planes change nothing else of a run. -/
theorem foldl_shadowBit {α : Type} (t : Nat) (at' : α → Nat) (bit : α → Bool) (q : SpinRun) (as : List α) :
    ∃ l, as.foldl (fun q a => shadowBit q t replica (at' a) (bit a)) q = { q with shadows := l } := by
  induction as generalizing q with
  | nil => exact ⟨_, rfl⟩
  | cons a r ih =>
    have hone : ∃ l, shadowBit q t replica (at' a) (bit a) = { q with shadows := l } := by
      unfold shadowBit
      split
      · exact ⟨_, rfl⟩
      · exact ⟨_, rfl⟩
    obtain ⟨l, hl⟩ := hone
    rw [List.foldl_cons, hl]
    exact ih _

/-- A decision's place in the masks. -/
def Decided.lin (p : PlatInfo) (d : Decided) : Nat := siteLin p d.site

/-- The command after a CHROMATIC strip (R137, R145). -/
def stripCmd (p : PlatInfo) (c : SpinCmd) (phase replica : Nat) (ds : List Decided) : SpinCmd :=
  let c1 := addDelta c phase replica (deltaOf ds)
  if phase < platSteps p then { c1 with decided := setMasks (Decided.lin p) (fun _ => true) replica ds c.decided }
  else { c1 with ahead := setMasks (Decided.lin p) (fun _ => true) replica ds c.ahead
                 aheadOld := setMasks (Decided.lin p) Decided.old replica ds c.aheadOld }

theorem applyStrip_eq (q : SpinRun) (c : SpinCmd) (phase replica : Nat) (ds : List Decided) :
    ∃ l, applyStrip q c phase replica ds = { q with
      shadows := l, spins := setMasks (Decided.lin q.plat) Decided.new replica ds q.spins
      cmd := some (stripCmd q.plat c phase replica ds) } := by
  obtain ⟨l, hl⟩ := foldl_shadowBit (replica := replica) ((c.step + phase) / platSteps q.plat) (Decided.lin q.plat)
    Decided.new q ds
  refine ⟨l, ?_⟩
  unfold Decided.lin at hl
  simp only [applyStrip, hl]
  rfl

/-- What a strip leaves of its command beside the masks of decided sites and the energies. -/
theorem stripCmd_rest (p : PlatInfo) (c : SpinCmd) (phase replica : Nat) (ds : List Decided) :
    (stripCmd p c phase replica ds).tallies = c.tallies ∧ (stripCmd p c phase replica ds).tallied = c.tallied ∧
    (stripCmd p c phase replica ds).limit = c.limit ∧ (stripCmd p c phase replica ds).result = c.result := by
  unfold stripCmd
  dsimp only
  split <;> exact ⟨rfl, rfl, rfl, rfl⟩

theorem stripCmd_decided (q : SpinRun) (c : SpinCmd) (phase replica : Nat) (ds : List Decided) :
    decidedOf q (stripCmd q.plat c phase replica ds) phase =
      setMasks (Decided.lin q.plat) (fun _ => true) replica ds (decidedOf q c phase) := by
  unfold decidedOf stripCmd
  split <;> rfl

theorem applyDecide_eq (q : SpinRun) (c : SpinCmd) (replica : Nat) (ds : List Decided) :
    applyDecide q c replica ds = { q with cmd := some { c with
      decided := setMasks (Decided.lin q.plat) (fun _ => true) replica ds c.decided
      flipping := setMasks (Decided.lin q.plat) (fun d => d.new != d.old) replica ds c.flipping } } := rfl

/-- The command after a resolve strip (R138, R145). -/
def resolveCmd (p : PlatInfo) (c : SpinCmd) (replica : Nat) (rs : List Resolved) : SpinCmd :=
  { addDelta c 0 replica ((rs.map Resolved.delta).foldl (· + ·) 0) with
    resolved := setMasks (fun d => siteLin p d.site) (fun _ => true) replica rs c.resolved }

theorem applyResolve_eq (q : SpinRun) (c : SpinCmd) (replica : Nat) (rs : List Resolved) :
    ∃ l, applyResolve q c replica rs = { q with
      shadows := l, spins := setMasks (fun d => siteLin q.plat d.site) Resolved.new replica rs q.spins
      cmd := some (resolveCmd q.plat c replica rs) } := by
  obtain ⟨l, hl⟩ := foldl_shadowBit (replica := replica) c.step (fun d => siteLin q.plat d.site) Resolved.new q rs
  refine ⟨l, ?_⟩
  simp only [applyResolve, hl]
  rfl

/-- A message on its way changes of the run the mail alone. -/
theorem postBits_eq (h : q.cmd = some c) (a : Parcel) (step replica : Nat) (sites : List Site) :
    ∃ m, postBits q a step replica sites = { q with cmd := some { c with mail := m } } := by
  simp only [postBits, h]
  generalize (if q.plat.order ≠ 0 then c.resolved else decidedOf q c (step - c.step)) = done
  split
  · exact ⟨_, rfl⟩
  · exact ⟨c.mail, by rw [← h]⟩

theorem postDecisions_eq (h : q.cmd = some c) (a : Parcel) (step replica : Nat) :
    ∃ m, postDecisions q a step replica = { q with cmd := some { c with mail := m } } := by
  unfold postDecisions
  rw [h]
  dsimp only
  split
  · exact ⟨_, rfl⟩
  · exact ⟨c.mail, by rw [← h]⟩

end

/-! ### Sites resolved -/

theorem resolveSite_site (q : SpinRun) (c : SpinCmd) (rd : Nat → Byte) (core replica : Nat) (x : Site) :
    (resolveSite q c rd core replica x).site = x := by
  unfold resolveSite
  dsimp only
  repeat' split
  all_goals rfl

/-- A site's new bit: it flips where it has decided to and does not yield (R139 to R141). -/
theorem resolveSite_new (q : SpinRun) (c : SpinCmd) (rd : Nat → Byte) (core replica : Nat) (x : Site) :
    (resolveSite q c rd core replica x).new = (maskBit c.before replica (siteLin q.plat x) !=
      (decidedFlip q c replica x && !(decide (c.policy ≠ 0) && (bondsOf q.plat x).any (fun b =>
        decidedFlip q c replica b.partner && decide (bondCode q.plat rd b ≠ 0) &&
          decide (siteIndex b.partner.x b.partner.y b.partner.z < siteIndex x.x x.y x.z))))) := by
  unfold resolveSite
  simp only [List.any_filter]
  generalize (bondsOf q.plat x).any _ = yields
  generalize maskBit c.before replica (siteLin q.plat x) = old
  cases decidedFlip q c replica x with
  | false => simp
  | true =>
    by_cases hp : c.policy = 0
    · simp [hp]
    · cases yields <;> simp [hp]

/-! ### What follows when nothing is complete -/

/-- In a run alone, with no stop asked for and no step to take into the tallies, nothing follows when bits are written. -/
theorem settleSpin_quiet {s : State} {k : RunKey} {r : Run} {q : SpinRun} {c : SpinCmd} (hr : s.findRun k = some r)
    (hq : r.spin = some q) (hc : q.cmd = some c) (hg : q.group = none) (hl : c.limit = none) (hres : c.result = none)
    (ht : tallyReady q c = false) : settleSpin s k = s := by
  have hnow : spinNow s k = some (q, c) := by simp [spinNow, hr, hq, hc]
  have hwall : heedWall s k = s := by simp [heedWall, hnow, hg]
  have hstops : heedStops s k = s := by simp [heedStops, hnow, hg]
  have hbands : bandRun 19 s k = s := by simp [bandRun, hnow, hg]
  have htally : tallyRun 19 s k = s := by simp [tallyRun, hnow, tallyOnce, ht]
  have hholds : holdServe s k = s := by simp [holdServe, hr, hq, hc, hl]
  have hfinish : finishSpin s k = s := by simp [finishSpin, hr, hq, hc, hl, hres]
  rw [settleSpin, hwall, hstops, hbands, htally, hholds, hfinish]

/-! ### What a strip counts -/

section
variable (s : State) (core : Nat)

theorem spend_cores (n : Nat) : (spend s core n).cores = s.cores := by
  unfold spend
  split <;> rfl

theorem spend_runs (n : Nat) : (spend s core n).runs = s.runs := by
  unfold spend
  split <;> rfl

theorem spend_sameMemories (n : Nat) : SameMemories (spend s core n) s := by
  unfold spend
  split <;> exact ⟨rfl, rfl, rfl⟩

theorem SamePace.spend {s t : State} (h : SamePace s t) (hc : t.power.credits = s.power.credits) (core n : Nat) :
    (Machine.spend t core n).power.credits = (Machine.spend s core n).power.credits := by
  unfold Machine.spend
  rw [h.paced]
  split
  · simp only [spendUnits, hc]
  · exact hc

theorem markUses_credits (c : Nat) (l : List (Nat × Nat)) : (markUses s c l).power.credits = s.power.credits := by
  have h := markUses_pace s c l
  simp only [paceParts, Prod.mk.injEq] at h
  exact h.2.2.2.1

theorem countCorrected_twin (n : Nat) : Twin s (countCorrected s core n) := by
  unfold countCorrected
  split
  · exact .refl s
  · exact .frame

theorem countCorrected_pace (n : Nat) : SamePace s (countCorrected s core n) := by
  unfold countCorrected
  split
  · exact .refl s
  · exact .updCore s core

theorem countCorrected_credits (n : Nat) : (countCorrected s core n).power.credits = s.power.credits := by
  unfold countCorrected
  split <;> rfl

theorem countCorrected_ctxAt (n c : Nat) : (countCorrected s core n).ctxAt c = s.ctxAt c := by
  unfold countCorrected
  split <;> rfl

theorem countCorrected_findRun (n : Nat) (k : RunKey) : (countCorrected s core n).findRun k = s.findRun k := by
  unfold countCorrected
  split <;> rfl

theorem countCorrected_coreAt (n : Nat) : (countCorrected s core n).coreAt core =
    { s.coreAt core with csCorrected := (s.coreAt core).csCorrected + BitVec.ofNat 64 n } := by
  unfold countCorrected
  split
  · next h => simp [h]
  · exact updCore_coreAt_same s core _

theorem Twin.stripCost {s t : State} (h : Twin s t) (ctx : Nat) (q : SpinRun) (c : SpinCmd) (core replica n : Nat)
    (resolve : Bool) :
    Machine.stripCost t ctx q c core replica n resolve = Machine.stripCost s ctx q c core replica n resolve := by
  unfold Machine.stripCost streamCost
  rw [h.nearSide]

/-- The state in which a strip issues: its reads marked and its costs spent. -/
def stripUsed (s : State) (r : Run) (q : SpinRun) (c : SpinCmd) (core replica : Nat) (sites : List Site) (resolve : Bool) :
    State :=
  spend (markUses s r.key.ctx (stripReads q.plat sites)) core (stripCost s r.key.ctx q c core replica sites.length resolve)

/-- The state after a strip has issued, with what it leaves of the run. -/
def stripDone (s : State) (r : Run) (core phase step sites flips coll yields : Nat) (q : SpinRun) : State :=
  (stripCount s core phase step sites flips coll yields).updRun r.key (fun x => { x with spin := some q })

section
variable {s} {core} (r : Run) (q : SpinRun) (c : SpinCmd) (replica : Nat) (sites : List Site) (resolve : Bool) (corrected : Nat)

theorem stripUsed_coreAt (s : State) (core : Nat) :
    (stripUsed s r q c core replica sites resolve).coreAt core = s.coreAt core := by
  unfold stripUsed State.coreAt
  rw [spend_cores, markUses_cores]

theorem stripUsed_findRun (s : State) (core : Nat) (k : RunKey) :
    (stripUsed s r q c core replica sites resolve).findRun k = s.findRun k := by
  unfold stripUsed State.findRun
  rw [spend_runs, markUses_runs]

theorem stripUsed_credits (s : State) (core : Nat) : (stripUsed s r q c core replica sites resolve).power.credits =
    (spend s core (stripCost s r.key.ctx q c core replica sites.length resolve)).power.credits :=
  (SamePace.of_parts (markUses_pace ..)).spend (markUses_credits ..) _ _

theorem stripUsed_sameMemories (s : State) (core : Nat) : SameMemories (stripUsed s r q c core replica sites resolve) s :=
  sameMemories_trans (spend_sameMemories ..) ⟨markUses_near .., markUses_far .., markUses_host ..⟩

variable (phase step n flips coll yields : Nat) (q1 : SpinRun)

theorem stripDone_counts (s : State) (core : Nat) : StripCounts s
    (stripDone (stripUsed (countCorrected s core corrected) r q c core replica sites resolve) r core phase step n flips coll
      yields q1)
    core n corrected (stripCost s r.key.ctx q c core replica sites.length resolve) := by
  have htwin := countCorrected_twin s core corrected
  have hcore := (stripUsed_coreAt r q c replica sites resolve (countCorrected s core corrected) core).trans
    (countCorrected_coreAt s core corrected)
  refine ⟨?_, ?_, ?_, ?_⟩
  · rw [stripDone, updRun_coreAt, stripCount, updCore_coreAt_same, hcore]
  · rw [stripDone, updRun_coreAt, stripCount, updCore_coreAt_same, hcore]
  · rw [stripDone, updRun_power, stripCount, updCore_power, stripUsed_credits, htwin.stripCost]
    exact (countCorrected_pace ..).spend (countCorrected_credits ..) _ _
  · exact sameMemories_trans (stripUsed_sameMemories ..) htwin.sameMemories

theorem stripDone_findRun (h : s.findRun r.key = some r) : (stripDone (stripUsed (countCorrected s core corrected) r q c core
    replica sites resolve) r core phase step n flips coll yields q1).findRun r.key = some { r with spin := some q1 } := by
  refine updRun_findRun (r := r) ?_ (fun _ => rfl)
  rw [stripCount, updCore_findRun, stripUsed_findRun, countCorrected_findRun, h]

theorem stripDone_headStep (s : State) :
    ((stripDone s r core phase step n flips coll yields q1).coreAt core).headStep = step := by
  rw [stripDone, updRun_coreAt, stripCount, updCore_coreAt_same]

end
end

end Sys2Proof.Laws
end

section
/-! Strips that issue: O19. -/

namespace Sys2Proof.Laws

open Sys2Proof.Machine Sys2Proof.Safety

/-- A strip that may issue, its parcel and its sites, on words without an uncorrectable error. -/
structure StripAt (s : State) (core replica step strip : Nat) (resolve : Bool) (r : Run) (q : SpinRun) (c : SpinCmd)
    (par : Parcel)
    (sites : List Site) : Prop where
  run : s.runOf core = some r
  spin : r.spin = some q
  cmd : q.cmd = some c
  parcel : q.cut.find? (fun t => decide (t.core = core)) = some par
  may : mayStrip s r q c par replica step resolve = true
  limit : c.limit = none
  found : (parcelStrips q.plat par ((step - c.step) % platSteps q.plat))[strip]? = some sites
  arm : armBad s r core = none
  place : placeLost s r.key.ctx q core = none
  reads : readsStop s r.key.ctx (stripReads q.plat sites) = none

section
variable {s : State} {core replica step strip : Nat} {resolve : Bool} {r : Run} {q : SpinRun} {c : SpinCmd} {par : Parcel}
  {sites : List Site}

theorem StripAt.par_core (h : StripAt s core replica step strip resolve r q c par sites) : par.core = core := by
  simpa using List.find?_some h.parcel

theorem StripAt.findRun (h : StripAt s core replica step strip resolve r q c par sites) : s.findRun r.key = some r :=
  findRun_of_runOf h.run

/-- A strip that may issue lies in the window, and resolves under SYNC alone. -/
theorem StripAt.window (h : StripAt s core replica step strip resolve r q c par sites) :
    (step < c.step + (if mayAhead s q r c then 2 * platSteps q.plat else platSteps q.plat) ∨
      step < c.step + 2 * platSteps q.plat ∧ c.limit.any (fun l => decide (step < l)) = true) ∧
    (resolve && decide (q.plat.order = 0)) = false := by
  have hmay := h.may
  simp only [mayStrip, Bool.and_eq_true, decide_eq_true_eq, Bool.not_eq_true'] at hmay
  obtain ⟨⟨⟨⟨⟨⟨-, hstep⟩, -⟩, -⟩, hres⟩, -⟩, -⟩ := hmay
  exact ⟨hstep, hres⟩

theorem StripAt.not_resolve (h : StripAt s core replica step strip resolve r q c par sites) (ho : q.plat.order = 0) :
    resolve = false := by
  simpa [ho] using h.window.2

/-- Under SYNC a strip issues in the present traverse's one step alone. -/
theorem StripAt.phase (h : StripAt s core replica step strip resolve r q c par sites) (ho : q.plat.order ≠ 0) :
    step - c.step = 0 := by
  have hsteps : platSteps q.plat = 1 := by rw [platSteps, if_neg ho]
  have hahead : mayAhead s q r c = false := by simp [mayAhead, ho]
  obtain ⟨hstep, -⟩ := h.window
  simp only [hsteps, hahead, h.limit, Option.any_none, Bool.false_eq_true, and_false, or_false, if_false] at hstep
  omega

/-- What STRIP_ISSUE does, by the core's credits and by the bits that the strip reads (R137, R465). -/
theorem StripAt.exec (h : StripAt s core replica step strip resolve r q c par sites) (corrected : Nat) :
    exec (.stripIssue core replica step strip resolve corrected) s = .next (
      if affords s core (stripCost s r.key.ctx q c core replica sites.length resolve) = false then s
      else if stripGoes s q c core replica step sites resolve = false then stripWait s core
      else runStrip (countCorrected s core corrected) r q c par replica step sites resolve) := by
  obtain ⟨hrun, hspin, hcmd, hpar, hmay, -, hfound, harm, hplace, hreads⟩ := h
  refine congrArg Host.Outcome.next ?_
  simp only [hrun, hspin, hcmd, hpar, hmay, hfound, harm, hplace, hreads, Bool.not_true, Bool.false_eq_true, if_false,
    Bool.not_eq_true']

theorem stripWait_waits (s : State) (core : Nat) : stripWait s core = { s with cores := (stripWait s core).cores } ∧
    (stripWait s core).workAt core = { s.workAt core with spinMode := 2 } ∧ ((stripWait s core).coreAt core).spinBusy = 0 := by
  have hcore : (stripWait s core).coreAt core = _ := updCore_coreAt_same s core _
  exact ⟨rfl, by rw [State.workAt, hcore]; rfl, by rw [hcore]⟩

/-- The new bit of a site by the decision unit (R132). -/
def newBit (s : State) (ctx : Nat) (q : SpinRun) (turn : SpinCmd) (core replica step : Nat) (masks : List Nat) (x : Site) :
    Bool :=
  decideBit turn.rule (turn.betas.getD replica 0).toNat (s.ctxAt ctx).accTable
    (.fin ⟨siteField q.plat q.scales (platByte s ctx q.plat.va)
      (fun k => readSpin q masks core replica step (siteOfLin q.plat k)) x, -200⟩)
    (maskBit masks replica (siteLin q.plat x)) (acceptWord turn x replica step)

/-! ### The run after a strip -/

theorem StripAt.exec_goes (h : StripAt s core replica step strip resolve r q c par sites)
    (hpaid : affords s core (stripCost s r.key.ctx q c core replica sites.length resolve) = true)
    (hgo : stripGoes s q c core replica step sites resolve = true) (corrected : Nat) :
    Machine.exec (.stripIssue core replica step strip resolve corrected) s =
      .next (runStrip (countCorrected s core corrected) r q c par replica step sites resolve) := by
  rw [h.exec, hpaid, hgo]
  rfl

/-- The command by whose fields a step's strips decide. -/
def turnCmd (q : SpinRun) (c : SpinCmd) (step : Nat) : SpinCmd := if step - c.step < platSteps q.plat then c else nextTurn c

/-- The decisions of a strip. -/
def stripBits (s : State) (r : Run) (q : SpinRun) (c : SpinCmd) (par : Parcel) (replica step : Nat) (sites : List Site) :
    List Decided :=
  decideStrip q (turnCmd q c step) (platByte s r.key.ctx q.plat.va) (s.ctxAt r.key.ctx).accTable par.core replica step sites

/-- What a resolve strip gives for its sites. -/
def stripResolves (s : State) (r : Run) (q : SpinRun) (c : SpinCmd) (par : Parcel) (replica : Nat) (sites : List Site) :
    List Resolved :=
  sites.map (resolveSite q c (platByte s r.key.ctx q.plat.va) par.core replica)

/-- The run after a CHROMATIC strip. -/
def decidedRun (s : State) (r : Run) (q : SpinRun) (c : SpinCmd) (par : Parcel) (replica step : Nat) (sites : List Site) :
    SpinRun :=
  postBits (applyStrip q c (step - c.step) replica (stripBits s r q c par replica step sites)) par step replica sites

/-- The run after a decide strip of SYNC. -/
def keptRun (s : State) (r : Run) (q : SpinRun) (c : SpinCmd) (par : Parcel) (replica step : Nat) (sites : List Site) :
    SpinRun :=
  postDecisions (applyDecide q c replica (stripBits s r q c par replica step sites)) par step replica

/-- The run after a resolve strip of SYNC. -/
def resolvedRun (s : State) (r : Run) (q : SpinRun) (c : SpinCmd) (par : Parcel) (replica step : Nat) (sites : List Site) :
    SpinRun :=
  postBits (applyResolve q c replica (stripResolves s r q c par replica sites)) par step replica sites

theorem countCorrected_stripBits (s : State) (core n : Nat) : stripBits (countCorrected s core n) = stripBits s := by
  funext r q c par replica step sites
  rw [stripBits, (countCorrected_twin s core n).platByte, countCorrected_ctxAt]
  rfl

theorem countCorrected_stripResolves (s : State) (core n : Nat) :
    stripResolves (countCorrected s core n) = stripResolves s := by
  funext r q c par replica sites
  rw [stripResolves, (countCorrected_twin s core n).platByte]
  rfl

theorem decidedRun_eq (s : State) (r : Run) : ∃ l m, decidedRun s r q c par replica step sites = { q with
    shadows := l
    spins := setMasks (Decided.lin q.plat) Decided.new replica (stripBits s r q c par replica step sites) q.spins
    cmd := some { stripCmd q.plat c (step - c.step) replica (stripBits s r q c par replica step sites) with mail := m } } := by
  obtain ⟨l, happly⟩ := applyStrip_eq q c (step - c.step) replica (stripBits s r q c par replica step sites)
  obtain ⟨m, hpost⟩ := postBits_eq (congrArg SpinRun.cmd happly) par step replica sites
  exact ⟨l, m, by rw [decidedRun, hpost, happly]⟩

theorem keptRun_eq (s : State) (r : Run) : ∃ m, keptRun s r q c par replica step sites = { q with cmd := some { c with
    decided := setMasks (Decided.lin q.plat) (fun _ => true) replica (stripBits s r q c par replica step sites) c.decided
    flipping := setMasks (Decided.lin q.plat) (fun d => d.new != d.old) replica (stripBits s r q c par replica step sites)
      c.flipping, mail := m } } := by
  obtain ⟨m, hpost⟩ := postDecisions_eq (congrArg SpinRun.cmd
    (applyDecide_eq q c replica (stripBits s r q c par replica step sites))) par step replica
  exact ⟨m, by rw [keptRun, hpost, applyDecide_eq]⟩

theorem resolvedRun_eq (s : State) (r : Run) : ∃ l m, resolvedRun s r q c par replica step sites = { q with
    shadows := l
    spins := setMasks (fun d => siteLin q.plat d.site) Resolved.new replica (stripResolves s r q c par replica sites) q.spins
    cmd := some { resolveCmd q.plat c replica (stripResolves s r q c par replica sites) with mail := m } } := by
  obtain ⟨l, happly⟩ := applyResolve_eq q c replica (stripResolves s r q c par replica sites)
  obtain ⟨m, hpost⟩ := postBits_eq (congrArg SpinRun.cmd happly) par step replica sites
  exact ⟨l, m, by rw [resolvedRun, hpost, happly]⟩

/-! ### What the three kinds of strip do -/

/-- The state after a strip has issued and left the run. -/
def stripEnd (s : State) (r : Run) (q : SpinRun) (c : SpinCmd) (par : Parcel) (replica step : Nat) (sites : List Site)
    (resolve : Bool) (corrected phase n flips coll yields : Nat) (left : SpinRun) : State :=
  stripDone (stripUsed (countCorrected s par.core corrected) r q c par.core replica sites resolve) r par.core phase step n flips
    coll yields left

theorem runStrip_chromatic (s : State) (ho : q.plat.order = 0) (corrected : Nat) : ∃ flips,
    runStrip (countCorrected s par.core corrected) r q c par replica step sites false =
      settleSpin (stripEnd s r q c par replica step sites false corrected ((step - c.step) % 18) sites.length flips 0 0
        (decidedRun s r q c par replica step sites)) r.key := by
  refine ⟨flipsOf (stripBits (countCorrected s par.core corrected) r q c par replica step sites), ?_⟩
  unfold runStrip decidedRun
  rw [if_neg Bool.false_ne_true, if_pos ho, ← countCorrected_stripBits s par.core corrected]
  rfl

theorem runStrip_decide (s : State) (ho : q.plat.order ≠ 0) (hg : q.group = none) (corrected : Nat) :
    runStrip (countCorrected s par.core corrected) r q c par replica step sites false =
      stripEnd s r q c par replica step sites false corrected 0 sites.length 0 0 0
        (keptRun s r q c par replica step sites) := by
  unfold runStrip keptRun
  rw [if_neg Bool.false_ne_true, if_neg ho, ← countCorrected_stripBits s par.core corrected]
  simp only [hg]
  rfl

theorem runStrip_resolve (s : State) (corrected : Nat) : ∃ flips coll yields,
    runStrip (countCorrected s par.core corrected) r q c par replica step sites true =
      settleSpin (stripEnd s r q c par replica step sites true corrected 0 0 flips coll yields
        (resolvedRun s r q c par replica step sites)) r.key := by
  unfold resolvedRun
  rw [← countCorrected_stripResolves s par.core corrected]
  exact ⟨_, _, _, rfl⟩

section
variable (corrected phase n flips coll yields : Nat) (left : SpinRun)

theorem stripEnd_findRun (h : s.findRun r.key = some r) :
    (stripEnd s r q c par replica step sites resolve corrected phase n flips coll yields left).findRun r.key =
      some { r with spin := some left } :=
  stripDone_findRun _ _ _ _ _ _ _ _ _ _ _ _ _ _ h

theorem stripEnd_headStep :
    ((stripEnd s r q c par replica step sites resolve corrected phase n flips coll yields left).coreAt par.core).headStep
      = step :=
  stripDone_headStep ..

theorem stripEnd_counts : StripCounts s
    (stripEnd s r q c par replica step sites resolve corrected phase n flips coll yields left) par.core n corrected
    (stripCost s r.key.ctx q c par.core replica sites.length resolve) :=
  stripDone_counts ..

end

/-! ### The bits of a strip's sites -/

/-- What masks hold after a strip's bits have been set: what the function of a decision gives for its site. -/
theorem setMasks_stripBits (s : State) (r : Run) {masks l : List Nat} (bit : Decided → Bool) {x : Site}
    (hmasks : (if q.plat.order = 0 then q.spins else (turnCmd q c step).before) = masks) (hl : replica < l.length)
    (hn : (sites.map (siteLin q.plat)).Nodup) (hx : x ∈ sites) :
    ∃ d, maskBit (setMasks (Decided.lin q.plat) bit replica (stripBits s r q c par replica step sites) l) replica
      (siteLin q.plat x) = bit d ∧ d.old = maskBit masks replica (siteLin q.plat x) ∧
      d.new = newBit s r.key.ctx q (turnCmd q c step) par.core replica step masks x := by
  subst hmasks
  unfold stripBits decideStrip
  rw [setMasks_map]
  exact ⟨_, setMasks_maskBit hl hn hx, rfl, rfl⟩

/-- A CHROMATIC strip's sites have the decision unit's bits, and are decided (R132, R137). -/
theorem decidedRun_bits (s : State) (r : Run) (ho : q.plat.order = 0) (hspins : replica < q.spins.length)
    (hn : (sites.map (siteLin q.plat)).Nodup) {x : Site} (hx : x ∈ sites) :
    maskBit (decidedRun s r q c par replica step sites).spins replica (siteLin q.plat x) =
      newBit s r.key.ctx q (turnCmd q c step) par.core replica step q.spins x := by
  obtain ⟨l, m, hleft⟩ := decidedRun_eq (q := q) (c := c) (par := par) (replica := replica) (step := step) (sites := sites) s r
  obtain ⟨d, hd, -, hnew⟩ := setMasks_stripBits (c := c) (par := par) (step := step) s r Decided.new (if_pos ho) hspins hn hx
  rw [hleft, ← hnew]
  exact hd

theorem stripCmd_bits (s : State) (r : Run) (hdecided : replica < (decidedOf q c (step - c.step)).length)
    (hn : (sites.map (siteLin q.plat)).Nodup) {x : Site} (hx : x ∈ sites) :
    maskBit (decidedOf q (stripCmd q.plat c (step - c.step) replica (stripBits s r q c par replica step sites)) (step - c.step))
      replica (siteLin q.plat x) = true := by
  obtain ⟨d, hd, -⟩ := setMasks_stripBits (c := c) (par := par) (step := step) s r (fun _ => true) rfl hdecided hn hx
  rw [stripCmd_decided]
  exact hd

/-- A resolve strip's sites have flipped where they had decided to and do not yield (R139 to R141). -/
theorem resolvedRun_bits (s : State) (r : Run) (hspins : replica < q.spins.length) (hn : (sites.map (siteLin q.plat)).Nodup)
    {x : Site} (hx : x ∈ sites) :
    maskBit (resolvedRun s r q c par replica step sites).spins replica (siteLin q.plat x) =
      (resolveSite q c (platByte s r.key.ctx q.plat.va) par.core replica x).new := by
  obtain ⟨l, m, hleft⟩ := resolvedRun_eq (q := q) (c := c) (par := par) (replica := replica) (step := step) (sites := sites) s r
  rw [hleft]
  dsimp only
  unfold stripResolves
  rw [setMasks_map]
  have hsite : ((fun d => siteLin q.plat d.site) ∘ resolveSite q c (platByte s r.key.ctx q.plat.va) par.core replica) =
      siteLin q.plat := by
    funext y
    exact congrArg (siteLin q.plat) (resolveSite_site ..)
  rw [hsite]
  exact setMasks_maskBit hspins hn hx

/-- What follows a CHROMATIC strip of a run alone while the oldest step open is not complete: nothing. -/
theorem settleSpin_decidedRun (hg : q.group = none) (hlimit : c.limit = none) (hresult : c.result = none)
    (hopen :
      phaseDone q (stripCmd q.plat c (step - c.step) replica (stripBits s r q c par replica step sites)) c.tallied = false)
    {t : State} {k : RunKey} (ht : t.findRun k = some { r with spin := some (decidedRun s r q c par replica step sites) }) :
    settleSpin t k = t := by
  obtain ⟨l, m, hleft⟩ := decidedRun_eq (q := q) (c := c) (par := par) (replica := replica) (step := step) (sites := sites) s r
  obtain ⟨-, htallied, hl, hres⟩ := stripCmd_rest q.plat c (step - c.step) replica (stripBits s r q c par replica step sites)
  rw [hleft] at ht
  refine settleSpin_quiet ht rfl rfl hg (hl.trans hlimit) (hres.trans hresult) ?_
  rw [← htallied] at hopen
  rw [tallyReady, Bool.and_eq_false_iff]
  exact .inr hopen

end

/-- Settles O19: each kind of strip, by the equation of its run and the bits that the run has. -/
theorem stripsDecideTheirSites : Obligations.StripsDecideTheirSites := by
  intro s core replica step strip resolve corrected r q c par sites
  extract_lets i phase P rd turn lin cost new
  intro hrun hspin hcmd hpar hmay hlimit hresult hspins hdecided hflipping hfound hn harm hplace hreads
  have h : StripAt s core replica step strip resolve r q c par sites :=
    ⟨hrun, hspin, hcmd, hpar, hmay, hlimit, hfound, harm, hplace, hreads⟩
  obtain rfl := h.par_core
  refine ⟨fun hpoor => ?_, fun hpaid hwait => ?_, fun hpaid hgo => ⟨fun ho => ?_, fun ho hres hg => ?_, fun ho hres => ?_⟩⟩
  · rw [h.exec, if_pos hpoor]
  · refine ⟨stripWait s par.core, ?_, stripWait_waits ..⟩
    rw [h.exec, if_neg (by simp [hpaid, cost]), if_pos hwait]
  · obtain rfl := h.not_resolve ho
    obtain ⟨flips, hend⟩ := runStrip_chromatic (r := r) (c := c) (par := par) (replica := replica) (step := step)
      (sites := sites)
      s ho corrected
    obtain ⟨l, m, hleft⟩ := decidedRun_eq (q := q) (c := c) (par := par) (replica := replica) (step := step)
      (sites := sites) s r
    have hexec := (h.exec_goes hpaid hgo corrected).trans (congrArg Host.Outcome.next hend)
    have hleftCmd := congrArg SpinRun.cmd hleft
    have hleftRun := stripEnd_findRun (q := q) (c := c) (par := par) (replica := replica) (step := step) (sites := sites)
      (resolve := false) corrected ((step - c.step) % 18) sites.length flips 0 0 (decidedRun s r q c par replica step sites)
        h.findRun
    have htallies := (stripCmd_rest q.plat c phase replica (stripBits s r q c par replica step sites)).1
    refine ⟨⟨_, _, _, hexec, hleftRun, hleftCmd, fun x hx => ⟨?_, ?_⟩, fun k hk => ?_, htallies, stripEnd_headStep ..,
      stripEnd_counts ..⟩, fun hg hopen =>
        ⟨_, _, _, hexec.trans ?_, hleftRun, hleftCmd, htallies, fun x hx => ?_, stripEnd_counts ..⟩⟩
    · exact decidedRun_bits s r ho hspins hn hx
    · rw [hleft]; exact stripCmd_bits s r hdecided hn hx
    · rw [hleft]; exact setMasks_getD_other hk
    · obtain ⟨l', happly⟩ := applyStrip_eq q c (step - c.step) replica (stripBits s r q c par replica step sites)
      exact congrArg Host.Outcome.next (settleSpin_decidedRun hg hlimit hresult (hopen _ (congrArg SpinRun.cmd happly))
        hleftRun)
    · exact decidedRun_bits s r ho hspins hn hx
  · subst hres
    have hphase : step - c.step < platSteps q.plat := by
      rw [h.phase ho, platSteps, if_neg ho]
      exact Nat.one_pos
    have hturn : turnCmd q c step = c := if_pos hphase
    obtain ⟨m, hleft⟩ := keptRun_eq (q := q) (c := c) (par := par) (replica := replica) (step := step) (sites := sites) s r
    have hleftRun := stripEnd_findRun (q := q) (c := c) (par := par) (replica := replica) (step := step) (sites := sites)
      (resolve := false) corrected 0 sites.length 0 0 0 (keptRun s r q c par replica step sites) h.findRun
    refine ⟨_, _, _, (h.exec_goes hpaid hgo corrected).trans (congrArg Host.Outcome.next (runStrip_decide s ho hg corrected)),
      hleftRun, congrArg SpinRun.cmd hleft, by rw [hleft], rfl, fun x hx => ?_, stripEnd_counts ..⟩
    have hlen : replica < c.decided.length := by simpa only [decidedOf, phase, if_pos hphase] using hdecided
    have hmasks : (if q.plat.order = 0 then q.spins else (turnCmd q c step).before) = c.before := by rw [if_neg ho, hturn]
    obtain ⟨d, hset, -⟩ := setMasks_stripBits (c := c) (par := par) (step := step) s r (fun _ => true) hmasks hlen hn hx
    obtain ⟨e, hflip, hold, hnew⟩ := setMasks_stripBits (c := c) (par := par) (step := step) s r (fun d => d.new != d.old)
      hmasks
      hflipping hn hx
    rw [hold, hnew] at hflip
    exact ⟨hset, hflip⟩
  · subst hres
    obtain ⟨flips, coll, yields, hend⟩ := runStrip_resolve (r := r) (q := q) (c := c) (par := par) (replica := replica)
      (step := step)
      (sites := sites) s corrected
    obtain ⟨l, m, hleft⟩ := resolvedRun_eq (q := q) (c := c) (par := par) (replica := replica) (step := step)
      (sites := sites) s r
    refine ⟨_, _, _, (h.exec_goes hpaid hgo corrected).trans (congrArg Host.Outcome.next hend),
      stripEnd_findRun _ _ _ _ _ _ _ h.findRun, congrArg SpinRun.cmd hleft, fun x hx => ?_, fun k hk => ?_, stripEnd_counts ..⟩
    · exact (resolvedRun_bits s r hspins hn hx).trans (resolveSite_new ..)
    · rw [hleft]; exact setMasks_getD_other hk

end Sys2Proof.Laws
end

section
/-! What a spin command's payments and marks leave as it is, and the end of a spin command (R180, R465). -/

namespace Sys2Proof.Laws

open Sys2Proof.Machine Sys2Proof.Safety

/-! ### States alike for a spin command -/

/-- Two states of a core's work with the same RUN, store and spin unit, but for what its command has paid. -/
structure SameSpin (w v : Work) : Prop where
  run : v.run = w.run
  store : v.store = w.store
  unit : v.spinU = { w.spinU with paid := v.spinU.paid }

/-- Two states that are alike for accesses, for the governor and for the spin units of every core. -/
structure Alike (s t : State) : Prop where
  twin : Twin s t
  pace : SamePace s t
  spin : ∀ n, SameSpin (s.workAt n) (t.workAt n)

section
variable {s t u : State}

theorem SameSpin.refl (w : Work) : SameSpin w w := ⟨rfl, rfl, rfl⟩

theorem SameSpin.trans {w v x : Work} (h : SameSpin w v) (k : SameSpin v x) : SameSpin w x := by
  obtain ⟨hrun, hstore, hunit⟩ := h
  obtain ⟨krun, kstore, kunit⟩ := k
  refine ⟨krun.trans hrun, kstore.trans hstore, ?_⟩
  rw [hunit] at kunit
  exact kunit

theorem SameSpin.head {w v : Work} (h : SameSpin w v) : spinHead v = spinHead w := by
  unfold spinHead
  rw [h.unit]

theorem Alike.refl (s : State) : Alike s s := ⟨.refl s, .refl s, fun _ => .refl _⟩

theorem Alike.trans (h : Alike s t) (k : Alike t u) : Alike s u :=
  ⟨h.twin.trans k.twin, h.pace.trans k.pace, fun n => (h.spin n).trans (k.spin n)⟩

theorem Alike.foldl {α : Type} {f : State → α → State} (hf : ∀ t a, Alike t (f t a)) (s : State) (l : List α) :
    Alike s (l.foldl f s) := by
  induction l generalizing s with
  | nil => exact .refl s
  | cons a l ih => exact (hf s a).trans (ih _)

/-- A change of neither the cores nor what accesses and the governor rest on. -/
theorem Alike.frame (ht : Twin s t) (hp : paceParts t = paceParts s) (hc : t.cores = s.cores) : Alike s t :=
  by
  have hcore (n : Nat) : t.workAt n = s.workAt n := by rw [State.workAt, State.coreAt, hc]; rfl
  exact ⟨ht, .of_parts hp, fun n => by rw [hcore]; exact .refl _⟩

/-! ### Payments -/

theorem Paid.twin {v : EngineUnit} (h : Paid v s t) : Twin s t :=
  .frame (by rw [h.rest]; rfl) (by rw [h.rest])

theorem Paid.alike (h : Paid .spin s t) : Alike s t := by
  refine ⟨h.twin, h.pace, fun n => ?_⟩
  obtain ⟨p, hp⟩ := h.core n
  unfold State.workAt
  rw [hp]
  exact ⟨rfl, rfl, rfl⟩

theorem Paid.findRun {v : EngineUnit} (h : Paid v s t) (k : RunKey) : t.findRun k = s.findRun k := by
  rw [State.findRun, h.rest]
  rfl

/-- The state after a RUN's lowest core has paid for transfers. -/
def nearPaid (s : State) (r : Run) (l : List (Nat × Nat)) : State :=
  (payUnits s (r.cores.headD 0) .spin (nearCost s r.key.ctx l)).1

/-- Whether a RUN's lowest core has the credits for transfers at once (R465). -/
def NearCovered (s : State) (r : Run) (l : List (Nat × Nat)) : Prop :=
  affords s (r.cores.headD 0) (nearCost s r.key.ctx l) = true

theorem nearPaid_paid (s : State) (r : Run) (l : List (Nat × Nat)) : Paid .spin s (nearPaid s r l) := payUnits_paid ..

theorem nearThen_eq {r : Run} {l : List (Nat × Nat)} (h : NearCovered s r l) (body : State → State) :
    nearThen s r l body = body (nearPaid s r l) := by
  have hpaid : (payUnits s (r.cores.headD 0) .spin (nearCost s r.key.ctx l)).2 = true := payUnits_of_affords h .spin
  rw [nearThen, if_pos hpaid, nearPaid]

theorem nearCost_nil (s : State) (c : Nat) : nearCost s c [] = 0 := by
  simp [nearCost, nearCharge]

theorem nearCovered_nil (s : State) (r : Run) : NearCovered s r [] := by
  rw [NearCovered, nearCost_nil]
  exact affords_zero ..

/-- The state after a RUN's spin command has paid for its writes and made them. -/
def nearWritten (s : State) (r : Run) (ws : List (Nat × List Byte)) : State :=
  putAll (nearPaid s r (writeRanges ws)) r.key.ctx ws

theorem writeThen_eq {r : Run} {ws : List (Nat × List Byte)} (hstop : writesStop s r.key.ctx ws = none)
    (hpay : NearCovered s r (writeRanges ws)) (body : State → State) : writeThen s r ws body = body (nearWritten s r ws) := by
  rw [writeThen, hstop]
  exact nearThen_eq hpay _

theorem writeThen_nil (s : State) (r : Run) (body : State → State) : writeThen s r [] body = body (nearPaid s r []) := by
  have hpay : NearCovered s r (writeRanges []) := by rw [writeRanges, List.map_nil]; exact nearCovered_nil s r
  rw [writeThen_eq rfl hpay, nearWritten, putAll, List.foldl_nil, writeRanges, List.map_nil]

/-- What a core's credits cover of two transfers they still cover when the first is paid. -/
theorem affords_nearPaid {r : Run} {l : List (Nat × Nat)} {n : Nat}
    (h : affords s (r.cores.headD 0) (nearCost s r.key.ctx l + n) = true) :
    affords (nearPaid s r l) (r.cores.headD 0) n = true :=
  affords_payUnits h .spin

/-! ### Marks -/

theorem MarkFrame.twin (h : MarkFrame s t) : Twin s t := .frame (by rw [h]; rfl) (by rw [h])

theorem markAccess_alike (s : State) (c va n : Nat) : Alike s (markAccess s c va n) :=
  .frame (markAccess_frame s c va n).twin (markAccess_pace s c va n) (markAccess_cores s c va n)

theorem markReads_alike (s : State) (c : Nat) (l : List (Nat × Nat)) : Alike s (markReads s c l) :=
  Alike.foldl (f := fun t (a : Nat × Nat) => markAccess t c a.1 a.2) (fun t a => markAccess_alike t c a.1 a.2) s l

theorem paceParts_credits (h : paceParts t = paceParts s) : t.power.credits = s.power.credits := by
  simp only [paceParts, Prod.mk.injEq] at h
  exact h.2.2.2.1

theorem markReads_credits (s : State) (c : Nat) (l : List (Nat × Nat)) :
    (markReads s c l).power.credits = s.power.credits :=
  paceParts_credits (markReads_pace s c l)

theorem markReads_findRun (s : State) (c : Nat) (l : List (Nat × Nat)) (k : RunKey) :
    (markReads s c l).findRun k = s.findRun k := by
  have h := markReads_pace s c l
  simp only [paceParts, Prod.mk.injEq] at h
  rw [State.findRun, h.2.1]
  rfl

theorem timingBroken_alike (s : State) (p c : Nat) : Alike s (timingBroken s p c) :=
  .frame (timingBroken_frame s p c).twin (timingBroken_pace s p c) (timingBroken_cores s p c)

theorem chargeMem_alike (s : State) (c n : Nat) : Alike s (chargeMem s c n) :=
  .frame (.updCtx c) rfl rfl

/-! ### Writes -/

theorem putAll_twin {c : Nat} (h : Twin s t) (ws : List (Nat × List Byte)) :
    Twin (ws.foldl (fun u w => vaWrite u c w.1 w.2) s) (putAll t c ws) :=
  Twin.foldl_both (fun _ t w h => (h.trans (markAccess_alike t c w.1 w.2.length).twin).vaWrite c w.1 w.2) h ws

theorem putAll_cores (s : State) (c : Nat) (ws : List (Nat × List Byte)) : (putAll s c ws).cores = s.cores :=
  foldl_part State.cores (fun t _ => by rw [vaWrite_cores, markAccess_cores]) ws s

theorem setLevel_runs (s : State) (l : Level) (m : Memory) : (setLevel s l m).runs = s.runs := by
  cases l <;> rfl

theorem vaWrite_runs (s : State) (c va : Nat) (bs : List Byte) : (vaWrite s c va bs).runs = s.runs := by
  refine foldl_part State.runs (fun t p => ?_) _ s
  unfold pieceWrite
  split
  · exact setLevel_runs ..
  · rfl

theorem markAccess_runs (s : State) (c va n : Nat) : (markAccess s c va n).runs = s.runs := by
  have h := congrArg State.runs (markAccess_frame s c va n)
  exact h

theorem putAll_runs (s : State) (c : Nat) (ws : List (Nat × List Byte)) : (putAll s c ws).runs = s.runs :=
  foldl_part State.runs (fun t _ => by rw [vaWrite_runs, markAccess_runs]) ws s

theorem nearWritten_findRun (s : State) (r : Run) (ws : List (Nat × List Byte)) (k : RunKey) :
    (nearWritten s r ws).findRun k = s.findRun k := by
  rw [nearWritten, State.findRun, putAll_runs]
  exact (nearPaid_paid s r _).findRun k

theorem nearWritten_spin (s : State) (r : Run) (ws : List (Nat × List Byte)) (n : Nat) :
    SameSpin (s.workAt n) ((nearWritten s r ws).workAt n) := by
  rw [State.workAt, State.workAt, State.coreAt, State.coreAt, nearWritten, putAll_cores]
  exact (nearPaid_paid s r _).alike.spin n

/-- Paid writes leave the memories as the writes alone do. -/
theorem nearWritten_twin (s : State) (r : Run) (ws : List (Nat × List Byte)) :
    Twin (ws.foldl (fun u w => vaWrite u r.key.ctx w.1 w.2) s) (nearWritten s r ws) :=
  putAll_twin (nearPaid_paid s r _).twin ws

end

/-! ### The end of a spin command -/

/-- A RUN's core that comes to rest keeps its store and its spin unit. -/
theorem restCore_spin (k : RunKey) (s : State) (core n : Nat) :
    SameSpin (s.workAt n) ((restCore k s core).workAt n) := by
  refine ⟨?_, ?_, by rw [restCore_spinU]⟩ <;>
  · unfold restCore
    split
    · by_cases e : n = core
      · simp [State.workAt, e]
      · simp [State.workAt, updCore_coreAt_other s _ e]
    · rfl

theorem restCore_runs (k : RunKey) (s : State) (core : Nat) : (restCore k s core).runs = s.runs := by
  unfold restCore
  split <;> rfl

theorem restCore_sameMemories (k : RunKey) (s : State) (core : Nat) : SameMemories (restCore k s core) s := by
  unfold restCore
  split <;> exact ⟨rfl, rfl, rfl⟩

theorem sameMemories_foldl {α : Type} {f : State → α → State} (hf : ∀ t a, SameMemories (f t a) t) (s : State) (l : List α) :
    SameMemories (l.foldl f s) s := by
  induction l generalizing s with
  | nil => exact ⟨rfl, rfl, rfl⟩
  | cons a l ih => exact sameMemories_trans (ih _) (hf s a)

/-- The state after the command of a run has ended, its tallies stored and its writes made: the statuses, and the run
without a command (R154, R159, R180). -/
def spinEnded (s : State) (r : Run) (q : SpinRun) (c : SpinCmd) (st : Status) : State :=
  (r.cores.foldl (restCore r.key) (setSpinResults s.tick r st)).updRun r.key
    (fun x => { x with spin := some { q with cmd := none, last := some c } })

/-- The tallies that the end of a command stores (R143, R180). -/
def tallied (s : State) (r : Run) (c : SpinCmd) (st : Status) : State :=
  if (c.started ∧ st = stDone) ∨ st = stFieldOverflow then storeTallies s r c.mask c.tallyOff c.tallies else s

section
variable {s : State} {r : Run} {q : SpinRun} {c : SpinCmd} {st : Status}

/-- The end of a command of a run alone whose writes can be made and are covered (R180, R181, R315). -/
theorem closeSpin_eq (hr : s.findRun r.key = some r) (hq : r.spin = some q) (hc : q.cmd = some c) (hst : c.result = some st)
    (hg : q.group = none) (hstop : writesStop s r.key.ctx (completionWrites s r q c st) = none)
    (hpay : NearCovered s r (writeRanges (completionWrites s r q c st))) :
    closeSpin s r.key = spinEnded (tallied (nearWritten s r (completionWrites s r q c st)) r c st) r q c st := by
  unfold closeSpin
  simp only [hr, hq, hc, hst, hg]
  rw [writeThen_eq hstop hpay]
  simp only [spinEnded, tallied, hg]

theorem setSpinResults_part {β : Type} (part : State → β) (h : ∀ s n, part (setResult .spin st s n) = part s) (s : State)
    (r : Run) : part (setSpinResults s r st) = part s :=
  foldl_part part h _ s

theorem spinEnded_findRun (s : State) (h : s.findRun r.key = some r) (q : SpinRun) (c : SpinCmd) (st : Status) :
    (spinEnded s r q c st).findRun r.key = some { r with spin := some { q with cmd := none, last := some c } } := by
  refine updRun_findRun ?_ (fun _ => rfl)
  rw [State.findRun, foldl_part State.runs (restCore_runs r.key), setSpinResults_part State.runs (fun _ _ => rfl)]
  exact h

theorem spinEnded_sameMemories (s : State) (r : Run) (q : SpinRun) (c : SpinCmd) (st : Status) :
    SameMemories (spinEnded s r q c st) s :=
  sameMemories_trans (sameMemories_foldl (restCore_sameMemories r.key) _ _)
    (sameMemories_foldl (f := setResult .spin st) (fun _ _ => ⟨rfl, rfl, rfl⟩) s.tick _)

/-- Cores that come to rest keep their stores and spin units. -/
theorem spinEnded_spin (s : State) (r : Run) (q : SpinRun) (c : SpinCmd) (st : Status) (n : Nat) :
    SameSpin ((setSpinResults s.tick r st).workAt n) ((spinEnded s r q c st).workAt n) := by
  have hrest : ∀ (l : List Nat) (t : State), SameSpin (t.workAt n) ((l.foldl (restCore r.key) t).workAt n) := by
    intro l
    induction l with
    | nil => exact fun t => .refl _
    | cons a l ih => exact fun t => (restCore_spin r.key t a n).trans (ih _)
  exact hrest r.cores _

theorem setResult_spin_store (st : Status) (s : State) (core n : Nat) :
    ((setResult .spin st s core).workAt n).store = (s.workAt n).store := by
  by_cases h : n = core
  · rw [h]
    exact setResult_store ..
  · rw [setResult, workAt_updWork_other _ _ h]

theorem spinEnded_store (s : State) (r : Run) (q : SpinRun) (c : SpinCmd) (st : Status) (n : Nat) :
    ((spinEnded s r q c st).workAt n).store = (s.workAt n).store :=
  (spinEnded_spin s r q c st n).store.trans
    (setSpinResults_part (fun t => (t.workAt n).store) (fun t m => setResult_spin_store st t m n) s.tick r)

/-- Every core that has taken the command up has its status (R154). -/
theorem spinEnded_result (s : State) (q : SpinRun) (c : SpinCmd) (st : Status) {n : Nat} (hn : n ∈ r.cores)
    (hrun : (s.workAt n).run = some r.key) (hhead : (spinHead (s.workAt n)).isSome = true) :
    ((spinEnded s r q c st).workAt n).spinU.result = some st := by
  rw [(spinEnded_spin s r q c st n).unit]
  exact setSpinResults_result s.tick st hn hrun hhead

end

end Sys2Proof.Laws
end

section
/-! The start of a spin command: O18. -/

namespace Sys2Proof.Laws

open Sys2Proof.Machine Sys2Proof.Safety

/-! ### From the unit to the start -/

/-- A core's spin unit that works. -/
def spinAtWork (s : State) (core : Nat) : State :=
  s.updWork core (fun w => { w with spinU := { w.spinU with running := true } })

theorem gatherSpin_starts {s : State} {r : Run} {bs : List Byte} {cut : List Parcel} {q : SpinRun}
    (hr : s.findRun r.key = some r) (hactive : runActive s r = true) (hcores : r.cores ≠ [])
    (hheads : ∀ n, n ∈ r.cores → spinHead (runWork s r n) = some bs) (hq : r.spin = some q) (hidle : q.cmd = none) :
    gatherSpin s r.key cut = startSpin s r bs cut := by
  have hmap : (r.cores.map (runWork s r)).map spinHead = r.cores.map (fun _ => some bs) := by
    rw [List.map_map]
    exact List.map_congr_left hheads
  have hfirst : (r.cores.map (fun _ => some bs)).findSome? id = some bs := by
    cases hc : r.cores with
    | nil => exact absurd hc hcores
    | cons n l => rfl
  have hnone (p : Work → Bool) : (r.cores.map (runWork s r)).any (fun w => p w && (spinHead w).isNone) = false := by
    rw [List.any_map, List.any_eq_false]
    intro n hn
    simp [hheads n hn]
  have hsame : (r.cores.map (fun _ => some bs)).any (fun h => decide (h ≠ some bs)) = false := by
    rw [List.any_map, List.any_eq_false]
    simp
  have hspin : spinIdle r = true := by simp [spinIdle, hq, hidle]
  unfold gatherSpin
  simp only [hr, hmap, hfirst, hactive, hspin, hnone (fun w => workEnded w), hnone (fun w => !workEnded w), hsame]
  rfl

theorem unitReady_run {s : State} {core : Nat} {u : EngineUnit} {r : Run} {q : Cmd} (h : unitReady s core u = some (r, q)) :
    s.runOf core = some r ∧ runActive s r = true := by
  unfold unitReady at h
  dsimp only at h
  split at h
  · next hr hq =>
    split at h
    · next hok =>
      simp only [Option.some.injEq, Prod.mk.injEq] at h
      obtain ⟨rfl, rfl⟩ := h
      exact ⟨hr, hok.1⟩
    · exact absurd h (by simp)
  · exact absurd h (by simp)

theorem takeSpin_eq {s : State} {core op : Nat} {r : Run} {q : Cmd} (cut : List Parcel)
    (hready : unitReady s core .spin = some (r, q)) (hop : cmdOp q.bytes = op)
    (hturn : turnOf (s.workAt core) .spin q.ordinal = true) :
    takeSpin s core op cut = gatherSpin (spinAtWork s core) r.key cut := by
  simp [takeSpin, hready, hop, hturn, spinAtWork]

/-! ### From the checks to the launch -/

/-- A RUN of a configured run of one chip, with no command in flight and nothing to draw. -/
structure Configured (s : State) (r : Run) (q : SpinRun) : Prop where
  run : s.findRun r.key = some r
  spin : r.spin = some q
  idle : q.cmd = none
  alone : q.group = none
  free : groupOf s r.key.ctx = none
  drawn : q.plat.spinInit = false ∨ q.last.isSome = true

section
variable {s : State} {r : Run} {q : SpinRun} {bs blk : List Byte}

theorem Configured.no_draw (h : Configured s r q) (b : Option (List Byte × List Byte)) :
    drawsBits { r with block := b } q.plat = false := by
  unfold drawsBits firstCommand
  rw [h.spin]
  rcases h.drawn with hd | hd
  · simp [hd]
  · cases hl : q.last with
    | none => simp [hl] at hd
    | some c => simp [hl]

theorem withBlock_eq (r : Run) (bs blk : List Byte) :
    r.withBlock bs (some blk) = { r with block := if cmdOp bs = 0x23 then some (bs, blk) else none } := rfl

/-- The RUN's block kept in the state. -/
def keptBlock (s : State) (r : Run) (bs blk : List Byte) : State :=
  s.updRun r.key (fun x => { x with block := (r.withBlock bs (some blk)).block })

theorem keptBlock_findRun (h : s.findRun r.key = some r) (bs blk : List Byte) :
    (keptBlock s r bs blk).findRun r.key = some (r.withBlock bs (some blk)) :=
  updRun_findRun h (fun _ => rfl)

theorem keptBlock_alike (h : s.findRun r.key = some r) (bs blk : List Byte) : Alike s (keptBlock s r bs blk) :=
  ⟨.frame, SamePace.updRun h (fun _ => rfl) rfl, fun _ => .refl _⟩

/-- A command whose checks pass is accepted on its configured run (R122, R153, R170). -/
theorem startSpin_accepts (h : Configured s r q) (cut : List Parcel)
    (hfirst : (if cmdOp bs = 0x21 then travFirst r bs (betaArray s (r.cores.headD 0) bs) else schedFirst s r bs) = none)
    (hstore : armStoreBad s r bs = none) (hsecond : checkSecond s r q.plat bs none = .ok blk)
    (hcapture : blockCaptures bs blk = false ∨ q.shadow = true) :
    startSpin s r bs cut = acceptSpin (keptBlock s r bs blk) (r.withBlock bs (some blk)) q bs blk
      (betaArray s (r.cores.headD 0) bs) (tallyArray s (r.cores.headD 0) bs) := by
  have hplat : platOf s r bs = .ok q.plat q.scales := by simp [platOf, h.spin]
  have hshadow : ¬ (blockCaptures bs blk = true ∧ q.shadow = false) := by
    rcases hcapture with e | e <;> simp [e]
  have hplace (t : State) : placeOf t (r.withBlock bs (some blk)) q.plat q.scales bs blk cut = .ok q := by
    simp [placeOf, withBlock_eq, h.spin, hshadow]
  have hdraw : drawsBits (r.withBlock bs (some blk)) q.plat = false := h.no_draw _
  have hgroup : groupOf s r.key.ctx = none := h.free
  unfold startSpin
  simp only [hgroup, Option.isSome_none, Bool.false_eq_true, false_and, if_false, Option.isNone_none, Bool.true_or, if_true,
    hfirst, hstore, hplat, checkThen, hsecond, placeThen, hplace, drawThen, hdraw, startTallies]
  rfl

/-- A configured run with a command in flight. -/
def withCmd (r : Run) (q : SpinRun) (c : SpinCmd) : Run := { r with spin := some { q with cmd := some c }, block := none }

/-- The state in which a command is launched: its RUN holds it, and the states are alike but for what is paid. -/
structure Launching (s t : State) (r : Run) (q : SpinRun) (c : SpinCmd) (cost : Nat) : Prop where
  alike : Alike s t
  run : t.findRun r.key = some (withCmd r q c)
  credits : ∀ n, affords s (r.cores.headD 0) (cost + n) = true → affords t (r.cores.headD 0) n = true

theorem startReads_alone (hg : q.group = none) (s t : State) : startReads t q bs blk = startReads s q bs blk := by
  simp [startReads, hg]

/-- The state of an accepted command, what it reads paid and marked. -/
def accepted (s : State) (r : Run) (q : SpinRun) (bs blk : List Byte) (c : SpinCmd) : State :=
  (markReads (nearPaid s r (startReads s q bs blk)) r.key.ctx (startReads s q bs blk)).updRun r.key
    (fun x => { x with spin := some { q with cmd := some c }, block := none })

theorem acceptSpin_eq (hg : q.group = none) (hpay : NearCovered s r (startReads s q bs blk)) (betas : List (BitVec 32))
    (tallies : List (List Byte)) :
    acceptSpin s r q bs blk betas tallies = openSpin (accepted s r q bs blk (newCmd r bs betas tallies blk)) r.key := by
  unfold acceptSpin markStart accepted
  rw [nearThen_eq hpay]
  simp only [hg, startReads_alone hg s]

theorem SamePace.setCmd (hr : s.findRun r.key = some r) (hq : r.spin = some q) (c : SpinCmd) :
    SamePace s (s.updRun r.key (fun x => { x with spin := some { q with cmd := some c }, block := none })) := by
  refine SamePace.updRun hr (fun _ => rfl) ?_
  rw [runStreamed, runStreamed, hq]
  rfl

/-- An accepted command is launched with what its start transfers paid. -/
theorem accepted_launching (hr : s.findRun r.key = some r) (hq : r.spin = some q) (c : SpinCmd) :
    Launching s (accepted s r q bs blk c) r q c (nearCost s r.key.ctx (startReads s q bs blk)) := by
  have hpaid := nearPaid_paid s r (startReads s q bs blk)
  have hmark := markReads_alike (nearPaid s r (startReads s q bs blk)) r.key.ctx (startReads s q bs blk)
  have hcredits := markReads_credits (nearPaid s r (startReads s q bs blk)) r.key.ctx (startReads s q bs blk)
  have hrun : (markReads (nearPaid s r (startReads s q bs blk)) r.key.ctx (startReads s q bs blk)).findRun r.key = some r := by
    rw [markReads_findRun, hpaid.findRun, hr]
  have hput := SamePace.setCmd hrun hq c
  refine ⟨hpaid.alike.trans (hmark.trans ⟨.frame, hput, fun _ => .refl _⟩), updRun_findRun hrun (fun _ => rfl), fun n hn => ?_⟩
  rw [accepted, hput.affords rfl, hmark.pace.affords hcredits]
  exact affords_nearPaid hn

/-- A run without an initial draw opens its command at once (R116). -/
theorem openSpin_launches {c : SpinCmd} (hr : s.findRun r.key = some (withCmd r q c)) (hstarted : c.started = false)
    (hresult : c.result = none) (hdrawn : q.plat.spinInit = false ∨ q.last.isSome = true) :
    openSpin s r.key = launchSpin (nearPaid s (withCmd r q c) []) r.key { q with cmd := some c } c := by
  have hdraw : (q.plat.spinInit && firstCommand { q with cmd := some c }) = false := by
    rcases hdrawn with hd | hd
    · simp [hd]
    · cases hl : q.last with
      | none => simp [hl] at hd
      | some d => simp [firstCommand]
  unfold openSpin
  simp only [hr, withCmd, hstarted, hresult, hdraw, Option.isSome_none, Bool.false_eq_true, or_self, if_false]
  rw [writeThen_nil]

/-- A payment of nothing. -/
theorem Launching.nearPaid_nil {t : State} {c : SpinCmd} {cost : Nat} (h : Launching s t r q c cost) :
    Launching s (nearPaid t (withCmd r q c) []) r q c cost := by
  refine ⟨h.alike.trans (nearPaid_paid ..).alike, ?_, fun n hn => ?_⟩
  · rw [(nearPaid_paid ..).findRun, h.run]
  · refine affords_nearPaid (r := withCmd r q c) ?_
    rw [nearCost_nil, Nat.zero_add]
    exact h.credits n hn

/-- A launch from a state alike, with the same credits. -/
theorem Launching.of_alike {t u : State} {c : SpinCmd} {cost : Nat} (h : Launching t u r q c cost) (ht : Alike s t)
    (hc : t.power.credits = s.power.credits) : Launching s u r q c cost :=
  ⟨ht.trans h.alike, h.run, fun n hn => h.credits n (by rwa [ht.pace.affords hc])⟩

/-- An accepted command of a configured run is launched, what it reads paid (R122, R131, R465). -/
theorem Configured.launches (h : Configured s r q)
    (hpay : NearCovered s r (startReads s q bs blk)) (betas : List (BitVec 32)) (tallies : List (List Byte)) :
    ∃ u, acceptSpin (keptBlock s r bs blk) (r.withBlock bs (some blk)) q bs blk betas tallies =
        launchSpin u r.key { q with cmd := some (newCmd r bs betas tallies blk) } (newCmd r bs betas tallies blk) ∧
      Launching s u r q (newCmd r bs betas tallies blk) (nearCost s r.key.ctx (startReads s q bs blk)) := by
  have hkept := keptBlock_alike h.run bs blk
  have hcost : nearCost (keptBlock s r bs blk) r.key.ctx (startReads (keptBlock s r bs blk) q bs blk) =
      nearCost s r.key.ctx (startReads s q bs blk) := by
    rw [startReads_alone h.alone s, hkept.twin.nearCost]
  have hcovered : NearCovered (keptBlock s r bs blk) (r.withBlock bs (some blk))
    (startReads (keptBlock s r bs blk) q bs blk) := by
    have hlow := hkept.pace.affords rfl (r.cores.headD 0) (nearCost s r.key.ctx (startReads s q bs blk))
    unfold NearCovered
    exact (congrArg (affords (keptBlock s r bs blk) (r.cores.headD 0)) hcost).trans (hlow.trans hpay)
  have hlaunch := accepted_launching (bs := bs) (blk := blk) (r := r.withBlock bs (some blk)) (q := q)
    (keptBlock_findRun h.run bs blk) h.spin (newCmd r bs betas tallies blk)
  refine ⟨_, (acceptSpin_eq h.alone hcovered betas tallies).trans (openSpin_launches hlaunch.run rfl rfl h.drawn), ?_⟩
  rw [← hcost]
  obtain ⟨halike, hrun, hcredits⟩ := hlaunch.nearPaid_nil.of_alike hkept rfl
  exact ⟨halike, hrun, hcredits⟩

end

/-! ### The launch -/

section
variable {s t : State} {r : Run} {q : SpinRun} {c : SpinCmd}

/-- Whether a traverse of a command is left to run. -/
def TraverseLeft (c : SpinCmd) : Prop :=
  (c.block = none ∧ c.remaining ≠ 0) ∨ ∃ b, c.block = some b ∧ c.entry < b.entries.length

/-- A core at a command's first step (R159). -/
def atFirstStep (s : State) (core : Nat) : State := s.updWork core (fun x => { x with strips := 0, spinMode := 1 })

/-- The state after a command has started, with the run that it starts on. -/
def begun (s : State) (k : RunKey) (q : SpinRun) (c : SpinCmd) (q1 : SpinRun) : State :=
  (q.cut.map Parcel.core).foldl atFirstStep
    (checkTraverses (chargeStream (s.updRun k (fun x => { x with spin := some q1 })) k q c) k c)

/-- The run on which a command starts. -/
def startedRun (q : SpinRun) (c : SpinCmd) (limit : Option Nat) : SpinRun :=
  beginTraverse { q with easement := [], decEasement := [], remote := [] }
    { c with started := true, limit := limit, mail := startMail q c.mask }

theorem checkTraverses_alike (s : State) (k : RunKey) (c : SpinCmd) : Alike s (checkTraverses s k c) := by
  unfold checkTraverses
  dsimp only
  split
  · exact timingBroken_alike ..
  · exact .refl s

theorem checkTraverses_findRun (s : State) (k j : RunKey) (c : SpinCmd) : (checkTraverses s k c).findRun j = s.findRun j := by
  unfold checkTraverses
  dsimp only
  split
  · rw [State.findRun, timingBroken_runs]
    rfl
  · rfl

theorem chargeStream_alike (s : State) (k : RunKey) (q : SpinRun) (c : SpinCmd) : Alike s (chargeStream s k q c) := by
  unfold chargeStream
  split
  · exact .refl s
  · exact chargeMem_alike ..

theorem chargeStream_findRun (s : State) (k j : RunKey) (q : SpinRun) (c : SpinCmd) :
    (chargeStream s k q c).findRun j = s.findRun j := by
  unfold chargeStream
  split <;> rfl

theorem begun_findRun (h : s.findRun r.key = some r) (q : SpinRun) (c : SpinCmd) (q1 : SpinRun) :
    (begun s r.key q c q1).findRun r.key = some { r with spin := some q1 } := by
  have hput : (s.updRun r.key (fun x => { x with spin := some q1 })).findRun r.key = some { r with spin := some q1 } :=
    updRun_findRun h (fun _ => rfl)
  rw [begun, foldl_part (f := atFirstStep) (fun t => t.findRun r.key) (fun _ _ => rfl), checkTraverses_findRun,
    chargeStream_findRun, hput]

theorem begun_sameMemories (s : State) (k : RunKey) (q : SpinRun) (c : SpinCmd) (q1 : SpinRun) :
    SameMemories (begun s k q c q1) s := by
  have hcharge := (chargeStream_alike (s.updRun k (fun x => { x with spin := some q1 })) k q c).trans
    (checkTraverses_alike _ k c)
  exact sameMemories_trans (sameMemories_foldl (f := atFirstStep) (fun _ _ => ⟨rfl, rfl, rfl⟩) _ _) hcharge.twin.sameMemories

/-- A command with a traverse to run and finite starting tallies starts (R134, R145, R152). -/
theorem launchSpin_begins (s : State) (k : RunKey) (hg : q.group = none) (hfin : c.fin = false) (hleft : TraverseLeft c)
    (hfinite : ∀ k, k ∈ namedReplicas c.mask → laccFinite (laccOfImage (c.tallies.getD k [])) = true) :
    ∃ l, launchSpin s k q c = begun s k q c (startedRun q c l) := by
  have hnone : (namedReplicas c.mask).any (fun n => !laccFinite (laccOfImage (c.tallies.getD n []))) = false := by
    rw [List.any_eq_false]
    intro k hk
    rw [hfinite k hk]
    exact Bool.false_ne_true
  unfold launchSpin begun startedRun atFirstStep
  simp only [hg, hfin, hnone, Bool.false_eq_true, false_or, if_false, List.foldl_nil]
  rcases hleft with ⟨hb, hr⟩ | ⟨b, hb, hn⟩
  · simp only [hb, hr, decide_false, Bool.false_eq_true, false_and, if_false]
    exact ⟨_, rfl⟩
  · simp only [hb, Nat.not_le.mpr hn, decide_false, Bool.false_eq_true, false_and, if_false]
    exact ⟨_, rfl⟩

/-- A finished schedule, and a SPIN_TRAVERSE of no traverse, end at once (R152, R171). -/
theorem launchSpin_ends (s : State) (k : RunKey) (q : SpinRun)
    (h : c.fin = true ∨ (c.block = none ∧ c.remaining = 0 ∧ c.schedule = false)) :
    launchSpin s k q c = closeSpin (s.updRun k (fun x => { x with spin := some { q with
      cmd := some { c with result := some stDone, stopReason := bitNat c.schedule } } })) k := by
  unfold launchSpin
  rcases h with h | ⟨hb, hr, hs⟩
  · simp only [h, true_or, if_true]
  · simp only [hb, hr, hs, decide_true, and_self, or_true, if_true]

end

end Sys2Proof.Laws
end

section
/-! What a spin command that starts leaves, and what one that ends at once leaves: O18. -/

namespace Sys2Proof.Laws

open Sys2Proof.Machine Sys2Proof.Safety

/-! ### The fields of a new command -/

section
variable {r : Run} {bs blk : List Byte} {betas : List (BitVec 32)} {tallies : List (List Byte)}

theorem newCmd_traverse (h : cmdOp bs = 0x21) : newCmd r bs betas tallies blk = { newCmd r bs betas tallies blk with
    schedule := false, block := none, fin := false, step := fieldOf bs 32 6, remaining := fieldOf bs 4 4 } := by
  simp [newCmd, h]

theorem newCmd_schedule (h : cmdOp bs = 0x23) : newCmd r bs betas tallies blk = { newCmd r bs betas tallies blk with
    schedule := true, block := some (parseBlock blk), fin := decide (fieldOf blk 128 2 = fieldOf blk 0 2)
    step := fieldOf blk 136 6, firstStep := fieldOf blk 136 6, blockVa := fieldOf bs 24 8, pos := blockPos blk
    entry := (nextEntry (parseBlock blk) (fieldOf blk 128 2) (fieldOf blk 132 4)).1 } := by
  simp [newCmd, h]

theorem parseBlock_entries_length (blk : List Byte) : (parseBlock blk).entries.length = fieldOf blk 0 2 := by
  simp [parseBlock, parseEntries]

/-- A schedule with a traverse to run is not finished (R166, R171). -/
theorem not_finished
    (h : (nextEntry (parseBlock blk) (fieldOf blk 128 2) (fieldOf blk 132 4)).1 < (parseBlock blk).entries.length) :
    fieldOf blk 128 2 ≠ fieldOf blk 0 2 := by
  intro e
  have hnil : (parseBlock blk).entries.drop (fieldOf blk 128 2) = [] := by
    rw [List.drop_eq_nil_iff, parseBlock_entries_length, e]
  rw [nextEntry, hnil, skipEntries, parseBlock_entries_length, e] at h
  exact absurd h (Nat.lt_irrefl _)

theorem withEntry_eq (c : SpinCmd) :
    ∃ betas rule policy, withEntry c = { c with betas := betas, rule := rule, policy := policy } := by
  unfold withEntry
  split
  · exact ⟨c.betas, c.rule, c.policy, rfl⟩
  · exact ⟨_, _, _, rfl⟩

end

/-! ### A command that starts -/

/-- What a started run and its command are (R134, R145, R152). -/
structure Started (q : SpinRun) (c : SpinCmd) (q' : SpinRun) (c' : SpinCmd) : Prop where
  cmd : q'.cmd = some c'
  plat : q'.plat = q.plat
  spins : q'.spins = q.spins
  started : c'.started = true
  result : c'.result = c.result
  mail : c'.mail = startMail q c.mask
  step : c'.step = c.step
  remaining : c'.remaining = c.remaining
  mask : c'.mask = c.mask
  seed : c'.seed = c.seed
  block : c'.block = c.block
  pos : c'.pos = c.pos
  tallies : c'.tallies = c.tallies

theorem startedRun_started (q : SpinRun) (c : SpinCmd) (l : Option Nat) : ∃ c', Started q c (startedRun q c l) c' := by
  obtain ⟨betas, rule, policy, h⟩ := withEntry_eq { c with started := true, limit := l, mail := startMail q c.mask }
  unfold startedRun beginTraverse
  rw [h]
  exact ⟨_, ⟨rfl, rfl, rfl, rfl, rfl, rfl, rfl, rfl, rfl, rfl, rfl, rfl, rfl⟩⟩

/-- What a launch leaves that starts its command. -/
theorem Launching.begins {s u : State} {r : Run} {q : SpinRun} {c : SpinCmd} {cost : Nat} (h : Launching s u r q c cost)
    (hg : q.group = none) (hfin : c.fin = false) (hleft : TraverseLeft c)
    (hfinite : ∀ k, k ∈ namedReplicas c.mask → laccFinite (laccOfImage (c.tallies.getD k [])) = true) :
    ∃ t q' c', launchSpin u r.key { q with cmd := some c } c = t ∧
      t.findRun r.key = some { r with spin := some q', block := none } ∧
      Started { q with cmd := some c } c q' c' ∧ SameMemories t s := by
  obtain ⟨l, hlaunch⟩ := launchSpin_begins u r.key (q := { q with cmd := some c }) hg hfin hleft hfinite
  obtain ⟨c', hstarted⟩ := startedRun_started { q with cmd := some c } c l
  exact ⟨_, _, c', hlaunch, begun_findRun (r := withCmd r q c) h.run _ _ _, hstarted,
    sameMemories_trans (begun_sameMemories ..) h.alike.twin.sameMemories⟩

/-! ### A command that ends at once -/

/-- A command that ends without a traverse (R152, R171). -/
def endedCmd (c : SpinCmd) : SpinCmd := { c with result := some stDone, stopReason := bitNat c.schedule }

/-- The state in which a command that ends at once writes its results. -/
def endingState (s : State) (r : Run) (q : SpinRun) (c : SpinCmd) : State :=
  s.updRun r.key (fun x => { x with spin := some { q with cmd := some c } })

section
variable {s u : State} {r : Run} {q : SpinRun} {c : SpinCmd} {cost : Nat}

theorem endingState_findRun (h : u.findRun r.key = some (withCmd r q c)) (d : SpinCmd) :
    (endingState u r q d).findRun r.key = some (withCmd r q d) :=
  updRun_findRun (r := withCmd r q c) h (fun _ => rfl)

theorem endingState_alike (h : u.findRun r.key = some (withCmd r q c)) (d : SpinCmd) : Alike u (endingState u r q d) :=
  ⟨.frame, SamePace.updRun h (fun _ => rfl) rfl, fun _ => .refl _⟩

/-- What a command that ends at once leaves: its status on every core, and what it writes, which its credits cover. -/
theorem Launching.ends (h : Launching s u r q c cost) (hidle : q.cmd = none) (hg : q.group = none)
    (hstarted : c.started = false)
    (hend : c.fin = true ∨ (c.block = none ∧ c.remaining = 0 ∧ c.schedule = false)) {ws : List (Nat × List Byte)}
    (hws : completionWrites (endingState u r q (endedCmd c)) (withCmd r q (endedCmd c)) { q with cmd := some (endedCmd c) }
      (endedCmd c) stDone = ws)
    (hstop : writesStop s r.key.ctx ws = none)
    (hpay : affords s (r.cores.headD 0) (cost + nearCost s r.key.ctx (writeRanges ws)) = true) :
    ∃ t, launchSpin u r.key { q with cmd := some c } c = t ∧
      t.findRun r.key = some { r with spin := some { q with last := some (endedCmd c) }, block := none } ∧
      SameMemories t (ws.foldl (fun v w => vaWrite v r.key.ctx w.1 w.2) s) ∧
      ∀ n, n ∈ r.cores → (s.workAt n).run = some r.key → (spinHead (s.workAt n)).isSome = true →
        (t.workAt n).spinU.result = some stDone ∧ (t.workAt n).store = (s.workAt n).store := by
  let v := endingState u r q (endedCmd c)
  have hrun : v.findRun r.key = some (withCmd r q (endedCmd c)) := endingState_findRun h.run _
  have hput : Alike u v := endingState_alike h.run _
  have halike : Alike s v := h.alike.trans hput
  have hstop' : writesStop v r.key.ctx ws = none := (halike.twin.writesStop ..).trans hstop
  have hpay' : NearCovered v (withCmd r q (endedCmd c)) (writeRanges ws) := by
    have hcredits := h.credits _ hpay
    rw [← halike.twin.nearCost, ← hput.pace.affords rfl] at hcredits
    exact hcredits
  subst hws
  have hclose := closeSpin_eq (r := withCmd r q (endedCmd c)) hrun rfl rfl rfl hg hstop' hpay'
  generalize completionWrites v (withCmd r q (endedCmd c)) { q with cmd := some (endedCmd c) } (endedCmd c) stDone = ws at *
  have htally : tallied (nearWritten v (withCmd r q (endedCmd c)) ws) (withCmd r q (endedCmd c)) (endedCmd c) stDone =
      nearWritten v (withCmd r q (endedCmd c)) ws := by
    rw [tallied, if_neg]
    simp [endedCmd, hstarted, stDone, stFieldOverflow]
  rw [htally] at hclose
  have hlast : ({ q with cmd := none, last := some (endedCmd c) } : SpinRun) = { q with last := some (endedCmd c) } := by
    rw [← hidle]
  refine ⟨_, (launchSpin_ends u r.key _ hend).trans hclose, ?_, ?_, fun n hn hk hhead => ⟨?_, ?_⟩⟩
  · rw [← hlast]
    exact spinEnded_findRun _ ((nearWritten_findRun ..).trans hrun) _ _ _
  · refine sameMemories_trans (spinEnded_sameMemories ..) ?_
    have hwrites := Twin.foldl_both (f := fun v (w : Nat × List Byte) => vaWrite v r.key.ctx w.1 w.2)
      (fun _ _ w h => h.vaWrite r.key.ctx w.1 w.2) halike.twin ws
    exact (hwrites.trans (nearWritten_twin v (withCmd r q (endedCmd c)) ws)).sameMemories
  · have hspin := (halike.spin n).trans (nearWritten_spin v (withCmd r q (endedCmd c)) ws n)
    exact spinEnded_result _ _ _ _ hn (hspin.run.trans hk) (hspin.head.symm ▸ hhead)
  · have hspin := (halike.spin n).trans (nearWritten_spin v (withCmd r q (endedCmd c)) ws n)
    exact (spinEnded_store ..).trans hspin.store

end

/-! ### What a finished schedule writes -/

theorem Twin.recordOk {s t : State} (h : Twin s t) (c a : Nat) : Machine.recordOk t c a = Machine.recordOk s c a := by
  unfold Machine.recordOk
  rw [h.rangeHost]

theorem Twin.boot {s t : State} (h : Twin s t) : t.boot = s.boot := by
  rw [h.eq]

theorem recordImage_length (bs : List Byte) (c : Option SpinCmd) (order : Nat) (st : Status) (first last arithRev : Nat)
    (elapsed : Word) : (recordImage bs c order st first last arithRev elapsed).length = 128 := by
  unfold recordImage zeros
  simp only [List.length_append, natLe_length, List.length_replicate]

/-- A SPIN_TRAVERSE of no traverse writes nothing (R152). -/
theorem completionWrites_empty (s : State) (r : Run) (q : SpinRun) {c : SpinCmd} (hstarted : c.started = false)
    (hsched : c.schedule = false) (st : Status) : completionWrites s r q c st = [] := by
  simp [completionWrites, recordWrite, hstarted, hsched]

/-- A finished schedule writes BENCH_NEXT and its run record (R171, R186). -/
theorem completionWrites_finished (s : State) (r : Run) (q : SpinRun) {c : SpinCmd} {b : RunBlock}
    (hstarted : c.started = false)
    (hsched : c.schedule = true) (hblock : c.block = some b) (hrecord : recordOk s r.key.ctx b.recAddr = true) :
    completionWrites s r q c stDone = [(c.blockVa + 130, natLe 2 c.benchNext), (b.recAddr,
      recordImage c.bytes (some c) q.plat.order stDone c.firstStep c.step s.boot.fw.arithRev (Config.word s.fresh))] := by
  have hstatus : stDone ≠ stTimeoutKilled := by decide
  have hlast : lastStep q c = c.step := by simp [lastStep, hstarted]
  unfold completionWrites recordWrite
  simp only [hstarted, hsched, hblock, hrecord, hstatus, hlast, Bool.false_eq_true, false_and, and_false, if_false, or_self,
    Bool.true_eq_false, Bool.not_true, List.nil_append, List.cons_append]

/-! ### The commands of O18 -/

/-- A spin command that every core of its RUN has issued alike, on a configured run of one chip. -/
structure IssuedAlike (s : State) (core : Nat) (r : Run) (q : Cmd) (Q : SpinRun) : Prop where
  ready : unitReady s core .spin = some (r, q)
  turn : turnOf (s.workAt core) .spin q.ordinal = true
  cores : r.cores ≠ []
  heads : ∀ n, n ∈ r.cores → spinHead (runWork (spinAtWork s core) r n) = some q.bytes
  store : armStoreBad (spinAtWork s core) r q.bytes = none
  configured : Configured (spinAtWork s core) r Q

section
variable {s : State} {core op : Nat} {r : Run} {q : Cmd} {Q : SpinRun} {blk : List Byte}

/-- The command's record in the run. -/
def issuedCmd (s : State) (core : Nat) (r : Run) (bs blk : List Byte) : SpinCmd :=
  newCmd r bs (betaArray (spinAtWork s core) (r.cores.headD 0) bs) (tallyArray (spinAtWork s core) (r.cores.headD 0) bs) blk

/-- A command whose checks pass is launched (R122, R153, R170). -/
theorem IssuedAlike.launches (h : IssuedAlike s core r q Q) (cut : List Parcel) (hop : cmdOp q.bytes = op)
    (hfirst : (if cmdOp q.bytes = 0x21 then travFirst r q.bytes (betaArray (spinAtWork s core) (r.cores.headD 0) q.bytes)
      else schedFirst (spinAtWork s core) r q.bytes) = none)
    (hsecond : checkSecond (spinAtWork s core) r Q.plat q.bytes none = .ok blk)
    (hcapture : blockCaptures q.bytes blk = false ∨ Q.shadow = true)
    (hpay : NearCovered (spinAtWork s core) r (startReads (spinAtWork s core) Q q.bytes blk)) :
    ∃ u, takeSpin s core op cut =
        launchSpin u r.key { Q with cmd := some (issuedCmd s core r q.bytes blk) } (issuedCmd s core r q.bytes blk) ∧
      Launching (spinAtWork s core) u r Q (issuedCmd s core r q.bytes blk)
        (nearCost (spinAtWork s core) r.key.ctx (startReads (spinAtWork s core) Q q.bytes blk)) := by
  obtain ⟨-, hactive⟩ := unitReady_run h.ready
  obtain ⟨u, haccept, hlaunch⟩ := h.configured.launches hpay (betaArray (spinAtWork s core) (r.cores.headD 0) q.bytes)
    (tallyArray (spinAtWork s core) (r.cores.headD 0) q.bytes)
  refine ⟨u, ?_, hlaunch⟩
  rw [takeSpin_eq cut h.ready hop h.turn,
    gatherSpin_starts h.configured.run hactive h.cores h.heads h.configured.spin h.configured.idle,
    startSpin_accepts h.configured cut hfirst h.store hsecond hcapture, haccept]
  rfl

/-- Every core of the RUN on the chip has taken the command up. -/
theorem IssuedAlike.head (h : IssuedAlike s core r q Q) {n : Nat} (hn : n ∈ r.cores)
    (hrun : ((spinAtWork s core).workAt n).run = some r.key) : (spinHead ((spinAtWork s core).workAt n)).isSome = true := by
  have hhead := h.heads n hn
  rw [runWork, if_pos hrun] at hhead
  rw [hhead]
  rfl

end

/-- Settles O18: what is accepted is launched, and a launch starts its command or ends it. -/
theorem spinCommandsStart : Obligations.SpinCommandsStart := by
  intro s core cut r q Q
  extract_lets s1 finite start covered allDone
  intro hready hturn hcores hheads hstore hspin hidle halone hfree hdrawn
  have hconf : Configured s1 r Q := ⟨(updWork_findRun ..).trans (findRun_of_runOf (unitReady_run hready).1), hspin, hidle,
    halone, hfree, hdrawn⟩
  have h : IssuedAlike s core r q Q := ⟨hready, hturn, hcores, hheads, hstore, hconf⟩
  refine ⟨fun hop hfirst hsecond hpay => ?_, fun blk hop hfirst hsecond hcapture hpay => ?_⟩
  · have hchecks : checkSecond s1 r Q.plat q.bytes none = .ok [] := by simp [checkSecond, hop, hsecond]
    have hcapture : blockCaptures q.bytes [] = false := by simp [blockCaptures, hop]
    obtain ⟨u, htake, hlaunch⟩ := h.launches cut hop (by rw [if_pos hop]; exact hfirst) hchecks (.inl hcapture) hpay
    have hcmd : issuedCmd s core r q.bytes [] = _ := newCmd_traverse hop
    have hblock : (issuedCmd s core r q.bytes []).block = none := congrArg SpinCmd.block hcmd
    have hfin : (issuedCmd s core r q.bytes []).fin = false := congrArg SpinCmd.fin hcmd
    have hsched : (issuedCmd s core r q.bytes []).schedule = false := congrArg SpinCmd.schedule hcmd
    have hstep : (issuedCmd s core r q.bytes []).step = fieldOf q.bytes 32 6 := congrArg SpinCmd.step hcmd
    have hleft : (issuedCmd s core r q.bytes []).remaining = fieldOf q.bytes 4 4 := congrArg SpinCmd.remaining hcmd
    refine ⟨fun hfinite hsome => ?_, fun hzero => ?_⟩
    · obtain ⟨t, Q', c', hbegin, hrun, h', hmem⟩ := hlaunch.begins halone hfin (.inl ⟨hblock, by rwa [hleft]⟩) hfinite
      exact ⟨t, Q', c', congrArg Host.Outcome.next (htake.trans hbegin), hrun, h'.cmd, h'.plat, h'.spins, h'.started, h'.result,
        by rw [h'.mask]; exact h'.mail, h'.step.trans hstep, h'.remaining.trans hleft, h'.mask, h'.seed, h'.tallies,
        sameMemories_trans hmem ⟨rfl, rfl, rfl⟩⟩
    · have hcovered : affords s1 (r.cores.headD 0) (start [] + nearCost s1 r.key.ctx (writeRanges [])) = true := by
        rw [writeRanges, List.map_nil, nearCost_nil, Nat.add_zero]
        exact hpay
      have hnone := completionWrites_empty (endingState u r Q (endedCmd (issuedCmd s core r q.bytes [])))
        (withCmd r Q (endedCmd (issuedCmd s core r q.bytes [])))
          { Q with cmd := some (endedCmd (issuedCmd s core r q.bytes [])) }
        (c := endedCmd (issuedCmd s core r q.bytes [])) rfl hsched stDone
      obtain ⟨t, hend, hrun, hmem, hdone⟩ := hlaunch.ends hidle halone rfl (.inr ⟨hblock, hleft.trans hzero, hsched⟩) hnone
        rfl hcovered
      exact ⟨t, _, congrArg Host.Outcome.next (htake.trans hend), sameMemories_trans hmem ⟨rfl, rfl, rfl⟩,
        fun n hn hk => hdone n hn hk (h.head hn hk), hrun, rfl, rfl⟩
  · have hnot : cmdOp q.bytes ≠ 0x21 := by rw [hop]; decide
    obtain ⟨u, htake, hlaunch⟩ := h.launches cut hop (by rw [if_neg hnot]; exact hfirst) hsecond hcapture hpay
    have hcmd : issuedCmd s core r q.bytes blk = _ := newCmd_schedule hop
    have hblock : (issuedCmd s core r q.bytes blk).block = some (parseBlock blk) := congrArg SpinCmd.block hcmd
    have hfin : (issuedCmd s core r q.bytes blk).fin = decide (fieldOf blk 128 2 = fieldOf blk 0 2) := congrArg SpinCmd.fin hcmd
    have hsched : (issuedCmd s core r q.bytes blk).schedule = true := congrArg SpinCmd.schedule hcmd
    have hstep : (issuedCmd s core r q.bytes blk).step = fieldOf blk 136 6 := congrArg SpinCmd.step hcmd
    have hfirstStep : (issuedCmd s core r q.bytes blk).firstStep = fieldOf blk 136 6 := congrArg SpinCmd.firstStep hcmd
    have hva : (issuedCmd s core r q.bytes blk).blockVa = fieldOf q.bytes 24 8 := congrArg SpinCmd.blockVa hcmd
    have hpos : (issuedCmd s core r q.bytes blk).pos = blockPos blk := congrArg SpinCmd.pos hcmd
    have hentry : (issuedCmd s core r q.bytes blk).entry = _ := congrArg SpinCmd.entry hcmd
    refine ⟨fun hfinite hleft => ?_, fun hover hrecord hnext hrec hcovered => ?_⟩
    · obtain ⟨t, Q', c', hbegin, hrun, h', hmem⟩ := hlaunch.begins halone (hfin.trans (decide_eq_false (not_finished hleft)))
        (.inr ⟨_, hblock, by rw [hentry]; exact hleft⟩) hfinite
      exact ⟨t, Q', c', congrArg Host.Outcome.next (htake.trans hbegin), hrun, h'.cmd, h'.plat, h'.spins, h'.started, h'.result,
        by rw [h'.mask]; exact h'.mail, h'.step.trans hstep, h'.block.trans hblock, h'.mask, h'.pos.trans hpos, h'.tallies,
        sameMemories_trans hmem ⟨rfl, rfl, rfl⟩⟩
    · have hfinished : (issuedCmd s core r q.bytes blk).fin = true := hfin.trans (decide_eq_true hover)
      let c := endedCmd (issuedCmd s core r q.bytes blk)
      let v := endingState u r Q c
      have hworks : Twin s s1 := .frame
      have htwin : Twin s v := hworks.trans (hlaunch.alike.trans (endingState_alike hlaunch.run c)).twin
      have hwrites := completionWrites_finished v (withCmd r Q c) { Q with cmd := some c } (c := c) rfl hsched hblock
        ((htwin.recordOk ..).trans hrecord)
      have hfirst : c.firstStep = c.step := hfirstStep.trans hstep.symm
      have hblockVa : c.blockVa = fieldOf q.bytes 24 8 := hva
      have hbench : c.benchNext = if fieldOf blk 130 2 < fieldOf blk 52 2 then fieldOf blk 130 2 else 0 := rfl
      have haddress : (parseBlock blk).recAddr = fieldOf blk 32 8 := rfl
      rw [hfirst, hblockVa, htwin.boot, hbench, haddress] at hwrites
      generalize (if fieldOf blk 130 2 < fieldOf blk 52 2 then fieldOf blk 130 2 else 0) = next at hwrites ⊢
      generalize himage : recordImage c.bytes (some c) Q.plat.order stDone c.step c.step s.boot.fw.arithRev
        (Config.word v.fresh) =
        image at hwrites
      have hlength : image.length = 128 := himage ▸ recordImage_length ..
      have hstop : writesStop s1 r.key.ctx [(fieldOf q.bytes 24 8 + 130, natLe 2 next), (fieldOf blk 32 8, image)] =
          none := by
        simp only [writesStop, List.findSome?_eq_none_iff, List.mem_cons, List.not_mem_nil, or_false, forall_eq_or_imp,
          forall_eq,
          natLe_length, hlength, hworks.rangeStop]
        exact ⟨hnext, hrec⟩
      obtain ⟨t, hend, hrun, hmem, hdone⟩ := hlaunch.ends hidle halone rfl (.inl hfinished) hwrites hstop (by
        simp only [writeRanges, List.map_cons, List.map_nil, natLe_length, hlength]
        exact hcovered)
      refine ⟨t, c, Config.word v.fresh, congrArg Host.Outcome.next (htake.trans hend),
        fun n hn hk => hdone n hn hk (h.head hn hk), hrun, rfl, ?_, rfl, rfl, hstep, ?_⟩
      · exact congrArg bitNat hsched
      · have hsame := Twin.foldl_both (f := fun v (w : Nat × List Byte) => vaWrite v r.key.ctx w.1 w.2)
          (fun _ _ w h => h.vaWrite r.key.ctx w.1 w.2) hworks
          [(fieldOf q.bytes 24 8 + 130, natLe 2 next), (fieldOf blk 32 8, image)]
        rw [← himage] at hmem hsame
        simp only [List.foldl_cons, List.foldl_nil] at hmem hsame
        exact sameMemories_trans hmem hsame.sameMemories

end Sys2Proof.Laws
end

section
/-! What a traverse boundary leaves as it is beside its command: what is waited for, and whom the wakes reach (R176, R318). -/

namespace Sys2Proof.Laws

open Sys2Proof.Machine Sys2Proof.Safety

/-! ### Which WAIT descriptor is next -/

/-- The parts of the state by which a ring's next descriptor is found. -/
def queueParts (s : State) :=
  (s.boot, s.power.chip, s.runs.map (fun q => (q.key, q.phase, q.cores)), fun c => ((s.ctxAt c).rings, (s.ctxAt c).st))

section
variable {s t u : State}

/-- Whether a RUN of a list, of which key, phase and cores are given, waits for a core of one before it (R355). -/
def blockedIn (l : List (RunKey × RunPhase × List Nat)) (a : RunKey × RunPhase × List Nat) : Bool :=
  (l.takeWhile (fun q => decide (q.1 ≠ a.1))).any (fun q =>
    decide (q.1.ctx = a.1.ctx) && q.2.2.any (fun n => decide (n ∈ a.2.2)))

theorem runBlocked_eq (s : State) (r : Run) :
    runBlocked s r = blockedIn (s.runs.map (fun q => (q.key, q.phase, q.cores))) (r.key, r.phase, r.cores) := by
  rw [runBlocked, blockedIn, List.takeWhile_map, List.any_map]
  rfl

theorem ringHeld_eq (s : State) (c r : Nat) : ringHeld s c r = (s.runs.map (fun q => (q.key, q.phase, q.cores))).any (fun a =>
    decide (a.1.ctx = c ∧ a.1.ring = r ∧ a.2.1 = .waiting) &&
      blockedIn (s.runs.map (fun q => (q.key, q.phase, q.cores))) a) := by
  unfold ringHeld
  simp only [runBlocked_eq, List.any_map]
  rfl

theorem nextOf_congr (h : queueParts t = queueParts s) (c r ty : Nat) (states : List Nat) :
    nextOf t c r ty states = nextOf s c r ty states := by
  simp only [queueParts, Prod.mk.injEq] at h
  obtain ⟨hboot, hchip, hruns, hctx⟩ := h
  obtain ⟨hrings, hst⟩ := Prod.mk.inj (congrFun hctx c)
  have hheld : ringHeld t c r = ringHeld s c r := by rw [ringHeld_eq, ringHeld_eq, hruns]
  unfold nextOf chipRuns State.ringAt Ctx.ringAt
  rw [hboot, hchip, hrings, hst, hheld]

theorem queueParts_updCtx (s : State) (c : Nat) {f : Ctx → Ctx} (hr : ∀ x, (f x).rings = x.rings := by exact fun _ => rfl)
    (hs : ∀ x, (f x).st = x.st := by exact fun _ => rfl) : queueParts (s.updCtx c f) = queueParts s := by
  suffices hctx : (fun d => (((s.updCtx c f).ctxAt d).rings, ((s.updCtx c f).ctxAt d).st)) =
      fun d => ((s.ctxAt d).rings, (s.ctxAt d).st) by
    exact congrArg (fun p => (s.boot, s.power.chip, s.runs.map (fun q => (q.key, q.phase, q.cores)), p)) hctx
  funext d
  by_cases hd : d = c
  · rw [hd, updCtx_ctxAt_same, hr, hs]
  · rw [updCtx_ctxAt_other s f hd]

theorem queueParts_updRun (s : State) (k : RunKey) {f : Run → Run} (hk : ∀ q, (f q).key = q.key := by exact fun _ => rfl)
    (hp : ∀ q, (f q).phase = q.phase := by exact fun _ => rfl) (hc : ∀ q, (f q).cores = q.cores := by exact fun _ => rfl) :
    queueParts (s.updRun k f) = queueParts s := by
  refine congrArg (fun p => (s.boot, s.power.chip, p, fun c => ((s.ctxAt c).rings, (s.ctxAt c).st))) ?_
  rw [State.updRun, List.map_map]
  refine List.map_congr_left fun q _ => ?_
  by_cases e : q.key = k <;> simp [e, hk, hp, hc]

theorem queueParts_of_marks (hf : MarkFrame s t) (hp : paceParts t = paceParts s) : queueParts t = queueParts s := by
  simp only [paceParts, Prod.mk.injEq] at hp
  obtain ⟨-, -, -, -, hchip, -⟩ := hp
  rw [hf] at hchip ⊢
  exact congrArg (fun p => (s.boot, p, s.runs.map (fun q => (q.key, q.phase, q.cores)),
    fun c => ((s.ctxAt c).rings, (s.ctxAt c).st))) hchip

/-! ### A boundary's steps -/

/-- Two states alike for a spin command and for what waits, with the credits of a core covering the same. -/
structure Steady (low : Nat) (s t : State) : Prop where
  alike : Alike s t
  queues : queueParts t = queueParts s
  affords : ∀ n, Machine.affords s low n = true → Machine.affords t low n = true

variable {low : Nat}

theorem Steady.refl (low : Nat) (s : State) : Steady low s s := ⟨.refl s, rfl, fun _ h => h⟩

theorem Steady.trans (h : Steady low s t) (k : Steady low t u) : Steady low s u :=
  ⟨h.alike.trans k.alike, k.queues.trans h.queues, fun n hn => k.affords n (h.affords n hn)⟩

theorem Steady.foldl {α : Type} {f : State → α → State} (hf : ∀ t a, Steady low t (f t a)) (s : State) (l : List α) :
    Steady low s (l.foldl f s) := by
  induction l generalizing s with
  | nil => exact .refl low s
  | cons a l ih => exact (hf s a).trans (ih _)

/-- A change that leaves every credit. -/
theorem Steady.of_credits (h : Alike s t) (hq : queueParts t = queueParts s) (hc : t.power.credits = s.power.credits) :
    Steady low s t :=
  ⟨h, hq, fun n hn => by rwa [h.pace.affords hc]⟩

theorem Paid.queues {v : EngineUnit} (h : Paid v s t) : queueParts t = queueParts s := by
  rw [h.rest]
  rfl

theorem nearPaid_nil_steady (s : State) (r : Run) : Steady (r.cores.headD 0) s (nearPaid s r []) := by
  refine ⟨(nearPaid_paid ..).alike, (nearPaid_paid ..).queues, fun n hn => affords_nearPaid ?_⟩
  rwa [nearCost_nil, Nat.zero_add]

theorem markT_steady (s : State) (c : Nat) : Steady low s (markT s c) := by
  have hcores : (markT s c).cores = s.cores := by
    have h := congrArg State.cores (markT_frame s c)
    exact h
  exact .of_credits (.frame (markT_frame s c).twin (markT_pace s c) hcores)
    (queueParts_of_marks (markT_frame s c) (markT_pace s c)) (paceParts_credits (markT_pace s c))

theorem checkTraverses_steady (s : State) (k : RunKey) (c : SpinCmd) : Steady low s (checkTraverses s k c) := by
  refine .of_credits (checkTraverses_alike ..) ?_ ?_ <;>
  · unfold checkTraverses
    dsimp only
    split
    · first
        | exact queueParts_of_marks (timingBroken_frame ..) (timingBroken_pace ..)
        | exact paceParts_credits (timingBroken_pace ..)
    · rfl

theorem chargeStream_steady (s : State) (k : RunKey) (q : SpinRun) (c : SpinCmd) : Steady low s (chargeStream s k q c) := by
  refine .of_credits (chargeStream_alike ..) ?_ ?_ <;> unfold chargeStream <;> split
  · rfl
  · exact queueParts_updCtx ..
  · rfl
  · rfl

/-- A change of a context's save area. -/
theorem updSaves_steady (s : State) (c : Nat) (f : Ctx → Tab Work) :
    Steady low s (s.updCtx c (fun x => { x with saves := f x })) :=
  .of_credits ⟨.updCtx c, .of_parts rfl, fun _ => .refl _⟩ (queueParts_updCtx s c) rfl

/-- A change of a core that leaves its plot, its RUN, its store and its queues. -/
theorem updCore_steady (s : State) (core : Nat) {f : Core → Core} (hp : ∀ c, (f c).plot = c.plot := by exact fun _ => rfl)
    (hr : ∀ c, (f c).work.run = c.work.run := by exact fun _ => rfl)
    (hs : ∀ c, (f c).work.store = c.work.store := by exact fun _ => rfl)
    (hu : ∀ c, (f c).work.spinU = c.work.spinU := by exact fun _ => rfl)
    (hd : ∀ c, (f c).work.denseU.queue = c.work.denseU.queue := by exact fun _ => rfl)
    (hm : ∀ c, (f c).work.dmaU.queue = c.work.dmaU.queue := by exact fun _ => rfl) : Steady low s (s.updCore core f) := by
  refine .of_credits ⟨.frame, .updCore s core hp hr (fun c => by rw [hu]) hd hm, fun n => ?_⟩ rfl rfl
  by_cases hn : n = core
  · rw [State.workAt, State.workAt, hn, updCore_coreAt_same]
    exact ⟨hr _, hs _, by rw [hu]⟩
  · rw [State.workAt, State.workAt, updCore_coreAt_other s f hn]
    exact .refl _

theorem clearBusy_steady (s : State) (q : SpinRun) : Steady low s (clearBusy s q) :=
  Steady.foldl (f := fun t (n : Nat) => t.updCore n (fun c => { c with spinBusy := 0 })) (fun t n => updCore_steady t n) s _

theorem clearBusy_runs (s : State) (q : SpinRun) : (clearBusy s q).runs = s.runs :=
  foldl_part (f := fun t (n : Nat) => t.updCore n (fun c => { c with spinBusy := 0 })) State.runs (fun _ _ => rfl) _ s

/-! ### Control cores that go on -/

theorem pollHart_steady (r : Run) (core : Nat) (s : State) (cc : Bool) : Steady low s (pollHart r core s cc) := by
  unfold pollHart
  dsimp only
  split
  · exact .refl low s
  · split
    · unfold retire retireWith
      refine updCore_steady s core ?_ ?_ ?_ ?_ ?_ ?_ <;> intro c <;> cases cc <;> rfl
    · unfold State.updHart State.setHart State.updWork
      refine updCore_steady s core ?_ ?_ ?_ ?_ ?_ ?_ <;> intro c <;> cases cc <;> rfl

theorem pollHart_runs (r : Run) (core : Nat) (s : State) (cc : Bool) : (pollHart r core s cc).runs = s.runs := by
  unfold pollHart
  dsimp only
  repeat' split
  all_goals rfl

theorem pollCore_steady (r : Run) (s : State) (core : Nat) : Steady low s (pollCore r s core) := by
  unfold pollCore
  split
  · exact .foldl (pollHart_steady r core) s _
  · split
    · exact updSaves_steady s _ (fun x => tabSet x.saves core (pollWork s r (tabGet {} x.saves core)))
    · exact .refl low s

theorem pollCore_runs (r : Run) (s : State) (core : Nat) : (pollCore r s core).runs = s.runs := by
  unfold pollCore
  split
  · exact foldl_part State.runs (pollHart_runs r core) _ s
  · split <;> rfl

theorem pollRun_steady (s : State) (k : RunKey) : Steady low s (pollRun s k) := by
  unfold pollRun
  split
  · exact .refl low s
  · split
    · exact .foldl (pollCore_steady _) s _
    · exact .refl low s

theorem pollRun_runs (s : State) (k : RunKey) : (pollRun s k).runs = s.runs := by
  unfold pollRun
  split
  · rfl
  · split
    · exact foldl_part State.runs (pollCore_runs _) _ s
    · rfl

/-- Where no WAIT descriptor is next on any ring, none is evaluated. -/
theorem evalWaits_none (h : ∀ x n, nextOf s x n 2 [1, 2] = none) : evalWaits s = s := by
  have hstep (p : Nat × Nat) : waitStep s p.1 p.2 = s := by rw [waitStep, h]
  have hfold : ∀ l : List (Nat × Nat), l.foldl (fun (t : State) (p : Nat × Nat) => waitStep t p.1 p.2) s = s := by
    intro l
    induction l with
    | nil => rfl
    | cons p l ih => rw [List.foldl_cons, hstep, ih]
  exact hfold _

/-- No WAIT descriptor is next on any ring. -/
def NoWait (s : State) : Prop := ∀ x n, nextOf s x n 2 [1, 2] = none

theorem Steady.noWait (h : Steady low s t) (hs : NoWait s) : NoWait t :=
  fun x n => (nextOf_congr h.queues x n 2 [1, 2]).trans (hs x n)

theorem wakeWaits_eq (h : NoWait s) :
    wakeWaits s = if chipRuns s then (s.runs.map Run.key).foldl pollRun s else s := by
  have hpoll : Steady 0 s ((s.runs.map Run.key).foldl pollRun s) := .foldl pollRun_steady s _
  rw [wakeWaits, evalWaits_none (hpoll.noWait h)]

theorem wakeWaits_steady (h : NoWait s) : Steady low s (wakeWaits s) := by
  rw [wakeWaits_eq h]
  split
  · exact .foldl pollRun_steady s _
  · exact .refl low s

theorem wakeWaits_runs (h : NoWait s) : (wakeWaits s).runs = s.runs := by
  rw [wakeWaits_eq h]
  split
  · exact foldl_part State.runs pollRun_runs _ s
  · rfl

end

end Sys2Proof.Laws
end

section
/-! Benchmarks taken at a boundary, and the tallies that the end of a command stores (R143, R176, R329). -/

namespace Sys2Proof.Laws

open Sys2Proof.Machine Sys2Proof.Safety

/-! ### Cores that wait for a benchmark -/

section
variable {s t : State} {low : Nat}

theorem tabGet_map {α : Type} (d : α) (l : Tab α) (g : Nat × α → Nat × α) (f : α → α) (hg : ∀ p, g p = (p.1, f p.2)) (n : Nat) :
    tabGet d (l.map g) n = f (tabGet d l n) ∨ tabGet d (l.map g) n = tabGet d l n := by
  induction l with
  | nil => exact .inr rfl
  | cons p r ih =>
    obtain ⟨j, v⟩ := p
    rw [List.map_cons, hg]
    by_cases hj : j = n
    · simp [tabGet, hj]
    · simpa [tabGet, hj] using ih

/-- Control cores that go on leave the rest of their core. -/
theorem wakeFor_core (w : CcWait) (c : Core) : SameSpin c.work (c.work.wakeFor w) := ⟨rfl, rfl, rfl⟩

theorem wakeRun_coreAt (s : State) (k : RunKey) (w : CcWait) (n : Nat) :
    (wakeRun s k w).coreAt n = { s.coreAt n with work := (s.workAt n).wakeFor w } ∨ (wakeRun s k w).coreAt n = s.coreAt n := by
  have hmap := tabGet_map ({} : Core) s.cores
    (fun p => if p.2.work.run = some k then (p.1, { p.2 with work := p.2.work.wakeFor w }) else p)
    (fun c => if c.work.run = some k then { c with work := c.work.wakeFor w } else c) (fun p => by split <;> rfl) n
  rcases hmap with h | h
  · by_cases hk : (s.coreAt n).work.run = some k
    · exact .inl (h.trans (if_pos hk))
    · exact .inr (h.trans (if_neg hk))
  · exact .inr h

theorem wakeRun_steady (s : State) (k : RunKey) (w : CcWait) : Steady low s (wakeRun s k w) := by
  have hcore := wakeRun_coreAt s k w
  have htwin : Twin s (wakeRun s k w) := by
    unfold wakeRun
    exact Twin.trans .frame (.updCtx k.ctx)
  refine .of_credits ⟨htwin, ⟨reservedCore_congr (fun n => ?_) (fun _ => rfl), fun n => ?_, fun _ => rfl⟩, fun n => ?_⟩
    (queueParts_updCtx _ k.ctx) rfl
  · rcases hcore n with h | h <;> rw [h]
  · unfold fullDraw streamsPlat State.workAt
    rcases hcore n with h | h <;> rw [h] <;> rfl
  · unfold State.workAt
    rcases hcore n with h | h <;> rw [h]
    · exact wakeFor_core w _
    · exact .refl _

/-- A RUN with the benchmark taken that waits on it, if any (R329). -/
def benchTaken (s : State) (k : RunKey) (q : SpinRun) (mask : Nat) (traverse : Bool) (r : Run) : Run :=
  match r.benchWait with
  | some (va, size, t) =>
    if t = false ∨ traverse then
      { r with benchWait := none, benches := r.benches ++ [if slotBad s k.ctx q mask va size then stBadField else stDone] }
    else r
  | none => r

/-- A context with the snapshot taken that waits on a RUN, if any (R411). -/
def snapTaken (k : RunKey) (x : Ctx) : Ctx := if x.snapRun = some k then { x with snapRun := none, snapStatus := stDone } else x

theorem takenDone_eq (s : State) (q : SpinRun) (mask : Nat) (k : RunKey) (traverse : Bool) : takenDone s q mask k traverse =
    wakeWaits ((wakeRun (s.updRun k (benchTaken s k q mask traverse)) k .benchmark).updCtx k.ctx (snapTaken k)) := rfl

/-- Taking a benchmark changes of a RUN nothing by which it is found, scheduled or paced. -/
theorem benchTaken_rest (s : State) (k : RunKey) (q : SpinRun) (mask : Nat) (traverse : Bool) (r : Run) :
    (benchTaken s k q mask traverse r).key = r.key ∧ (benchTaken s k q mask traverse r).phase = r.phase ∧
    (benchTaken s k q mask traverse r).cores = r.cores ∧ (benchTaken s k q mask traverse r).spin = r.spin := by
  unfold benchTaken
  repeat' split
  all_goals exact ⟨rfl, rfl, rfl, rfl⟩

theorem snapTaken_steady (s : State) (c : Nat) (k : RunKey) : Steady low s (s.updCtx c (snapTaken k)) := by
  have hrest (x : Ctx) : (snapTaken k x).tlb = x.tlb ∧ (snapTaken k x).ptRoot = x.ptRoot ∧ (snapTaken k x).rings = x.rings ∧
      (snapTaken k x).st = x.st := by
    unfold snapTaken
    split <;> exact ⟨rfl, rfl, rfl, rfl⟩
  exact .of_credits ⟨.updCtx c (fun x => (hrest x).1) (fun x => (hrest x).2.1), .of_parts rfl, fun _ => .refl _⟩
    (queueParts_updCtx s c (fun x => (hrest x).2.2.1) (fun x => (hrest x).2.2.2)) rfl

/-- A change of a RUN that leaves its key, its phase, its cores and its spin run's place. -/
theorem updRun_steady {k : RunKey} {r : Run} (hr : s.findRun k = some r) {f : Run → Run}
    (hk : ∀ q, (f q).key = q.key := by exact fun _ => rfl) (hp : ∀ q, (f q).phase = q.phase := by exact fun _ => rfl)
    (hc : ∀ q, (f q).cores = q.cores := by exact fun _ => rfl) (hs : runStreamed (f r) = runStreamed r) :
    Steady low s (s.updRun k f) :=
  .of_credits ⟨.frame, .updRun hr hk hs, fun _ => .refl _⟩ (queueParts_updRun s k hk hp hc) rfl

/-- Taking what waits on a RUN at a boundary is no step of its command. -/
theorem takenDone_steady {k : RunKey} {r : Run} (hr : s.findRun k = some r) (h : NoWait s) (q : SpinRun) (mask : Nat)
    (traverse : Bool) : Steady low s (takenDone s q mask k traverse) := by
  have hrest := benchTaken_rest s k q mask traverse
  have hrun : Steady low s (s.updRun k (benchTaken s k q mask traverse)) :=
    updRun_steady hr (fun r => (hrest r).1) (fun r => (hrest r).2.1) (fun r => (hrest r).2.2.1)
      (by rw [runStreamed, (hrest r).2.2.2, runStreamed])
  have hwoken := (hrun.trans (wakeRun_steady _ k .benchmark)).trans (snapTaken_steady _ k.ctx k)
  rw [takenDone_eq]
  exact hwoken.trans (wakeWaits_steady (hwoken.noWait h))

/-- A RUN on which no benchmark waits is as before. -/
theorem takenDone_findRun {k : RunKey} {r : Run} (hr : s.findRun k = some r) (hb : r.benchWait = none) (h : NoWait s)
    (q : SpinRun)
    (mask : Nat) (traverse : Bool) : (takenDone s q mask k traverse).findRun k = some r := by
  have hrest := benchTaken_rest s k q mask traverse
  have hrun : (s.updRun k (benchTaken s k q mask traverse)).findRun k = some r := by
    rw [updRun_findRun hr (fun r => (hrest r).1), benchTaken, hb]
  have hsteady : Steady 0 s (s.updRun k (benchTaken s k q mask traverse)) :=
    updRun_steady hr (fun r => (hrest r).1) (fun r => (hrest r).2.1) (fun r => (hrest r).2.2.1)
      (by rw [runStreamed, (hrest r).2.2.2, runStreamed])
  have hwoken := (hsteady.trans (wakeRun_steady _ k .benchmark)).trans (snapTaken_steady _ k.ctx k)
  rw [takenDone_eq, State.findRun, wakeWaits_runs (hwoken.noWait h)]
  exact hrun

end

/-! ### Tallies in a core's store -/

/-- A store with 48-byte images written from an offset on, by replica (R143). -/
def imagesStored (off : Nat) (ts : List (List Byte)) (ks : List Nat) (m : Memory) : Memory :=
  ks.foldl (fun m k => memWriteN m (off + 48 * k) (ts.getD k [])) m

section
variable {off : Nat} {ts : List (List Byte)} {ks : List Nat} {m : Memory}

theorem memWf_imagesStored (h : memWf m = true) : memWf (imagesStored off ts ks m) = true :=
  memWf_foldl (fun _ _ hm => memWf_writeN hm _ _) h ks

theorem imagesStored_other (hm : memWf m = true) (hl : ∀ k, k ∈ ks → (ts.getD k []).length = 48) {a : Nat}
    (ha : ∀ k, k ∈ ks → a < off + 48 * k ∨ off + 48 * k + 48 ≤ a) : memRead (imagesStored off ts ks m) a = memRead m a := by
  induction ks generalizing m with
  | nil => rfl
  | cons k ks ih =>
    have hone : memRead (memWriteN m (off + 48 * k) (ts.getD k [])) a = memRead m a := by
      have hk := ha k List.mem_cons_self
      rw [memRead_memWriteN hm, hl k List.mem_cons_self, if_neg (by omega)]
    exact (ih (memWf_writeN hm _ _) (fun j hj => hl j (List.mem_cons_of_mem k hj))
      (fun j hj => ha j (List.mem_cons_of_mem k hj))).trans hone

theorem imagesStored_byte (hm : memWf m = true) (hl : ∀ k, k ∈ ks → (ts.getD k []).length = 48) {k i : Nat} (hk : k ∈ ks)
    (hi : i < 48) : memRead (imagesStored off ts ks m) (off + 48 * k + i) = (ts.getD k []).getD i 0 := by
  induction ks generalizing m with
  | nil => exact absurd hk List.not_mem_nil
  | cons j ks ih =>
    have hwf := memWf_writeN hm (off + 48 * j) (ts.getD j [])
    by_cases hin : k ∈ ks
    · exact ih hwf (fun n hn => hl n (List.mem_cons_of_mem j hn)) hin
    · obtain rfl : k = j := (List.mem_cons.mp hk).resolve_right hin
      have hrest := imagesStored_other (off := off) (a := off + 48 * k + i) hwf (fun n hn => hl n (List.mem_cons_of_mem k hn))
        (fun n hn => by
          have hne : n ≠ k := fun e => hin (e ▸ hn)
          omega)
      refine hrest.trans ?_
      rw [memRead_memWriteN hm, hl k List.mem_cons_self, if_pos (by omega)]
      congr 1
      omega

theorem imagesStored_read (hm : memWf m = true) (hl : ∀ k, k ∈ ks → (ts.getD k []).length = 48) {k : Nat} (hk : k ∈ ks) :
    memReadN (imagesStored off ts ks m) (off + 48 * k) 48 = ts.getD k [] := by
  refine List.ext_getElem (by rw [memReadN_length, hl k hk]) fun i hi hj => ?_
  rw [memReadN_length] at hi
  have hbyte := imagesStored_byte (off := off) hm hl hk hi
  rw [← memReadN_getD _ _ hi] at hbyte
  rwa [List.getD_eq_getElem _ _ (by rwa [memReadN_length]), List.getD_eq_getElem _ _ hj] at hbyte

end

/-! ### Tallies stored in every core -/

section
variable {s : State} {off : Nat} {ts : List (List Byte)} {mask : Nat}

/-- The tallies of a command stored in one core (R143). -/
def coreTallies (mask off : Nat) (ts : List (List Byte)) (s : State) (n : Nat) : State :=
  (namedReplicas mask).foldl (fun s k => storeWrite s n (off + 48 * k) (ts.getD k [])) s

/-- What stores of a core's tallies leave: the memories, the RUNs, the parts by which WAITs are found, and of the core all but
its store. -/
structure StoresOnly (s t : State) : Prop where
  memories : SameMemories t s
  runs : t.runs = s.runs
  queues : queueParts t = queueParts s
  work : ∀ n, t.workAt n = { s.workAt n with store := (t.workAt n).store }

theorem StoresOnly.refl (s : State) : StoresOnly s s := ⟨⟨rfl, rfl, rfl⟩, rfl, rfl, fun _ => rfl⟩

theorem StoresOnly.trans {t u : State} (h : StoresOnly s t) (k : StoresOnly t u) : StoresOnly s u := by
  refine ⟨sameMemories_trans k.memories h.memories, k.runs.trans h.runs, k.queues.trans h.queues, fun n => ?_⟩
  have hk := k.work n
  rw [h.work n] at hk
  exact hk

theorem StoresOnly.foldl {α : Type} {f : State → α → State} (hf : ∀ t a, StoresOnly t (f t a)) (s : State) (l : List α) :
    StoresOnly s (l.foldl f s) := by
  induction l generalizing s with
  | nil => exact .refl s
  | cons a l ih => exact (hf s a).trans (ih _)

theorem storeWrite_workAt (s : State) (core a : Nat) (bs : List Byte) :
    (storeWrite s core a bs).workAt core = { s.workAt core with store := memWriteN (s.workAt core).store a bs } :=
  updWork_workAt_same ..

theorem storeWrite_workAt_other (s : State) {core n : Nat} (h : n ≠ core) (a : Nat) (bs : List Byte) :
    (storeWrite s core a bs).workAt n = s.workAt n :=
  congrArg Core.work (storeWrite_other s a bs h)

theorem storeWrite_only (s : State) (core a : Nat) (bs : List Byte) : StoresOnly s (storeWrite s core a bs) := by
  refine ⟨⟨rfl, rfl, rfl⟩, rfl, rfl, fun n => ?_⟩
  by_cases h : n = core
  · rw [h, storeWrite_workAt]
  · rw [storeWrite_workAt_other s h]

theorem coreTallies_only (s : State) (n : Nat) : StoresOnly s (coreTallies mask off ts s n) :=
  .foldl (fun t k => storeWrite_only t n (off + 48 * k) (ts.getD k [])) s (namedReplicas mask)

theorem coreTallies_store (s : State) (n : Nat) :
    ((coreTallies mask off ts s n).workAt n).store = imagesStored off ts (namedReplicas mask) (s.workAt n).store := by
  unfold coreTallies imagesStored
  generalize namedReplicas mask = ks
  induction ks generalizing s with
  | nil => rfl
  | cons k ks ih => rw [List.foldl_cons, ih, storeWrite_workAt, List.foldl_cons]

theorem coreTallies_store_other (s : State) {n m : Nat} (h : m ≠ n) :
    (coreTallies mask off ts s n).workAt m = s.workAt m :=
  foldl_part (f := fun s k => storeWrite s n (off + 48 * k) (ts.getD k [])) (fun t => t.workAt m)
    (fun t _ => storeWrite_workAt_other t h _ _) (namedReplicas mask) s

theorem storeTallies_only (s : State) (r : Run) : StoresOnly s (storeTallies s r mask off ts) :=
  .foldl (fun t n => coreTallies_only (mask := mask) (off := off) (ts := ts) t n) s r.cores

/-- Every core of the RUN holds the images (R143). -/
theorem storeTallies_read (s : State) {r : Run} {n k : Nat} (hl : ∀ k, k ∈ namedReplicas mask → (ts.getD k []).length = 48)
    (hn : n ∈ r.cores) (hk : k ∈ namedReplicas mask) (hwf : memWf (s.workAt n).store = true) :
    storeRead (storeTallies s r mask off ts) n (off + 48 * k) 48 = ts.getD k [] := by
  have hfold : ∀ (l : List Nat) (t : State), memWf (t.workAt n).store = true →
      (n ∈ l ∨ memReadN (t.workAt n).store (off + 48 * k) 48 = ts.getD k []) →
      memReadN ((l.foldl (coreTallies mask off ts) t).workAt n).store (off + 48 * k) 48 = ts.getD k [] := by
    intro l
    induction l with
    | nil => exact fun t _ h => h.resolve_left List.not_mem_nil
    | cons m l ih =>
      intro t ht h
      by_cases hm : n = m
      · subst hm
        refine ih _ ?_ (.inr ?_)
        · rw [coreTallies_store]
          exact memWf_imagesStored ht
        · rw [coreTallies_store]
          exact imagesStored_read ht hl hk
      · refine ih _ ?_ (h.imp (fun hmem => (List.mem_cons.mp hmem).resolve_left hm) fun hread => ?_)
        · rwa [coreTallies_store_other t hm]
        · rwa [coreTallies_store_other t hm]
  exact hfold r.cores s hwf (.inl hn)

end

end Sys2Proof.Laws
end

section
/-! Traverse boundaries: O21. -/

namespace Sys2Proof.Laws

open Sys2Proof.Machine Sys2Proof.Safety

/-- The boundary after a traverse of a SPIN_TRAVERSE of a run alone, whose steps are all complete, with nothing that waits on
it. -/
structure AtBoundary (s : State) (k : RunKey) (r : Run) (q : SpinRun) (c : SpinCmd) : Prop where
  run : s.findRun k = some r
  active : runActive s r = true
  bench : r.benchWait = none
  snap : (s.ctxAt k.ctx).snapRun ≠ some k
  noWait : NoWait s
  spin : r.spin = some q
  alone : q.group = none
  cmd : q.cmd = some c
  block : c.block = none
  started : c.started = true
  result : c.result = none
  limit : c.limit = none
  complete : platSteps q.plat ≤ c.tallied

/-- The command after a traverse of a SPIN_TRAVERSE (R134, R152). -/
def nextCmd (q : SpinRun) (c : SpinCmd) : SpinCmd :=
  { c with
    step := c.step + platSteps q.plat, remaining := c.remaining - 1, traversesRun := c.traversesRun + 1, tallied := 0
    limit := none, result := none, sent := c.sent.filter (fun e => decide (c.tallyStep ≤ e.1)) }

/-- The command after its last traverse (R180). -/
def doneCmd (q : SpinRun) (c : SpinCmd) : SpinCmd := { nextCmd q c with result := some stDone }

/-- The state at the boundary: no strip in flight, and what waits on the RUN taken. -/
def boundaryTaken (s : State) (k : RunKey) (r : Run) (q : SpinRun) (c : SpinCmd) : State :=
  let t := clearBusy (if c.stopReason.testBit 3 then markT (nearPaid s r []) k.ctx else nearPaid s r []) q
  if issuedPhases q c ≤ platSteps q.plat then takenDone t q c.mask k true else t

section
variable {s : State} {k : RunKey} {r : Run} {q : SpinRun} {c : SpinCmd}

theorem AtBoundary.key (h : AtBoundary s k r q c) : r.key = k := findRun_key h.run

theorem markT_findRun (s : State) (c : Nat) (k : RunKey) : (markT s c).findRun k = s.findRun k := by
  have h := congrArg State.runs (markT_frame s c)
  rw [State.findRun, h]
  rfl

/-- A boundary's own steps leave the RUN, and are no step of the command. -/
theorem AtBoundary.taken (h : AtBoundary s k r q c) : Steady (r.cores.headD 0) s (boundaryTaken s k r q c) ∧
    (boundaryTaken s k r q c).findRun k = some r := by
  have hpaid := nearPaid_nil_steady s r
  have hmark : Steady (r.cores.headD 0) s
      (if c.stopReason.testBit 3 then markT (nearPaid s r []) k.ctx else nearPaid s r []) := by
    split
    · exact hpaid.trans (markT_steady ..)
    · exact hpaid
  have hrun : (if c.stopReason.testBit 3 then markT (nearPaid s r []) k.ctx else nearPaid s r []).findRun k = some r := by
    split
    · rw [markT_findRun, (nearPaid_paid ..).findRun, h.run]
    · rw [(nearPaid_paid ..).findRun, h.run]
  have hclear := hmark.trans (clearBusy_steady _ q)
  have hclearRun : (clearBusy (if c.stopReason.testBit 3 then markT (nearPaid s r []) k.ctx else nearPaid s r []) q).findRun k =
      some r := by
    rw [State.findRun, clearBusy_runs]
    exact hrun
  unfold boundaryTaken
  dsimp only
  split
  · exact ⟨hclear.trans (takenDone_steady hclearRun (hclear.noWait h.noWait) ..),
      takenDone_findRun hclearRun h.bench (hclear.noWait h.noWait) ..⟩
  · exact ⟨hclear, hclearRun⟩

/-- A boundary with nothing that waits on it takes its step (R176). -/
theorem AtBoundary.exec (h : AtBoundary s k r q c) (wall : Bool) :
    exec (.traverseBoundary k wall) s = .next (boundaryStep s r q c true) := by
  have hready : tallyReady q c = false := by simp [tallyReady, Nat.not_lt.mpr h.complete]
  have hsettle : settleSpin s k = s := settleSpin_quiet h.run h.spin h.cmd h.alone h.limit h.result hready
  have hwall : (if wall then wallTest s k q c else s) = s := by simp [wallTest, h.block]
  have hnow : spinNow s k = some (q, c) := by simp [spinNow, h.run, h.spin, h.cmd]
  have hbar : wallBar s q c = none := by simp [wallBar, h.alone]
  have hmember : tallyMember s q = false := by simp [tallyMember, h.alone]
  refine congrArg Host.Outcome.next ?_
  simp [h.run, h.active, hsettle, h.spin, h.cmd, h.started, h.result, Nat.not_lt.mpr h.complete, hwall, hnow,
    hbar, hmember]

theorem stopTests_none (h : c.block = none) :
    stopTests c = if c.remaining = 0 then { c with result := some stDone } else c := by
  unfold stopTests
  split
  · rfl
  · next b hb => exact absurd (hb.symm.trans h) (by simp)

theorem AtBoundary.step (h : AtBoundary s k r q c) : boundaryStep s r q c true = wakeWaits (
    if c.remaining - 1 = 0 then
      closeSpin ((boundaryTaken s k r q c).updRun k
        (fun x => { x with spin := some { q with cmd := some (doneCmd q c) } })) k
    else
      settleSpin (checkTraverses (chargeStream ((boundaryTaken s k r q c).updRun k
        (fun x => { x with spin := some (beginTraverse q (nextCmd q c)) })) k q (nextCmd q c)) k (nextCmd q c)) k) := by
  have hkey := h.key
  subst hkey
  have hreads : captureReads c = [] := by simp [captureReads, h.block]
  have hcapture (ts : Option (List (List Byte))) : captured s r q c ts = [] := by simp [captured, h.block]
  have hperiodic (c1 : SpinCmd) : periodicWrite s q c c1 = [] := by simp [periodicWrite, h.block]
  have htaken (c1 : SpinCmd) (n : Nat) : takenWrites s r q c1 n true = [] := by simp [takenWrites, h.bench, h.snap]
  have hchosen (n : Nat) : chosenBoundary s q n = true := by simp [chosenBoundary, h.alone]
  have hcmd : boundaryCmd s r q c = { c with
      step := c.step + platSteps q.plat, remaining := c.remaining - 1, traversesRun := c.traversesRun + 1, tallied := 0 } := by
    unfold boundaryCmd
    split
    · rfl
    · next b hb => exact absurd (hb.symm.trans h.block) (by simp)
  have htallies (t : State) (held : Bool) (n : Nat) (ts : List (List Byte)) : boundaryTallies t q held n ts = t := by
    simp [boundaryTallies, h.alone]
  have hreadsStop : readsStop s r.key.ctx [] = none := rfl
  have hwritesStop : writesStop s r.key.ctx [] = none := rfl
  have hranges : writeRanges [] = [] := rfl
  have hpayment (body : State → State) : nearThen s r [] body = body (nearPaid s r []) := nearThen_eq (nearCovered_nil s r) body
  have hputs (t : State) : putAll (markReads t r.key.ctx []) r.key.ctx [] = t := rfl
  have hlimit (p : Prop) [Decidable p] : (if p then none else c.limit) = none := by rw [h.limit, ite_self]
  unfold boundaryStep boundaryTaken
  simp only [hreads, hcapture, hperiodic, htaken, hcmd, h.result, hreadsStop, hwritesStop, hchosen, if_true, ite_self,
    List.append_nil,
    hranges, hpayment, hputs, htallies, hlimit, Option.isSome_none, Bool.false_eq_true, if_false]
  generalize hstop : stopTests _ = c4
  have hc4 : c4 = if c.remaining - 1 = 0 then doneCmd q c else nextCmd q c :=
    hstop.symm.trans (stopTests_none (c := nextCmd q c) h.block)
  have hdone : (doneCmd q c).result = some stDone ∧ (doneCmd q c).stopReason = c.stopReason := ⟨rfl, rfl⟩
  have hnext : (nextCmd q c).result = none ∧ (nextCmd q c).stopReason = c.stopReason := ⟨rfl, rfl⟩
  by_cases hrem : c.remaining - 1 = 0
  · rw [if_pos hrem] at hc4
    subst hc4
    simp only [hrem, hdone, Option.isSome_some, Option.isNone_none, and_self, if_true, Bool.and_true, decide_eq_true_eq]
  · rw [if_neg hrem] at hc4
    subst hc4
    simp only [hrem, hnext, Option.isSome_none, Option.isNone_none, Bool.false_eq_true, false_and, if_false, Bool.and_true,
      decide_eq_true_eq]

/-! ### With a traverse still to run -/

/-- The run on which the next traverse begins. -/
def nextRun (q : SpinRun) (c : SpinCmd) : SpinRun := beginTraverse q (nextCmd q c)

/-- The state in which the next traverse begins. -/
def nextBegun (s : State) (k : RunKey) (r : Run) (q : SpinRun) (c : SpinCmd) : State :=
  checkTraverses (chargeStream ((boundaryTaken s k r q c).updRun k (fun x => { x with spin := some (nextRun q c) })) k q
    (nextCmd q c)) k (nextCmd q c)

theorem AtBoundary.begun (h : AtBoundary s k r q c) : Steady (r.cores.headD 0) s (nextBegun s k r q c) ∧
    (nextBegun s k r q c).findRun k = some { r with spin := some (nextRun q c) } := by
  obtain ⟨htaken, hrun⟩ := h.taken
  have hstream : runStreamed { r with spin := some (nextRun q c) } = runStreamed r := by
    rw [runStreamed, runStreamed, h.spin]
    rfl
  refine ⟨((htaken.trans (updRun_steady hrun (hs := hstream))).trans (chargeStream_steady ..)).trans
    (checkTraverses_steady ..), ?_⟩
  rw [nextBegun, checkTraverses_findRun, chargeStream_findRun]
  exact updRun_findRun hrun (fun _ => rfl)

/-- The next traverse's run: the command after the step, no site of it decided but those that strips have decided ahead. -/
theorem AtBoundary.nextRun_cmd (h : AtBoundary s k r q c) : ∃ c', (nextRun q c).cmd = some c' ∧
    c'.step = c.step + platSteps q.plat ∧ c'.remaining = c.remaining - 1 ∧ c'.traversesRun = c.traversesRun + 1 ∧
    c'.tallies = c.tallies ∧ c'.decided = c.ahead ∧ c'.resolved = List.replicate 64 0 ∧ c'.tallied = 0 ∧ c'.mask = c.mask ∧
    c'.limit = none ∧ c'.result = none := by
  have hentry : withEntry (nextCmd q c) = nextCmd q c := by
    unfold withEntry
    split
    · rfl
    · next b hb => exact absurd (hb.symm.trans h.block) (by simp)
  unfold nextRun beginTraverse
  rw [hentry]
  exact ⟨_, rfl, rfl, rfl, rfl, rfl, rfl, rfl, rfl, rfl, rfl, rfl⟩

/-- No step is complete of a traverse of which no strip has issued. -/
theorem phaseDone_fresh {q' : SpinRun} {c' : SpinCmd} (hplat : q'.plat = q.plat) (hmask : c'.mask = c.mask)
    (hdecided : ∀ i, c'.decided.getD i 0 = 0) (hresolved : ∀ i, c'.resolved.getD i 0 = 0) (hphase : phaseMask q.plat 0 ≠ 0)
    (hnamed : namedReplicas c.mask ≠ []) : phaseDone q' c' 0 = false := by
  have hpos : 0 < platSteps q.plat := by
    unfold platSteps
    split <;> omega
  have hfresh (n : Nat) : (if q.plat.order = 0 then decidedOf q' c' 0 else c'.resolved).getD n 0 = 0 := by
    unfold decidedOf
    rw [hplat, if_pos hpos]
    split
    · exact hdecided n
    · exact hresolved n
  unfold phaseDone
  simp only [hplat, hmask, hfresh, Nat.zero_mod, Nat.zero_and]
  rw [List.all_eq_false]
  obtain ⟨n, hn⟩ := List.exists_mem_of_ne_nil _ hnamed
  exact ⟨n, hn, by simpa using Ne.symm hphase⟩

theorem AtBoundary.continues (h : AtBoundary s k r q c) (hleft : 2 ≤ c.remaining) (hahead : ∀ i, c.ahead.getD i 0 = 0)
    (hphase : phaseMask q.plat 0 ≠ 0) (hnamed : namedReplicas c.mask ≠ []) :
    boundaryStep s r q c true = wakeWaits (nextBegun s k r q c) := by
  obtain ⟨c', hcmd, -, -, -, -, hdecided, hresolved, htallied, hmask, hlimit, hresult⟩ := h.nextRun_cmd
  have hopen : phaseDone (nextRun q c) c' 0 = false := by
    refine phaseDone_fresh rfl hmask (fun i => by rw [hdecided]; exact hahead i) (fun i => ?_) hphase hnamed
    rw [hresolved]
    rw [List.getD_eq_getElem?_getD, List.getElem?_getD_replicate_default_eq]
  have hready : tallyReady (nextRun q c) c' = false := by
    rw [tallyReady, htallied, hopen, Bool.and_false]
  rw [h.step, if_neg (by omega)]
  exact congrArg wakeWaits (settleSpin_quiet h.begun.2 rfl hcmd h.alone hlimit hresult hready)

/-! ### After the last traverse -/

/-- The planes that the end of a SPIN_TRAVERSE writes (R134, R180). -/
def lastPlanes (s : State) (k : RunKey) (q : SpinRun) (c : SpinCmd) : List (Nat × List Byte) :=
  (namedReplicas c.mask).map (planeWrite s k.ctx q.plat q.spins)

/-- The state in which the last traverse's command ends. -/
def lastTaken (s : State) (k : RunKey) (r : Run) (q : SpinRun) (c : SpinCmd) : State :=
  (boundaryTaken s k r q c).updRun k (fun x => { x with spin := some { q with cmd := some (doneCmd q c) } })

/-- A RUN whose command is about to end. -/
def lastRun (r : Run) (q : SpinRun) (c : SpinCmd) : Run := { r with spin := some { q with cmd := some (doneCmd q c) } }

theorem AtBoundary.last (h : AtBoundary s k r q c) : Steady (r.cores.headD 0) s (lastTaken s k r q c) ∧
    (lastTaken s k r q c).findRun k = some (lastRun r q c) := by
  obtain ⟨htaken, hrun⟩ := h.taken
  have hstream : runStreamed (lastRun r q c) = runStreamed r := by
    rw [runStreamed, runStreamed, h.spin]
    rfl
  exact ⟨htaken.trans (updRun_steady hrun (hs := hstream)), updRun_findRun hrun (fun _ => rfl)⟩

/-- The end of a SPIN_TRAVERSE that has run writes its planes alone (R180). -/
theorem completionWrites_traverse (t : State) (r' : Run) {q' : SpinRun} {d : SpinCmd} (hstarted : d.started = true)
    (hsched : d.schedule = false) :
    completionWrites t r' q' d stDone = (namedReplicas d.mask).map (planeWrite t r'.key.ctx q'.plat q'.spins) := by
  simp [completionWrites, recordWrite, hstarted, hsched]

theorem AtBoundary.lastWrites (h : AtBoundary s k r q c) (hsched : c.schedule = false) :
    completionWrites (lastTaken s k r q c) (lastRun r q c) { q with cmd := some (doneCmd q c) } (doneCmd q c) stDone =
      lastPlanes s k q c := by
  have hkey : (lastRun r q c).key = k := h.key
  rw [completionWrites_traverse (d := doneCmd q c) _ _ h.started hsched, hkey, h.last.1.alike.twin.planeWrite]
  rfl

/-- The state after the last traverse's writes and tallies. -/
def lastStored (s : State) (k : RunKey) (r : Run) (q : SpinRun) (c : SpinCmd) : State :=
  storeTallies (nearWritten (lastTaken s k r q c) (lastRun r q c) (lastPlanes s k q c)) (lastRun r q c) c.mask c.tallyOff
    c.tallies

theorem AtBoundary.closes (h : AtBoundary s k r q c) (hleft : c.remaining = 1) (hsched : c.schedule = false)
    (hstop : writesStop s k.ctx (lastPlanes s k q c) = none)
    (hpay : affords s (r.cores.headD 0) (nearCost s k.ctx (writeRanges (lastPlanes s k q c))) = true) :
    boundaryStep s r q c true = wakeWaits (spinEnded (lastStored s k r q c) (lastRun r q c)
      { q with cmd := some (doneCmd q c) } (doneCmd q c) stDone) := by
  obtain ⟨hsteady, hrun⟩ := h.last
  have hkey : (lastRun r q c).key = k := h.key
  have hwrites := h.lastWrites hsched
  have hstop' : writesStop (lastTaken s k r q c) (lastRun r q c).key.ctx (lastPlanes s k q c) = none := by
    rw [hkey, hsteady.alike.twin.writesStop]
    exact hstop
  have hpay' : NearCovered (lastTaken s k r q c) (lastRun r q c) (writeRanges (lastPlanes s k q c)) := by
    unfold NearCovered
    rw [hkey, hsteady.alike.twin.nearCost]
    exact hsteady.affords _ hpay
  have hclose := closeSpin_eq (r := lastRun r q c) (q := { q with cmd := some (doneCmd q c) }) (c := doneCmd q c) (st := stDone)
    (by rw [hkey]; exact hrun) rfl rfl rfl h.alone (by rw [hwrites]; exact hstop') (by rw [hwrites]; exact hpay')
  have htallied : ∀ t, tallied t (lastRun r q c) (doneCmd q c) stDone =
      storeTallies t (lastRun r q c) c.mask c.tallyOff c.tallies := fun t => if_pos (.inl ⟨h.started, rfl⟩)
  rw [hwrites, htallied, hkey] at hclose
  rw [h.step, if_pos (by omega)]
  exact congrArg wakeWaits hclose

/-! ### What the end leaves -/

theorem nearWritten_queues (s : State) (r : Run) (ws : List (Nat × List Byte)) :
    queueParts (nearWritten s r ws) = queueParts s := by
  have hone (t : State) (w : Nat × List Byte) :
      queueParts (vaWrite (markAccess t r.key.ctx w.1 w.2.length) r.key.ctx w.1 w.2) = queueParts t := by
    refine (foldl_part queueParts (fun u p => ?_) _ _).trans
      (queueParts_of_marks (markAccess_frame ..) (markAccess_pace ..))
    unfold pieceWrite
    split
    · next l _ _ => cases l <;> rfl
    · rfl
  exact (foldl_part queueParts hone ws _).trans (nearPaid_paid s r _).queues

theorem spinEnded_queues (s : State) (r : Run) (q : SpinRun) (c : SpinCmd) (st : Status) :
    queueParts (spinEnded s r q c st) = queueParts s := by
  have hrest (t : State) (n : Nat) : queueParts (restCore r.key t n) = queueParts t := by
    unfold restCore
    split
    · rfl
    · exact queueParts_updCtx ..
  refine (queueParts_updRun _ r.key).trans ((foldl_part queueParts hrest r.cores _).trans ?_)
  exact setSpinResults_part queueParts (fun _ _ => rfl) s.tick r

/-- What the last traverse leaves of every core on the chip that has taken the command up (R143, R154, R180). -/
theorem AtBoundary.lastStored_core (h : AtBoundary s k r q c) {n : Nat} (hn : n ∈ r.cores) (hrun : (s.workAt n).run = some k)
    (hhead : (spinHead (s.workAt n)).isSome = true) (t : State)
    (ht : SameSpin ((spinEnded (lastStored s k r q c) (lastRun r q c) { q with cmd := some (doneCmd q c) } (doneCmd q c)
      stDone).workAt n) (t.workAt n)) :
    (t.workAt n).spinU.result = some stDone ∧ (t.workAt n).store = ((lastStored s k r q c).workAt n).store := by
  have hkey : (lastRun r q c).key = k := h.key
  have hwritten := (h.last.1.alike.spin n).trans (nearWritten_spin (lastTaken s k r q c) (lastRun r q c) (lastPlanes s k q c) n)
  have hstored := (storeTallies_only (mask := c.mask) (off := c.tallyOff) (ts := c.tallies)
    (nearWritten (lastTaken s k r q c) (lastRun r q c) (lastPlanes s k q c)) (lastRun r q c)).work n
  rw [← lastStored] at hstored
  refine ⟨?_, ht.store.trans (spinEnded_store ..)⟩
  rw [ht.unit]
  refine spinEnded_result _ _ _ _ hn ?_ ?_
  · rw [hstored, hkey]
    exact hwritten.run.trans hrun
  · rw [hstored]
    exact hwritten.head.symm ▸ hhead

end

/-- Settles O21: what a boundary does with a traverse still to run, and after the last. -/
theorem traverseBoundariesComplete : Obligations.TraverseBoundariesComplete := by
  intro s k wall r q c hrun hactive hbench hsnap hwait hspin halone hcmd hblock hstarted hresult hlimit hcomplete
  have h : AtBoundary s k r q c :=
    ⟨hrun, hactive, hbench, hsnap, hwait, hspin, halone, hcmd, hblock, hstarted, hresult, hlimit, hcomplete⟩
  refine ⟨fun hleft hahead hphase hnamed => ?_, ?_⟩
  · obtain ⟨hsteady, hbegun⟩ := h.begun
    obtain ⟨c', hcmd', hstep, hremaining, hruns, htallies, hdecided, -⟩ := h.nextRun_cmd
    have hno := hsteady.noWait hwait
    refine ⟨_, nextRun q c, c', (h.exec wall).trans (congrArg Host.Outcome.next (h.continues hleft hahead hphase hnamed)),
      ?_, hcmd',
      rfl, hstep, hremaining, hruns, htallies, fun i => by rw [hdecided]; exact hahead i, ?_⟩
    · rw [State.findRun, wakeWaits_runs hno]
      exact hbegun
    · exact (hsteady.trans (wakeWaits_steady hno)).alike.twin.sameMemories
  · intro ws hleft hsched hstop hlength hpay
    have hkey : (lastRun r q c).key = k := h.key
    have hnone : writesStop s k.ctx (lastPlanes s k q c) = none := List.findSome?_eq_none_iff.mpr hstop
    have hclose := h.closes hleft hsched hnone hpay
    have hno : NoWait (spinEnded (lastStored s k r q c) (lastRun r q c) { q with cmd := some (doneCmd q c) } (doneCmd q c)
      stDone) := by
      have hqueues := (spinEnded_queues (lastStored s k r q c) (lastRun r q c) { q with cmd := some (doneCmd q c) }
        (doneCmd q c)
        stDone).trans ((storeTallies_only ..).queues.trans ((nearWritten_queues ..).trans h.last.1.queues))
      exact fun x n => (nextOf_congr hqueues x n 2 [1, 2]).trans (hwait x n)
    have hstored : StoresOnly (nearWritten (lastTaken s k r q c) (lastRun r q c) (lastPlanes s k q c)) (lastStored s k r q c) :=
      storeTallies_only ..
    refine ⟨_, doneCmd q c, (h.exec wall).trans (congrArg Host.Outcome.next hclose), ?_, rfl, rfl, rfl, ?_,
      fun n hn hk hhead => ?_⟩
    · rw [State.findRun, wakeWaits_runs hno]
      have hfind : (lastStored s k r q c).findRun k = some (lastRun r q c) := by
        rw [State.findRun, hstored.runs]
        exact (nearWritten_findRun ..).trans h.last.2
      have hended := spinEnded_findRun (r := lastRun r q c) (lastStored s k r q c) (by rw [hkey]; exact hfind)
        { q with cmd := some (doneCmd q c) } (doneCmd q c) stDone
      conv at hended => lhs; rw [hkey]
      exact hended
    · have hwoken := (wakeWaits_steady (low := 0) hno).alike.twin.sameMemories
      have hended := sameMemories_trans (spinEnded_sameMemories (lastStored s k r q c) (lastRun r q c)
        { q with cmd := some (doneCmd q c) } (doneCmd q c) stDone) hstored.memories
      have hplanes := Twin.foldl_both (f := fun v (w : Nat × List Byte) => vaWrite v k.ctx w.1 w.2)
        (fun _ _ w h => h.vaWrite k.ctx w.1 w.2) h.last.1.alike.twin (lastPlanes s k q c)
      have hwritten := (nearWritten_twin (lastTaken s k r q c) (lastRun r q c) (lastPlanes s k q c)).sameMemories
      rw [hkey] at hwritten
      exact sameMemories_trans hwoken (sameMemories_trans hended (sameMemories_trans hwritten hplanes.sameMemories))
    · obtain ⟨hdone, hstore⟩ := h.lastStored_core hn hk hhead _ ((wakeWaits_steady (low := 0) hno).alike.spin n)
      refine ⟨hdone, fun hwf m hm => ?_⟩
      rw [storeRead, hstore]
      refine storeTallies_read (r := lastRun r q c) _ hlength hn hm ?_
      have hwritten := (h.last.1.alike.spin n).trans
        (nearWritten_spin (lastTaken s k r q c) (lastRun r q c) (lastPlanes s k q c) n)
      rw [hwritten.store]
      exact hwf

end Sys2Proof.Laws
end

section
/-! The transfers of an engine's command and the parity errors of its tiles, as far as memories and the works of the cores
see them (R58, R385, R399). -/

namespace Sys2Proof.Laws

open Sys2Proof.Machine Sys2Proof.Safety

/-! ### Transfers -/

section
variable {s t u : State}

/-- Alike states cache the same leaves. -/
theorem Twin.cachePages (h : Twin s t) (c va n : Nat) : Twin (cachePages s c va n) (cachePages t c va n) := by
  refine ⟨h.parts, fun d p => ?_, fun d => ?_⟩
  · by_cases hd : d = c
    · subst hd
      simp only [Machine.cachePages, updCtx_ctxAt_same, h.leafOf]
      have hleaves := h.leaves d
      generalize (s.ctxAt d).tlb = x at hleaves ⊢
      generalize (t.ctxAt d).tlb = y at hleaves ⊢
      generalize rangePieces va n = l
      induction l generalizing x y with
      | nil => exact hleaves p
      | cons a l ih =>
        refine ih _ _ fun m => ?_
        cases e : Machine.leafOf s d (a.1 / 65536) with
        | entry w =>
          by_cases hm : m = a.1 / 65536
          · subst hm
            simp only [e, tabFind_tabSet_same]
          · simp only [e, tabFind_tabSet_other _ _ hm, hleaves]
        | fault k => simpa only [e] using hleaves m
        | ue l k => simpa only [e] using hleaves m
    · simp only [Machine.cachePages, updCtx_ctxAt_other _ _ hd, h.leaves]
  · by_cases hd : d = c
    · subst hd
      simp only [Machine.cachePages, updCtx_ctxAt_same, h.root]
    · simp only [Machine.cachePages, updCtx_ctxAt_other _ _ hd, h.root]

theorem addCharge_twin (s : State) (n : Nat) : Twin s (s.addCharge n) := .frame

/-- The marks and the charge of a transfer, before its leaves are cached. -/
theorem marked_twin (s : State) (c va n m : Nat) : Twin s ((markAccess s c va n).addCharge m) :=
  (markAccess_alike s c va n).twin.trans (addCharge_twin ..)

theorem Twin.touch (h : Twin s t) (c va n : Nat) : Twin (touch s c va n) (touch t c va n) := by
  have hmarked := ((marked_twin s c va n (625 * Machine.nearBytes s c va n)).symm.trans h).trans
    (marked_twin t c va n (625 * Machine.nearBytes t c va n))
  exact ((chargeMem_alike _ c n).twin.symm.trans (hmarked.cachePages c va n)).trans (chargeMem_alike _ c n).twin

/-- A transfer of no bytes caches no leaf. -/
theorem touch_zero_twin (s : State) (c va : Nat) : Twin s (Machine.touch s c va 0) :=
  ((marked_twin s c va 0 _).trans (.updCtx c)).trans (chargeMem_alike _ c 0).twin

theorem Twin.touched (h : Twin s t) (c : Nat) (l : List (Nat × Nat)) : Twin (touched s c l) (touched t c l) :=
  Twin.foldl_both (fun _ _ p h => h.touch c p.1 p.2) h l

theorem Twin.written (h : Twin s t) (c : Nat) (ws : List (Nat × List Byte)) : Twin (written s c ws) (written t c ws) :=
  Twin.foldl_both (fun _ _ w h => (h.touch c w.1 w.2.length).vaWrite c w.1 w.2) h ws

theorem updCore_twin (s : State) (core : Nat) (f : Core → Core) : Twin s (s.updCore core f) := .frame

/-! ### The cores -/

theorem addCharge_cores (s : State) (n : Nat) : (s.addCharge n).cores = s.cores := rfl
theorem cachePages_cores (s : State) (c va n : Nat) : (Machine.cachePages s c va n).cores = s.cores := rfl
theorem chargeMem_cores (s : State) (c n : Nat) : (chargeMem s c n).cores = s.cores := rfl

theorem touch_cores (s : State) (c va n : Nat) : (Machine.touch s c va n).cores = s.cores := by
  rw [Machine.touch, chargeMem_cores, cachePages_cores, addCharge_cores, markAccess_cores]

theorem written_cores (s : State) (c : Nat) (ws : List (Nat × List Byte)) : (Safety.written s c ws).cores = s.cores :=
  foldl_part State.cores (fun t w => by rw [vaWrite_cores, touch_cores]) ws s

end

theorem coreAt_of_cores {s t : State} (h : t.cores = s.cores) (n : Nat) : t.coreAt n = s.coreAt n := by
  rw [State.coreAt, h]
  rfl

theorem updCore_workAt_of (s : State) (core : Nat) {f : Core → Core} (hf : ∀ c, (f c).work = c.work) (n : Nat) :
    (s.updCore core f).workAt n = s.workAt n := by
  by_cases h : n = core
  · rw [State.workAt, h, updCore_coreAt_same, hf]
    rfl
  · rw [State.workAt, updCore_coreAt_other s f h]
    rfl

/-! ### Parity errors of tiles -/

/-- What parity errors leave alone: the memories, and of every core its work and its count of products. -/
structure Tiled (s t : State) : Prop where
  memories : SameMemories t s
  work : ∀ n, t.workAt n = s.workAt n
  macs : ∀ n, (t.coreAt n).macs = (s.coreAt n).macs

section
variable {s t u : State}

theorem Tiled.refl (s : State) : Tiled s s := ⟨⟨rfl, rfl, rfl⟩, fun _ => rfl, fun _ => rfl⟩

theorem Tiled.trans (h : Tiled s t) (k : Tiled t u) : Tiled s u :=
  ⟨sameMemories_trans k.memories h.memories, fun n => (k.work n).trans (h.work n), fun n => (k.macs n).trans (h.macs n)⟩

theorem Tiled.foldl {α : Type} {f : State → α → State} (hf : ∀ t a, Tiled t (f t a)) (s : State) (l : List α) :
    Tiled s (l.foldl f s) := by
  induction l generalizing s with
  | nil => exact .refl s
  | cons a l ih => exact (hf s a).trans (ih _)

/-- A change of neither the memories nor the cores. -/
theorem Tiled.frame (hm : SameMemories t s) (hc : t.cores = s.cores) : Tiled s t :=
  ⟨hm, fun n => congrArg Core.work (coreAt_of_cores hc n), fun n => congrArg Core.macs (coreAt_of_cores hc n)⟩

theorem Tiled.updCore (h : Tiled s t) (core : Nat) {f : Core → Core} (hw : ∀ c, (f c).work = c.work)
    (hm : ∀ c, (f c).macs = c.macs) : Tiled s (t.updCore core f) := by
  refine h.trans ⟨⟨rfl, rfl, rfl⟩, updCore_workAt_of t core hw, fun n => ?_⟩
  by_cases hn : n = core
  · rw [hn, updCore_coreAt_same, hm]
  · rw [updCore_coreAt_other t f hn]

theorem logRetire_tiled (s : State) (type kind unit detail : Nat) : Tiled s (logRetire s type kind unit detail) := by
  unfold logRetire
  split <;> exact .frame ⟨rfl, rfl, rfl⟩ rfl

theorem leaveService_tiled (s : State) (kind unit : Nat) : Tiled s (leaveService s kind unit) := by
  unfold leaveService
  dsimp only
  split
  · split
    · refine Tiled.updCore ?_ _ (fun _ => ?_) (fun _ => ?_) <;> [exact .frame ⟨rfl, rfl, rfl⟩ rfl; rfl; rfl]
    · exact .frame ⟨rfl, rfl, rfl⟩ rfl
  · split
    · refine Tiled.updCore ?_ _ (fun _ => ?_) (fun _ => ?_) <;> [exact .frame ⟨rfl, rfl, rfl⟩ rfl; rfl; rfl]
    · exact .frame ⟨rfl, rfl, rfl⟩ rfl

theorem mapChanged_tiled (s : State) : Tiled s (mapChanged s) := by
  refine Tiled.foldl (fun t p => ?_) _ _
  split
  · exact .frame (timingBroken_alike t p 4).twin.sameMemories (timingBroken_cores t p 4)
  · exact .refl t

theorem Tiled.setBoot (h : Tiled s t) (b : Boot) : Tiled s { t with boot := b } :=
  h.trans (.frame ⟨rfl, rfl, rfl⟩ rfl)

theorem retireUnit_tiled (s : State) (kind unit detail : Nat) : Tiled s (retireUnit s kind unit detail) := by
  have hlog (type : Nat) : Tiled s (logRetire s type kind unit detail) := logRetire_tiled ..
  have hgone (type : Nat) : Tiled s (mapChanged (leaveService (logRetire s type kind unit detail) kind unit)) :=
    (hlog type).trans ((leaveService_tiled ..).trans (mapChanged_tiled _))
  unfold retireUnit
  split
  · exact .refl s
  · dsimp only
    split
    · split
      · split
        · refine Tiled.updCore ?_ _ (fun _ => ?_) (fun _ => ?_) <;> [exact (hlog _).setBoot _; rfl; rfl]
        · exact (hlog _).setBoot _
      · exact hgone _
    · exact hgone _

theorem parityError_tiled (s : State) (c acc core bank : Nat) (agree : Bool) :
    Tiled s (parityError s c acc core bank agree) := by
  unfold parityError
  refine Tiled.trans ((Tiled.refl s).updCore core (f := fun x => { x with parityErr := x.parityErr + 1 }) ?_ ?_)
    (Tiled.foldl (fun t _ => retireUnit_tiled ..) _ _) <;> exact fun _ => rfl

theorem parityErrors_tiled (s : State) (c acc : Nat) (l : List (Nat × Nat × Bool)) : Tiled s (parityErrors s c acc l) := by
  refine Tiled.foldl (fun t e => ?_) _ _
  split
  · exact parityError_tiled ..
  · exact .refl t

end

end Sys2Proof.Laws
end

section
/-! How the work of a dense unit's head command ends where its credits cover it, and where they do not (R154, R313, R465). -/

namespace Sys2Proof.Laws

open Sys2Proof.Machine Sys2Proof.Safety

/-! ### The command of one unit -/

/-- A head command that its unit may work has no status yet. -/
theorem unitReady_result {s : State} {core : Nat} {u : EngineUnit} {r : Run} {q : Cmd} (h : unitReady s core u = some (r, q)) :
    ((s.workAt core).unitQ u).result = none := by
  unfold unitReady at h
  dsimp only at h
  split at h
  · split at h
    · next hok =>
      obtain ⟨-, -, -, hresult, -⟩ := hok
      exact hresult
    · exact absurd h (by simp)
  · exact absurd h (by simp)

section
variable {s t u v : State} {core : Nat} {e : EngineUnit} {st : Status}

theorem Paid.memories (h : Paid e s t) : SameMemories t s := h.twin.sameMemories

/-- What has been paid is beside the rest of a core. -/
theorem Paid.macs (h : Paid e s t) (n : Nat) : (t.coreAt n).macs = (s.coreAt n).macs := by
  obtain ⟨p, hp⟩ := h.core n
  rw [hp]

theorem Paid.unitQ_same (h : Paid e s t) (n : Nat) :
    (t.workAt n).unitQ e = { (s.workAt n).unitQ e with paid := ((t.workAt n).unitQ e).paid } := by
  obtain ⟨p, hp⟩ := h.core n
  rw [State.workAt, hp, setUnitQ_unitQ_same]

/-- A status given after a payment. -/
theorem Paid.endsUnit (h : Paid e s t) (k : EndsUnit t v core e st) : EndsUnit s v core e st := by
  obtain ⟨hunit, hothers, hcc0, hcc1⟩ := k
  obtain ⟨p, hp⟩ := h.core core
  have hwork : t.workAt core = (s.workAt core).setUnitQ e { (s.workAt core).unitQ e with paid := p } := congrArg Core.work hp
  refine ⟨?_, fun w hw => ?_, hcc0.trans ?_, hcc1.trans ?_⟩
  · rw [hunit, hwork, setUnitQ_unitQ_same]
  · rw [hothers w hw, hwork, setUnitQ_unitQ_other _ _ hw]
  · rw [hwork]; cases e <;> rfl
  · rw [hwork]; cases e <;> rfl

theorem endsUnit_congr_start (h : EndsUnit t v core e st) (k : t.workAt core = s.workAt core) : EndsUnit s v core e st := by
  rwa [EndsUnit, ← k]

theorem endsUnit_congr_end (h : EndsUnit s t core e st) (k : v.workAt core = t.workAt core) : EndsUnit s v core e st := by
  rwa [EndsUnit, k]

/-- How a unit's head command ends after work that leaves the state `u`. -/
structure Ended (u t : State) (core : Nat) (st : Status) : Prop where
  unit : EndsUnit u t core .dense st
  memories : SameMemories t u
  macs : ∀ n, (t.coreAt n).macs = (u.coreAt n).macs

theorem Tiled.ended (h : Tiled s u) (k : Ended u t core st) : Ended s t core st :=
  ⟨endsUnit_congr_start k.unit (h.work core), sameMemories_trans k.memories h.memories, fun n => (k.macs n).trans (h.macs n)⟩

theorem Ended.tiled (h : Ended s t core st) (k : Tiled t u) : Ended s u core st :=
  ⟨endsUnit_congr_end h.unit (k.work core), sameMemories_trans k.memories h.memories, fun n => (k.macs n).trans (h.macs n)⟩

theorem setResult_macs (e : EngineUnit) (st : Status) (s : State) (core n : Nat) :
    ((setResult e st s core).coreAt n).macs = (s.coreAt n).macs := by
  by_cases h : n = core
  · rw [h, setResult, State.updWork, updCore_coreAt_same]
  · rw [setResult, updWork_coreAt_other _ _ h]

/-- Work that its core's credits cover ends with its status. -/
theorem engEnd_ended (h : affords s core (u.power.charge * creditUnit) = true) (r : Run) :
    Ended u (engEnd s r core .dense (.done st u)) core st := by
  have hpaid : (payEach s [core] .dense fun _ => u.power.charge * creditUnit).2 = true := payUnits_of_affords h .dense
  have hstart : Tiled u { u with power := { u.power with charge := 0 } } := .frame ⟨rfl, rfl, rfl⟩ rfl
  rw [engEnd, whenPaid, if_pos hpaid]
  have hp := payEach_paid { u with power := { u.power with charge := 0 } } [core] .dense fun _ => u.power.charge * creditUnit
  exact hstart.ended ⟨hp.endsUnit (setResult_endsUnit ..), hp.memories, fun n => (setResult_macs ..).trans (hp.macs n)⟩

/-- Work that its core's credits do not cover waits. -/
theorem engEnd_unpaid (h : (payUnits s core .dense (u.power.charge * creditUnit)).2 = false) (r : Run) :
    engEnd s r core .dense (.done st u) = (payUnits s core .dense (u.power.charge * creditUnit)).1 := by
  have hpaid : (payEach s [core] .dense fun _ => u.power.charge * creditUnit).2 = false := h
  rw [engEnd, whenPaid, hpaid, if_neg Bool.false_ne_true]
  rfl

end

section
variable {s u : State} {core op : Nat} {r : Run} {q : Cmd} {st : Status} {body : Run → List Byte → EngOut}

/-- The array clocks of a DENSE_MATMUL are charged beside its memories and works (R464). -/
theorem chargeDense_done (s : State) (r : Run) (bs : List Byte) (st : Status) (u : State) :
    ∃ v, chargeDense s r bs (.done st u) = .done st v ∧ Tiled u v := by
  refine ⟨_, rfl, ?_⟩
  split
  · exact .frame (addCharge_twin ..).sameMemories rfl
  · exact .refl u

theorem engineStep_of_ready (hready : unitReady s core .dense = some (r, q)) (hop : cmdOp q.bytes = op) :
    engineStep s core op body = engEnd s r core .dense (chargeDense s r q.bytes (body r q.bytes)) := by
  simp [engineStep, hready, hop]

/-- A head command whose work is covered ends with the status of its work (R313, R465). -/
theorem engineStep_ended (hready : unitReady s core .dense = some (r, q)) (hop : cmdOp q.bytes = op)
    (hbody : body r q.bytes = .done st u) (hpay : affords s core (runUp (chargeDense s r q.bytes (.done st u))) = true) :
    Ended u (engineStep s core op body) core st := by
  obtain ⟨v, hv, htiled⟩ := chargeDense_done s r q.bytes st u
  rw [hv] at hpay
  rw [engineStep_of_ready hready hop, hbody, hv]
  exact htiled.ended (engEnd_ended hpay r)

theorem engineStep_unpaid (hready : unitReady s core .dense = some (r, q)) (hop : cmdOp q.bytes = op)
    (hbody : body r q.bytes = .done st u)
    (hpay : (payUnits s core .dense (runUp (chargeDense s r q.bytes (.done st u)))).2 = false) :
    engineStep s core op body = (payUnits s core .dense (runUp (chargeDense s r q.bytes (.done st u)))).1 := by
  obtain ⟨v, hv, -⟩ := chargeDense_done s r q.bytes st u
  rw [hv] at hpay ⊢
  rw [engineStep_of_ready hready hop, hbody, hv]
  exact engEnd_unpaid hpay r

end

/-- The parity errors of a DENSE_MATMUL's tiles come after its end (R58). -/
theorem execDenseMatmul_tiled (core : Nat) (parity : List (Nat × Bool)) (s : State) :
    ∃ t, exec (.denseMatmul core parity) s = .next t ∧ Tiled (engineStep s core 0x31 (matmulBody s core)) t := by
  refine ⟨_, rfl, ?_⟩
  dsimp only
  split
  · split
    · split
      · exact parityErrors_tiled ..
      · exact .refl _
    · exact .refl _
  · exact .refl _

/-- A DENSE_MATMUL that has no status DONE meets no parity error. -/
theorem execDenseMatmul_quiet {core : Nat} {s : State}
    (h : ((engineStep s core 0x31 (matmulBody s core)).workAt core).denseU.result ≠ some stDone) (parity : List (Nat × Bool)) :
    exec (.denseMatmul core parity) s = .next (engineStep s core 0x31 (matmulBody s core)) := by
  refine congrArg Host.Outcome.next ?_
  dsimp only
  split
  · split
    · exact if_neg fun hdone => h hdone.2
    · rfl
  · rfl

section
variable {s u : State} {core : Nat} {r : Run} {q : Cmd} {st : Status}

theorem matmul_ended (hready : unitReady s core .dense = some (r, q)) (hop : cmdOp q.bytes = 0x31)
    (hbody : matmulBody s core r q.bytes = .done st u)
    (hpay : affords s core (runUp (chargeDense s r q.bytes (.done st u))) = true) (parity : List (Nat × Bool)) :
    ∃ t, exec (.denseMatmul core parity) s = .next t ∧ Ended u t core st := by
  obtain ⟨t, hexec, htiled⟩ := execDenseMatmul_tiled core parity s
  exact ⟨t, hexec, (engineStep_ended hready hop hbody hpay).tiled htiled⟩

theorem convert_ended (hready : unitReady s core .dense = some (r, q)) (hop : cmdOp q.bytes = 0x33)
    (hbody : denseConvertBody s r q.bytes = .done st u)
    (hpay : affords s core (runUp (chargeDense s r q.bytes (.done st u))) = true) :
    ∃ t, exec (.denseConvert core) s = .next t ∧ Ended u t core st :=
  ⟨_, rfl, engineStep_ended hready hop hbody hpay⟩

theorem matmul_unpaid (hready : unitReady s core .dense = some (r, q)) (hop : cmdOp q.bytes = 0x31)
    (hbody : matmulBody s core r q.bytes = .done st u) (parity : List (Nat × Bool)) :
    WaitsUnpaid (.denseMatmul core parity) s s core .dense (runUp (chargeDense s r q.bytes (.done st u))) := by
  intro hpay
  have hstep := engineStep_unpaid hready hop hbody hpay
  rw [execDenseMatmul_quiet, hstep]
  rw [hstep]
  have hresult : ((payUnits s core .dense (runUp (chargeDense s r q.bytes (.done st u)))).1.workAt core).denseU.result = none :=
    (congrArg UnitQ.result ((payUnits_paid s core .dense _).unitQ_same core)).trans (unitReady_result hready)
  rw [hresult]
  exact fun h => Option.some_ne_none _ h.symm

theorem convert_unpaid (hready : unitReady s core .dense = some (r, q)) (hop : cmdOp q.bytes = 0x33)
    (hbody : denseConvertBody s r q.bytes = .done st u) :
    WaitsUnpaid (.denseConvert core) s s core .dense (runUp (chargeDense s r q.bytes (.done st u))) :=
  fun hpay => congrArg Host.Outcome.next (engineStep_unpaid hready hop hbody hpay)

end

end Sys2Proof.Laws
end

section
/-! The end of a DENSE_ANNEAL that every core of its RUN has issued (R154, R209). -/

namespace Sys2Proof.Laws

open Sys2Proof.Machine Sys2Proof.Safety

/-! ### What the work leaves of the dense units -/

/-- The RUNs and the dense units of the cores. -/
def denseParts (s : State) (n : Nat) := ((s.workAt n).run, (s.workAt n).denseU)

/-- The work of a command leaves the dense units as they are, however it ends. -/
inductive DenseKept (s₀ : State) : EngOut → Prop where
  | done {s : State} {st : Status} (h : denseParts s = denseParts s₀) : DenseKept s₀ (.done st s)
  | stop {x : Stop} {write : Bool} : DenseKept s₀ (.stop x write)

section
variable {s₀ s t : State}

theorem denseParts_of_work (h : ∀ n, t.workAt n = s.workAt n) : denseParts t = denseParts s := by
  funext n
  rw [denseParts, h]
  rfl

theorem denseParts_of_cores (h : t.cores = s.cores) : denseParts t = denseParts s :=
  denseParts_of_work fun n => congrArg Core.work (coreAt_of_cores h n)

theorem denseParts_touch (s : State) (c va n : Nat) : denseParts (touch s c va n) = denseParts s :=
  denseParts_of_cores (touch_cores ..)

theorem denseParts_written (s : State) (c : Nat) (ws : List (Nat × List Byte)) : denseParts (written s c ws) = denseParts s :=
  denseParts_of_cores (written_cores ..)

theorem denseParts_storeTallies (s : State) (r : Run) (mask off : Nat) (ts : List (List Byte)) :
    denseParts (storeTallies s r mask off ts) = denseParts s := by
  funext n
  rw [denseParts, (storeTallies_only (mask := mask) (off := off) (ts := ts) s r).work n]
  rfl

theorem DenseKept.ite {p : Prop} [Decidable p] {a b : EngOut} (ha : DenseKept s₀ a) (hb : DenseKept s₀ b) :
    DenseKept s₀ (if p then a else b) := by
  split <;> assumption

theorem DenseKept.engRead {c va n : Nat} {k : State → List Byte → EngOut} (h : denseParts s = denseParts s₀)
    (hk : ∀ t bs, denseParts t = denseParts s₀ → DenseKept s₀ (k t bs)) : DenseKept s₀ (engRead s c va n k) := by
  unfold Machine.engRead
  split
  · exact .done h
  · split
    · exact .stop
    · exact hk _ _ ((denseParts_touch ..).trans h)

theorem DenseKept.engWrite {c : Nat} {ws : List (Nat × List Byte)} {k : State → EngOut} (h : denseParts s = denseParts s₀)
    (hk : ∀ t, denseParts t = denseParts s₀ → DenseKept s₀ (k t)) : DenseKept s₀ (engWrite s c ws k) := by
  unfold Machine.engWrite
  split
  · exact .done h
  · split
    · exact .stop
    · exact hk _ ((denseParts_written s c ws).trans h)

theorem DenseKept.readQblk {c a : Nat} {formats : List Nat} {k : State → List Byte → EngOut} (h : denseParts s = denseParts s₀)
    (hk : ∀ t bs, denseParts t = denseParts s₀ → DenseKept s₀ (k t bs)) : DenseKept s₀ (readQblk s c a formats k) :=
  .ite (hk _ _ h) (.engRead h fun _ _ h1 => .ite (.done h1) (hk _ _ h1))

theorem DenseKept.of_columnEnd {c i : Nat} {q : List Byte} {strict : Bool} {o : EngOut} (h : denseParts s = denseParts s₀)
    (e : columnEnd s c q strict i = some o) : DenseKept s₀ o := by
  unfold columnEnd at e
  dsimp only at e
  repeat' split at e
  all_goals cases e
  · exact .stop
  · exact .done h
  · exact .done h

theorem DenseKept.readS2 {c n : Nat} {q : List Byte} {strict : Bool} {k : State → List Byte → EngOut}
    (h : denseParts s = denseParts s₀) (hk : ∀ t bs, denseParts t = denseParts s₀ → DenseKept s₀ (k t bs)) :
    DenseKept s₀ (readS2 s c q n strict k) := by
  refine .ite (.ite (.done h) ?_) (hk _ _ h)
  unfold firstEnd
  cases e : (List.range n).findSome? (columnEnd s c q strict) with
  | none => exact .engRead h hk
  | some o =>
    obtain ⟨i, -, hi⟩ := List.exists_of_findSome?_eq_some e
    exact .of_columnEnd h hi

theorem DenseKept.readCodes {c : Nat} {a : ArrayAt} {s2 : List Byte} {fin : State → CodeIn → EngOut}
    (h : denseParts s = denseParts s₀) (hk : ∀ t x, denseParts t = denseParts s₀ → DenseKept s₀ (fin t x)) :
    DenseKept s₀ (readCodes s c a s2 fin) :=
  .engRead h fun _ _ h1 => .engRead h1 fun _ _ h2 => hk _ _ h2

theorem DenseKept.readProblem {c core : Nat} {bs ab : List Byte} {fin : State → Problem → EngOut}
    (h : denseParts s = denseParts s₀) (hk : ∀ t x, denseParts t = denseParts s₀ → DenseKept s₀ (fin t x)) :
    DenseKept s₀ (readProblem s c core bs ab fin) :=
  .readQblk h fun _ _ h1 => .readQblk h1 fun _ _ h2 => .readQblk h2 fun _ _ h3 => .ite (.done h3) <| .ite (.done h3) <|
    .readS2 h3 fun _ _ h4 => .readS2 h4 fun _ _ h5 => .readS2 h5 fun _ _ h6 =>
      .readCodes h6 fun _ _ h7 => .ite (.done h7) <| .readCodes h7 fun _ _ h8 => .readCodes h8 fun _ _ h9 => hk _ _ h9

theorem DenseKept.annealRun {r : Run} {bs ab : List Byte} {p : Problem} {betas : List (BitVec 32)}
    (h : denseParts s = denseParts s₀) : DenseKept s₀ (annealRun s r bs ab p betas) := by
  refine .ite (.done h) <| .ite (.done h) <| .engRead h fun _ _ h1 => .engWrite h1 fun _ h2 => .done ?_
  refine (denseParts_of_work (updCore_workAt_of _ _ ?_)).trans ((denseParts_storeTallies ..).trans h2)
  exact fun _ => rfl

theorem annealBody_denseKept (s : State) (r : Run) (bs : List Byte) : DenseKept s (annealBody s r bs) := by
  unfold annealBody
  dsimp only
  split
  · exact .done rfl
  · exact .stop
  · refine .engRead rfl fun _ _ h1 => ?_
    split
    · exact .done h1
    · exact .ite (.done h1) (.readProblem h1 fun _ _ h2 => .annealRun h2)

theorem denseParts_of_annealBody {r : Run} {bs : List Byte} {st : Status} {u : State} (h : annealBody s r bs = .done st u) :
    denseParts u = denseParts s := by
  have hkept := annealBody_denseKept s r bs
  rw [h] at hkept
  cases hkept with
  | done hu => exact hu

/-! ### The statuses -/

/-- A payment leaves of a dense unit all but what its command has paid. -/
theorem annealHead_paid (h : Paid .dense s t) (n : Nat) : annealHead (t.workAt n) = annealHead (s.workAt n) := by
  have hunit : (t.workAt n).denseU = { (s.workAt n).denseU with paid := (t.workAt n).denseU.paid } := h.unitQ_same n
  rw [annealHead, annealHead, hunit]

theorem run_paid (h : Paid .dense s t) (n : Nat) : (t.workAt n).run = (s.workAt n).run := by
  obtain ⟨p, hp⟩ := h.core n
  rw [State.workAt, hp]
  rfl

theorem denseParts_run (h : denseParts t = denseParts s) (n : Nat) : (t.workAt n).run = (s.workAt n).run :=
  congrArg Prod.fst (congrFun h n)

theorem denseParts_unit (h : denseParts t = denseParts s) (n : Nat) : (t.workAt n).denseU = (s.workAt n).denseU :=
  congrArg Prod.snd (congrFun h n)

theorem annealHead_denseParts (h : denseParts t = denseParts s) (n : Nat) :
    annealHead (t.workAt n) = annealHead (s.workAt n) := by
  rw [annealHead, annealHead, denseParts_unit h]

/-- The statuses that the dense units of a list of cores take. -/
theorem foldl_setResult_dense (st : Status) (l : List Nat) (s : State) {n : Nat}
    (h : n ∈ l ∨ (s.workAt n).denseU.result = some st) :
    ((l.foldl (setResult .dense st) s).workAt n).denseU.result = some st := by
  induction l generalizing s with
  | nil => exact h.resolve_left List.not_mem_nil
  | cons m l ih =>
    refine ih _ ?_
    by_cases e : n = m
    · subst e
      exact .inr (congrArg (fun w : Work => w.denseU.result) (setResult_workAt ..))
    · refine h.imp (fun hm => (List.mem_cons.1 hm).resolve_left e) fun hr => ?_
      rwa [setResult, workAt_updWork_other _ _ e]

/-- A dense unit that has taken the command up takes its status. -/
theorem setAnnealResults_result (s : State) {r : Run} {n : Nat} (st : Status) (hn : n ∈ r.cores)
    (hrun : (s.workAt n).run = some r.key) (hhead : (annealHead (s.workAt n)).isSome = true) :
    ((setAnnealResults s r st).workAt n).denseU.result = some st := by
  refine foldl_setResult_dense st _ s (.inl (List.mem_filter.2 ⟨hn, ?_⟩))
  rwa [runWork, if_pos hrun]

theorem setAnnealResults_sameMemories (s : State) (r : Run) (st : Status) : SameMemories (setAnnealResults s r st) s :=
  sameMemories_foldl (f := setResult .dense st) (fun _ _ => ⟨rfl, rfl, rfl⟩) _ _

/-! ### The command -/

/-- The state after a core's dense unit has taken up its head command. -/
def denseTaken (s : State) (core : Nat) : State :=
  s.updWork core (fun w => { w with denseU := { w.denseU with running := true } })

theorem denseTaken_run (s : State) (core n : Nat) : ((denseTaken s core).workAt n).run = (s.workAt n).run := by
  by_cases h : n = core
  · rw [h, denseTaken, updWork_workAt_same]
  · rw [denseTaken, workAt_updWork_other _ _ h]

/-- The state after a DENSE_ANNEAL's work `u` has been paid for. -/
def annealPaid (s u : State) (r : Run) (bs : List Byte) : State :=
  (payEach { u with power := { u.power with charge := 0 } } r.cores .dense (annealCost s u r bs)).1

variable {r : Run} {bs : List Byte} {st : Status} {u : State}

theorem annealPaid_paid (s u : State) (r : Run) (bs : List Byte) :
    Paid .dense { u with power := { u.power with charge := 0 } } (annealPaid s u r bs) := payEach_paid ..

/-- A command that every core has issued alike is worked off where the credits cover it. -/
theorem gatherAnneal_eq (hr : s.findRun r.key = some r) (hactive : runActive s r = true) (hne : r.cores ≠ [])
    (hheads : ∀ n, n ∈ r.cores → annealHead (runWork s r n) = some bs) (hbody : annealBody s r bs = .done st u)
    (hpay : ∀ n, n ∈ r.cores → affords s n (annealCost s u r bs n) = true) :
    gatherAnneal s r.key = setAnnealResults (annealPaid s u r bs) r st := by
  obtain ⟨n, hn⟩ := List.exists_mem_of_ne_nil _ hne
  have hmap : (r.cores.map (runWork s r)).map annealHead = r.cores.map fun _ => some bs := by
    rw [List.map_map]
    exact List.map_congr_left hheads
  have hfirst : (r.cores.map fun _ => some bs).findSome? id = some bs := by
    cases hc : r.cores with
    | nil => exact absurd hc hne
    | cons a l => rfl
  have hended : (r.cores.map (runWork s r)).any (fun w => !workEnded w && (annealHead w).isNone) = false := by
    simp only [List.any_map, List.any_eq_false, Function.comp_apply]
    intro n hn
    simp [hheads n hn]
  have halike : (r.cores.map fun _ => some bs).any (fun h => decide (h ≠ some bs)) = false := by
    simp
  have hpaid : (payEach s r.cores .dense (annealCost s u r bs)).2 = true := payEach_of_affords hpay
  unfold gatherAnneal
  simp only [hr, hmap, hfirst, hactive, hended, halike, hbody]
  simp only [whenPaid, hpaid, if_true, annealPaid]
  rfl

/-- The work of a DENSE_ANNEAL that its cores' credits cover leaves its memories and its status (R154, R209, R465). -/
theorem anneal_ended {core : Nat} {q : Cmd} (hready : unitReady s core .dense = some (r, q)) (hop : cmdOp q.bytes = 0x32)
    (hturn : turnOf (s.workAt core) .dense q.ordinal = true) (hne : r.cores ≠ [])
    (hheads : ∀ n, n ∈ r.cores → annealHead (runWork (denseTaken s core) r n) = some q.bytes)
    (hbody : annealBody (denseTaken s core) r q.bytes = .done st u)
    (hpay : ∀ n, n ∈ r.cores → affords (denseTaken s core) n (annealCost (denseTaken s core) u r q.bytes n) = true)
    (pairs : List (Nat × Nat × Bool)) :
    ∃ t, exec (.denseAnneal core pairs) s = .next t ∧ SameMemories t u ∧
      ∀ n, n ∈ r.cores → (s.workAt n).run = some r.key → (t.workAt n).denseU.result = some st := by
  obtain ⟨hrun, hactive⟩ := unitReady_run hready
  have hfind : (denseTaken s core).findRun r.key = some r := (findRun_of_runOf hrun : s.findRun r.key = some r)
  have hgather : gatherAnneal (denseTaken s core) r.key = setAnnealResults (annealPaid (denseTaken s core) u r q.bytes) r st :=
    gatherAnneal_eq hfind hactive hne hheads hbody hpay
  have hexec : ∃ t, exec (.denseAnneal core pairs) s = .next t ∧
      Tiled (setAnnealResults (annealPaid (denseTaken s core) u r q.bytes) r st) t := by
    refine ⟨_, rfl, ?_⟩
    simp only [hready, hop, hturn, ne_eq, not_true_eq_false, Bool.not_true, Bool.false_eq_true, or_self, if_false]
    rw [← denseTaken, hgather]
    split
    · exact .refl _
    · exact parityErrors_tiled ..
  obtain ⟨t, hexec, htiled⟩ := hexec
  refine ⟨t, hexec, ?_, fun n hn hkey => ?_⟩
  · exact sameMemories_trans htiled.memories (sameMemories_trans (setAnnealResults_sameMemories ..)
      (annealPaid_paid ..).memories)
  · have hparts := denseParts_of_annealBody hbody
    have hpaid := annealPaid_paid (denseTaken s core) u r q.bytes
    have hkey' : ((denseTaken s core).workAt n).run = some r.key := (denseTaken_run s core n).trans hkey
    have hhead := hheads n hn
    rw [runWork, if_pos hkey'] at hhead
    rw [htiled.work]
    refine setAnnealResults_result _ st hn ?_ ?_
    · exact (run_paid hpaid n).trans ((denseParts_run hparts n).trans hkey')
    · rw [annealHead_paid hpaid n]
      exact congrArg Option.isSome ((annealHead_denseParts hparts n).trans hhead)

end

end Sys2Proof.Laws
end

section
/-! DENSE_MATMUL of BF16 operands in one partition (R54, R190 to R194). -/

namespace Sys2Proof.Laws

open Sys2Proof.Machine Sys2Proof.Safety

/-! ### Reads of no bytes -/

theorem touched_cons (s : State) (c : Nat) (a : Nat × Nat) (l : List (Nat × Nat)) :
    touched s c (a :: l) = touched (touch s c a.1 a.2) c l := rfl


theorem engRead_zero (s : State) (c : Nat) {va : Nat} (h : va ≤ 2 ^ 48) (k : State → List Byte → EngOut) :
    engRead s c va 0 k = k (touch s c va 0) [] := by
  rw [engRead, pastEnd, decide_eq_false (by omega), if_neg Bool.false_ne_true]
  rfl

theorem engRead_touched {s t : State} {r : Run} {va n : Nat} (hw : SameWays s t) (h : Fetches s r va n)
    (k : State → List Byte → EngOut) : engRead t r.key.ctx va n k = k (touch t r.key.ctx va n) (vaRead s r.key.ctx va n) := by
  rw [engRead_of_fetches (hw.fetches h), hw.vaRead]

theorem fieldOf_nil (off n : Nat) : fieldOf [] off n = 0 := by
  simp [fieldOf, leNat]

theorem qFmt_nil : qFmt [] = 0 := rfl
theorem qGroup_nil : qGroup [] = 32 := rfl
theorem qWidth_nil : qWidth [] = 16 := rfl

/-- Without a block there is none to read. -/
theorem readQblk_zero (s : State) (c : Nat) (formats : List Nat) (k : State → List Byte → EngOut) :
    readQblk s c 0 formats k = k s [] := rfl

theorem readS2_nil (s : State) (c n : Nat) (strict : Bool) (k : State → List Byte → EngOut) :
    readS2 s c [] n strict k = k s [] := rfl

theorem readRows_nil (s : State) (c m : Nat) (k : State → List Byte → List Byte → EngOut) :
    readRows s c [] m k = k s [] [] := rfl

/-! ### The cells -/

/-- Operands of BF16: no block, scale or zero point. -/
def bfIn (bs a w : List Byte) : MatIn := ⟨bs, [], [], [], [], [], [], a, w⟩

/-- The output step's values of BF16 operands' sums. -/
def bfCells (bs ob a w : List Byte) : List (List OutCell) :=
  (List.range (fieldOf bs 4 4)).map fun i => (List.range (fieldOf bs 8 4)).map fun j =>
    outCell ob ⟨laccNum (cellBf ((bfIn bs a w).aRaw i) ((bfIn bs a w).wRaw j) 0 (fieldOf bs 12 4)).1, none⟩ (some 0x3F80_0000)

section
variable {bs : List Byte}

theorem matSplit_whole {g : Nat} (hg : g ≠ 0) (hk : fieldOf bs 12 4 ≠ 0) (hp : fieldOf bs 16 4 = 0) :
    matSplit bs g = ((fieldOf bs 12 4 + g - 1) / g, (fieldOf bs 12 4 + g - 1) / g, 1) := by
  have hpos : 0 < (fieldOf bs 12 4 + g - 1) / g := Nat.div_pos (by omega) (by omega)
  have hone : ((fieldOf bs 12 4 + g - 1) / g + (fieldOf bs 12 4 + g - 1) / g - 1) / ((fieldOf bs 12 4 + g - 1) / g) = 1 := by
    generalize (fieldOf bs 12 4 + g - 1) / g = m at hpos
    exact Nat.div_eq_of_lt_le (by omega) (by omega)
  unfold matSplit
  dsimp only
  rw [if_pos hp, hone]

/-- The whole reduction of BF16 operands (R54). -/
theorem part_bf (hk : fieldOf bs 12 4 ≠ 0) (hp : fieldOf bs 16 4 = 0) (a w : List Byte) (i j : Nat) :
    ((bfIn bs a w).part i j 0).1 =
      .exact (cellBf ((bfIn bs a w).aRaw i) ((bfIn bs a w).wRaw j) 0 (fieldOf bs 12 4)).1 := by
  have hcover : fieldOf bs 12 4 ≤ (fieldOf bs 12 4 + 32 - 1) / 32 * 32 := by omega
  have hsplit := matSplit_whole (g := 32) (by decide) hk hp
  unfold MatIn.part
  simp only [bfIn, qFmt_nil, qGroup_nil, hsplit, if_true, Nat.zero_mul, Nat.zero_add, Nat.min_self, Nat.min_eq_right hcover]

/-- What the output step makes of the one partition of every output. -/
theorem matmul_cells (hk : fieldOf bs 12 4 ≠ 0) (hp : fieldOf bs 16 4 = 0) (ob a w : List Byte) :
    ((List.range (fieldOf bs 4 4)).map fun i => (List.range (fieldOf bs 8 4)).map fun j =>
      (List.range (matSplit bs 32).2.2).map ((bfIn bs a w).part i j)).map (fun row => row.zipIdx.map fun p =>
        outCell ob ⟨accNum (p.1.headD (accZero 0, 0)).1, none⟩ (some (s2At [] [] p.2))) = bfCells bs ob a w := by
  have hone : (matSplit bs 32).2.2 = 1 := by rw [matSplit_whole (by decide) hk hp]
  rw [bfCells, hone, List.map_map]
  refine List.map_congr_left fun i _ => ?_
  refine List.ext_getElem (by simp) fun j h h' => ?_
  simp [part_bf hk hp, s2At, accNum, qFmt_nil, fmtSym]

end

/-! ### The product -/

/-- What a DENSE_MATMUL of `n` products leaves after transfers that leave the state `m`. -/
structure Multiplied (s m u : State) (core n : Nat) : Prop where
  memories : Twin m u
  work : ∀ k, u.workAt k = s.workAt k
  macs : (u.coreAt core).macs = (s.coreAt core).macs + BitVec.ofNat 64 n

section
variable {s t : State} {core : Nat} {r : Run} {bs opb ob : List Byte}

theorem Multiplied.start {m m' u : State} {n : Nat} (h : Multiplied t m u core n) (hm : Twin m' m) (hc : t.cores = s.cores) :
    Multiplied s m' u core n :=
  ⟨hm.trans h.memories, fun k => (h.work k).trans (congrArg Core.work (coreAt_of_cores hc k)),
    h.macs.trans (by rw [coreAt_of_cores hc])⟩

/-- The product of BF16 operands in one partition, to floating-point outputs that can be written (R54, R69, R192). -/
theorem matmulRun_bf (hk : fieldOf bs 12 4 ≠ 0) (hp : fieldOf bs 16 4 = 0) (hfp : fieldOf ob 0 1 ≤ 2) {a w : List Byte}
    (hws : Delivers t r (outWrites ob (fieldOf bs 8 4) (bfCells bs ob a w))) :
    ∃ u, matmulRun t r.key.ctx core (bfIn bs a w) opb ob = .done stDone u ∧
      Multiplied t (written t r.key.ctx (outWrites ob (fieldOf bs 8 4) (bfCells bs ob a w))) u core
        (fieldOf bs 4 4 * fieldOf bs 8 4 * fieldOf bs 12 4) := by
  have hone : (matSplit bs 32).2.2 = 1 := by rw [matSplit_whole (by decide) hk hp]
  have hint : outInt (fieldOf ob 0 1) = false := decide_eq_false (by omega)
  unfold matmulRun
  dsimp only [bfIn]
  rw [qGroup_nil, if_neg (by omega), ← bfIn, matmul_cells hk hp, outputStage]
  dsimp only
  rw [engWrite_of_delivers ((updCore_delivers ..).mpr hws), hint, if_neg Bool.false_ne_true]
  refine ⟨_, rfl, ?_, fun k => ?_, ?_⟩
  · exact ((updCore_twin ..).written ..).trans (updCore_twin ..)
  · refine (updCore_workAt_of _ _ ?_ k).trans ((congrArg Core.work (coreAt_of_cores (written_cores ..) k)).trans
      (updCore_workAt_of _ _ ?_ k)) <;> exact fun _ => rfl
  · rw [updCore_coreAt_same, coreAt_of_cores (written_cores ..), updCore_coreAt_same]

end

/-! ### The command -/

/-- The operand block of a DENSE_MATMUL, and its output block (R191, R192). -/
def operandBlock (s : State) (r : Run) (bs : List Byte) : List Byte := vaRead s r.key.ctx (fieldOf bs 24 8) 64
def outputBlock (s : State) (r : Run) (bs : List Byte) : List Byte :=
  vaRead s r.key.ctx (fieldOf (operandBlock s r bs) 32 8) 64

/-- Bytes of A and of W in BF16 (R190). -/
def bfBytesA (bs : List Byte) : Nat := storedBytes (bitOf (fieldOf bs 2 1) 0) (fieldOf bs 4 4) (fieldOf bs 12 4) 16
def bfBytesW (bs : List Byte) : Nat := storedBytes (bitOf (fieldOf bs 2 1) 1) (fieldOf bs 8 4) (fieldOf bs 12 4) 16

/-- Where the operands lie, and how long they are. -/
def operandA (s : State) (r : Run) (bs : List Byte) : Nat × Nat := (fieldOf (operandBlock s r bs) 0 8, bfBytesA bs)
def operandW (s : State) (r : Run) (bs : List Byte) : Nat × Nat := (fieldOf (operandBlock s r bs) 16 8, bfBytesW bs)

/-- What the command writes of operands of BF16. -/
def bfWrites (s : State) (r : Run) (bs : List Byte) : List (Nat × List Byte) :=
  outWrites (outputBlock s r bs) (fieldOf bs 8 4) (bfCells bs (outputBlock s r bs)
    (vaRead s r.key.ctx (operandA s r bs).1 (operandA s r bs).2) (vaRead s r.key.ctx (operandW s r bs).1 (operandW s r bs).2))

/-- A DENSE_MATMUL of BF16 operands in one partition to floating-point outputs, on an engine with all banks, whose checks
pass, whose operands can be read and whose outputs can be written. -/
structure BfMatmul (s : State) (core : Nat) (r : Run) (bs : List Byte) : Prop where
  status : matmulStatus bs = none
  exactSum : fieldOf bs 1 1 % 4 = 0
  whole : fieldOf bs 16 4 = 0
  banks : (s.coreAt core).bankGood = 0xFFF
  block : Fetches s r (fieldOf bs 24 8) 64
  ok : operandBad (operandBlock s r bs) = false
  noA : fieldOf (operandBlock s r bs) 8 8 = 0
  noW : fieldOf (operandBlock s r bs) 24 8 = 0
  given : fieldOf (operandBlock s r bs) 32 8 ≠ 0
  noPartials : fieldOf (operandBlock s r bs) 40 8 = 0
  out : Fetches s r (fieldOf (operandBlock s r bs) 32 8) 64
  outOk : outStatus (outputBlock s r bs) (fieldOf bs 4 4) (fieldOf bs 8 4) false = none
  fp : fieldOf (outputBlock s r bs) 0 1 ≤ 2
  readA : Fetches s r (operandA s r bs).1 (operandA s r bs).2
  readW : Fetches s r (operandW s r bs).1 (operandW s r bs).2
  writes : Delivers s r (bfWrites s r bs)

section
variable {s t : State} {core : Nat} {r : Run} {bs : List Byte}

theorem matmulStatus_reduction (h : matmulStatus bs = none) : fieldOf bs 12 4 ≠ 0 := by
  intro hk
  unfold matmulStatus at h
  dsimp only at h
  rw [if_pos hk] at h
  repeat' split at h
  all_goals exact absurd h (Option.some_ne_none _)

theorem denseCore_whole {c : Nat} (h : (s.coreAt core).bankGood = 0xFFF) : denseCore s c core 0 = some core := by
  simp [denseCore, banksFor, h]

theorem pastEnd_of_le {va n : Nat} (h : va + n ≤ 2 ^ 48) : pastEnd va n = false :=
  decide_eq_false (Nat.not_lt.mpr h)

/-- Steps 7 and 8 of R193 for such a command. -/
theorem BfMatmul.load (h : BfMatmul s core r bs) (hw : SameWays s t) (hc : t.cores = s.cores) :
    ∃ u, matmulLoad t r.key.ctx core bs (operandBlock s r bs) [] [] (outputBlock s r bs) = .done stDone u ∧
      Multiplied t (written (touched t r.key.ctx [operandA s r bs, operandW s r bs]) r.key.ctx (bfWrites s r bs)) u core
        (fieldOf bs 4 4 * fieldOf bs 8 4 * fieldOf bs 12 4) := by
  have hk := matmulStatus_reduction h.status
  have hone : ¬ 1 < (matSplit bs 32).2.2 := by rw [matSplit_whole (by decide) hk h.whole]; exact Nat.lt_irrefl 1
  have hcoded : fmtSym 0 = false := rfl
  have hreadA := h.readA
  have hreadW := h.readW
  dsimp only [operandA, bfBytesA] at hreadA
  dsimp only [operandW, bfBytesW] at hreadW
  have hcore : denseCore t r.key.ctx core 0 = some core := denseCore_whole (by rw [coreAt_of_cores hc]; exact h.banks)
  have hwz := hw.trans (touch_ways t r.key.ctx 0 0)
  have hwA := hwz.trans (touch_ways _ r.key.ctx (operandA s r bs).1 (operandA s r bs).2)
  have hwW := hwA.trans (touch_ways _ r.key.ctx (operandW s r bs).1 (operandW s r bs).2)
  obtain ⟨u, hu, hmul⟩ := matmulRun_bf (core := core) (opb := operandBlock s r bs) hk h.whole h.fp (hwW.delivers h.writes)
  refine ⟨u, ?_, ?_⟩
  · rw [← hu]
    unfold matmulLoad
    simp only [qWidth_nil, qFmt_nil, qGroup_nil, h.exactSum, hcoded, pastEnd_of_le hreadA.1, pastEnd_of_le hreadW.1, hone,
      hcore, Bool.false_eq_true,
      decide_false, false_and, or_self, if_false, readRows_nil, readS2_nil]
    rw [fieldOf_nil, engRead_zero _ _ (Nat.zero_le _), engRead_touched hwz hreadA, engRead_touched (hwz.trans (touch_ways ..))
      hreadW]
    rfl
  · refine hmul.start (((touch_zero_twin t r.key.ctx 0).touched ..).written ..) ?_
    simp only [touch_cores]

/-- The work of such a command (R193). -/
theorem BfMatmul.body (h : BfMatmul s core r bs) :
    ∃ u, matmulBody s core r bs = .done stDone u ∧
      Multiplied s (written (touched s r.key.ctx [(fieldOf bs 24 8, 64), (fieldOf (operandBlock s r bs) 32 8, 64),
        operandA s r bs, operandW s r bs]) r.key.ctx (bfWrites s r bs)) u core
          (fieldOf bs 4 4 * fieldOf bs 8 4 * fieldOf bs 12 4) := by
  have hone : ¬ 1 < (matSplit bs 32).2.2 := by
    rw [matSplit_whole (by decide) (matmulStatus_reduction h.status) h.whole]
    exact Nat.lt_irrefl 1
  have hwb := touch_ways s r.key.ctx (fieldOf bs 24 8) 64
  have hwo := hwb.trans (touch_ways _ r.key.ctx (fieldOf (operandBlock s r bs) 32 8) 64)
  obtain ⟨u, hu, hmul⟩ := h.load hwo (by rw [touch_cores, touch_cores])
  rw [touched_cons, touched_cons]
  refine ⟨u, ?_, hmul.start (.refl _) (by rw [touch_cores, touch_cores])⟩
  rw [← hu]
  unfold matmulBody
  simp only [h.status]
  rw [engRead_of_fetches h.block, ← operandBlock, h.ok, if_neg Bool.false_ne_true, h.noA, readQblk_zero, h.noW, readQblk_zero]
  simp only [qFmt_nil, qGroup_nil, h.exactSum, hone, h.noPartials, h.given, ne_eq, not_true_eq_false, and_false, or_self,
    if_false]
  rw [engRead_touched hwb h.out, ← outputBlock, h.outOk]

end

end Sys2Proof.Laws
end

section
/-! DENSE_CONVERT with computed scales (R80, R95, R199). -/

namespace Sys2Proof.Laws

open Sys2Proof.Machine Sys2Proof.Safety

/-- The block of a DENSE_CONVERT (R90, R199). -/
def weightBlock (s : State) (r : Run) (bs : List Byte) : List Byte := vaRead s r.key.ctx (fieldOf bs 24 8) 64

/-- Bytes of the source. -/
def sourceBytes (bs : List Byte) : Nat :=
  if bitOf (fieldOf bs 2 1) 0 then fieldOf bs 4 4 * rowPad (fieldOf bs 8 4) (8 * inBytes (fieldOf bs 1 1))
  else fieldOf bs 8 4 * rowPad (fieldOf bs 4 4) (8 * inBytes (fieldOf bs 1 1))

/-- The converted columns of a source. -/
def convertedColumns (bs q src : List Byte) : List ColCodes :=
  ((sourceColumns (fieldOf bs 1 1) (fieldOf bs 4 4) (fieldOf bs 8 4) (bitOf (fieldOf bs 2 1) 0) src).map (fun xs =>
    if bitOf (fieldOf q 3 1) 0 then rotated true xs else xs)).zipIdx.map (fun p => convertColumn (qFmt q) (qGroup q) p.2 p.1)

/-- The groups of a column. -/
def columnGroups (bs q : List Byte) : Nat := (fieldOf bs 4 4 + qGroup q - 1) / qGroup q

/-- What the command writes of converted columns: codes, second-level scales, first-level scales. -/
def convertWrites (bs q : List Byte) (outs : List ColCodes) : List (Nat × List Byte) :=
  outs.zipIdx.map (fun p => (fieldOf bs 32 8 + p.2 * rowPad (fieldOf bs 4 4) (fmtWidth (qFmt q)),
    packCodes (fmtWidth (qFmt q)) p.1.codes)) ++
  [(fieldOf q 24 8, outs.flatMap (fun o => natLe 4 o.s2)),
   (fieldOf q 8 8, (List.range (columnGroups bs q)).flatMap (fun g => outs.flatMap (fun o => natLe 1 (o.scales.getD g 0))))]

/-- What the command writes of the source in memory. -/
def convertOut (s : State) (r : Run) (bs : List Byte) : List (Nat × List Byte) :=
  convertWrites bs (weightBlock s r bs) (convertedColumns bs (weightBlock s r bs)
    (vaRead s r.key.ctx (fieldOf bs 16 8) (sourceBytes bs)))

/-- A DENSE_CONVERT with computed scales and no clip counters, whose checks pass, whose source can be read and whose results
can be written. -/
structure ComputedConvert (s : State) (r : Run) (bs : List Byte) : Prop where
  status : convertCmdStatus bs = none
  block : Fetches s r (fieldOf bs 24 8) 64
  ok : weightBlkBad (weightBlock s r bs) (fieldOf bs 4 4) = false
  computed : fieldOf (weightBlock s r bs) 2 1 = 0
  noClips : fieldOf (weightBlock s r bs) 40 8 = 0
  codes : fieldOf bs 32 8 + fieldOf bs 8 4 * rowPad (fieldOf bs 4 4) (fmtWidth (qFmt (weightBlock s r bs))) ≤ 2 ^ 48
  scales : fieldOf (weightBlock s r bs) 8 8 + columnGroups bs (weightBlock s r bs) * fieldOf bs 8 4 ≤ 2 ^ 48
  second : fieldOf (weightBlock s r bs) 24 8 + 4 * fieldOf bs 8 4 ≤ 2 ^ 48
  source : Fetches s r (fieldOf bs 16 8) (sourceBytes bs)
  writes : Delivers s r (convertOut s r bs)

/-- What work leaves that writes memory alone: memories as those of `m`, and the works of the cores. -/
structure Wrote (s m u : State) : Prop where
  memories : Twin m u
  work : ∀ k, u.workAt k = s.workAt k

section
variable {s t : State} {r : Run} {bs q : List Byte}

theorem scaleClamp_twin (s : State) (c : Nat) : Twin s (scaleClamp s c) := by
  have hcount : Twin s (s.updCtx c fun x => { x with scaleClamp := x.scaleClamp + 1 }) := .updCtx c
  unfold scaleClamp
  exact hcount.trans (.trans .frame (raiseEvent_frame _ _).twin)

theorem scaleClamp_cores (s : State) (c : Nat) : (scaleClamp s c).cores = s.cores := by
  unfold scaleClamp
  rw [raiseEvent_frame]
  rfl

theorem scaleClamps_twin (s : State) (c n : Nat) : Twin s (scaleClamps s c n) := by
  induction n generalizing s with
  | zero => exact .refl s
  | succ n ih => exact (scaleClamp_twin s c).trans (ih _)

theorem scaleClamps_cores (s : State) (c n : Nat) : (scaleClamps s c n).cores = s.cores := by
  induction n generalizing s with
  | zero => rfl
  | succ n ih => exact (ih _).trans (scaleClamp_cores s c)

theorem convertColumns_computed (hg : fieldOf q 2 1 = 0) (hclip : fieldOf q 40 8 = 0) (src s2 sw : List Byte)
    (hws : Delivers t r (convertWrites bs q (convertedColumns bs q src))) :
    ∃ u, convertColumns t r.key.ctx bs q src s2 sw = .done stDone u ∧
      Wrote t (written t r.key.ctx (convertWrites bs q (convertedColumns bs q src))) u := by
  refine ⟨scaleClamps (written t r.key.ctx (convertWrites bs q (convertedColumns bs q src))) r.key.ctx
    (((convertedColumns bs q src).map ColCodes.clamps).foldl (· + ·) 0), ?_, scaleClamps_twin .., fun k => ?_⟩
  · have hgiven : decide (fieldOf q 2 1 = 2) = false := by rw [hg]; rfl
    have hwrite := engWrite_of_delivers hws
    unfold convertColumns
    simp only [hgiven, clipAdd, hclip, if_true, Bool.false_eq_true, if_false]
    exact hwrite _
  · exact congrArg Core.work (coreAt_of_cores ((scaleClamps_cores ..).trans (written_cores ..)) k)

/-- The work of such a command (R199). -/
theorem ComputedConvert.body (h : ComputedConvert s r bs) :
    ∃ u, denseConvertBody s r bs = .done stDone u ∧
      Wrote s (written (touched s r.key.ctx [(fieldOf bs 24 8, 64), (fieldOf bs 16 8, sourceBytes bs)]) r.key.ctx
        (convertOut s r bs)) u := by
  have hgiven : decide (fieldOf (weightBlock s r bs) 2 1 = 2) = false := by rw [h.computed]; rfl
  have hz : fieldOf (weightBlock s r bs) 8 8 ≤ 2 ^ 48 := (Nat.le_add_right ..).trans h.scales
  have hwz := (touch_ways s r.key.ctx (fieldOf bs 24 8) 64).trans (touch_ways _ r.key.ctx (fieldOf (weightBlock s r bs) 8 8) 0)
  have hws := hwz.trans (touch_ways _ r.key.ctx (fieldOf bs 16 8) (sourceBytes bs))
  obtain ⟨u, hu, hmem, hwork⟩ := convertColumns_computed h.computed h.noClips
    (vaRead s r.key.ctx (fieldOf bs 16 8) (sourceBytes bs)) [] [] (hws.delivers h.writes)
  refine ⟨u, ?_, ?_, ?_⟩
  · rw [← hu]
    have hscales := pastEnd_of_le h.scales
    have hsource := h.source
    unfold columnGroups at hscales
    unfold sourceBytes at hsource
    unfold denseConvertBody
    simp only [h.status]
    rw [engRead_of_fetches h.block, ← weightBlock]
    simp only [hgiven, h.ok, pastEnd_of_le hsource.1, pastEnd_of_le h.codes, hscales, pastEnd_of_le h.second,
      Bool.false_eq_true,
      or_self, if_false]
    rw [engRead_zero _ _ hz, engRead_touched hwz hsource]
    rfl
  · rw [touched_cons, touched_cons]
    exact Twin.trans (((touch_zero_twin ..).touch ..).written ..) hmem
  · exact fun k => (hwork k).trans (congrArg Core.work (coreAt_of_cores (by rw [touch_cores, touch_cores, touch_cores]) k))

end

end Sys2Proof.Laws
end

section
/-! DENSE_ANNEAL in SYNC_KEEP mode on a BF16 problem without biases (R200 to R209). -/

namespace Sys2Proof.Laws

open Sys2Proof.Machine Sys2Proof.Safety

/-! ### States that a DENSE_ANNEAL reads alike -/

/-- Two states that give a DENSE_ANNEAL the same: bytes and stops, the stores, the acceptance tables and the banks. -/
structure Mirror (s t : State) : Prop where
  stops : rangeStop t = rangeStop s
  reads : vaRead t = vaRead s
  errors : t.badLines = s.badLines
  store : ∀ n, (t.workAt n).store = (s.workAt n).store
  table : ∀ c, (t.ctxAt c).accTable = (s.ctxAt c).accTable
  banks : ∀ n, (t.coreAt n).bankGood = (s.coreAt n).bankGood

section
variable {s t : State}

theorem updCtx_accTable (s : State) (c d : Nat) {f : Ctx → Ctx} (hf : ∀ x, (f x).accTable = x.accTable) :
    ((s.updCtx c f).ctxAt d).accTable = (s.ctxAt d).accTable := by
  by_cases h : d = c
  · rw [h, updCtx_ctxAt_same, hf]
  · rw [updCtx_ctxAt_other s f h]

theorem touch_accTable (s : State) (c va n d : Nat) : ((touch s c va n).ctxAt d).accTable = (s.ctxAt d).accTable := by
  have hmark : ((markAccess s c va n).ctxAt d).accTable = (s.ctxAt d).accTable := by
    rw [markAccess_frame s c va n]
    rfl
  unfold touch chargeMem cachePages
  refine (updCtx_accTable _ c d ?_).trans ((updCtx_accTable _ c d ?_).trans hmark) <;> exact fun _ => rfl

theorem Mirror.touch (h : Mirror s t) (c va n : Nat) : Mirror s (touch t c va n) where
  stops := by
    rw [← h.stops]
    funext c' a m w
    exact touch_rangeStop ..
  reads := by
    rw [← h.reads]
    funext c' a m
    exact touch_vaRead ..
  errors := by
    rw [← h.errors, (touch_ways t c va n).rest]
  store k := by rw [State.workAt, coreAt_of_cores (touch_cores ..)]; exact h.store k
  table d := (touch_accTable ..).trans (h.table d)
  banks k := by rw [coreAt_of_cores (touch_cores ..)]; exact h.banks k

theorem Mirror.touched (h : Mirror s t) (c : Nat) (l : List (Nat × Nat)) : Mirror s (touched t c l) := by
  induction l generalizing t with
  | nil => exact h
  | cons a l ih => exact ih (h.touch c a.1 a.2)

/-- Taking the command up changes nothing that it reads. -/
theorem denseTaken_mirror (s : State) (core : Nat) : Mirror s (denseTaken s core) where
  stops := updCore_rangeStop ..
  reads := updCore_vaRead ..
  errors := rfl
  store n := by
    by_cases h : n = core
    · rw [h, denseTaken, updWork_workAt_same]
    · rw [denseTaken, workAt_updWork_other _ _ h]
  table _ := rfl
  banks n := by
    by_cases h : n = core
    · rw [h, denseTaken, State.updWork, updCore_coreAt_same]
    · rw [denseTaken, updWork_coreAt_other _ _ h]

theorem denseTaken_twin (s : State) (core : Nat) : Twin s (denseTaken s core) := .frame

theorem Mirror.fetches (h : Mirror s t) {r : Run} {va n : Nat} (hf : Fetches s r va n) : Fetches t r va n := by
  rwa [Fetches, Reaches, h.stops]

theorem Mirror.delivers (h : Mirror s t) {r : Run} {ws : List (Nat × List Byte)} (hw : Delivers s r ws) : Delivers t r ws := by
  simpa only [Delivers, Reaches, h.stops] using hw

theorem Mirror.engRead (h : Mirror s t) {r : Run} {va n : Nat} (hf : Fetches s r va n) (k : State → List Byte → EngOut) :
    engRead t r.key.ctx va n k = k (Machine.touch t r.key.ctx va n) (vaRead s r.key.ctx va n) := by
  rw [engRead_of_fetches (h.fetches hf), h.reads]

theorem Mirror.storeRead (h : Mirror s t) (n off m : Nat) : Machine.storeRead t n off m = Machine.storeRead s n off m := by
  rw [Machine.storeRead, h.store]
  rfl

theorem Mirror.betaArray (h : Mirror s t) (n : Nat) (bs : List Byte) : Machine.betaArray t n bs = Machine.betaArray s n bs := by
  rw [Machine.betaArray, h.storeRead]
  rfl

theorem Mirror.tallyArray (h : Mirror s t) (n : Nat) (bs : List Byte) :
    Machine.tallyArray t n bs = Machine.tallyArray s n bs := by
  rw [Machine.tallyArray, h.storeRead]
  rfl

theorem Mirror.storeBad (h : Mirror s t) (n off m : Nat) : Machine.storeBad t n off m = Machine.storeBad s n off m := by
  rw [Machine.storeBad, h.errors]
  rfl

end

/-! ### The problem -/

/-- Couplings in BF16 of `n` variables, as they are read. -/
def bfCouplings (n : Nat) (w : List Byte) : Problem := ⟨⟨[], [], [], w, n, n⟩, noCodes, noCodes⟩

section
variable {bs ab : List Byte}

/-- In SYNC_KEEP mode a checked block names no second set and no second couplings (R202). -/
theorem annealBlock_keep (hmode : fieldOf bs 1 1 = 2) (h : annealBlock bs ab = none) :
    fieldOf ab 4 4 = 0 ∧ fieldOf ab 24 8 = 0 := by
  have hbi : annealBi bs = false := by rw [annealBi, hmode]; rfl
  unfold annealBlock at h
  simp only [hbi, Bool.false_eq_true, false_and, if_false, true_and] at h
  split at h
  · exact absurd h (Option.some_ne_none _)
  · split at h
    · exact absurd h (Option.some_ne_none _)
    · split at h
      · exact absurd h (Option.some_ne_none _)
      · next hok => constructor <;> by_contra hne <;> exact hok (by simp [hne])

/-- Without a block an array of BF16 has its codes alone to read. -/
theorem readCodes_bf (s : State) (c : Nat) {a : ArrayAt} (hq : a.q = []) (s2 : List Byte) (fin : State → CodeIn → EngOut) :
    readCodes s c a s2 fin = engRead (touch s c 0 0) c a.addr (a.n * rowPad a.k 16) fun v w =>
      fin v ⟨[], [], s2, w, a.n, a.k⟩ := by
  unfold readCodes
  rw [hq]
  exact engRead_zero s c (Nat.zero_le _) _

/-- The reads of a problem in BF16 without biases: its couplings, and six of no bytes. -/
theorem readProblem_bf {s t : State} {r : Run} {low : Nat} (h : Mirror s t) (hmode : fieldOf bs 1 1 = 2)
    (hbanks : (s.coreAt low).bankGood = 0xFFF) (hblock : annealBlock bs ab = none) (hj : fieldOf ab 16 8 = 0)
    (hbias : fieldOf ab 40 8 = 0) (hread : Fetches s r (fieldOf ab 8 8) (fieldOf ab 0 4 * rowPad (fieldOf ab 0 4) 16))
    (fin : State → Problem → EngOut) :
    ∃ v, readProblem t r.key.ctx low bs ab fin = fin v (bfCouplings (fieldOf ab 0 4)
        (vaRead s r.key.ctx (fieldOf ab 8 8) (fieldOf ab 0 4 * rowPad (fieldOf ab 0 4) 16))) ∧
      Mirror s v ∧ Twin (touch t r.key.ctx (fieldOf ab 8 8) (fieldOf ab 0 4 * rowPad (fieldOf ab 0 4) 16)) v := by
  obtain ⟨hnb, hjt⟩ := annealBlock_keep hmode hblock
  have hbi : annealBi bs = false := by rw [annealBi, hmode]; rfl
  have hcore : denseCore t r.key.ctx low 0 = some low := denseCore_whole ((h.banks low).trans hbanks)
  refine ⟨touched t r.key.ctx [(0, 0), (fieldOf ab 8 8, fieldOf ab 0 4 * rowPad (fieldOf ab 0 4) 16), (0, 0), (0, 0),
    (0, 0), (0, 0)],
    ?_, h.touched .., ?_⟩
  · unfold readProblem readBlocks
    simp only [hj, hbi, hbias, Bool.false_eq_true, if_false, if_true, readQblk_zero]
    have hcoding : codingBad bs ⟨fieldOf ab 8 8, [], fieldOf ab 0 4, fieldOf ab 0 4⟩ ⟨fieldOf ab 24 8, [], fieldOf ab 4 4, 0⟩
        ⟨0, [], fieldOf ab 0 4, 0⟩ = false := by simp [codingBad, qFmt_nil, hmode]
    rw [hcoding, hcore]
    simp only [Option.isNone_some, Bool.false_eq_true, if_false, readS2_nil]
    rw [readCodes_bf _ _ rfl, (h.touch r.key.ctx 0 0).engRead hread]
    simp only [hmode, readCodes_bf, hjt, Nat.zero_mul, engRead_zero _ _ (Nat.zero_le (2 ^ 48))]
    rw [if_neg (by simp)]
    rfl
  · exact (((((touch_zero_twin t _ 0).touch ..).trans (touch_zero_twin ..)).trans (touch_zero_twin ..)).trans
      (touch_zero_twin ..)).trans (touch_zero_twin ..)

end

/-! ### The run -/

/-- The bytes of a replica's state row among those read (R201). -/
def stateRow (n : Nat) (old : List Byte) (k : Nat) : List Byte := (old.drop (k * rowPad n 1)).take ((n + 7) / 8)

/-- Bytes of the state rows up to the last named replica. -/
def stateBytes (bs : List Byte) (n : Nat) : Nat := ((namedReplicas (fieldOf bs 16 8)).getLastD 0 + 1) * rowPad n 1

/-- The tallies that a command of a RUN starts with (R200). -/
def startTallies (s : State) (r : Run) (bs : List Byte) : List Lacc :=
  (tallyArray s (r.cores.headD 0) bs).map laccOfImage

/-- Every traverse of a command without a second set, from the rows read. -/
def keepRun (x : StepIn) (old : List Byte) (tallies : List Lacc) : DenseRun :=
  annealAll x 0 1 ⟨(List.range 64).map (fun k => leNat (stateRow x.na old k) % 2 ^ x.na), tallies, 0, 0, false⟩

/-- The named rows as a run leaves them. -/
def keepWrites (bs ab old : List Byte) (n : Nat) (o : DenseRun) : List (Nat × List Byte) :=
  (namedReplicas (fieldOf bs 16 8)).map fun k =>
    (fieldOf ab 56 8 + k * rowPad n 1, rowImage n (o.rows.getD k 0) (stateRow n old k))

section
variable {s v : State} {r : Run} {bs ab : List Byte} {p : Problem} {betas : List (BitVec 32)}

/-- A run whose tallies stay finite writes its rows (R209). -/
theorem annealRun_keep {old : List Byte} {o : DenseRun} (h : Mirror s v) (hmode : fieldOf bs 1 1 = 2)
    (hblock : annealBlock bs ab = none) (hsteps : fieldOf bs 4 4 ≠ 0)
    (hfinite : ∀ k, k ∈ namedReplicas (fieldOf bs 16 8) → laccFinite ((startTallies s r bs).getD k (.fin 0)) = true)
    (hread : Fetches s r (fieldOf ab 56 8) (stateBytes bs (fieldOf ab 0 4)))
    (hold : old = vaRead s r.key.ctx (fieldOf ab 56 8) (stateBytes bs (fieldOf ab 0 4)))
    (ho : o = keepRun ⟨bs, fieldOf ab 0 4, p, betas, (s.ctxAt r.key.ctx).accTable⟩ old (startTallies s r bs))
    (hfull : o.full = false) (hws : Delivers s r (keepWrites bs ab old (fieldOf ab 0 4) o)) :
    ∃ u, annealRun v r bs ab p betas = .done stDone u ∧
      SameMemories u (written (touch v r.key.ctx (fieldOf ab 56 8) (stateBytes bs (fieldOf ab 0 4))) r.key.ctx
        (keepWrites bs ab old (fieldOf ab 0 4) o)) := by
  obtain ⟨hnb, -⟩ := annealBlock_keep hmode hblock
  have hbi : annealBi bs = false := by rw [annealBi, hmode]; rfl
  have hvars : annealVars bs ab = fieldOf ab 0 4 := by rw [annealVars, hbi]; rfl
  have hP : annealP bs ab = 1 := by rw [annealP, hbi, hmode]; rfl
  have hany : (namedReplicas (fieldOf bs 16 8)).any (fun k => !laccFinite ((startTallies s r bs).getD k (.fin 0))) = false := by
    simpa [List.any_eq_false] using hfinite
  have hwrite := engWrite_of_delivers ((h.touch r.key.ctx (fieldOf ab 56 8) (stateBytes bs (fieldOf ab 0 4))).delivers hws)
  unfold annealRun
  simp only [hvars, hP, hnb, h.tallyArray, h.table, hsteps, if_false]
  rw [← startTallies, hany, if_neg Bool.false_ne_true, ← stateBytes, h.engRead hread, ← hold]
  subst ho
  refine ⟨_, (hwrite _).trans (congrArg₂ EngOut.done (if_neg ?_) rfl), ?_⟩
  · exact fun h => Bool.false_ne_true (hfull.symm.trans h)
  · exact (storeTallies_only ..).memories

end

end Sys2Proof.Laws
end

section
/-! The commands of the dense engine: O22. -/

namespace Sys2Proof.Laws

open Sys2Proof.Machine Sys2Proof.Safety

/-! ### DENSE_ANNEAL from its command to its rows -/

/-- The anneal block of a command, and its variables (R201). -/
def annealBlk (s : State) (r : Run) (bs : List Byte) : List Byte := vaRead s r.key.ctx (fieldOf bs 8 8) 64
def annealN (s : State) (r : Run) (bs : List Byte) : Nat := fieldOf (annealBlk s r bs) 0 4

/-- Where the block, the couplings and the state rows lie, and how long they are. -/
def keepReads (s : State) (r : Run) (bs : List Byte) : List (Nat × Nat) :=
  [(fieldOf bs 8 8, 64), (fieldOf (annealBlk s r bs) 8 8, annealN s r bs * rowPad (annealN s r bs) 16),
   (fieldOf (annealBlk s r bs) 56 8, stateBytes bs (annealN s r bs))]

/-- The state rows before the command. -/
def oldRows (s : State) (r : Run) (bs : List Byte) : List Byte :=
  vaRead s r.key.ctx (fieldOf (annealBlk s r bs) 56 8) (stateBytes bs (annealN s r bs))

/-- What the steps of the command need. -/
def keepStep (s : State) (r : Run) (bs : List Byte) : StepIn :=
  ⟨bs, annealN s r bs, bfCouplings (annealN s r bs)
    (vaRead s r.key.ctx (fieldOf (annealBlk s r bs) 8 8) (annealN s r bs * rowPad (annealN s r bs) 16)),
    betaArray s (r.cores.headD 0) bs, (s.ctxAt r.key.ctx).accTable⟩

/-- How far its traverses come, and the rows that they leave. -/
def keepEnd (s : State) (r : Run) (bs : List Byte) : DenseRun :=
  keepRun (keepStep s r bs) (oldRows s r bs) (startTallies s r bs)
def keepOut (s : State) (r : Run) (bs : List Byte) : List (Nat × List Byte) :=
  keepWrites bs (annealBlk s r bs) (oldRows s r bs) (annealN s r bs) (keepEnd s r bs)

/-- A DENSE_ANNEAL in SYNC_KEEP mode on a BF16 problem without biases, whose checks pass, whose operands can be read, whose
tallies stay finite and whose rows can be written. -/
structure KeepAnneal (s : State) (r : Run) (bs : List Byte) : Prop where
  first : annealFirst r bs (betaArray s (r.cores.headD 0) bs) = none
  betas : storeBad s (r.cores.headD 0) (fieldOf bs 24 4) 256 = none
  tallies : storeBad s (r.cores.headD 0) (fieldOf bs 28 4) 3072 = none
  mode : fieldOf bs 1 1 = 2
  steps : fieldOf bs 4 4 ≠ 0
  banks : (s.coreAt (r.cores.headD 0)).bankGood = 0xFFF
  block : Fetches s r (fieldOf bs 8 8) 64
  blockOk : annealBlock bs (annealBlk s r bs) = none
  second : annealSecond bs (annealBlk s r bs) = false
  plain : fieldOf (annealBlk s r bs) 16 8 = 0
  noBias : fieldOf (annealBlk s r bs) 40 8 = 0
  couplings : Fetches s r (fieldOf (annealBlk s r bs) 8 8) (annealN s r bs * rowPad (annealN s r bs) 16)
  rows : Fetches s r (fieldOf (annealBlk s r bs) 56 8) (stateBytes bs (annealN s r bs))
  finite : ∀ k, k ∈ namedReplicas (fieldOf bs 16 8) → laccFinite ((startTallies s r bs).getD k (.fin 0)) = true
  full : (keepEnd s r bs).full = false
  writes : Delivers s r (keepOut s r bs)

/-- The work of such a command, where it has been taken up (R209). -/
theorem KeepAnneal.body {s t : State} {r : Run} {bs : List Byte} (h : KeepAnneal s r bs) (hm : Mirror s t) (hs : Twin s t) :
    ∃ u, annealBody t r bs = .done stDone u ∧
      SameMemories u (written (touched s r.key.ctx (keepReads s r bs)) r.key.ctx (keepOut s r bs)) := by
  have hbi : annealBi bs = false := by rw [annealBi, h.mode]; rfl
  have hvars : annealVars bs (annealBlk s r bs) = annealN s r bs := by rw [annealVars, hbi]; rfl
  obtain ⟨v, hv, hmv, htv⟩ := readProblem_bf (hm.touch r.key.ctx (fieldOf bs 8 8) 64) h.mode h.banks h.blockOk h.plain h.noBias
    h.couplings (fun u p => annealRun u r bs (annealBlk s r bs) p (betaArray s (r.cores.headD 0) bs))
  obtain ⟨u, hu, hmem⟩ := annealRun_keep hmv h.mode h.blockOk h.steps h.finite h.rows rfl rfl h.full h.writes
  refine ⟨u, ?_, ?_⟩
  · have hrows := pastEnd_of_le h.rows.1
    unfold stateBytes at hrows
    unfold annealBody
    simp only [hm.betaArray, hm.storeBad, h.first, h.betas, h.tallies, Option.or_none]
    rw [hm.engRead h.block, ← annealBlk, h.blockOk]
    simp only [h.second, hvars, hrows, Bool.false_eq_true, or_self, if_false]
    exact hv.trans hu
  · refine sameMemories_trans hmem (Twin.sameMemories ?_)
    exact ((((hs.touch ..).touch ..).trans htv).touch ..).written ..

/-! ### The statement -/

/-- Settles O22: each command ends with the memories and the status of its work. -/
theorem engineCommandsComplete : Obligations.EngineCommandsComplete := by
  refine ⟨?_, ?_, ?_, ?_, ?_⟩
  · intro s core parity r q c f m n k opb ob na nw x cells hready hop hstatus hexact hwhole hbanks hblock hok hnoA hnoW hgiven
      hnoPartials hout houtOk hfp hreadA hreadW hwrites hpay
    have h : BfMatmul s core r q.bytes := ⟨hstatus, hexact, hwhole, hbanks, hblock, hok, hnoA, hnoW, hgiven, hnoPartials, hout,
      houtOk, hfp, hreadA, hreadW, hwrites⟩
    obtain ⟨u, hbody, hmem, hwork, hmacs⟩ := h.body
    rw [hbody] at hpay
    obtain ⟨t, hexec, hend⟩ := matmul_ended hready hop hbody hpay parity
    exact ⟨t, hexec, endsUnit_congr_start hend.unit (hwork core), sameMemories_trans hend.memories hmem.sameMemories,
      (hend.macs core).trans hmacs⟩
  · intro s core r q c f k n e b g nsrc cols outs ws hready hop hstatus hblock hok hcomputed hnoClips hcodes hscales hsecond
      hsource hwrites hpay
    have h : ComputedConvert s r q.bytes :=
      ⟨hstatus, hblock, hok, hcomputed, hnoClips, hcodes, hscales, hsecond, hsource, hwrites⟩
    obtain ⟨u, hbody, hmem, hwork⟩ := h.body
    rw [hbody] at hpay
    obtain ⟨t, hexec, hend⟩ := convert_ended hready hop hbody hpay
    exact ⟨t, hexec, endsUnit_congr_start hend.unit (hwork core), sameMemories_trans hend.memories hmem.sameMemories⟩
  · intro s core parity r q c f low s1 ab n named nj nx old row tallies x o ws hready hop hturn hne hheads hfirst hbetas
      htallies
      hmode hsteps hbanks hblock hblockOk hsecond hplain hnoBias hcouplings hrows hfinite hfull hwrites hpay
    have h : KeepAnneal s r q.bytes := ⟨hfirst, hbetas, htallies, hmode, hsteps, hbanks, hblock, hblockOk, hsecond, hplain,
      hnoBias,
      hcouplings, hrows, hfinite, hfull, hwrites⟩
    obtain ⟨u, hbody, hmem⟩ := h.body (denseTaken_mirror s core) (denseTaken_twin s core)
    obtain ⟨t, hexec, hsame, hresult⟩ := anneal_ended hready hop hturn hne hheads hbody (hpay _ _ hbody) parity
    exact ⟨t, hexec, sameMemories_trans hsame hmem, hresult⟩
  · intro s core parity r q st u cost hready
    refine ⟨fun hop hbody => ⟨fun hpay => ?_, matmul_unpaid hready hop hbody parity⟩,
      fun hop hbody => ⟨fun hpay => ?_, convert_unpaid hready hop hbody⟩⟩
    · obtain ⟨t, hexec, hend⟩ := matmul_ended hready hop hbody hpay parity
      exact ⟨t, hexec, hend.unit, hend.memories⟩
    · obtain ⟨t, hexec, hend⟩ := convert_ended hready hop hbody hpay
      exact ⟨t, hexec, hend.unit, hend.memories⟩
  · intro s core pairs r q st u s1 hready hop hturn hne hheads hbody hpay
    exact anneal_ended hready hop hturn hne hheads hbody hpay pairs

end Sys2Proof.Laws
end

section
/-! What messages that leave the chip change: flits sent on links that are UP, what goes out, and what waits for a way
(R219, R220, R227, R243). -/

namespace Sys2Proof.Laws

open Sys2Proof.Machine Sys2Proof.Safety

/-! ### Links and group entries -/

section
variable (s : State) {n m : Nat}

theorem updLink_linkAt_same (f : Link → Link) (h : n < s.fab.links.length) : (s.updLink n f).linkAt n = f (s.linkAt n) :=
  listUpd_getD_same _ _ _ f h

theorem updLink_linkAt_other (f : Link → Link) (h : m ≠ n) : (s.updLink n f).linkAt m = s.linkAt m :=
  listUpd_getD_other _ _ f h

@[simp] theorem updLink_links_length (f : Link → Link) : (s.updLink n f).fab.links.length = s.fab.links.length :=
  listUpd_length ..

theorem updGroup_groupAt_same (f : Group → Group) (h : n < s.fab.groups.length) :
    (s.updGroup n f).groupAt n = f (s.groupAt n) :=
  listUpd_getD_same _ _ _ f h

/-- A link that the fabric block does not have is DOWN. -/
theorem linkAt_of_length_le (h : s.fab.links.length ≤ n) : s.linkAt n = {} := List.getD_eq_default _ _ h

theorem lt_links_length_of_st_ne (h : (s.linkAt n).st ≠ 0) : n < s.fab.links.length := by
  by_contra hn
  exact h (by rw [linkAt_of_length_le s (Nat.le_of_not_lt hn)])

/-- A link after an update of any link: as before, or changed by it. -/
theorem updLink_linkAt_cases (n m : Nat) (f : Link → Link) :
    (s.updLink n f).linkAt m = s.linkAt m ∨ m = n ∧ (s.updLink n f).linkAt m = f (s.linkAt m) := by
  by_cases hm : m = n
  · subst hm
    by_cases hlt : m < s.fab.links.length
    · exact .inr ⟨rfl, updLink_linkAt_same s f hlt⟩
    · have hle := Nat.le_of_not_lt hlt
      exact .inl ((linkAt_of_length_le _ (by simpa using hle)).trans (linkAt_of_length_le s hle).symm)
  · exact .inl (updLink_linkAt_other s f hm)

end

theorem sameLink_refl (l : Link) : SameLink l l := rfl

theorem sameLink_of_sent (l : Link) (sent : Nat) (buf : List (Nat × List Byte)) (sending : List (Nat × Nat × FabMsg)) :
    SameLink { l with sent := sent, replayBuf := buf, sending := sending } l := rfl

theorem sameLink_trans {a b c : Link} (h : SameLink a b) (k : SameLink b c) : SameLink a c := by
  unfold SameLink at h k ⊢
  rw [k] at h
  exact h

theorem SameLink.st_eq {a b : Link} (h : SameLink a b) : a.st = b.st := by
  rw [SameLink] at h; rw [h]

theorem SameLink.partner_eq {a b : Link} (h : SameLink a b) : a.partner = b.partner := by
  rw [SameLink] at h; rw [h]

theorem sameMemories_refl (s : State) : SameMemories s s := ⟨rfl, rfl, rfl⟩

/-! ### Traffic -/

/-- From `s` to `t` links have carried messages at most: every memory is as it was, a link that was UP has changed in what
has been sent on it, any other not at all, and nothing that went out is taken back. -/
structure Traffic (s t : State) : Prop where
  memories : SameMemories t s
  links : ∀ m, SameLink (t.linkAt m) (s.linkAt m)
  quiet : ∀ m, (s.linkAt m).st ≠ 3 → t.linkAt m = s.linkAt m
  count : t.fab.links.length = s.fab.links.length
  out : s.out <+: t.out

section
variable {s t u : State} {n m : Nat}

theorem Traffic.refl (s : State) : Traffic s s :=
  ⟨sameMemories_refl s, fun _ => sameLink_refl _, fun _ _ => rfl, rfl, List.prefix_rfl⟩

theorem Traffic.st_eq (h : Traffic s t) (m : Nat) : (t.linkAt m).st = (s.linkAt m).st := SameLink.st_eq (h.links m)

theorem Traffic.partner_eq (h : Traffic s t) (m : Nat) : (t.linkAt m).partner = (s.linkAt m).partner :=
  SameLink.partner_eq (h.links m)

theorem Traffic.trans (h : Traffic s t) (k : Traffic t u) : Traffic s u where
  memories := sameMemories_trans k.memories h.memories
  links m := sameLink_trans (k.links m) (h.links m)
  quiet m hm := (k.quiet m (by rwa [h.st_eq])).trans (h.quiet m hm)
  count := k.count.trans h.count
  out := h.out.trans k.out

theorem Traffic.mem_out (h : Traffic s t) {o : Out} (ho : o ∈ s.out) : o ∈ t.out := h.out.subset ho

theorem linkAt_of_links (h : t.fab.links = s.fab.links) (m : Nat) : t.linkAt m = s.linkAt m :=
  congrArg (fun l => l.getD m {}) h

/-- An update that touches neither links nor memories, and adds at most to what goes out. -/
theorem Traffic.of_links (hm : SameMemories t s) (hl : t.fab.links = s.fab.links) (ho : s.out <+: t.out) : Traffic s t where
  memories := hm
  links m := by rw [linkAt_of_links hl m]; exact sameLink_refl _
  quiet m _ := linkAt_of_links hl m
  count := congrArg List.length hl
  out := ho

/-- Traffic after an update that touches neither links, nor memories, nor what goes out. -/
theorem Traffic.after_update (k : Traffic t u) (hm : SameMemories t s := by exact ⟨rfl, rfl, rfl⟩)
    (hl : t.fab.links = s.fab.links := by rfl) (ho : t.out = s.out := by rfl) : Traffic s u :=
  (Traffic.of_links hm hl (by rw [ho])).trans k

theorem Traffic.foldl {α : Type} {f : State → α → State} (hf : ∀ t a, Traffic t (f t a)) (s : State) (l : List α) :
    Traffic s (l.foldl f s) := by
  induction l generalizing s with
  | nil => exact .refl s
  | cons a r ih => exact (hf s a).trans (ih _)

/-- Links after traffic that follows an update of one link which is then not UP: that one is what the update has made it. -/
theorem Traffic.linkAt_of_upd {f : Link → Link} (h : Traffic (s.updLink n f) t) (hn : n < s.fab.links.length)
    (hf : (f (s.linkAt n)).st ≠ 3) : t.linkAt n = f (s.linkAt n) := by
  have hsame := updLink_linkAt_same s f hn
  rw [h.quiet n (by rwa [hsame]), hsame]

theorem Traffic.others_of_upd {f : Link → Link} (h : Traffic (s.updLink n f) t) (hm : m ≠ n) :
    SameLink (t.linkAt m) (s.linkAt m) := by
  have hl := h.links m
  rwa [updLink_linkAt_other s f hm] at hl

/-! ### Sending -/

/-- Messages have been sent, or wait for a way: nothing else has changed. -/
structure Sends (s t : State) : Prop extends Traffic s t where
  frame : t = { s with fresh := t.fresh, out := t.out, fab := { s.fab with links := t.fab.links, waiting := t.fab.waiting } }

theorem Sends.refl (s : State) : Sends s s := ⟨.refl s, rfl⟩

theorem Sends.trans (h : Sends s t) (k : Sends t u) : Sends s u := by
  refine ⟨h.toTraffic.trans k.toTraffic, ?_⟩
  have hf := h.frame
  have kf := k.frame
  rw [hf] at kf
  exact kf

theorem Sends.foldl {α : Type} {f : State → α → State} (hf : ∀ t a, Sends t (f t a)) (s : State) (l : List α) :
    Sends s (l.foldl f s) := by
  induction l generalizing s with
  | nil => exact .refl s
  | cons a r ih => exact (hf s a).trans (ih _)

theorem Sends.tick (s : State) : Sends s s.tick := ⟨.of_links ⟨rfl, rfl, rfl⟩ rfl List.prefix_rfl, rfl⟩

theorem Sends.emit (s : State) (o : Out) : Sends s (s.emit o) :=
  ⟨.of_links ⟨rfl, rfl, rfl⟩ rfl (List.prefix_append ..), rfl⟩

theorem Sends.setWaiting (s : State) (w : List (Nat × FabMsg)) : Sends s { s with fab := { s.fab with waiting := w } } :=
  ⟨.of_links ⟨rfl, rfl, rfl⟩ rfl List.prefix_rfl, rfl⟩

/-- What is sent on a link that is UP is noted in it. -/
theorem Sends.updLink {f : Link → Link} (hup : (s.linkAt n).st = 3) (hf : ∀ l, SameLink (f l) l) :
    Sends s (s.updLink n f) := by
  refine ⟨⟨⟨rfl, rfl, rfl⟩, fun m => ?_, fun m hm => ?_, updLink_links_length s f, List.prefix_rfl⟩, rfl⟩
  · rcases updLink_linkAt_cases s n m f with h | ⟨-, h⟩
    · rw [h]; exact sameLink_refl _
    · rw [h]; exact hf _
  · exact updLink_linkAt_other s f fun e => hm (e ▸ hup)

theorem sendFlit_sends (hup : (s.linkAt n).st = 3) (p : List Byte) : Sends s (sendFlit n s p) := by
  unfold sendFlit
  refine Sends.trans (Sends.trans ?_ (.tick _)) (.tick _)
  exact .updLink hup fun l => sameLink_of_sent l _ _ _

theorem sendFlits_sends (hup : (s.linkAt n).st = 3) (ps : List (List Byte)) : Sends s (ps.foldl (sendFlit n) s) := by
  induction ps generalizing s with
  | nil => exact .refl s
  | cons p ps ih =>
    have h := sendFlit_sends hup p
    exact h.trans (ih ((h.st_eq n).trans hup))

/-- A message that is sent on a link in UP goes out on it (R220). -/
theorem transmit_out (s : State) (n chip : Nat) (msg : FabMsg) :
    (transmit s n chip msg).out = s.out ++ [.fabric n (fabChannel msg) chip msg] :=
  foldl_part (f := sendFlit n) State.out (fun _ _ => rfl) _ (s.tick.emit _)

theorem transmit_sends (hup : (s.linkAt n).st = 3) (chip : Nat) (msg : FabMsg) : Sends s (transmit s n chip msg) := by
  have h0 : Sends s (s.tick.emit (.fabric n (fabChannel msg) chip msg)) := (Sends.tick s).trans (.emit ..)
  have h1 := h0.trans (sendFlits_sends (s := s.tick.emit _) (n := n) hup
    (chunks 240 (((fabBytes s.fresh msg).length + 239) / 240) (fabBytes s.fresh msg)))
  exact h1.trans (.updLink ((h1.st_eq n).trans hup) fun l => sameLink_refl _)

/-- Only a link in UP is a way (R222). -/
theorem routeTo_up {chip : Nat} (h : routeTo s chip = some n) : (s.linkAt n).st = 3 := by
  obtain ⟨w, hw, rfl⟩ := Option.map_eq_some_iff.1 h
  obtain ⟨k, -, hk⟩ := List.mem_filterMap.1 (List.mem_of_find?_eq_some hw)
  dsimp only at hk
  split at hk
  · next hup =>
    obtain ⟨_, -, rfl⟩ := Option.map_eq_some_iff.1 hk
    exact hup
  · cases hk

theorem sendFab_sends (s : State) (chip : Nat) (msg : FabMsg) : Sends s (sendFab s chip msg) := by
  unfold sendFab
  split
  · next hroute => exact transmit_sends (routeTo_up hroute) chip msg
  · exact .setWaiting ..

theorem sendFabs_sends (s : State) (chips : List Nat) (msg : FabMsg) : Sends s (sendFabs s chips msg) :=
  .foldl (fun t c => sendFab_sends t c msg) s chips

theorem drainFab_sends (s : State) : Sends s (drainFab s) := by
  unfold drainFab
  refine (Sends.setWaiting s []).trans ?_
  exact .foldl (fun t (e : Nat × FabMsg) => sendFab_sends t e.1 e.2) _ _

/-- A message goes out to the partner of each of a list of links that are UP. -/
theorem transmitAll_sends {l : List Nat} (hup : ∀ n, n ∈ l → (s.linkAt n).st = 3) (msg : FabMsg) :
    Sends s (l.foldl (fun t n => transmit t n (t.linkAt n).partner msg) s) ∧
    ∀ n, n ∈ l → .fabric n (fabChannel msg) (s.linkAt n).partner msg ∈
      (l.foldl (fun t n => transmit t n (t.linkAt n).partner msg) s).out := by
  induction l generalizing s with
  | nil => exact ⟨.refl s, by simp⟩
  | cons a r ih =>
    have h := transmit_sends (hup a (by simp)) (s.linkAt a).partner msg
    obtain ⟨hsends, hout⟩ := ih fun n hn => (h.st_eq n).trans (hup n (by simp [hn]))
    refine ⟨h.trans hsends, fun n hn => ?_⟩
    rcases List.mem_cons.1 hn with rfl | hn
    · exact hsends.mem_out (by rw [transmit_out]; simp)
    · rw [← h.partner_eq n]; exact hout n hn

theorem floodRecord_sends (s : State) (r : LinkState) : Sends s (floodRecord s r) :=
  (transmitAll_sends (fun n hn => by simpa using (List.mem_filter.1 hn).2) (.linkState r)).1

/-- A record that is flooded goes out over every link in UP (R227). -/
theorem floodRecord_flooded (s : State) (r : LinkState) : Flooded s (floodRecord s r) (.linkState r) := fun n hn hup =>
  (transmitAll_sends (fun n hn => by simpa using (List.mem_filter.1 hn).2) (.linkState r)).2 n
    (List.mem_filter.2 ⟨List.mem_range.2 hn, by simpa using hup⟩)

/-! ### Where a message for a chip goes -/

/-- A message that has gone out has still gone out, and one that waits still waits. -/
theorem sent_mono {chip : Nat} {msg : FabMsg} (h : Sent s chip msg) (ho : s.out ⊆ t.out)
    (hw : s.fab.waiting ⊆ t.fab.waiting) : Sent t chip msg := by
  rcases h with ⟨link, h⟩ | h
  · exact .inl ⟨link, ho h⟩
  · exact .inr (hw h)

theorem transmit_waiting (s : State) (n chip : Nat) (msg : FabMsg) :
    (transmit s n chip msg).fab.waiting = s.fab.waiting :=
  foldl_part (f := sendFlit n) (fun t => t.fab.waiting) (fun _ _ => rfl) _ (s.tick.emit _)

theorem sendFab_waiting_subset (s : State) (chip : Nat) (msg : FabMsg) :
    s.fab.waiting ⊆ (sendFab s chip msg).fab.waiting := by
  unfold sendFab
  split
  · rw [transmit_waiting]; exact List.Subset.refl _
  · exact List.subset_append_left ..

/-- A message sent to a chip goes out where a way leads there, and waits where none does (R227, R243). -/
theorem sendFab_sent (s : State) (chip : Nat) (msg : FabMsg) : Sent (sendFab s chip msg) chip msg := by
  unfold sendFab
  split
  · next n _ => exact .inl ⟨n, by rw [transmit_out]; simp⟩
  · exact .inr (by simp)

theorem sent_sendFab {k : Nat} {msg : FabMsg} (h : Sent s k msg) (chip : Nat) (msg' : FabMsg) :
    Sent (sendFab s chip msg') k msg :=
  sent_mono h (sendFab_sends ..).out.subset (sendFab_waiting_subset ..)

theorem sent_sendFabs {k : Nat} {msg : FabMsg} (h : Sent s k msg) (chips : List Nat) (msg' : FabMsg) :
    Sent (sendFabs s chips msg') k msg := by
  unfold sendFabs
  induction chips generalizing s with
  | nil => exact h
  | cons c r ih => exact ih (sent_sendFab h c msg')

theorem sendFabs_sent (s : State) {chips : List Nat} {k : Nat} (hk : k ∈ chips) (msg : FabMsg) :
    Sent (sendFabs s chips msg) k msg := by
  unfold sendFabs
  induction chips generalizing s with
  | nil => cases hk
  | cons c r ih =>
    rcases List.mem_cons.1 hk with rfl | hk
    · exact sent_sendFabs (sendFab_sent s k msg) r msg
    · exact ih _ hk

/-! ### Messages of a group -/

theorem chargeLink_traffic (s : State) (g b : Nat) : Traffic s (chargeLink s g b) :=
  .of_links ⟨rfl, rfl, rfl⟩ rfl List.prefix_rfl

theorem sendGroup_traffic (s : State) (g : Nat) (chips : List Nat) (msg : FabMsg) : Traffic s (sendGroup s g chips msg) :=
  (sendFabs_sends s chips msg).toTraffic.trans (chargeLink_traffic ..)

/-- What the messages of a group leave alone in the fabric block. -/
theorem sendGroup_fab (s : State) (g : Nat) (chips : List Nat) (msg : FabMsg) :
    (sendGroup s g chips msg).fab = { s.fab with
      links := (sendGroup s g chips msg).fab.links, waiting := (sendGroup s g chips msg).fab.waiting } :=
  congrArg State.fab (sendFabs_sends s chips msg).frame

@[simp] theorem sendGroup_groupAt (s : State) (g : Nat) (chips : List Nat) (msg : FabMsg) (n : Nat) :
    (sendGroup s g chips msg).groupAt n = s.groupAt n :=
  congrArg (fun f => f.groups.getD n {}) (sendGroup_fab s g chips msg)

theorem sendGroup_sent (s : State) (g : Nat) {chips : List Nat} {k : Nat} (hk : k ∈ chips) (msg : FabMsg) :
    Sent (sendGroup s g chips msg) k msg :=
  sendFabs_sent s hk msg

theorem sent_sendGroup {k : Nat} {msg : FabMsg} (h : Sent s k msg) (g : Nat) (chips : List Nat) (msg' : FabMsg) :
    Sent (sendGroup s g chips msg') k msg :=
  sent_sendFabs h chips msg'

theorem mem_otherMembers {g : Group} {k : Nat} (hk : k ∈ g.members) (hc : k ≠ s.fab.chip) : k ∈ otherMembers s g :=
  List.mem_filter.2 ⟨hk, by simpa using hc⟩

/-! ### Marks and events -/

theorem MarkFrame.traffic (h : MarkFrame s t) (ho : s.out <+: t.out) : Traffic s t := by
  unfold MarkFrame at h
  exact .of_links (by rw [h]; exact ⟨rfl, rfl, rfl⟩) (by rw [h]) ho

theorem raiseVector_out (s : State) (v : Nat) : s.out <+: (raiseVector s v).out := by
  unfold raiseVector
  split
  · split <;> exact List.prefix_rfl
  · exact List.prefix_append ..

theorem raiseEvent_out (s : State) (b : Nat) : s.out <+: (raiseEvent s b).out := by
  refine List.IsPrefix.trans ?_ (raiseVector_out _ _)
  split
  · exact List.prefix_rfl
  · exact List.prefix_append ..

theorem raiseEvent_traffic (s : State) (b : Nat) : Traffic s (raiseEvent s b) :=
  (raiseEvent_frame s b).traffic (raiseEvent_out s b)

theorem markT_out (s : State) (c : Nat) : s.out <+: (markT s c).out := by
  unfold markT timingBroken
  split
  · dsimp only
    split
    · refine List.IsPrefix.trans ?_ (raiseEvent_out _ _)
      exact List.prefix_rfl
    · exact List.prefix_rfl
  · exact List.prefix_rfl

theorem markLinks_traffic (s : State) : Traffic s (markLinks s) :=
  .foldl (fun t g => (markT_frame t (Group.context g)).traffic (markT_out ..)) s _

theorem markLinks_fab (s : State) : (markLinks s).fab = s.fab :=
  foldl_part State.fab (fun t g => markT_fab t (Group.context g)) _ s

/-! ### The topology map -/

theorem putRecord_traffic (s : State) (r : LinkState) : Traffic s (putRecord s r) :=
  (drainFab_sends _).toTraffic.after_update

theorem floodOwn_traffic (s : State) : Traffic s (floodOwn s) := by
  unfold floodOwn
  split
  · exact ((putRecord_traffic _ _).trans (floodRecord_sends _ _).toTraffic).after_update
  · exact .refl s

/-! ### Groups that form -/

theorem updGroup_traffic (s : State) (n : Nat) (f : Group → Group) : Traffic s (s.updGroup n f) :=
  .of_links ⟨rfl, rfl, rfl⟩ rfl List.prefix_rfl

theorem failGroup_traffic (s : State) (n : Nat) (st : Status) : Traffic s (failGroup s n st) :=
  (updGroup_traffic ..).trans (sendGroup_traffic ..)

theorem formCheck_traffic (s : State) (n : Nat) : Traffic s (formCheck s n) := by
  unfold formCheck
  dsimp only
  split_ifs
  · exact .refl s
  · exact failGroup_traffic ..
  · exact (updGroup_traffic ..).trans (sendGroup_traffic ..)
  · exact .refl s

theorem formAll_traffic (s : State) : Traffic s (formAll s) := .foldl formCheck_traffic s _

/-- A group that forms changes its entry, and sends. -/
theorem formCheck_fab (s : State) (n : Nat) : (formCheck s n).fab = { s.fab with
    links := (formCheck s n).fab.links, waiting := (formCheck s n).fab.waiting, groups := (formCheck s n).fab.groups } := by
  have hsend (f : Group → Group) (msg : GroupMsg) : (sendAll (s.updGroup n f) n msg).fab = { s.fab with
      links := (sendAll (s.updGroup n f) n msg).fab.links, waiting := (sendAll (s.updGroup n f) n msg).fab.waiting
      groups := (sendAll (s.updGroup n f) n msg).fab.groups } := by
    have h := sendGroup_fab (s.updGroup n f) n (otherMembers (s.updGroup n f) ((s.updGroup n f).groupAt n)) (.group msg)
    unfold sendAll
    rw [h]
    rfl
  unfold formCheck failGroup
  dsimp only
  split_ifs
  · rfl
  · exact hsend ..
  · exact hsend ..
  · rfl

theorem formCheck_topo (s : State) (n : Nat) : (formCheck s n).fab.topo = s.fab.topo := by rw [formCheck_fab]

theorem formCheck_conflicts (s : State) (n : Nat) : (formCheck s n).fab.conflicts = s.fab.conflicts := by
  rw [formCheck_fab]

theorem formAll_topo (s : State) : (formAll s).fab.topo = s.fab.topo := by
  unfold formAll
  exact foldl_part (f := formCheck) (fun t => t.fab.topo) formCheck_topo (List.range 16) s

theorem formAll_conflicts (s : State) : (formAll s).fab.conflicts = s.fab.conflicts := by
  unfold formAll
  exact foldl_part (f := formCheck) (fun t => t.fab.conflicts) formCheck_conflicts (List.range 16) s

end

end Sys2Proof.Laws
end

section
/-! The states of a boundary link: O38. -/

namespace Sys2Proof.Laws

open Sys2Proof.Machine Sys2Proof.Safety

/-! ### What an event of a link leaves -/

/-- An event has left one link as given. Every other link has changed in what has been sent on it at most, and every memory
is as before. -/
structure LinkMoves (s t : State) (n : Nat) (l : Link) : Prop where
  link : t.linkAt n = l
  others : ∀ m, m ≠ n → SameLink (t.linkAt m) (s.linkAt m)
  memories : SameMemories t s
  count : t.fab.links.length = s.fab.links.length

/-- A link that has gone DOWN (R222, R243). -/
def downLink (l : Link) : Link := { l with st := 0, width := 0, identifying := false, sending := [], replayBuf := [] }

/-- A link whose identification begins anew (R219, R224). -/
def identifyLink (l : Link) : Link :=
  { l with st := 2, identifying := true, nonce := [], signs := [], sent := 0, expected := 0, replayBuf := [], replayRun := 0
           sending := [] }

section
variable {s t u : State} {n : Nat} {l l' : Link} {f : Link → Link}

theorem LinkMoves.sends (h : LinkMoves s t n l) :
    (SameMemories t s ∧ ∀ m, m ≠ n → SameLink (t.linkAt m) (s.linkAt m)) ∧ t.linkAt n = l :=
  ⟨⟨h.memories, h.others⟩, h.link⟩

theorem LinkMoves.trans (h : LinkMoves s t n l) (k : LinkMoves t u n l') : LinkMoves s u n l' where
  link := k.link
  others m hm := sameLink_trans (k.others m hm) (h.others m hm)
  memories := sameMemories_trans k.memories h.memories
  count := k.count.trans h.count

theorem LinkMoves.updLink (hn : n < s.fab.links.length) : LinkMoves s (s.updLink n f) n (f (s.linkAt n)) where
  link := updLink_linkAt_same s f hn
  others m hm := by rw [updLink_linkAt_other s f hm]; exact sameLink_refl _
  memories := ⟨rfl, rfl, rfl⟩
  count := updLink_links_length s f

/-- One link has changed, and then there has been traffic. -/
theorem LinkMoves.of_upd (h : Traffic (s.updLink n f) t) (hn : n < s.fab.links.length) (hf : (f (s.linkAt n)).st ≠ 3) :
    LinkMoves s t n (f (s.linkAt n)) where
  link := h.linkAt_of_upd hn hf
  others _ hm := h.others_of_upd hm
  memories := sameMemories_trans h.memories ⟨rfl, rfl, rfl⟩
  count := h.count.trans (updLink_links_length s f)

/-! ### Leaving and entering states -/

theorem leaveUp_traffic (s : State) (n st : Nat) (f : Link → Link) :
    Traffic (s.updLink n fun l => f { l with st := st }) (leaveUp s n st f) := by
  unfold leaveUp
  dsimp only
  split
  · exact floodOwn_traffic _
  · exact .refl _

theorem moveSending_traffic (s : State) (n : Nat) :
    Traffic (s.updLink n fun l => { l with sending := [], replayBuf := [] }) (moveSending s n) :=
  (drainFab_sends _).toTraffic.after_update

theorem linkDown_moves (hn : n < s.fab.links.length) : LinkMoves s (linkDown s n) n (downLink (s.linkAt n)) := by
  have hleft : LinkMoves s _ n _ :=
    .of_upd (leaveUp_traffic s n 0 fun l => { l with width := 0, identifying := false }) hn (by simp)
  have hmoved := LinkMoves.of_upd
    (moveSending_traffic (leaveUp s n 0 fun l => { l with width := 0, identifying := false }) n)
    (hleft.count.symm ▸ hn) (by simp [hleft.link])
  rw [hleft.link] at hmoved
  exact hleft.trans hmoved

/-- A training that fails takes the link DOWN, and is logged during bring-up at most (R441). -/
theorem trainingFails_moves (hn : n < s.fab.links.length) : LinkMoves s (trainingFails s n) n (downLink (s.linkAt n)) := by
  unfold trainingFails
  split
  · have h := linkDown_moves (s := logEvent s 0x05 6 n (openDetail s)) hn
    exact ⟨h.link, h.others, h.memories, h.count⟩
  · exact linkDown_moves hn

/-- The state in which a link enters IDENTIFY, before its nonce is asked for. -/
def identifyBegun (s : State) (n : Nat) : State :=
  State.updLink (moveSending (s.updLink n (fun l => { l with st := 2 })) n) n (fun l => { l with
    st := 2, identifying := true, nonce := [], signs := [], sent := 0, expected := 0, replayBuf := [], replayRun := 0 })

theorem enterIdentify_eq (s : State) (n : Nat) :
    enterIdentify s n = if s.fab.valid then requestNoise (identifyBegun s n) (.nonce n) else identifyBegun s n := rfl

theorem identifyBegun_moves (hn : n < s.fab.links.length) :
    LinkMoves s (identifyBegun s n) n (identifyLink (s.linkAt n)) := by
  have hbegun := LinkMoves.updLink (f := fun l => { l with st := 2 }) hn
  have hmoved := LinkMoves.of_upd (moveSending_traffic (s.updLink n fun l => { l with st := 2 }) n)
    (hbegun.count.symm ▸ hn) (by simp [hbegun.link])
  rw [hbegun.link] at hmoved
  have hnew := LinkMoves.updLink (f := fun l => { l with
    st := 2, identifying := true, nonce := [], signs := [], sent := 0, expected := 0, replayBuf := [], replayRun := 0 })
    ((hbegun.trans hmoved).count.symm ▸ hn)
  rw [hmoved.link] at hnew
  exact (hbegun.trans hmoved).trans hnew

theorem enterUp_traffic (s : State) (n : Nat) :
    Traffic (s.updLink n fun l => { l with st := 3, lost := false }) (enterUp s n) := by
  unfold enterUp
  dsimp only
  refine Traffic.trans ?_ (drainFab_sends _).toTraffic
  split
  · exact floodOwn_traffic _
  · exact .refl _

theorem enterRetrain_moves (hn : n < s.fab.links.length) (hf : ∀ l, (f l).st = l.st) :
    LinkMoves s (enterRetrain s n f) n
      (f { s.linkAt n with st := 4, retrains := (s.linkAt n).retrains + 1, replayRun := 0 }) :=
  .of_upd (f := fun l => f { l with st := 4, retrains := l.retrains + 1, replayRun := 0 })
    ((leaveUp_traffic s n 4 fun l => f { l with retrains := l.retrains + 1, replayRun := 0 }).trans (markLinks_traffic _))
    hn (by simp [hf])

/-! ### Random bits for an identification -/

/-- A link is as given but for its identification: whether its nonce is awaited, the nonce, and what is to be signed
(R225). -/
def Noted (l l' : Link) : Prop := l = { l' with identifying := l.identifying, nonce := l.nonce, signs := l.signs }

theorem Noted.refl (l : Link) : Noted l l := rfl

theorem Noted.trans {l'' : Link} (h : Noted l l') (k : Noted l' l'') : Noted l l'' := by
  unfold Noted at h k ⊢
  rw [k] at h
  exact h

/-- An update of other fields goes with it. -/
theorem Noted.map (h : Noted l l') (hf : ∀ (a : Link) i x y, f { a with identifying := i, nonce := x, signs := y } =
    { f a with identifying := i, nonce := x, signs := y }) : Noted (f l) (f l') := by
  unfold Noted at h ⊢
  rw [h, hf]

/-- Random bits have been asked for: a link has changed in its identification at most, and no memory has changed. -/
structure Draws (s t : State) : Prop where
  memories : SameMemories t s
  links : ∀ m, Noted (t.linkAt m) (s.linkAt m)
  fab : t.fab = { s.fab with links := t.fab.links }
  count : t.fab.links.length = s.fab.links.length

theorem Draws.of_fab (hm : SameMemories t s) (hf : t.fab = s.fab) : Draws s t where
  memories := hm
  links m := by rw [linkAt_of_links (congrArg Fabric.links hf) m]; exact .refl _
  fab := by rw [hf]
  count := by rw [hf]

theorem Draws.refl (s : State) : Draws s s := .of_fab (sameMemories_refl s) rfl

theorem Draws.trans (h : Draws s t) (k : Draws t u) : Draws s u where
  memories := sameMemories_trans k.memories h.memories
  links m := (k.links m).trans (h.links m)
  fab := by
    have hf := h.fab
    have kf := k.fab
    rw [hf] at kf
    exact kf
  count := k.count.trans h.count

/-- A draw after an update that touches neither the fabric block nor memories. -/
theorem Draws.after_update (k : Draws t u) (hm : SameMemories t s := by exact ⟨rfl, rfl, rfl⟩)
    (hf : t.fab = s.fab := by rfl) :
    Draws s u :=
  (Draws.of_fab hm hf).trans k

/-- What the identification of a link takes note of. -/
theorem Draws.updLink (hf : ∀ l, Noted (f l) l) : Draws s (s.updLink n f) where
  memories := ⟨rfl, rfl, rfl⟩
  links m := by
    rcases updLink_linkAt_cases s n m f with h | ⟨-, h⟩
    · rw [h]; exact .refl _
    · rw [h]; exact hf _
  fab := rfl
  count := updLink_links_length s f

theorem wakeRun_draws (s : State) (k : RunKey) (w : CcWait) : Draws s (wakeRun s k w) := .of_fab ⟨rfl, rfl, rfl⟩ rfl

theorem setConn_draws (s : State) (p : SpdmPort) (c : Spdm) : Draws s (s.setConn p c) := by
  cases p <;> exact .of_fab ⟨rfl, rfl, rfl⟩ rfl

theorem emit_draws (s : State) (o : Out) : Draws s (s.emit o) := .of_fab ⟨rfl, rfl, rfl⟩ rfl

theorem answerNoise_draws (s : State) (w : NoiseFor) (res : Status × List Byte) : Draws s (answerNoise s w res) := by
  cases w with
  | seed k =>
    simp only [answerNoise]
    split
    · exact (wakeRun_draws _ _ _).after_update
    · exact .of_fab ⟨rfl, rfl, rfl⟩ rfl
  | nonce l =>
    simp only [answerNoise]
    split
    · refine .trans ?_ (emit_draws _ _)
      exact .updLink fun _ => rfl
    · exact .updLink fun _ => rfl
  | linkSign l =>
    simp only [answerNoise]
    split
    · refine .trans ?_ (emit_draws _ _)
      exact .updLink fun _ => rfl
    · exact .updLink fun _ => rfl
  | security p =>
    simp only [answerNoise]
    split
    · exact .trans (setConn_draws _ _ _) (.of_fab ⟨rfl, rfl, rfl⟩ rfl)
    · exact .trans (setConn_draws _ _ _) (emit_draws _ _)
  | sign p =>
    simp only [answerNoise]
    split
    · exact .trans (setConn_draws _ _ _) (emit_draws _ _)
    · exact .trans (setConn_draws _ _ _) (emit_draws _ _)

theorem serveWaiting_draws (fuel : Nat) (s : State) : Draws s (serveWaiting fuel s) := by
  induction fuel generalizing s with
  | zero => exact .refl s
  | succ k ih =>
    unfold serveWaiting
    split
    · exact ((answerNoise_draws _ _ _).trans (ih _)).after_update
    · exact .refl s

theorem requestNoise_draws (s : State) (w : NoiseFor) : Draws s (requestNoise s w) := by
  unfold requestNoise
  split_ifs
  · exact answerNoise_draws ..
  · exact answerNoise_draws ..
  · exact (serveWaiting_draws _ _).after_update

/-! ### The events -/

theorem wakeChip_of_active (h : s.power.chip = 0) : wakeChip s = s := by
  rw [wakeChip, if_neg]
  rintro ⟨h1 | h2, -⟩ <;> omega

/-- With no valid identifier, a link that enters IDENTIFY waits there. -/
theorem enterIdentify_moves (hn : n < s.fab.links.length) (hvalid : s.fab.valid = false) :
    LinkMoves s (enterIdentify s n) n (identifyLink (s.linkAt n)) := by
  rw [enterIdentify_eq, if_neg (by simp [hvalid])]
  exact identifyBegun_moves hn

/-- A link that enters IDENTIFY, with its nonce asked for or not. -/
theorem enterIdentify_state (hn : n < s.fab.links.length) :
    ((enterIdentify s n).linkAt n).st = 2 ∧ ((enterIdentify s n).linkAt n).width = (s.linkAt n).width ∧
      SameMemories (enterIdentify s n) s := by
  have hbegun := identifyBegun_moves hn
  rw [enterIdentify_eq]
  split
  · have hdraw := requestNoise_draws (identifyBegun s n) (.nonce n)
    have hlink : Noted _ (identifyLink (s.linkAt n)) := hbegun.link ▸ hdraw.links n
    unfold Noted at hlink
    exact ⟨by rw [hlink]; rfl, by rw [hlink]; rfl, sameMemories_trans hdraw.memories hbegun.memories⟩
  · exact ⟨by rw [hbegun.link]; rfl, by rw [hbegun.link]; rfl, hbegun.memories⟩

/-- The lanes and the width of a link as good lanes allow them (R221). -/
def widthLink (lanes : BitVec 8) (l : Link) : Link :=
  { l with lanes := lanes &&& l.lanes, width := laneWidth (lanes &&& l.lanes) }

/-- The state in which a link has the width that good lanes allow. -/
def widthSet (s : State) (n : Nat) (lanes : BitVec 8) : State :=
  s.updLink n fun l => { l with
    lanes := lanes &&& (s.linkAt n).lanes, width := laneWidth (lanes &&& (s.linkAt n).lanes) }

theorem widthSet_moves (hn : n < s.fab.links.length) (lanes : BitVec 8) :
    LinkMoves s (widthSet s n lanes) n (widthLink lanes (s.linkAt n)) :=
  .updLink (f := fun l => { l with
    lanes := lanes &&& (s.linkAt n).lanes, width := laneWidth (lanes &&& (s.linkAt n).lanes) }) hn

section
variable (hn : n < s.fab.links.length) (lanes : BitVec 8)
include hn

theorem identify_widthSet_state :
    ((enterIdentify (widthSet s n lanes) n).linkAt n).st = 2 ∧
      ((enterIdentify (widthSet s n lanes) n).linkAt n).width = laneWidth (lanes &&& (s.linkAt n).lanes) ∧
      SameMemories (enterIdentify (widthSet s n lanes) n) s := by
  have hset := widthSet_moves hn lanes
  obtain ⟨hst, hwidth, hmem⟩ := enterIdentify_state (s := widthSet s n lanes) (n := n) (hset.count.symm ▸ hn)
  exact ⟨hst, by rw [hwidth, hset.link]; rfl, sameMemories_trans hmem hset.memories⟩

theorem identify_widthSet_moves (hvalid : s.fab.valid = false) :
    LinkMoves s (enterIdentify (widthSet s n lanes) n) n (identifyLink (widthLink lanes (s.linkAt n))) := by
  have hset := widthSet_moves hn lanes
  have hmoves := enterIdentify_moves (s := widthSet s n lanes) (n := n) (hset.count.symm ▸ hn) hvalid
  rw [hset.link] at hmoves
  exact hset.trans hmoves

/-- A link back in UP after a retrain with the same partner: what waited for a way may go out on it (R222, R243). -/
theorem enterUp_widthSet :
    SameMemories (enterUp (widthSet s n lanes) n) s ∧
      (∀ m, m ≠ n → SameLink ((enterUp (widthSet s n lanes) n).linkAt m) (s.linkAt m)) ∧
      SameLink ((enterUp (widthSet s n lanes) n).linkAt n)
        { widthLink lanes (s.linkAt n) with st := 3, lost := false } := by
  have hset := widthSet_moves hn lanes
  have hup := enterUp_traffic (widthSet s n lanes) n
  refine ⟨sameMemories_trans hup.memories hset.memories,
    fun m hm => sameLink_trans (hup.others_of_upd hm) (hset.others m hm), ?_⟩
  have hlink := hup.links n
  rwa [updLink_linkAt_same (widthSet s n lanes) _ (hset.count.symm ▸ hn), hset.link] at hlink

end

/-! ### The statement -/

theorem exec_linkTrainingComplete (hst : (s.linkAt n).st = 1) (lanes : BitVec 8) :
    exec (.linkTrainingComplete n lanes) s = .next (if laneWidth (lanes &&& (s.linkAt n).lanes) = 0 then trainingFails s n
      else enterIdentify (widthSet s n lanes) n) :=
  congrArg Host.Outcome.next (if_neg (by simp [hst]))

theorem exec_retrainComplete (hst : (s.linkAt n).st = 4) (same : Bool) (lanes : BitVec 8) :
    exec (.retrainComplete n same lanes) s = .next (if laneWidth (lanes &&& (s.linkAt n).lanes) = 0 then linkDown s n
      else if same then enterUp (widthSet s n lanes) n else enterIdentify (widthSet s n lanes) n) :=
  congrArg Host.Outcome.next (if_neg (by simp [hst]))

theorem exec_retrain (hhost : hostUp s = true) (hchip : s.power.chip = 0) :
    exec (.retrain n) s = .next (retrainLink s n) := by
  have h : exec (.retrain n) s = .next (if hostUp s then retrainLink (wakeChip s) n else s) := rfl
  rw [h, if_pos hhost, wakeChip_of_active hchip]

end

/-- Settles O38: each event is an update of its link, with traffic before or after it that leaves a link as it is that is
not UP. -/
theorem linkStatesFollowEvents : Obligations.LinkStatesFollowEvents := by
  unfold Obligations.LinkStatesFollowEvents
  intro s n hn l others sends down begun
  refine ⟨fun hrun hst => ?_, fun lanes hst hwidth => ?_, fun lanes hst hwidth => ?_, fun hst => ?_, fun hlo hhi => ?_,
    fun lane hst hlane => ?_, fun hhost hchip => ⟨fun hst => ?_, fun hst => ?_⟩,
    fun lanes hst hwidth => ⟨?_, fun hvalid => ?_⟩, fun same lanes hst hwidth => ?_⟩
  · have hlink := updLink_linkAt_same s (fun l => { l with st := 1 }) hn
    have hother : others (s.updLink n fun l => { l with st := 1 }) :=
      ⟨⟨rfl, rfl, rfl⟩, fun m hm => updLink_linkAt_other s _ hm⟩
    exact ⟨⟨_, congrArg Host.Outcome.next (if_pos ⟨hrun, hst⟩), hlink, hother⟩,
      ⟨_, congrArg Host.Outcome.next (if_pos ⟨hrun, hst, rfl⟩), hlink, hother⟩⟩
  · obtain ⟨hst2, hwidth2, hmem⟩ := identify_widthSet_state hn lanes
    exact ⟨_, (exec_linkTrainingComplete hst lanes).trans (by rw [if_neg hwidth]), hst2, hwidth2, hmem,
      fun hvalid => (identify_widthSet_moves hn lanes hvalid).sends⟩
  · exact ⟨_, (exec_linkTrainingComplete hst lanes).trans (by rw [if_pos hwidth]), (trainingFails_moves hn).sends⟩
  · rcases hst with hst | hst
    · exact ⟨_, congrArg Host.Outcome.next (if_pos hst), (trainingFails_moves hn).sends⟩
    · have htraining : (s.linkAt n).st ≠ 1 := by rw [show (s.linkAt n).st = 4 from hst]; decide
      exact ⟨_, congrArg Host.Outcome.next ((if_neg htraining).trans (if_pos hst)), (linkDown_moves hn).sends⟩
  · exact ⟨_, congrArg Host.Outcome.next (if_pos ⟨hlo, hhi⟩), (linkDown_moves hn).sends⟩
  · exact ⟨_, congrArg Host.Outcome.next (if_pos ⟨hst, hlane⟩),
      (enterRetrain_moves (f := fun l => { l with lanes := l.lanes &&& ~~~(1#8 <<< lane) }) hn fun _ => rfl).sends⟩
  · exact ⟨_, (exec_retrain hhost hchip).trans (congrArg Host.Outcome.next (if_pos hst)),
      (enterRetrain_moves (f := fun l => { l with lanes := 0xFF }) hn fun _ => rfl).sends⟩
  · have hup : (s.linkAt n).st ≠ 3 := by
      rcases hst with hst | hst <;> rw [show (s.linkAt n).st = _ from hst] <;> decide
    exact ⟨_, (exec_retrain hhost hchip).trans (congrArg Host.Outcome.next ((if_neg hup).trans (if_pos hst))),
      ⟨⟨rfl, rfl, rfl⟩, fun m hm => updLink_linkAt_other s _ hm⟩, updLink_linkAt_same s _ hn⟩
  · obtain ⟨hmem, hother, hlink⟩ := enterUp_widthSet hn lanes
    exact ⟨_, (exec_retrainComplete hst true lanes).trans (by rw [if_neg hwidth, if_pos rfl]), ⟨hmem, hother⟩, hlink⟩
  · exact ⟨_, (exec_retrainComplete hst false lanes).trans (by rw [if_neg hwidth, if_neg Bool.false_ne_true]),
      (identify_widthSet_moves hn lanes hvalid).sends⟩
  · exact ⟨_, (exec_retrainComplete hst same lanes).trans (by rw [if_pos hwidth]), (linkDown_moves hn).sends⟩

end Sys2Proof.Laws
end

section
/-! The identification of a partner, flits and their replay, and the loss of a partner: O39. -/

namespace Sys2Proof.Laws

open Sys2Proof.Machine Sys2Proof.Safety

section
variable {s t u : State} {n : Nat}

/-! ### Identification -/

/-- The state in which this chip has asked for the random bits of its own signature (R225). -/
def identifySigned (s : State) (n : Nat) (i : IdentifyInfo) : State :=
  requestNoise (s.updLink n fun l => { l with
    signs := identifyText (s.linkAt n).nonce i.nonce s.fab.chip i.chip n i.link }) (.linkSign n)

theorem identifySigned_draws (s : State) (n : Nat) (i : IdentifyInfo) : Draws s (identifySigned s n i) := by
  refine .trans ?_ (requestNoise_draws _ _)
  exact .updLink fun _ => rfl

/-- The partner's part of an exchange that this chip awaits is weighed (R225). -/
theorem exec_identifyExchange (i : IdentifyInfo) (hst : (s.linkAt n).st = 2) (hvalid : s.fab.valid = true)
    (hdrawn : (s.linkAt n).identifying = false) :
    exec (.identifyExchange n i) s = .next (identified (identifySigned s n i) n i) :=
  congrArg Host.Outcome.next
    ((if_neg (by rw [hst]; simp)).trans (if_neg (by rw [hst, hvalid, hdrawn]; simp)))

/-- A partner whose chain or signature fails (R225, R475). -/
theorem identified_untrusted (hn : n < u.fab.links.length) {i : IdentifyInfo}
    (hbad : i.chainOk = false ∨ i.byAlias = false ∨ i.sigOk = false) :
    LinkMoves u (identified u n i) n { u.linkAt n with st := 5 } := by
  rw [identified, if_pos hbad]
  exact .updLink hn

/-- A partner whose identifier conflicts with one that is known (R226). -/
theorem identified_conflict (hn : n < u.fab.links.length) {i : IdentifyInfo} (hchain : i.chainOk = true)
    (halias : i.byAlias = true) (hsig : i.sigOk = true) (hconflict : idConflicts u i.chip i.cert = true) :
    LinkMoves u (identified u n i) n { u.linkAt n with st := 6, partner := i.chip, cert := i.cert } ∧
      i.chip ∈ (identified u n i).fab.conflicts := by
  rw [identified, if_neg (by simp [hchain, halias, hsig]), if_pos hconflict]
  dsimp only
  split
  · next hmem => exact ⟨.updLink hn, hmem⟩
  · refine ⟨.of_upd (f := fun l => { l with st := 6, partner := i.chip, cert := i.cert })
      (formAll_traffic _).after_update hn (by simp), ?_⟩
    rw [formAll_conflicts]
    simp

/-- A partner that is known: what has been sent since the link entered UP is open. -/
theorem identified_up {i : IdentifyInfo} (hchain : i.chainOk = true) (halias : i.byAlias = true) (hsig : i.sigOk = true)
    (hconflict : idConflicts u i.chip i.cert = false) :
    identified u n i = enterUp (u.updLink n fun l => { l with
      partner := i.chip, partnerLink := i.link, cert := i.cert }) n := by
  rw [identified, if_neg (by simp [hchain, halias, hsig]), if_neg (by simp [hconflict])]

/-- A link that enters UP is as it was but for its state and what is sent on it. -/
theorem enterUp_sameLink (hn : n < s.fab.links.length) :
    SameLink ((enterUp s n).linkAt n) { s.linkAt n with st := 3, lost := false } := by
  have h := (enterUp_traffic s n).links n
  rwa [updLink_linkAt_same s _ hn] at h

theorem enterUp_sameMemories (s : State) (n : Nat) : SameMemories (enterUp s n) s :=
  sameMemories_trans (enterUp_traffic s n).memories ⟨rfl, rfl, rfl⟩

/-- A link that has entered UP after an identification: what is sent on it, and its identification, are open. -/
theorem noted_of_sameLink {a b l : Link} {i : IdentifyInfo}
    (h : SameLink a { { b with partner := i.chip, partnerLink := i.link, cert := i.cert } with st := 3, lost := false })
    (k : Noted b l) : Noted a { l with
      partner := i.chip, partnerLink := i.link, cert := i.cert, st := 3, lost := false
      sent := a.sent, replayBuf := a.replayBuf, sending := a.sending } := by
  unfold SameLink at h
  unfold Noted at k ⊢
  rw [k] at h
  rw [h]

/-! ### Flits -/

theorem exec_flitReceive (hst : (s.linkAt n).st = 3) {flit : List Byte} (hlen : flit.length = 256) (corrected number : Nat) :
    exec (.flitReceive n flit corrected number) s = .next (
      if crc64 (flit.take 248) = leNat (flit.drop 248) then
        (s.updLink n fun l => { l with fecCorrected := l.fecCorrected + BitVec.ofNat 64 corrected }).updLink n fun l =>
          if number = (s.linkAt n).expected then { l with
            accepted := (flit.drop 8).take 240 :: l.accepted, expected := (s.linkAt n).expected + 1 } else l
      else ((s.updLink n fun l => { l with fecCorrected := l.fecCorrected + BitVec.ofNat 64 corrected }).updLink n fun l =>
        { l with crcErrors := l.crcErrors + 1 }).emit (.nak n (s.linkAt n).expected)) := by
  have hcrc : fieldOf flit 248 8 = leNat (flit.drop 248) := by
    rw [fieldOf, List.take_of_length_le (by rw [List.length_drop]; omega)]
  refine congrArg Host.Outcome.next ((if_neg (by rw [hst]; simp)).trans ?_)
  simp only [hlen, hcrc, true_and]

theorem updLink_updLink_linkAt (hn : n < s.fab.links.length) (f g : Link → Link) :
    ((s.updLink n f).updLink n g).linkAt n = g (f (s.linkAt n)) := by
  rw [updLink_linkAt_same _ g (by simpa using hn), updLink_linkAt_same s f hn]

/-! ### Replay -/

/-- How often in a row a flit has been replayed, with the replay that now begins (R222). -/
def replayCount (l : Link) (failed : Nat) : Nat :=
  if l.lastReplay = failed ∧ l.replayRun ≠ 0 then l.replayRun + 1 else 1

/-- The flits that are replayed: the failed one and those after it. -/
def replayFlits (l : Link) (failed : Nat) : List (Nat × List Byte) := l.replayBuf.filter fun f => decide (failed ≤ f.1)

/-- What a link that replays changes of itself: the flits before the failed one are known good. -/
def replayLink (l₀ : Link) (failed : Nat) (l : Link) : Link :=
  Link.keepSending { l with
    replayBuf := replayFlits l₀ failed, replays := l.replays + 1
    lastReplay := failed, replayRun := replayCount l₀ failed }

/-- The state in which a link has replayed (R219). -/
def replayed (s : State) (n failed : Nat) : State :=
  markLinks ((replayFlits (s.linkAt n) failed).foldl (fun t f => t.emit (.flit n f.2))
    (s.updLink n (replayLink (s.linkAt n) failed)))

theorem exec_flitNak (hst : (s.linkAt n).st = 3) (failed : Nat) :
    exec (.flitNak n failed) s = .next (if 32 ≤ replayCount (s.linkAt n) failed then
      enterRetrain (replayed s n failed) n id else replayed s n failed) :=
  congrArg Host.Outcome.next (if_neg (by rw [hst]; simp))

theorem emitAll_out {α : Type} (o : α → Out) (l : List α) (s : State) :
    (l.foldl (fun t a => t.emit (o a)) s).out = s.out ++ l.map o := by
  induction l generalizing s with
  | nil => simp
  | cons a r ih => rw [List.foldl_cons, ih]; simp [State.emit]

theorem replayed_fab (s : State) (n failed : Nat) :
    (replayed s n failed).fab = (s.updLink n (replayLink (s.linkAt n) failed)).fab := by
  unfold replayed
  rw [markLinks_fab]
  exact foldl_part (f := fun t (f : Nat × List Byte) => t.emit (.flit n f.2)) State.fab (fun _ _ => rfl) _ _

theorem replayed_linkAt (hn : n < s.fab.links.length) (failed : Nat) :
    (replayed s n failed).linkAt n = replayLink (s.linkAt n) failed (s.linkAt n) :=
  (linkAt_of_links (congrArg Fabric.links (replayed_fab s n failed)) n).trans (updLink_linkAt_same s _ hn)

theorem replayed_sameMemories (s : State) (n failed : Nat) : SameMemories (replayed s n failed) s :=
  sameMemories_trans (markLinks_traffic _).memories
    (sameMemories_trans (t := s.updLink n (replayLink (s.linkAt n) failed))
      (sameMemories_foldl (f := fun t (f : Nat × List Byte) => t.emit (.flit n f.2)) (fun _ _ => ⟨rfl, rfl, rfl⟩) _ _)
      ⟨rfl, rfl, rfl⟩)

/-- The replayed flits go out in their order, after what has gone out before. -/
theorem replayed_out (s : State) (n failed : Nat) :
    s.out ++ (replayFlits (s.linkAt n) failed).map (fun f => Out.flit n f.2) <+: (replayed s n failed).out := by
  have h := (markLinks_traffic ((replayFlits (s.linkAt n) failed).foldl (fun t f => t.emit (.flit n f.2))
    (s.updLink n (replayLink (s.linkAt n) failed)))).out
  rwa [emitAll_out (fun f : Nat × List Byte => Out.flit n f.2)] at h

/-! ### The loss of a partner -/

theorem raiseVector_power (s : State) (v : Nat) : (raiseVector s v).power = s.power := by
  unfold raiseVector
  repeat' split
  all_goals rfl

/-- An event that is raised is pending (R469). -/
theorem raiseEvent_pending_bit (s : State) {b : Nat} (hb : b < 6) : (raiseEvent s b).power.events.getLsbD b = true := by
  have h : (s.power.events ||| (1#6 <<< b)).getLsbD b = true := by simp [hb]
  unfold raiseEvent
  dsimp only
  rw [raiseVector_power]
  split <;> exact h

theorem drainFab_power (s : State) : (drainFab s).power = s.power := by rw [(drainFab_sends s).frame]

theorem floodRecord_power (s : State) (r : LinkState) : (floodRecord s r).power = s.power := by
  rw [(floodRecord_sends s r).frame]

theorem floodOwn_power (s : State) : (floodOwn s).power = s.power := by
  unfold floodOwn
  split
  · dsimp only
    rw [floodRecord_power, putRecord, drainFab_power]
  · rfl

/-- The state in which the loss of a link's partner has been told to the outside (R223). -/
def lossTold (s : State) (n : Nat) : State :=
  raiseEvent ((s.updLink n fun l => { l with lost := true }).emit (.partnerLostEvent false n)) evPartnerLost

theorem exec_partnerLost (hst : (s.linkAt n).st ≠ 3) (hlost : (s.linkAt n).lost = false) :
    exec (.partnerLost n) s = .next (floodOwn (lossTold s n)) :=
  congrArg Host.Outcome.next (if_neg (by simp [hst, hlost]))

theorem lossTold_traffic (s : State) (n : Nat) : Traffic (s.updLink n fun l => { l with lost := true }) (lossTold s n) :=
  (Sends.emit _ _).toTraffic.trans (raiseEvent_traffic _ _)

theorem lossTold_out (s : State) (n : Nat) : .partnerLostEvent false n ∈ (lossTold s n).out :=
  (raiseEvent_traffic _ _).mem_out (by simp [State.emit])

end

/-! ### The statement -/

/-- Settles O39: the identification goes on from a state that differs in random bits and what they are for; a flit, a replay
and a loss each change one link, and the traffic that they cause leaves that link as it is. -/
theorem identificationAndFlitsComplete : Obligations.IdentificationAndFlitsComplete := by
  unfold Obligations.IdentificationAndFlitsComplete
  intro s n hn l noted
  refine ⟨fun i hst hvalid hdrawn => ?_, fun i hst hne => ?_, fun number flit k hst hlen => ?_, fun failed hst => ?_,
    fun hst hlost => ?_⟩
  · have hexec := exec_identifyExchange i hst hvalid hdrawn
    have hdraw := identifySigned_draws s n i
    have hlt : n < (identifySigned s n i).fab.links.length := hdraw.count.symm ▸ hn
    have hids : idConflicts (identifySigned s n i) i.chip i.cert = idConflicts s i.chip i.cert := by
      unfold idConflicts; rw [hdraw.fab]
    refine ⟨fun hbad => ⟨_, hexec, ?_⟩, fun hchain halias hsig hconf => ⟨_, hexec, ?_⟩,
      fun hchain halias hsig hconf => ⟨_, hexec, ?_⟩⟩
    · have hmoves := identified_untrusted hlt hbad
      refine ⟨?_, sameMemories_trans hmoves.memories hdraw.memories⟩
      have hnoted := (hdraw.links n).map (f := fun l => { l with st := 5 }) fun _ _ _ _ => rfl
      rwa [← hmoves.link] at hnoted
    · obtain ⟨hmoves, hmem⟩ := identified_conflict hlt hchain halias hsig (hids.trans hconf)
      refine ⟨?_, hmem, sameMemories_trans hmoves.memories hdraw.memories⟩
      have hnoted := (hdraw.links n).map (f := fun l => { l with st := 6, partner := i.chip, cert := i.cert })
        fun _ _ _ _ => rfl
      rwa [← hmoves.link] at hnoted
    · rw [identified_up hchain halias hsig (hids.trans hconf)]
      refine ⟨sameMemories_trans (enterUp_sameMemories _ n) (sameMemories_trans ⟨rfl, rfl, rfl⟩ hdraw.memories), ?_⟩
      have hlink := enterUp_sameLink (s := (identifySigned s n i).updLink n fun l => { l with
        partner := i.chip, partnerLink := i.link, cert := i.cert }) (n := n) (by simpa using hlt)
      rw [updLink_linkAt_same _ _ hlt] at hlink
      exact noted_of_sameLink hlink (hdraw.links n)
  · exact ⟨_, congrArg Host.Outcome.next (if_pos ⟨hst, hne⟩), ⟨rfl, rfl, rfl⟩, updLink_linkAt_same s _ hn⟩
  · have hexec := exec_flitReceive (s := s) (n := n) hst hlen k number
    refine ⟨fun hcrc => ?_, fun hcrc => ?_⟩
    · rw [if_pos hcrc] at hexec
      refine ⟨_, hexec, ⟨rfl, rfl, rfl⟩, rfl, fun hdue => ?_, fun hdue => ?_⟩
      · rw [updLink_updLink_linkAt hn, if_pos hdue]
      · rw [updLink_updLink_linkAt hn, if_neg hdue]
    · rw [if_neg hcrc] at hexec
      exact ⟨_, hexec, ⟨rfl, rfl, rfl⟩, rfl, updLink_updLink_linkAt hn _ _⟩
  · have hexec := exec_flitNak (s := s) (n := n) hst failed
    refine ⟨fun hlast => ?_, fun hlast hrun => ?_⟩
    · have hcount : replayCount (s.linkAt n) failed = 1 := if_neg fun h => hlast h.1
      refine ⟨_, hexec.trans (by rw [hcount, if_neg (by decide)]), replayed_sameMemories s n failed,
        replayed_out s n failed, ?_⟩
      rw [replayed_linkAt hn, replayLink, hcount]
      rfl
    · have hcount : replayCount (s.linkAt n) failed = 32 := by
        rw [replayCount, if_pos ⟨hlast, by rw [show (s.linkAt n).replayRun = 31 from hrun]; decide⟩,
          show (s.linkAt n).replayRun = 31 from hrun]
      have hmoves := enterRetrain_moves (s := replayed s n failed) (n := n) (f := id)
        ((congrArg (fun f => f.links.length) (replayed_fab s n failed)).trans (updLink_links_length s _) ▸ hn) fun _ => rfl
      refine ⟨_, hexec.trans (by rw [hcount, if_pos (by decide)]),
        sameMemories_trans hmoves.memories (replayed_sameMemories s n failed), ?_⟩
      rw [hmoves.link, replayed_linkAt hn, ← hlast]
      rfl
  · have htraffic := (lossTold_traffic s n).trans (floodOwn_traffic _)
    have hmoves := LinkMoves.of_upd htraffic hn hst
    exact ⟨_, exec_partnerLost hst hlost, hmoves.memories, hmoves.link, (floodOwn_traffic _).mem_out (lossTold_out s n),
      by rw [floodOwn_power]; exact raiseEvent_pending_bit _ (by decide)⟩

end Sys2Proof.Laws
end

section
/-! The topology map and the chip's identifier: O40. -/

namespace Sys2Proof.Laws

open Sys2Proof.Machine Sys2Proof.Safety

section
variable {s t u : State} {n : Nat}

/-! ### Records in the map, and records on their way -/

theorem putRecord_topo (s : State) (r : LinkState) :
    (putRecord s r).fab.topo = s.fab.topo.filter (fun q => decide (q.chip ≠ r.chip)) ++ [r] := by
  rw [putRecord, (drainFab_sends _).frame]

theorem putRecord_seq (s : State) (r : LinkState) : (putRecord s r).fab.seq = s.fab.seq := by
  rw [putRecord, (drainFab_sends _).frame]

theorem floodRecord_topo (s : State) (r : LinkState) : (floodRecord s r).fab.topo = s.fab.topo := by
  rw [(floodRecord_sends s r).frame]

theorem floodRecord_seq (s : State) (r : LinkState) : (floodRecord s r).fab.seq = s.fab.seq := by
  rw [(floodRecord_sends s r).frame]

/-- Traffic beforehand leaves every link in its state, with its partner. -/
theorem flooded_of_traffic {msg : FabMsg} (h : Traffic s t) (k : Flooded t u msg) : Flooded s u msg := fun n hn hup => by
  rw [← h.partner_eq n]
  exact k n hn ((h.st_eq n).trans hup)

theorem flooded_then {msg : FabMsg} (h : Flooded s t msg) (k : Traffic t u) : Flooded s u msg := fun n hn hup =>
  k.mem_out (h n hn hup)

/-- A record that is put into the map is flooded over the links in UP (R227). -/
theorem putRecord_floodRecord_flooded (s : State) (r : LinkState) :
    Flooded s (floodRecord (putRecord s r) r) (.linkState r) :=
  flooded_of_traffic (putRecord_traffic s r) (floodRecord_flooded _ r)

/-! ### Messages of other chips -/

theorem wakeIdle_of_active (h : s.power.chip = 0) : wakeIdle s = s := if_neg (by rw [h]; decide)

/-- A CONTROL message that comes while a link is UP takes effect (R222). -/
theorem controlStep_of_active (hhears : fabHears s = true) (hchip : s.power.chip = 0) (f : State → State) :
    controlStep s f = f s := by
  rw [controlStep, if_pos hhears, wakeIdle_of_active hchip]

/-- A record that is newer than the map's, and not the chip's own, is taken. -/
theorem takeRecord_of_newer {r : LinkState} (hother : r.chip = s.fab.chip → s.fab.valid = false)
    (hnewer : ∀ old, s.fab.topo.find? (fun q => decide (q.chip = r.chip)) = some old → newerSeq r.seq old.seq = true) :
    takeRecord r s = formAll (floodRecord (putRecord s r) r) := by
  refine if_neg ?_
  rintro (⟨hown, hvalid⟩ | hold)
  · rw [hother hown] at hvalid
    cases hvalid
  · obtain ⟨old, hfind, hseq⟩ := (Option.any_eq_true _ _).1 hold
    rw [hnewer old hfind] at hseq
    cases hseq

/-! ### The chip's own record -/

theorem floodOwn_of_valid (h : s.fab.valid = true) : floodOwn s =
    floodRecord (putRecord { s with fab := { s.fab with seq := s.fab.seq + 1 } } (ownRecord s)) (ownRecord s) :=
  if_pos h

theorem floodOwn_topo (h : s.fab.valid = true) :
    (floodOwn s).fab.topo = s.fab.topo.filter (fun q => decide (q.chip ≠ s.fab.chip)) ++ [ownRecord s] := by
  rw [floodOwn_of_valid h, floodRecord_topo, putRecord_topo]
  rfl

theorem floodOwn_seq (h : s.fab.valid = true) : (floodOwn s).fab.seq = s.fab.seq + 1 := by
  rw [floodOwn_of_valid h, floodRecord_seq, putRecord_seq]

theorem floodOwn_flooded (h : s.fab.valid = true) : Flooded s (floodOwn s) (.linkState (ownRecord s)) := by
  rw [floodOwn_of_valid h]
  exact putRecord_floodRecord_flooded { s with fab := { s.fab with seq := s.fab.seq + 1 } } (ownRecord s)

/-! ### A new identifier -/

/-- A link in ID_CONFLICT, once the chip's identifier has changed, is back in TRAINING (R222). -/
def freedLink (changed : Prop) [Decidable changed] (l : Link) : Link :=
  if l.st = 6 ∧ changed then { l with st := 1 } else l

/-- What a new identifier does to one link. -/
def freeLink (s : State) (valid : Bool) (chip : Nat) (t : State) (n : Nat) : State :=
  if (t.linkAt n).st = 6 ∧ chip ≠ s.fab.chip then t.updLink n (fun l => { l with st := 1 })
  else if (t.linkAt n).st = 2 ∧ valid ∧ s.fab.valid = false then enterIdentify t n
  else t

theorem writeChipId_eq (s : State) (valid : Bool) (chip : Nat) :
    writeChipId s valid chip = if s.fab.groups.any (fun g => decide (g.st ≠ 0)) then s
      else (List.range 8).foldl (freeLink s valid chip) { s with fab := { s.fab with valid := valid, chip := chip } } := rfl

section
variable {changed : Prop} [Decidable changed]

theorem freedLink_freedLink (l : Link) : freedLink changed (freedLink changed l) = freedLink changed l := by
  unfold freedLink
  by_cases h : l.st = 6 ∧ changed
  · simp [h]
  · simp [h]

theorem freedLink_st (l : Link) (h : l.st ≠ 2) : (freedLink changed l).st ≠ 2 := by
  unfold freedLink
  split
  · simp
  · exact h

end

/-- Links have been freed from ID_CONFLICT, those of a list, and nothing else has changed. -/
structure Frees (changed : Prop) [Decidable changed] (l : List Nat) (s t : State) : Prop where
  memories : SameMemories t s
  valid : t.fab.valid = s.fab.valid
  chip : t.fab.chip = s.fab.chip
  links : ∀ m, t.linkAt m = if m ∈ l then freedLink changed (s.linkAt m) else s.linkAt m

theorem freeLink_frees (valid : Bool) (chip : Nat) (h : (t.linkAt n).st ≠ 2) :
    Frees (chip ≠ s.fab.chip) [n] t (freeLink s valid chip t n) := by
  unfold freeLink
  rw [if_neg (c := (t.linkAt n).st = 2 ∧ valid ∧ s.fab.valid = false) fun hid => h hid.1]
  split
  · next hconf =>
    refine ⟨⟨rfl, rfl, rfl⟩, rfl, rfl, fun m => ?_⟩
    by_cases hm : m = n
    · subst hm
      rw [updLink_linkAt_same t _ (lt_links_length_of_st_ne t (by rw [hconf.1]; decide)), if_pos (by simp), freedLink,
        if_pos hconf]
    · rw [updLink_linkAt_other t _ hm, if_neg (by simpa using hm)]
  · next hconf =>
    refine ⟨sameMemories_refl t, rfl, rfl, fun m => ?_⟩
    by_cases hm : m = n
    · subst hm
      rw [if_pos (by simp), freedLink, if_neg hconf]
    · rw [if_neg (by simpa using hm)]

theorem Frees.cons {changed : Prop} [Decidable changed] {l : List Nat} (h : Frees changed [n] s t)
    (k : Frees changed l t u) : Frees changed (n :: l) s u where
  memories := sameMemories_trans k.memories h.memories
  valid := k.valid.trans h.valid
  chip := k.chip.trans h.chip
  links m := by
    rw [k.links m, h.links m]
    by_cases hn : m = n <;> by_cases hl : m ∈ l <;> simp [hn, hl, freedLink_freedLink]

theorem freeLinks_frees (valid : Bool) (chip : Nat) (l : List Nat) (h : ∀ m, (t.linkAt m).st ≠ 2) :
    Frees (chip ≠ s.fab.chip) l t (l.foldl (freeLink s valid chip) t) := by
  induction l generalizing t with
  | nil => exact ⟨sameMemories_refl t, rfl, rfl, fun m => rfl⟩
  | cons n l ih =>
    have hn := freeLink_frees (s := s) valid chip (h n)
    refine hn.cons (ih fun m => ?_)
    rw [hn.links m]
    split
    · exact freedLink_st _ (h m)
    · exact h m

/-- A link that the fabric block lists, or DOWN. -/
theorem linkAt_st_ne (h : ∀ l, l ∈ s.fab.links → l.st ≠ 2) (m : Nat) : (s.linkAt m).st ≠ 2 := by
  by_cases hm : m < s.fab.links.length
  · unfold State.linkAt
    rw [List.getD_eq_getElem _ _ hm]
    exact h _ (List.getElem_mem hm)
  · rw [linkAt_of_length_le s (Nat.le_of_not_lt hm)]
    decide

/-- FAB_CHIP_ID while no group is in use, and no link awaits its nonce (R224). -/
theorem writeChipId_frees (valid : Bool) (chip : Nat) (hidle : ∀ g, g ∈ s.fab.groups → g.st = 0)
    (hlinks : ∀ l, l ∈ s.fab.links → l.st ≠ 2) :
    Frees (chip ≠ s.fab.chip) (List.range 8) { s with fab := { s.fab with valid := valid, chip := chip } }
      (writeChipId s valid chip) := by
  rw [writeChipId_eq, if_neg (by simpa using hidle)]
  exact freeLinks_frees valid chip _ (linkAt_st_ne hlinks)

theorem exec_fabChipId (hhost : hostUp s = true) (hchip : s.power.chip = 0) (valid : Bool) {chip : Nat} (hid : chip < 1024) :
    exec (.fabChipId valid chip) s = .next (writeChipId s valid chip) := by
  have h : exec (.fabChipId valid chip) s =
      .next (if hostUp s then writeChipId (wakeChip s) valid (chip % 1024) else s) := rfl
  rw [h, if_pos hhost, wakeChip_of_active hchip, Nat.mod_eq_of_lt hid]

end

/-! ### The statement -/

/-- Settles O40: what a record puts into the map stays there, since all that follows is traffic and groups that form. -/
theorem topologyMapFollowsRecords : Obligations.TopologyMapFollowsRecords := by
  unfold Obligations.TopologyMapFollowsRecords
  intro s
  refine ⟨fun r hhears hchip hother hnewer => ?_, fun hrst hvalid => ?_, fun chip hheld => ?_,
    fun valid chip hhost hchip hid hidle hlinks => ?_⟩
  · have hexec : exec (.linkStateRecord r) s = .next (formAll (floodRecord (putRecord s r) r)) :=
      congrArg Host.Outcome.next
        ((controlStep_of_active hhears hchip (takeRecord r)).trans (takeRecord_of_newer hother hnewer))
    have htraffic := ((putRecord_traffic s r).trans (floodRecord_sends _ r).toTraffic).trans (formAll_traffic _)
    exact ⟨_, hexec, htraffic.memories, flooded_then (putRecord_floodRecord_flooded s r) (formAll_traffic _),
      by rw [formAll_topo, floodRecord_topo, putRecord_topo]⟩
  · exact ⟨_, congrArg Host.Outcome.next (if_pos hrst), (floodOwn_traffic s).memories, floodOwn_seq hvalid, rfl,
      floodOwn_flooded hvalid, floodOwn_topo hvalid⟩
  · have hany : s.fab.topo.any (fun q => decide (q.chip = chip)) = true := by
      obtain ⟨r, hr, hrc⟩ := hheld
      exact List.any_eq_true.2 ⟨r, hr, by simpa using hrc⟩
    refine ⟨_, congrArg Host.Outcome.next (if_pos hany),
      sameMemories_trans (drainFab_sends _).memories ⟨rfl, rfl, rfl⟩, fun r => ?_, ?_⟩
    · rw [(drainFab_sends _).frame]
      simp [List.mem_filter]
    · rw [(drainFab_sends _).frame]
  · have hfrees := writeChipId_frees valid chip hidle hlinks
    refine ⟨_, exec_fabChipId hhost hchip valid hid, hfrees.valid, hfrees.chip, hfrees.memories, fun n hn => ?_⟩
    rw [hfrees.links n, if_pos (List.mem_range.2 hn)]
    rfl

end Sys2Proof.Laws
end

section
/-! Groups of chips that form, plan and disband: O41. -/

namespace Sys2Proof.Laws

open Sys2Proof.Machine Sys2Proof.Safety

section
variable {s t : State} {n : Nat}

/-! ### ARM -/

/-- What the host does to a group entry of an active chip takes effect. -/
theorem hostGroup_acts (hhost : hostUp s = true) (hchip : s.power.chip = 0) (hn : n < 16) (f : State → Nat → State) :
    (if hostGroup s n then f (wakeChip s) n else s) = f s n := by
  rw [if_pos (by simp [hostGroup, hhost, hn]), wakeChip_of_active hchip]

theorem exec_arm (hhost : hostUp s = true) (hchip : s.power.chip = 0) (hn : n < 16) :
    exec (.arm n) s = .next (armGroup s n) :=
  congrArg Host.Outcome.next (hostGroup_acts hhost hchip hn armGroup)

/-- The member list that ARM reads (R230). -/
def listRead (s : State) (n : Nat) : List Nat :=
  (List.range (s.groupAt n).count).map fun i =>
    fieldOf (vaRead s (s.groupAt n).context (s.groupAt n).listVa (2 * (s.groupAt n).count)) (2 * i) 2

/-- The state in which an entry is FORMING with its list read, and nobody has joined. -/
def armed (s : State) (n : Nat) : State :=
  s.updGroup n fun g => { g with st := 1, reason := stDone, joined := [], members := listRead s n, early := [] }

/-- A member that is not the lead joins its lead (R232). -/
theorem armGroup_member (hst : (s.groupAt n).st = 0) (hstatus : armStatus s n = none)
    (hlead : (s.groupAt n).lead ≠ s.fab.chip)
    (hread : rangeStop s (s.groupAt n).context (s.groupAt n).listVa (2 * (s.groupAt n).count) false = none) :
    armGroup s n = sendGroup ((armed s n).updGroup n fun g => { g with joined := [s.fab.chip] }) n [(s.groupAt n).lead]
      (.joinMsg (joinInfo (armed s n) ((armed s n).groupAt n))) := by
  unfold armGroup
  dsimp only
  rw [if_neg (by rw [hst]; simp), hstatus]
  dsimp only
  rw [hread]
  exact if_neg hlead

theorem armGroup_refused {st : Status} (hst : (s.groupAt n).st = 0) (hstatus : armStatus s n = some st) :
    armGroup s n = groupReason s n st := by
  unfold armGroup
  dsimp only
  rw [if_neg (by rw [hst]; simp), hstatus]

/-! ### JOIN -/

theorem exec_join (hhears : fabHears s = true) (hchip : s.power.chip = 0) (i : JoinInfo) :
    exec (.join n i) s = .next (if (s.groupAt n).st = 0 then
      s.updGroup n fun g => { g with early := g.early.filter (fun j => decide (j.chip ≠ i.chip)) ++ [i] }
      else takeJoin n s i) :=
  congrArg Host.Outcome.next (controlStep_of_active hhears hchip _)

/-- Every listed chip has joined and stands in the topology map (R232). -/
def Assembled (s : State) (g : Group) : Prop := g.joined.length = g.members.length ∧ ∀ m, m ∈ g.members → Known s m

theorem known_iff (s : State) (m : Nat) :
    (decide (m = s.fab.chip) || s.fab.topo.any (fun q => decide (q.chip = m))) = true ↔ Known s m := by
  simp [Known, List.any_eq_true]

section
variable (hst : (s.groupAt n).st = 1) (hlead : (s.groupAt n).lead = s.fab.chip)
  (hclean : (s.groupAt n).members.any (fun m => decide (m ∈ s.fab.conflicts)) = false)
include hst hlead hclean

theorem formCheck_assembled (h : Assembled s (s.groupAt n)) :
    formCheck s n = sendAll (s.updGroup n fun g => { g with st := 2, reason := stDone }) n .active := by
  obtain ⟨hjoined, hknown⟩ := h
  unfold formCheck
  dsimp only
  rw [if_neg (by simp [hst, hlead]), if_neg (by simp [hclean]),
    if_pos ⟨hjoined, List.all_eq_true.2 fun m hm => (known_iff s m).2 (hknown m hm)⟩]

theorem formCheck_waits (h : ¬ Assembled s (s.groupAt n)) : formCheck s n = s := by
  unfold formCheck
  dsimp only
  rw [if_neg (by simp [hst, hlead]), if_neg (by simp [hclean])]
  refine if_neg fun hall => h ⟨hall.1, fun m hm => (known_iff s m).1 (List.all_eq_true.1 hall.2 m hm)⟩

end

theorem joinAgrees_clean {g : Group} {i : JoinInfo} (h : joinAgrees s g i = true) :
    g.members.any (fun m => decide (m ∈ s.fab.conflicts)) = false := by
  unfold joinAgrees at h
  simp only [Bool.and_eq_true, Bool.not_eq_true'] at h
  exact h.2

/-- The lead looks at a group once it has taken a JOIN that agrees. -/
theorem takeJoin_agreed {i : JoinInfo} (hst : (s.groupAt n).st = 1) (hlead : (s.groupAt n).lead = s.fab.chip)
    (hagrees : joinAgrees s (s.groupAt n) i = true) (hnew : i.chip ∉ (s.groupAt n).joined) :
    takeJoin n s i = formCheck (s.updGroup n fun g => { g with joined := (s.groupAt n).joined ++ [i.chip] }) n := by
  unfold takeJoin
  dsimp only
  rw [if_neg (by simp [hst, hlead]), if_neg (by simp [hagrees]), if_neg hnew]

/-! ### PLAN and DISBAND -/

theorem exec_plan (hhost : hostUp s = true) (hchip : s.power.chip = 0) (hn : n < 16) (proposed : List Nat) :
    exec (.plan n proposed) s = .next (planGroup s n) :=
  congrArg Host.Outcome.next (hostGroup_acts hhost hchip hn planGroup)

theorem exec_disband (hhost : hostUp s = true) (hchip : s.power.chip = 0) (hn : n < 16) :
    exec (.disband n) s = .next (disbandGroup s n) :=
  congrArg Host.Outcome.next (hostGroup_acts hhost hchip hn disbandGroup)

/-- Request and plan record of a cell (R233). -/
def planArea (s : State) (g : Group) (gx gy : Nat) (cells : List Nat) (k : Nat) : List Byte :=
  vaRead s g.context g.plan 64 ++ planRecord (vaRead s g.context g.plan 64) gx gy cells g.planGen.toNat k

/-- The state in which the lead has written its own area and entry. -/
def planned (s : State) (n gx gy : Nat) (cells : List Nat) : State :=
  State.updGroup (vaWrite s (s.groupAt n).context (s.groupAt n).plan (planArea s (s.groupAt n) gx gy cells 0)) n fun g =>
    { g with cells := cells, gx := gx, gy := gy, planGen := g.planGen + 1, reason := stDone, partials := [] }

/-- Each other member is sent its own area. -/
def planSent (s : State) (n : Nat) (area : Nat → List Byte) (l : List (Nat × Nat)) : State :=
  l.foldl (fun t e => sendGroup t n [e.1] (.group (.plan (area e.2)))) s

theorem planGroup_chosen {gx gy : Nat} {cells : List Nat} (hmay : mayPlan s (s.groupAt n) = true)
    (hread : rangeStop s (s.groupAt n).context (s.groupAt n).plan 64 false = none)
    (hwrite : rangeStop s (s.groupAt n).context (s.groupAt n).plan 128 true = none)
    (hstatus : planStatus (vaRead s (s.groupAt n).context (s.groupAt n).plan 64) = none)
    (hchosen : choosePlan s (s.groupAt n) (vaRead s (s.groupAt n).context (s.groupAt n).plan 64) = some (gx, gy, cells)) :
    planGroup s n = planSent (planned s n gx gy cells) n (planArea s (s.groupAt n) gx gy cells) (cells.zipIdx.drop 1) := by
  unfold planGroup
  dsimp only
  rw [if_neg (by simp [hmay]), hread, hwrite]
  dsimp only [Option.or]
  rw [hstatus]
  dsimp only
  rw [hchosen]
  rfl

theorem setLevel_fab (s : State) (l : Level) (m : Memory) : (setLevel s l m).fab = s.fab := by
  cases l <;> rfl

theorem vaWrite_fab (s : State) (c va : Nat) (bs : List Byte) : (vaWrite s c va bs).fab = s.fab := by
  refine foldl_part State.fab (fun t p => ?_) _ s
  unfold pieceWrite
  split
  · exact setLevel_fab ..
  · rfl

theorem planned_groupAt (hn : n < s.fab.groups.length) (gx gy : Nat) (cells : List Nat) :
    (planned s n gx gy cells).groupAt n = { s.groupAt n with
      cells := cells, gx := gx, gy := gy, planGen := (s.groupAt n).planGen + 1, reason := stDone, partials := [] } := by
  have hfab := vaWrite_fab s (s.groupAt n).context (s.groupAt n).plan (planArea s (s.groupAt n) gx gy cells 0)
  unfold planned
  rw [updGroup_groupAt_same _ _ (by rw [hfab]; exact hn), State.groupAt, hfab]
  rfl

theorem planSent_traffic (s : State) (n : Nat) (area : Nat → List Byte) (l : List (Nat × Nat)) :
    Traffic s (planSent s n area l) :=
  .foldl (fun t (e : Nat × Nat) => sendGroup_traffic t n [e.1] (.group (.plan (area e.2)))) s l

theorem planSent_groupAt (s : State) (n m : Nat) (area : Nat → List Byte) (l : List (Nat × Nat)) :
    (planSent s n area l).groupAt m = s.groupAt m :=
  foldl_part (f := fun t (e : Nat × Nat) => sendGroup t n [e.1] (.group (.plan (area e.2)))) (fun t => t.groupAt m)
    (fun _ _ => sendGroup_groupAt ..) l s

theorem sent_planSent {k : Nat} {msg : FabMsg} (h : Sent s k msg) (n : Nat) (area : Nat → List Byte)
    (l : List (Nat × Nat)) : Sent (planSent s n area l) k msg := by
  unfold planSent
  induction l generalizing s with
  | nil => exact h
  | cons e r ih => exact ih (sent_sendGroup h n [e.1] _)

/-- Every listed chip is sent the area of its cell. -/
theorem planSent_sent (s : State) (n : Nat) (area : Nat → List Byte) {l : List (Nat × Nat)} {e : Nat × Nat}
    (he : e ∈ l) : Sent (planSent s n area l) e.1 (.group (.plan (area e.2))) := by
  induction l generalizing s with
  | nil => cases he
  | cons a r ih =>
    rcases List.mem_cons.1 he with rfl | he
    · exact sent_planSent (sendGroup_sent s n (by simp) _) n area r
    · exact ih _ he

/-! ### Messages of the lead -/

theorem exec_groupMessage (hhears : fabHears s = true) (hchip : s.power.chip = 0) (msg : GroupMsg) :
    exec (.groupMessage n msg) s = .next (takeMessage s n msg) :=
  congrArg Host.Outcome.next (controlStep_of_active hhears hchip _)

end

/-! ### The statement -/

/-- Settles O41: each event is an update of the group's entry, and messages that leave every entry as it is. -/
theorem groupsFormAndPlan : Obligations.GroupsFormAndPlan := by
  unfold Obligations.GroupsFormAndPlan
  intro s n hn hn16 g others
  refine ⟨fun hhost hchip => ⟨fun hst hstatus hlead hread => ?_, fun st hst hstatus => ?_,
      fun gx gy cells proposed hmay hread hwrite hstatus hchosen => ?_, fun hst => ?_⟩, fun i hhears hchip hst => ?_,
    fun i hhears hst hlead hchip hagrees hnew => ?_, fun hhears hchip hst => ⟨?_, fun st => ?_⟩⟩
  · have harmed : (armed s n).groupAt n = { g with
        st := 1, reason := stDone, joined := [], members := listRead s n, early := [] } := updGroup_groupAt_same s _ hn
    have hjoined : ((armed s n).updGroup n fun g => { g with joined := [s.fab.chip] }).groupAt n = { g with
        st := 1, reason := stDone, joined := [s.fab.chip], members := listRead s n, early := [] } := by
      rw [updGroup_groupAt_same _ _ (by simpa [armed, State.updGroup] using hn), harmed]
    have hexec := (exec_arm hhost hchip hn16).trans (congrArg Host.Outcome.next (armGroup_member hst hstatus hlead hread))
    refine ⟨_, hexec, sameMemories_trans (sendGroup_traffic ..).memories ⟨rfl, rfl, rfl⟩, ?_, ?_, ?_,
      joinInfo (armed s n) ((armed s n).groupAt n), sendGroup_sent _ n (by simp [g]) _, rfl, ?_⟩
    · rw [sendGroup_groupAt, hjoined]
    · rw [sendGroup_groupAt, hjoined]
    · rw [sendGroup_groupAt, hjoined]; rfl
    · rw [sendGroup_groupAt, hjoined, harmed]; rfl
  · exact ⟨_, (exec_arm hhost hchip hn16).trans (congrArg Host.Outcome.next (armGroup_refused hst hstatus)),
      ⟨rfl, rfl, rfl⟩, updGroup_groupAt_same s _ hn⟩
  · have hexec := (exec_plan hhost hchip hn16 proposed).trans
      (congrArg Host.Outcome.next (planGroup_chosen hmay hread hwrite hstatus hchosen))
    have hgroup := (planSent_groupAt (planned s n gx gy cells) n n (planArea s (s.groupAt n) gx gy cells)
      (cells.zipIdx.drop 1)).trans (planned_groupAt hn gx gy cells)
    refine ⟨_, hexec, sameMemories_trans (planSent_traffic ..).memories ⟨rfl, rfl, rfl⟩, ?_, ?_, ?_, ?_, ?_,
      fun e he => planSent_sent _ n _ he⟩
    all_goals rw [hgroup]
  · exact ⟨_, (exec_disband hhost hchip hn16).trans (congrArg Host.Outcome.next (if_neg hst)), ⟨rfl, rfl, rfl⟩,
      updGroup_groupAt_same s _ hn⟩
  · exact ⟨_, (exec_join hhears hchip i).trans (congrArg Host.Outcome.next (if_pos hst)), ⟨rfl, rfl, rfl⟩,
      updGroup_groupAt_same s _ hn⟩
  · have hforming : (s.groupAt n).st ≠ 0 := by rw [show (s.groupAt n).st = 1 from hst]; decide
    have hexec := (exec_join hhears hchip i).trans (congrArg Host.Outcome.next
      ((if_neg hforming).trans (takeJoin_agreed hst hlead hagrees hnew)))
    have hjoined : (s.updGroup n fun g => { g with joined := (s.groupAt n).joined ++ [i.chip] }).groupAt n =
        { g with joined := g.joined ++ [i.chip] } := updGroup_groupAt_same s _ hn
    refine ⟨fun hmissing => ?_, fun hlast hknown => ?_⟩
    · rw [formCheck_waits (by rw [hjoined]; exact hst) (by rw [hjoined]; exact hlead)
        (by rw [hjoined]; exact joinAgrees_clean hagrees)] at hexec
      · exact ⟨_, hexec, ⟨rfl, rfl, rfl⟩, rfl, hjoined⟩
      · rw [hjoined]
        rintro ⟨hlength, hall⟩
        rcases hmissing with hlen | ⟨m, hm, hunknown⟩
        · exact hlen (by simpa using hlength)
        · exact hunknown (hall m hm)
    · rw [formCheck_assembled (by rw [hjoined]; exact hst) (by rw [hjoined]; exact hlead)
        (by rw [hjoined]; exact joinAgrees_clean hagrees)
        (by rw [hjoined]; exact ⟨by simpa using hlast, hknown⟩)] at hexec
      have hactive : (State.updGroup (s.updGroup n fun g => { g with joined := (s.groupAt n).joined ++ [i.chip] }) n
          fun g => { g with st := 2, reason := stDone }).groupAt n =
          { g with joined := g.joined ++ [i.chip], st := 2, reason := stDone } := by
        rw [updGroup_groupAt_same _ _ (by simpa [State.updGroup] using hn), hjoined]
      refine ⟨_, hexec, sameMemories_trans (sendGroup_traffic ..).memories ⟨rfl, rfl, rfl⟩,
        fun k hk hother => ?_, ?_⟩
      · exact sendGroup_sent _ n (by rw [hactive]; exact mem_otherMembers hk hother) _
      · rw [sendAll, sendGroup_groupAt, hactive]
  · exact ⟨_, (exec_groupMessage hhears hchip .active).trans (congrArg Host.Outcome.next (if_pos hst)),
      ⟨rfl, rfl, rfl⟩, updGroup_groupAt_same s _ hn⟩
  · exact ⟨_, (exec_groupMessage hhears hchip (.failed st)).trans (congrArg Host.Outcome.next (if_pos (.inl hst))),
      ⟨rfl, rfl, rfl⟩, updGroup_groupAt_same s _ hn⟩

end Sys2Proof.Laws
end

section
/-! The traffic of a group whose run has not started on this chip, and the loss of a member: O42. -/

namespace Sys2Proof.Laws

open Sys2Proof.Machine Sys2Proof.Safety

/-! ### What the RUNs of a group are read from -/

/-- RUNs, and the work that each of them has on its cores or in its context's save area, are the same. -/
structure RunsAlike (s t : State) : Prop where
  runs : t.runs = s.runs
  works : ∀ r c, runWork t r c = runWork s r c

section
variable {s t u : State} {n : Nat}

theorem RunsAlike.trans (h : RunsAlike s t) (k : RunsAlike t u) : RunsAlike s u :=
  ⟨k.runs.trans h.runs, fun r c => (k.works r c).trans (h.works r c)⟩

theorem RunsAlike.of_saves (hruns : t.runs = s.runs) (hcores : t.cores = s.cores)
    (hsaves : ∀ c, (t.ctxAt c).saves = (s.ctxAt c).saves) : RunsAlike s t :=
  ⟨hruns, fun r c => by unfold runWork State.workAt State.coreAt; rw [hcores, hsaves]⟩

theorem updGroup_runsAlike (s : State) (n : Nat) (f : Group → Group) : RunsAlike s (s.updGroup n f) :=
  .of_saves rfl rfl fun _ => rfl

theorem raiseEvent_runsAlike (s : State) (b : Nat) : RunsAlike s (raiseEvent s b) :=
  .of_saves (raiseEvent_runs s b) (raiseEvent_cores s b) fun c => by rw [State.ctxAt, raiseEvent_ctxs]; rfl

theorem sendGroup_groups (s : State) (g : Nat) (chips : List Nat) (msg : FabMsg) :
    (sendGroup s g chips msg).fab.groups = s.fab.groups := by
  rw [sendGroup_fab]

/-- Messages of a group change what their context is charged, and no save area. -/
theorem sendGroup_runsAlike (s : State) (g : Nat) (chips : List Nat) (msg : FabMsg) :
    RunsAlike s (sendGroup s g chips msg) := by
  have hsends : RunsAlike s (sendFabs s chips msg) := by
    rw [(sendFabs_sends s chips msg).frame]
    exact .of_saves rfl rfl fun _ => rfl
  refine hsends.trans (.of_saves rfl rfl fun c => ?_)
  by_cases hc : c = ((sendFabs s chips msg).groupAt g).context
  · rw [hc]
    unfold sendGroup chargeLink
    rw [updCtx_ctxAt_same]
    rfl
  · unfold sendGroup chargeLink
    rw [updCtx_ctxAt_other _ _ hc]

theorem groupRun_alike (h : RunsAlike s t) (n : Nat) : groupRun t n = groupRun s n := by
  unfold groupRun
  rw [h.runs]

theorem waitingRun_alike (h : RunsAlike s t) (hctx : (t.groupAt n).context = (s.groupAt n).context) :
    waitingRun t n = waitingRun s n := by
  simp only [waitingRun, h.runs, h.works, hctx]

/-- Where no RUN waits for a group, what comes for it changes nothing else. -/
theorem groupGoesOn_of_none (h : waitingRun s n = none) : groupGoesOn s n = s := by
  rw [groupGoesOn, h]

/-! ### Messages that are kept -/

/-- An entry changed in what it keeps, its context not: no RUN waits for it still. -/
theorem waitingRun_updGroup {f : Group → Group} (hn : n < s.fab.groups.length) (h : waitingRun s n = none)
    (hf : (f (s.groupAt n)).context = (s.groupAt n).context) : waitingRun (s.updGroup n f) n = none := by
  rw [waitingRun_alike (updGroup_runsAlike s n f) (by rw [updGroup_groupAt_same s f hn, hf]), h]

theorem groupRun_updGroup (s : State) (n : Nat) (f : Group → Group) : groupRun (s.updGroup n f) n = groupRun s n := rfl

/-- An easement message whose command has not started here is kept (R238). -/
theorem exec_fabricEasement_kept (hrun : groupRun s n = none) (hhears : fabHears s = true) {m : FabEasement}
    (hopen : slabOpen (s.groupAt n) = true) (hid : m.groupId = bitsOf (s.groupAt n).ctrl.toNat 63 48) (hdir : m.dir < 8)
    (hreplica : m.replica < 64) :
    exec (.fabricEasement n m) s = .next (s.updGroup n fun g => { g with easements := keepBand g.easements m }) := by
  refine congrArg Host.Outcome.next ((if_neg ?_).trans (by rw [hrun]; rfl))
  simp [hhears, hopen, hid, hdir, hreplica]

/-- The first image of a child cell's step joins the images of the others (R239). -/
theorem exec_tallyPartial_joined (hn : n < s.fab.groups.length) (hrun : groupRun s n = none) (hhears : fabHears s = true)
    {step replica cell : Nat} (image : List Byte) (hopen : slabOpen (s.groupAt n) = true)
    (hcell : cell ∈ childCells (s.groupAt n) (ownCell s (s.groupAt n))) (hwait : waitingRun s n = none)
    (hfirst : ∀ e, e ∈ (s.groupAt n).partials → ¬ (e.1 = step ∧ e.2.1 = replica ∧ e.2.2.1 = cell)) :
    exec (.tallyPartial n step replica cell image) s = .next (s.updGroup n fun g => { g with
      partials := (s.groupAt n).partials ++ [(step, replica, cell, guardedValue image)] }) := by
  have hold : (s.groupAt n).partials.filter (fun e => decide (e.1 ≠ step ∨ e.2.1 ≠ replica ∨ e.2.2.1 ≠ cell)) =
      (s.groupAt n).partials := by
    refine List.filter_eq_self.2 fun e he => decide_eq_true ?_
    have h := hfirst e he
    tauto
  refine congrArg Host.Outcome.next ((if_neg ?_).trans ?_)
  · simp [hhears, hopen, hcell]
  · dsimp only
    rw [hold, groupGoesOn_of_none (waitingRun_updGroup hn hwait rfl), groupRun_updGroup, hrun]

/-- Tallies of the lead, on a chip that is not the lead, are kept (R239). -/
theorem exec_tallyBroadcast_kept (hrun : groupRun s n = none) (hhears : fabHears s = true) (step : Nat)
    (tallies : List (List Byte)) (hopen : slabOpen (s.groupAt n) = true) (hlead : (s.groupAt n).lead ≠ s.fab.chip) :
    exec (.tallyBroadcast n step tallies) s = .next (s.updGroup n fun g => { g with
      broadcast := g.broadcast ++ [(step, tallies)] }) := by
  refine congrArg Host.Outcome.next ((if_neg ?_).trans ?_)
  · simp [hhears, hopen, hlead]
  · dsimp only
    rw [groupRun_updGroup, hrun]

/-- A digest of a command whose start has come is kept (R249). -/
theorem exec_lockstepDigest_kept (hrun : groupRun s n = none) (hhears : fabHears s = true) (hchip : s.power.chip = 0)
    (step digest : Nat) (parcels : List Nat) (hkind : (s.groupAt n).kind = 1)
    (hst : (s.groupAt n).st = 2 ∨ (s.groupAt n).st = 3) (hstart : (presentStart (s.groupAt n)).isSome = true) :
    exec (.lockstepDigest n step digest parcels) s = .next (s.updGroup n fun g => { g with
      peerDigests := g.peerDigests ++ [(step, digest, parcels)], peerUpto := max g.peerUpto (step + 1) }) := by
  have hbegun : groupBegun s n = true := by simp [groupBegun, hstart]
  refine congrArg Host.Outcome.next ((controlStep_of_active hhears hchip _).trans ((if_neg ?_).trans ?_))
  · rcases hst with hst | hst <;> simp [hkind, hst, hbegun]
  · rw [groupRun_updGroup, hrun]

/-! ### The loss of a member -/

theorem groupStopping_of_none (hrun : groupRun s n = none) (st : Status) : groupStopping s n st = false := by
  rw [groupStopping, hrun]

/-- The state in which a group has told its other members of a loss, and has failed (R232, R244). -/
def lossPassedOn (s : State) (n : Nat) (lost : Option Nat) : State :=
  (sendStop s n stLinkLost lost).updGroup n fun g => { g with st := 4, reason := stLinkLost }

/-- A group without a run on this chip fails at once (R244). -/
theorem groupStop_sendStop (hn : n < s.fab.groups.length) (hrun : groupRun s n = none) (hwait : waitingRun s n = none)
    (lost : Option Nat) : groupStop (sendStop s n stLinkLost lost) n stLinkLost = lossPassedOn s n lost := by
  have hsent : RunsAlike s (sendStop s n stLinkLost lost) := sendGroup_runsAlike ..
  have hgroups : (sendStop s n stLinkLost lost).fab.groups = s.fab.groups :=
    sendGroup_groups ..
  have hgroup : (sendStop s n stLinkLost lost).groupAt n = s.groupAt n := sendGroup_groupAt ..
  have hwaiting : waitingRun (lossPassedOn s n lost) n = none :=
    waitingRun_updGroup (by rw [hgroups]; exact hn) ((waitingRun_alike hsent (by rw [hgroup])).trans hwait) rfl
  unfold groupStop
  rw [groupRun_alike hsent, hrun]
  dsimp only
  rw [if_pos rfl]
  exact groupGoesOn_of_none hwaiting

/-- The state in which the loss of a direct partner has been told to the outside (R223). -/
def partnerTold (s : State) (chip : Nat) : State :=
  if directPartner s chip then raiseEvent (s.emit (.partnerLostEvent false chip)) evPartnerLost else s

theorem partnerTold_fab (s : State) (chip : Nat) : (partnerTold s chip).fab = s.fab := by
  unfold partnerTold
  split
  · rw [raiseEvent_fab]; rfl
  · rfl

theorem partnerTold_groupAt (s : State) (chip n : Nat) : (partnerTold s chip).groupAt n = s.groupAt n := by
  rw [State.groupAt, partnerTold_fab]; rfl

theorem partnerTold_runsAlike (s : State) (chip : Nat) : RunsAlike s (partnerTold s chip) := by
  unfold partnerTold
  split
  · have h : RunsAlike s (s.emit (.partnerLostEvent false chip)) := .of_saves rfl rfl fun _ => rfl
    exact h.trans (raiseEvent_runsAlike _ _)
  · exact .of_saves rfl rfl fun _ => rfl

theorem partnerTold_traffic (s : State) (chip : Nat) : Traffic s (partnerTold s chip) := by
  unfold partnerTold
  split
  · exact (Sends.emit _ _).toTraffic.trans (raiseEvent_traffic _ _)
  · exact .refl s

theorem partnerTold_out {chip : Nat} (h : directPartner s chip = true) :
    .partnerLostEvent false chip ∈ (partnerTold s chip).out := by
  rw [partnerTold, if_pos h]
  exact (raiseEvent_traffic _ _).mem_out (by simp [State.emit])

/-- A lost member of a group without a run on this chip. -/
theorem memberLost_eq (hn : n < s.fab.groups.length) (hrun : groupRun s n = none) (hwait : waitingRun s n = none)
    (chip : Nat) : memberLost s n chip = lossPassedOn (partnerTold s chip) n (some chip) := by
  have htold := partnerTold_runsAlike s chip
  unfold memberLost
  rw [if_neg (by simp [groupStopping_of_none hrun])]
  exact groupStop_sendStop (s := partnerTold s chip) (by rw [partnerTold_fab]; exact hn)
    ((groupRun_alike htold n).trans hrun) ((waitingRun_alike htold (by rw [partnerTold_groupAt])).trans hwait) (some chip)

/-- What a loss that is passed on leaves: the group failed, and every other member told. -/
theorem lossPassedOn_spec (hn : n < s.fab.groups.length) (lost : Option Nat) :
    SameMemories (lossPassedOn s n lost) s ∧
      (lossPassedOn s n lost).groupAt n = { s.groupAt n with st := 4, reason := stLinkLost } ∧
      (∀ m, m ∈ (s.groupAt n).members → m ≠ s.fab.chip →
        Sent (lossPassedOn s n lost) m (.stopMsg stLinkLost lost)) ∧
      s.out <+: (lossPassedOn s n lost).out := by
  have hgroups : (sendStop s n stLinkLost lost).fab.groups = s.fab.groups :=
    sendGroup_groups ..
  have hgroup : (sendStop s n stLinkLost lost).groupAt n = s.groupAt n := sendGroup_groupAt ..
  have htraffic : Traffic s (sendStop s n stLinkLost lost) := sendGroup_traffic ..
  refine ⟨sameMemories_trans (t := sendStop s n stLinkLost lost) ⟨rfl, rfl, rfl⟩ htraffic.memories, ?_,
    fun m hm hother => ?_, htraffic.out⟩
  · rw [lossPassedOn, updGroup_groupAt_same _ _ (by rw [hgroups]; exact hn), hgroup]
  · exact sendGroup_sent s n (mem_otherMembers hm hother) (.stopMsg stLinkLost lost)

/-- The loss of a member leaves the group failed, every other member told, and so the outside where the member is a direct
partner. -/
theorem memberLost_spec (hn : n < s.fab.groups.length) (hrun : groupRun s n = none) (hwait : waitingRun s n = none)
    (chip : Nat) :
    SameMemories (memberLost s n chip) s ∧
      (memberLost s n chip).groupAt n = { s.groupAt n with st := 4, reason := stLinkLost } ∧
      (∀ m, m ∈ (s.groupAt n).members → m ≠ s.fab.chip →
        Sent (memberLost s n chip) m (.stopMsg stLinkLost (some chip))) ∧
      (directPartner s chip = true → .partnerLostEvent false chip ∈ (memberLost s n chip).out) := by
  rw [memberLost_eq hn hrun hwait]
  obtain ⟨hmem, hgroup, hsent, hout⟩ :=
    lossPassedOn_spec (s := partnerTold s chip) (n := n) (by rw [partnerTold_fab]; exact hn) (some chip)
  rw [partnerTold_groupAt] at hgroup hsent
  rw [partnerTold_fab] at hsent
  exact ⟨sameMemories_trans hmem (partnerTold_traffic s chip).memories, hgroup, hsent,
    fun h => hout.subset (partnerTold_out h)⟩

theorem exec_memberLost {chip : Nat} (hst : (s.groupAt n).st = 3) (hmember : chip ∈ (s.groupAt n).members)
    (hother : chip ≠ s.fab.chip) (hroute : routeTo s chip = none) :
    exec (.memberLost n chip) s = .next (memberLost s n chip) :=
  congrArg Host.Outcome.next (if_neg (by simp [hst, hmember, hother, hroute]))

/-- A STOP with LINK_LOST of an ACTIVE or a RUNNING group whose run has not started here (R244, R246). -/
theorem exec_fabricStop_lost (hn : n < s.fab.groups.length) (hrun : groupRun s n = none) (hwait : waitingRun s n = none)
    (hhears : fabHears s = true) (hchip : s.power.chip = 0) (lost : Option Nat)
    (hst : (s.groupAt n).st = 2 ∨ (s.groupAt n).st = 3) :
    exec (.fabricStop n stLinkLost lost) s = .next (match lost with
      | some chip => memberLost s n chip
      | none => lossPassedOn s n none) := by
  refine congrArg Host.Outcome.next ((controlStep_of_active hhears hchip _).trans ((if_neg ?_).trans ?_))
  · rintro (⟨hrunning, hactive⟩ | hstopping)
    · rcases hst with hst | hst
      · exact hactive ⟨hst, rfl⟩
      · exact hrunning hst
    · rw [groupStopping_of_none hrun] at hstopping
      cases hstopping
  · cases lost with
    | some chip => exact if_pos rfl
    | none => exact groupStop_sendStop hn hrun hwait none

end

/-! ### The statement -/

/-- Settles O42: while no run of the group has started here and none waits, what comes for it is kept in its entry, and a
loss fails it at once and is passed on. -/
theorem groupTrafficCompletes : Obligations.GroupTrafficCompletes := by
  unfold Obligations.GroupTrafficCompletes
  intro s n hn hrun hhears hchip g failed
  refine ⟨fun m hopen hid hdir hreplica => ?_, fun step replica cell image hopen hcell hwait hfirst => ?_,
    fun step tallies hopen hlead => ?_, fun step digest parcels hkind hst hstart => ?_,
    fun hwait => ⟨fun chip hst hmember hother hroute => ?_, fun lost hst => ?_⟩⟩
  · exact ⟨_, exec_fabricEasement_kept hrun hhears hopen hid hdir hreplica, ⟨rfl, rfl, rfl⟩,
      updGroup_groupAt_same s _ hn⟩
  · exact ⟨_, exec_tallyPartial_joined hn hrun hhears image hopen hcell hwait hfirst, ⟨rfl, rfl, rfl⟩,
      updGroup_groupAt_same s _ hn⟩
  · exact ⟨_, exec_tallyBroadcast_kept hrun hhears step tallies hopen hlead, ⟨rfl, rfl, rfl⟩,
      updGroup_groupAt_same s _ hn⟩
  · exact ⟨_, exec_lockstepDigest_kept hrun hhears hchip step digest parcels hkind hst hstart, ⟨rfl, rfl, rfl⟩,
      updGroup_groupAt_same s _ hn⟩
  · obtain ⟨hmem, hgroup, hsent, hout⟩ := memberLost_spec hn hrun hwait chip
    refine ⟨_, exec_memberLost hst hmember hother hroute, hmem, hgroup, hsent, fun c hc hdirect => ?_⟩
    obtain rfl : chip = c := Option.some.inj hc
    exact hout hdirect
  · have hexec := exec_fabricStop_lost hn hrun hwait hhears hchip lost hst
    cases lost with
    | some chip =>
      obtain ⟨hmem, hgroup, hsent, hout⟩ := memberLost_spec hn hrun hwait chip
      refine ⟨_, hexec, hmem, hgroup, hsent, fun c hc hdirect => ?_⟩
      obtain rfl : chip = c := Option.some.inj hc
      exact hout hdirect
    | none =>
      obtain ⟨hmem, hgroup, hsent, -⟩ := lossPassedOn_spec hn none
      exact ⟨_, hexec, hmem, hgroup, hsent, fun c hc => nomatch hc⟩

end Sys2Proof.Laws
end

section
/-! The entropy sources, the conditioner and the DRBG: O43. -/

namespace Sys2Proof.Laws

open Sys2Proof.Machine Sys2Proof.Safety

/-! ### Sources -/

theorem listUpd_listUpd {α : Type} (l : List α) (i : Nat) (f g : α → α) :
    listUpd (listUpd l i f) i g = listUpd l i (g ∘ f) := by
  induction l generalizing i with
  | nil => rfl
  | cons x r ih =>
    cases i with
    | zero => rfl
    | succ n => exact congrArg (x :: ·) (ih n)

/-- A change at one place takes at most one entry out of a selection. -/
theorem countP_le_listUpd {α : Type} (p : α → Bool) (l : List α) (i : Nat) (f : α → α) :
    l.countP p ≤ (listUpd l i f).countP p + 1 := by
  induction l generalizing i with
  | nil => exact Nat.zero_le _
  | cons x r ih =>
    cases i with
    | zero =>
      simp only [listUpd, List.countP_cons]
      split_ifs <;> omega
    | succ n =>
      have := ih n
      simp only [listUpd, List.countP_cons]
      omega

section
variable (r : Rng) {i : Nat}

theorem updSrc_src_same (f : Source → Source) (h : i < r.sources.length) : (r.updSrc i f).src i = f (r.src i) :=
  listUpd_getD_same _ _ _ f h

theorem updSrc_updSrc (f g : Source → Source) : (r.updSrc i f).updSrc i g = r.updSrc i (g ∘ f) := by
  rw [Rng.updSrc, Rng.updSrc, Rng.updSrc, listUpd_listUpd]

theorem unlatched_le_updSrc (f : Source → Source) : r.unlatched ≤ (r.updSrc i f).unlatched + 1 := by
  simp only [Rng.unlatched, ← List.countP_eq_length_filter]
  exact countP_le_listUpd _ _ _ f

end

/-! ### Health tests -/

/-- A source has the standing of another: its tests may have moved on, but nothing has passed, failed or latched since
(R261 to R263). -/
structure SameStanding (x y : Source) : Prop where
  latched : x.latched = y.latched
  passed : x.passed = y.passed
  retest : x.retest = y.retest
  consec : x.consec = y.consec

theorem SameStanding.trans {x y z : Source} (h : SameStanding x y) (k : SameStanding y z) : SameStanding x z where
  latched := h.latched.trans k.latched
  passed := h.passed.trans k.passed
  retest := h.retest.trans k.retest
  consec := h.consec.trans k.consec

theorem closeWindow_standing (x : Source) : SameStanding (closeWindow x) x := by
  unfold closeWindow
  split <;> exact ⟨rfl, rfl, rfl, rfl⟩

theorem windowStep_standing (x : Source) (b : Bool) : SameStanding (windowStep x b) x :=
  .trans (y := closeWindow x) ⟨rfl, rfl, rfl, rfl⟩ (closeWindow_standing x)

theorem rctStep_standing (x : Source) (b : Bool) : SameStanding (rctStep x b).1 x := by
  unfold rctStep
  dsimp only
  split_ifs <;> exact ⟨rfl, rfl, rfl, rfl⟩

theorem aptStep_standing (x : Source) (b : Bool) : SameStanding (aptStep x b).1 x := by
  unfold aptStep
  dsimp only
  split_ifs <;> exact ⟨rfl, rfl, rfl, rfl⟩

theorem testSample_standing (x : Source) (b : Bool) : SameStanding (testSample x b).1 x :=
  (aptStep_standing _ b).trans ((rctStep_standing _ b).trans (windowStep_standing x b))

@[simp] theorem cleanPass_latched (x : Source) : (cleanPass x).latched = x.latched := by
  unfold cleanPass
  split <;> rfl

@[simp] theorem cleanPass_retest (x : Source) : (cleanPass x).retest = x.retest := by
  unfold cleanPass
  split <;> rfl

/-- The third failure in a row latches (R263). -/
theorem failSource_latched {x : Source} (h : x.latched = false) (retest : Bool) :
    (failSource x retest).latched = decide (2 ≤ x.consec) := by
  simp only [failSource, freshTest, h, Bool.false_or, decide_eq_decide]
  omega

/-! ### The conditioner's block -/

/-- Filling the block moves bits alone. -/
theorem fillBlock_frame (fuel : Nat) (r : Rng) : fillBlock fuel r =
    { r with block := (fillBlock fuel r).block, turn := (fillBlock fuel r).turn, feeds := (fillBlock fuel r).feeds } := by
  induction fuel generalizing r with
  | zero => rfl
  | succ k ih =>
    unfold fillBlock
    dsimp only
    split
    · rfl
    · split
      · rw [ih]
      · split
        · rfl
        · rw [ih]

/-- The bit that the source gives whose turn it is goes to the block (R257). -/
theorem fillBlock_succ {fuel : Nat} {r : Rng} {b : Bool} {rest : List Bool} (hroom : r.block.length < 512)
    (hlatched : (r.src r.turn).latched = false) (hretest : (r.src r.turn).retest = false)
    (hfeed : r.feeds.getD r.turn [] = b :: rest) : fillBlock (fuel + 1) r = fillBlock fuel
      { r with block := r.block ++ [b], turn := (r.turn + 1) % 8, feeds := listUpd r.feeds r.turn fun _ => rest } := by
  rw [fillBlock, if_neg (Nat.not_le.mpr hroom)]
  dsimp only
  rw [if_neg (by simp [hlatched, hretest]), hfeed]

/-- With no sample that waits, the block stays. -/
theorem fillBlock_block_of_empty (fuel : Nat) {r : Rng} (h : ∀ j, r.feeds.getD j [] = []) :
    (fillBlock fuel r).block = r.block := by
  induction fuel generalizing r with
  | zero => rfl
  | succ k ih =>
    unfold fillBlock
    dsimp only
    split
    · rfl
    · split
      · exact ih h
      · rw [h]

theorem feedSample_frame (r : Rng) (i : Nat) (b : Bool) : feedSample r i b =
    { r with
      block := (feedSample r i b).block, turn := (feedSample r i b).turn, feeds := (feedSample r i b).feeds } := by
  unfold feedSample
  rw [fillBlock_frame]

theorem feedSample_src (r : Rng) (i j : Nat) (b : Bool) : (feedSample r i b).src j = r.src j := by
  rw [feedSample_frame]
  rfl

theorem feedSample_st (r : Rng) (i : Nat) (b : Bool) : (feedSample r i b).st = r.st := by
  rw [feedSample_frame]

theorem feedSample_drbg (r : Rng) (i : Nat) (b : Bool) : (feedSample r i b).drbg = r.drbg := by
  rw [feedSample_frame]

/-- At its source's turn, with no sample ahead of it, a sample goes to the block (R257). -/
theorem feedSample_block {r : Rng} {i : Nat} (b : Bool) (hturn : r.turn = i) (hroom : r.block.length < 512)
    (hlatched : (r.src i).latched = false) (hretest : (r.src i).retest = false) (hi : i < r.feeds.length)
    (hfeeds : ∀ j, r.feeds.getD j [] = []) : (feedSample r i b).block = r.block ++ [b] := by
  subst hturn
  have hfeed : (listUpd r.feeds r.turn (fun l => l ++ [b])).getD r.turn [] = [b] := by
    rw [listUpd_getD_same _ _ _ _ hi, hfeeds, List.nil_append]
  have htaken : ∀ j, (listUpd (listUpd r.feeds r.turn (fun l => l ++ [b])) r.turn (fun _ => [])).getD j [] = [] := by
    intro j
    rw [listUpd_listUpd]
    by_cases hj : j = r.turn
    · subst hj; exact listUpd_getD_same _ _ _ _ hi
    · rw [listUpd_getD_other _ _ _ hj, hfeeds]
  have hgiven := fillBlock_succ (fuel := 15) (r := { r with feeds := listUpd r.feeds r.turn (fun l => l ++ [b]) })
    hroom hlatched hretest hfeed
  exact (congrArg Rng.block hgiven).trans (fillBlock_block_of_empty 15 htaken)

/-- Fewer than three blocks are kept: a reseed takes three, an instantiation four (R258). -/
theorem useBlocks_few {s : State} (hfew : s.rng.blocks.length < 3) : useBlocks s = s := by
  unfold useBlocks
  dsimp only
  rw [if_neg (by omega)]
  split
  · exact if_neg (by omega)
  · rfl

/-! ### Samples -/

/-- A failure in READY leaves FAULT, with nothing of what READY had (R262). -/
theorem faultAfter_ready {r : Rng} (h : r.st = 2) : faultAfter r = { r.erase with st := 3 } := if_pos h

section
variable {s : State} {i : Nat} {b : Bool}

section
variable (hruns : rngRuns s = true) (hi : i < 8) (hset : s.rng.settled = true)
include hruns hi hset

/-- Where the sources run, a sample has an effect in every state but OFF. -/
theorem sample_counts (hst : s.rng.st ≠ 0) :
    ¬ (8 ≤ i ∨ s.rng.st = 0 ∨ s.rng.settled = false ∨ rngRuns s = false) := by
  simp [hi, hst, hset, hruns]

/-- A sample in READY that no test fails (R257). -/
theorem sampleStep_clean (hst : s.rng.st = 2) (hlatched : (s.rng.src i).latched = false)
    (hpassed : (s.rng.src i).passed = true) (hretest : (s.rng.src i).retest = false)
    (htest : (testSample (s.rng.src i) b).2 = false) :
    sampleStep s i b =
      s.setRng (feedSample (s.rng.updSrc i fun _ => cleanPass (testSample (s.rng.src i) b).1) i b) := by
  have hmerge := updSrc_updSrc s.rng (i := i) (fun _ => (testSample (s.rng.src i) b).1) cleanPass
  exact (if_neg (sample_counts hruns hi hset (by omega))).trans <|
    (if_neg (by omega)).trans <| (if_neg (by simp [hlatched])).trans <| (if_neg (by simp [htest])).trans <|
    (if_neg (by simp [hpassed, hretest])).trans <|
    congrArg s.setRng <| (if_neg (by omega)).trans <| congrArg (feedSample · i b) hmerge

/-- A sample in READY that a test fails (R262). -/
theorem sampleStep_failed (hst : s.rng.st = 2) (hlatched : (s.rng.src i).latched = false)
    (hpassed : (s.rng.src i).passed = true) (htest : (testSample (s.rng.src i) b).2 = true) :
    sampleStep s i b = afterFailure (s.setRng { (s.rng.updSrc i fun _ =>
      failSource (testSample (s.rng.src i) b).1 true).erase with st := 3 }) i false := by
  have hmerge := updSrc_updSrc s.rng (i := i) (fun _ => (testSample (s.rng.src i) b).1) (failSource · true)
  have hstep : sampleStep s i b = _ := (if_neg (sample_counts hruns hi hset (by omega))).trans <|
    (if_neg (by omega)).trans <| (if_neg (by simp [hlatched])).trans (if_pos htest)
  rw [hstep, hpassed, hlatched]
  dsimp only
  rw [Bool.true_or, if_pos (.inl rfl), hmerge]
  exact congrArg (fun r => afterFailure (s.setRng r) i false) (faultAfter_ready hst)

/-- A sample in RAW_TAP that no test fails (R263, R269). -/
theorem sampleStep_tapped (hst : s.rng.st = 4) (hpassed : (s.rng.src i).passed = true)
    (hretest : (s.rng.src i).retest = false) (htest : (testSample (s.rng.src i) b).2 = false) :
    sampleStep s i b =
      (let r := s.rng.updSrc i fun _ => cleanPass (testSample (s.rng.src i) b).1
       s.setRng (if i = s.rng.tapSrc then
         (if s.rng.fifo.length < 4096 then { r with fifo := s.rng.fifo ++ [b] } else { r with overrun := true })
         else r)) := by
  have hmerge := updSrc_updSrc s.rng (i := i) (fun _ => (testSample (s.rng.src i) b).1) cleanPass
  have hstep : sampleStep s i b = _ := (if_neg (sample_counts hruns hi hset (by omega))).trans (if_pos hst)
  rw [hstep, if_pos (by simp [htest, hpassed, hretest]), hmerge]
  rfl

end

/-- A failure after which four sources remain is logged at most (R263). -/
theorem afterFailure_of_unlatched (h : 4 ≤ s.rng.unlatched) (w : Bool) :
    (afterFailure s i w).rng = s.rng ∧ SameMemories (afterFailure s i w) s := by
  unfold afterFailure
  dsimp only
  split_ifs with hlog hfew hfew
  · exact absurd hfew.1 (Nat.not_lt.mpr h)
  · exact ⟨rfl, rfl, rfl, rfl⟩
  · exact absurd hfew.1 (Nat.not_lt.mpr h)
  · exact ⟨rfl, rfl, rfl, rfl⟩

section
variable (hruns : rngRuns s = true) (hi : i < 8) (hset : s.rng.settled = true)
include hruns hi hset

/-- Where five sources were left, a failure in READY leaves FAULT (R262, R263). -/
theorem sampleStep_fault (hst : s.rng.st = 2) (hlatched : (s.rng.src i).latched = false)
    (hpassed : (s.rng.src i).passed = true) (htest : (testSample (s.rng.src i) b).2 = true) (hmany : 5 ≤ s.rng.unlatched) :
    (sampleStep s i b).rng =
        { (s.rng.updSrc i fun _ => failSource (testSample (s.rng.src i) b).1 true).erase with st := 3 } ∧
      SameMemories (sampleStep s i b) s := by
  have hleft := unlatched_le_updSrc s.rng (i := i) fun _ => failSource (testSample (s.rng.src i) b).1 true
  rw [sampleStep_failed hruns hi hset hst hlatched hpassed htest]
  refine afterFailure_of_unlatched ?_ false
  exact Nat.le_of_succ_le_succ (hmany.trans hleft)

end

end

/-! ### RAW_TAP -/

/-- RAW_TAP is left for STARTUP while four sources remain, and each begins its start-up test (R261, R269). -/
theorem exitRawTap_startup {s : State} (hst : s.rng.st = 4) (hmany : 4 ≤ s.rng.unlatched) :
    exitRawTap s = s.setRng { s.rng with
      st := 1, rawTap := false
      sources := s.rng.sources.map fun x => { freshTest x with passed := false, retest := false } } := by
  have hsame : ∀ l : List Source, ((l.map fun x => { freshTest x with passed := false, retest := false }).filter
      fun x => !x.latched).length = (l.filter fun x => !x.latched).length := by
    intro l
    rw [List.filter_map, List.length_map]
    rfl
  unfold exitRawTap
  rw [if_neg (not_not.mpr hst)]
  exact if_neg (Nat.not_lt.mpr (hmany.trans_eq (hsame _).symm))

/-! ### Reads of RNG_DATA and RNG_RAW -/

theorem readRngData_ready {s : State} {k v n : Nat} (hst : s.rng.st = 2) (hdrbg : s.rng.drbg = some (k, v, n)) :
    readRngData s = (s.setRng (s.rng.afterGenerate (drbgGenerate 4 (k, v)).2 n),
      BitVec.ofNat 64 (leNat (toBytes (drbgGenerate 4 (k, v)).1))) := by
  rw [readRngData, hst, hdrbg]
  rfl

theorem readRngData_blocked {s : State} (hst : s.rng.st ≠ 2) :
    readRngData s = (s, BitVec.ofNat 64 (s.rng.blockStatus.toNat * 2 ^ 32)) := by
  unfold readRngData
  split
  · next h _ => exact absurd h hst
  · rfl

theorem bitsByte_cons (b : Bool) (l : List Bool) : bitsByte (b :: l) = Nat.bit b (bitsByte l) := by
  rw [bitsByte, Nat.bit_val, Nat.add_comm]
  cases b <;> rfl

theorem bitsByte_lt (l : List Bool) : bitsByte l < 2 ^ l.length := by
  induction l with
  | nil => exact Nat.one_pos
  | cons b r ih =>
    rw [bitsByte_cons, List.length_cons]
    exact Nat.bit_lt_two_pow_succ_iff.mpr ih

theorem bitsByte_testBit (l : List Bool) (i : Nat) : (bitsByte l).testBit i = l.getD i false := by
  induction l generalizing i with
  | nil => exact Nat.zero_testBit i
  | cons b r ih =>
    rw [bitsByte_cons]
    cases i with
    | zero => exact Nat.testBit_bit_zero b _
    | succ n => exact (Nat.testBit_bit_succ n b _).trans (ih n)

/-- The word that a read of RNG_RAW gives: its samples, their number and OVERRUN (R277). -/
theorem rawWord_fields {got : List Bool} (hgot : got.length ≤ 32) (lost : Bool) {w : Word}
    (hword : w = BitVec.ofNat 64 (bitsByte got + got.length * 2 ^ 32 + bitNat lost * 2 ^ 40)) :
    w.toNat / 2 ^ 32 % 256 = got.length ∧ w.toNat / 2 ^ 40 = bitNat lost ∧
      ∀ i, i < 32 → w.getLsbD i = got.getD i false := by
  have hbits : bitsByte got < 2 ^ 32 := (bitsByte_lt got).trans_le (Nat.pow_le_pow_right (by decide) hgot)
  have hlost : bitNat lost ≤ 1 := by cases lost <;> decide
  have hw : w.toNat = bitsByte got + got.length * 2 ^ 32 + bitNat lost * 2 ^ 40 := by
    rw [hword, BitVec.toNat_ofNat, Nat.mod_eq_of_lt]
    omega
  refine ⟨by omega, by omega, fun i hi => ?_⟩
  have hlow : w.toNat % 2 ^ 32 = bitsByte got := by omega
  rw [← bitsByte_testBit, ← hlow, Nat.testBit_mod_two_pow, decide_eq_true hi, Bool.true_and, BitVec.testBit_toNat]

theorem readRngRaw_tapped {s : State} (hst : s.rng.st = 4) :
    readRngRaw s = (s.setRng { s.rng with fifo := s.rng.fifo.drop 32, overrun := false }, BitVec.ofNat 64
      (bitsByte (s.rng.fifo.take 32) + (s.rng.fifo.take 32).length * 2 ^ 32 + bitNat s.rng.overrun * 2 ^ 40)) := by
  rw [readRngRaw, if_pos hst, if_pos hst]

/-! ### Registers of the block -/

section
variable {s : State} (hhost : hostUp s = true) (hchip : s.power.chip = 0)
include hhost hchip

theorem rngWrite_acts (f : State → State) : rngWrite s f = f s := by
  rw [rngWrite, if_pos hhost, wakeChip_of_active hchip]

theorem rngReadReg_acts (f : State → State × Word) : rngReadReg s f = (f s).1.emit (.value (f s).2) := by
  rw [rngReadReg, if_pos hhost, wakeChip_of_active hchip]

end

/-! ### Requests that time out -/

/-- A RUN whose seed request ends without a seed ends with the status of the RNG's state (R265, R267). -/
theorem endRunWith_findRun {s : State} {k : RunKey} {r : Run} (h : s.findRun k = some r) (hst : r.status = none)
    (st : Status) : (endRunWith (s.updRun k fun q => { q with seedWait := false }) k st).findRun k =
      some { r with seedWait := false, phase := .stopping, status := some st } := by
  have hseed := updRun_findRun h (f := fun q => { q with seedWait := false }) fun _ => rfl
  rw [endRunWith, updRun_findRun hseed fun q => by split <;> rfl, if_pos hst]

/-- The oldest request, a seed's, times out while the RNG is not READY (R265). -/
theorem rngRequestTimeout_seed {s : State} {k : RunKey} {rest : List NoiseFor} (hwait : s.rng.waiting = .seed k :: rest)
    (hst : s.rng.st ≠ 2) : exec .rngRequestTimeout s = .next (endRunWith
      ((s.setRng { s.rng with waiting := rest }).updRun k fun q => { q with seedWait := false }) k s.rng.blockStatus) := by
  have hblocked : s.rng.blockStatus ≠ stDone := by
    unfold Rng.blockStatus
    split_ifs <;> decide
  have hexec : exec .rngRequestTimeout s = execRngRequestTimeout s := rfl
  rw [hexec, execRngRequestTimeout, hwait]
  exact congrArg Host.Outcome.next ((if_neg hst).trans (if_neg hblocked))

/-! ### The statement -/

/-- Settles O43: a sample that counts is one update of its source, beside which the conditioner moves bits alone; a command
of a register of the block acts at once where the chip runs. -/
theorem rngCompletes : Obligations.RngCompletes := by
  unfold Obligations.RngCompletes
  refine ⟨fun s => ⟨
      fun i b hruns hi hlen hst hset hlatched hpassed hretest => ⟨fun htest => ?_, fun htest hmany => ?_⟩,
      fun i b hruns hi hlen hst hset hpassed hretest htest => ?_, fun hruns => ⟨?_, ?_, fun i b => ?_⟩,
      fun i hruns hlen hfull => ?_, fun hruns hfull hst hsome hre hblocks => ?_, fun hruns hst => ?_, fun hst => ?_⟩,
    fun s hhost hchip => ⟨fun hst => ?_, fun hoff hst => ?_, fun hst hmany => ?_, fun n => ?_, fun k v n hst hdrbg => ?_,
      fun hst => ?_, fun hst => ?_⟩, fun s k rest r hwait hst hrun hstatus => ?_⟩
  · have hsrc := updSrc_src_same s.rng (fun _ => cleanPass (testSample (s.rng.src i) b).1) hlen
    have htested := testSample_standing (s.rng.src i) b
    refine ⟨_, congrArg Host.Outcome.next (sampleStep_clean hruns hi hset hst hlatched hpassed hretest htest),
      ⟨rfl, rfl, rfl⟩, (feedSample_src ..).trans hsrc, (feedSample_st ..).trans hst, feedSample_drbg .., ?_⟩
    intro hturn hroom hfeed hempty
    exact feedSample_block b hturn hroom (by rw [hsrc, cleanPass_latched, htested.latched, hlatched])
      (by rw [hsrc, cleanPass_retest, htested.retest, hretest]) hfeed hempty
  · have hsrc := updSrc_src_same s.rng (fun _ => failSource (testSample (s.rng.src i) b).1 true) hlen
    have htested := testSample_standing (s.rng.src i) b
    obtain ⟨hrng, hmem⟩ := sampleStep_fault hruns hi hset hst hlatched hpassed htest hmany
    refine ⟨_, rfl, hmem, ?_⟩
    rw [hrng]
    refine ⟨rfl, rfl, rfl, rfl, ?_, ?_⟩
    · exact (congrArg Source.consec hsrc).trans (by rw [failSource, htested.consec])
    · exact (congrArg Source.latched hsrc).trans
        (by rw [failSource_latched (htested.latched.trans hlatched), htested.consec])
  · have hsrc := updSrc_src_same s.rng (fun _ => cleanPass (testSample (s.rng.src i) b).1) hlen
    refine ⟨_, congrArg Host.Outcome.next (sampleStep_tapped hruns hi hset hst hpassed hretest htest),
      ⟨rfl, rfl, rfl⟩, ?_⟩
    dsimp only [State.setRng]
    by_cases htap : i = s.rng.tapSrc
    · rw [if_pos htap]
      split
      · next hroom => exact ⟨hst, hsrc, fun _ _ => ⟨rfl, rfl⟩, fun _ hfull => absurd hroom (Nat.not_lt.mpr hfull)⟩
      · next hfull => exact ⟨hst, hsrc, fun _ hroom => absurd hroom hfull, fun _ _ => ⟨rfl, rfl⟩⟩
    · rw [if_neg htap]
      exact ⟨hst, hsrc, fun h => absurd h htap, fun h => absurd h htap⟩
  · exact congrArg Host.Outcome.next (if_pos (.inr hruns))
  · exact congrArg Host.Outcome.next (if_neg (by simp [hruns]))
  · exact congrArg Host.Outcome.next (if_pos (.inr (.inr (.inr hruns))))
  · refine ⟨_, congrArg Host.Outcome.next (if_pos hruns), ⟨rfl, rfl, rfl⟩, ?_⟩
    have hsrc : (s.rng.updSrc i closeWindow).src i = _ := (updSrc_src_same s.rng closeWindow hlen).trans (if_pos hfull)
    exact ⟨congrArg Source.winCount hsrc, congrArg Source.est hsrc⟩
  · have hwants : s.rng.wantsBlocks = true := by simp [Rng.wantsBlocks, hst, hre]
    have hexec : exec .conditionerBlock s = .next (useBlocks (s.setRng { s.rng with
        block := [], turn := 0, blocks :=
          if s.rng.wantsBlocks then s.rng.blocks ++ [beVal (condition (s.rng.block.take 512))] else s.rng.blocks })) :=
      congrArg Host.Outcome.next (if_neg (by simp [hruns, hfull]))
    rw [if_pos hwants] at hexec
    refine ⟨_, hexec.trans (congrArg Host.Outcome.next (useBlocks_few ?_)), ⟨rfl, rfl, rfl⟩, rfl, rfl, rfl⟩
    rw [State.setRng, List.length_append, List.length_singleton]
    omega
  · by_cases hset : s.rng.settled = false
    · exact ⟨_, congrArg Host.Outcome.next (if_pos ⟨hruns, hst, hset⟩), ⟨rfl, rfl, rfl⟩, rfl⟩
    · have hset' : s.rng.settled = true := by simpa using hset
      exact ⟨s, congrArg Host.Outcome.next (if_neg fun h => hset h.2.2), ⟨rfl, rfl, rfl⟩, by rw [← hset']⟩
  · exact ⟨_, congrArg Host.Outcome.next (if_pos hst), rfl⟩
  · exact ⟨_, congrArg Host.Outcome.next ((rngWrite_acts hhost hchip _).trans (if_pos hst)), rfl⟩
  · exact ⟨_, congrArg Host.Outcome.next ((rngWrite_acts hhost hchip _).trans (if_neg (by omega))),
      ⟨rfl, rfl, rfl⟩, rfl, rfl, rfl, rfl, rfl, rfl, rfl, rfl⟩
  · refine ⟨_, congrArg Host.Outcome.next ((rngWrite_acts hhost hchip _).trans (exitRawTap_startup hst hmany)),
      ⟨rfl, rfl, rfl⟩, rfl, rfl, fun x hx => ?_⟩
    obtain ⟨y, -, rfl⟩ := List.mem_map.mp hx
    exact ⟨rfl, rfl, rfl, rfl, rfl⟩
  · exact ⟨_, congrArg Host.Outcome.next (rngWrite_acts hhost hchip _), rfl⟩
  · have hread := rngReadReg_acts hhost hchip readRngData
    rw [readRngData_ready hst hdrbg] at hread
    exact ⟨_, congrArg Host.Outcome.next hread, ⟨rfl, rfl, rfl⟩, rfl, rfl⟩
  · have hread := rngReadReg_acts hhost hchip readRngData
    rw [readRngData_blocked hst] at hread
    exact ⟨_, congrArg Host.Outcome.next hread, rfl⟩
  · obtain ⟨hcount, hover, hbits⟩ := rawWord_fields (got := s.rng.fifo.take 32) (by simp) s.rng.overrun rfl
    have hread := rngReadReg_acts hhost hchip readRngRaw
    rw [readRngRaw_tapped hst] at hread
    refine ⟨_, congrArg Host.Outcome.next hread, ⟨rfl, rfl, rfl⟩, rfl, rfl, _, rfl,
      hcount.trans List.length_take, hover, fun j hj => (hbits j hj).trans ?_⟩
    rw [List.getD_eq_getElem?_getD, List.getD_eq_getElem?_getD, List.getElem?_take_of_lt hj]
  · refine ⟨_, rngRequestTimeout_seed hwait hst, ⟨rfl, rfl, rfl⟩, rfl, ?_⟩
    exact endRunWith_findRun (s := s.setRng { s.rng with waiting := rest }) hrun hstatus s.rng.blockStatus

end Sys2Proof.Laws
end

section
/-! Requests of the SPDM responder: O54. -/

namespace Sys2Proof.Laws

open Sys2Proof.Machine Sys2Proof.Safety

/-! ### Connections -/

section
variable (s : State) (p : SpdmPort) (c : Spdm)

@[simp] theorem setConn_conn : (s.setConn p c).conn p = c := by cases p <;> rfl
@[simp] theorem setConn_rng : (s.setConn p c).rng = s.rng := by cases p <;> rfl
@[simp] theorem setConn_out : (s.setConn p c).out = s.out := by cases p <;> rfl
@[simp] theorem setConn_spdmFrom : spdmFrom (s.setConn p c) p = spdmFrom s p := by cases p <;> rfl
@[simp] theorem emit_conn (o : Out) : (s.emit o).conn p = s.conn p := by cases p <;> rfl
@[simp] theorem setRng_conn (r : Rng) : (s.setRng r).conn p = s.conn p := by cases p <;> rfl

theorem setConn_sameMemories : SameMemories (s.setConn p c) s := (setConn_draws s p c).memories

end

theorem ecdsaSign_length (d : Nat) (text noise : List Byte) : (ecdsaSign d text noise).length = 96 := by
  simp only [ecdsaSign, natBe, List.length_append, List.length_reverse, natLe_length]

/-! ### Responses -/

/-- A response has been given, and leaves the connection as given (R476). -/
structure Answered (s t : State) (p : SpdmPort) (code : Nat) (data : List Byte) (c : Spdm) : Prop where
  out : t.out = s.out ++ [.spdm p (spdmFrom s p) code data]
  memories : SameMemories t s
  conn : t.conn p = c

section
variable {s t : State} {p : SpdmPort} {code : Nat} {data : List Byte} {c : Spdm}

theorem Answered.parts (h : Answered s t p code data c) :
    (t.out = s.out ++ [.spdm p (spdmFrom s p) code data] ∧ SameMemories t s) ∧ t.conn p = c :=
  ⟨⟨h.out, h.memories⟩, h.conn⟩

theorem answered_emit (hout : t.out = s.out) (hmem : SameMemories t s) (hconn : t.conn p = c) :
    Answered s (t.emit (.spdm p (spdmFrom s p) code data)) p code data c where
  out := congrArg (· ++ [_]) hout
  memories := hmem
  conn := (emit_conn ..).trans hconn

end

section
variable (s : State) (p : SpdmPort)

theorem spdmSay_answered (c : Spdm) (code : Nat) (data : List Byte) :
    Answered s (spdmSay (s.setConn p c) p code data) p code data c := by
  rw [spdmSay, setConn_spdmFrom]
  exact answered_emit (setConn_out ..) (setConn_sameMemories ..) (setConn_conn ..)

theorem spdmError_answered (code : Byte) : Answered s (spdmError s p code) p 0x7F [code, 0] (s.conn p) :=
  answered_emit rfl (sameMemories_refl s) rfl

end

/-! ### Requests -/

section
variable {s : State} {p : SpdmPort} {stage : Nat} (hup : spdmUp s p = true)
include hup

/-- A connection that has come as far as a request needs, and whose draw does not wait. -/
theorem spdmRequest_body (hbusy : (s.conn p).busy = 0) (hstage : stage ≤ (s.conn p).stage) (body : State) :
    spdmRequest s p stage body = body := by
  rw [spdmRequest, if_neg (by simp [hup]), if_neg (not_not.mpr hbusy), if_neg (Nat.not_lt.mpr hstage)]

theorem spdmRequest_busy (hbusy : (s.conn p).busy ≠ 0) (body : State) :
    spdmRequest s p stage body = spdmError s p 0x03 := by
  rw [spdmRequest, if_neg (by simp [hup]), if_pos hbusy]

theorem spdmRequest_early (hbusy : (s.conn p).busy = 0) (hstage : (s.conn p).stage < stage) (body : State) :
    spdmRequest s p stage body = spdmError s p 0x04 := by
  rw [spdmRequest, if_neg (by simp [hup]), if_neg (not_not.mpr hbusy), if_pos hstage]

end

/-! ### Signed responses -/

/-- What waits stays while the DRBG does not serve (R265). -/
theorem serveWaiting_of_not_serves (fuel : Nat) {s : State} (h : s.rng.serves = none) : serveWaiting fuel s = s := by
  cases fuel with
  | zero => rfl
  | succ k =>
    unfold serveWaiting
    rw [h]
    split
    · next heq => exact nomatch heq
    · rfl

/-- The oldest request that waits is answered with bytes of the DRBG (R264, R265). -/
theorem serveWaiting_cons (fuel : Nat) {s : State} {w : NoiseFor} {rest : List NoiseFor} {key v n : Nat}
    (hwait : s.rng.waiting = w :: rest) (hserves : s.rng.serves = some (key, v, n)) :
    serveWaiting (fuel + 1) s = serveWaiting fuel (answerNoise (s.setRng
      { s.rng.afterGenerate (drbgGenerate (noiseBytes w) (key, v)).2 n with waiting := rest }) w
      (stDone, toBytes (drbgGenerate (noiseBytes w) (key, v)).1)) := by
  rw [serveWaiting, hwait, hserves]

/-- Noise is asked for while the RNG neither serves nor has failed: the request waits (R264, R265). -/
theorem requestNoise_waits {s : State} (hon : s.rng.st ≠ 0) (hready : s.rng.st ≠ 2) (hfailed : s.rng.st ≠ 5)
    (hroom : s.rng.waiting.length < 4096) (w : NoiseFor) : requestNoise s w = s.queueNoise w := by
  rw [requestNoise, if_neg (by omega), if_neg (by omega)]
  exact serveWaiting_of_not_serves _ (if_neg fun h => hready h.1)

/-- A connection whose signed response waits for its nonce (R264). -/
def askedConn (c : Spdm) (kind : Nat) (asked body : List Byte) : Spdm :=
  { c with busy := kind, body := body, asked := asked }

/-- A connection whose signed response has been given: a challenge's covers the certificates, which count anew. -/
def signedConn (c : Spdm) (kind : Nat) : Spdm :=
  { c with busy := 0, body := [], asked := [], meas := [], certs := if kind = 1 then [] else c.certs }

/-- The code of a signed response. -/
def signedCode (kind : Nat) : Nat := if kind = 1 then 0x03 else 0x60

section
variable {s : State} (p : SpdmPort) (kind : Nat) (asked body : List Byte)

theorem spdmSign_waits (hon : s.rng.st ≠ 0) (hready : s.rng.st ≠ 2) (hfailed : s.rng.st ≠ 5)
    (hroom : s.rng.waiting.length < 4096) :
    spdmSign s p kind asked body = (s.setConn p (askedConn (s.conn p) kind asked body)).queueNoise (.security p) := by
  refine requestNoise_waits ?_ ?_ ?_ ?_ (.security p) <;> rwa [setConn_rng]

/-- A state with its connection over a transport and its RNG replaced, in which the given requests wait. -/
def drawing (s : State) (p : SpdmPort) (c : Spdm) (r : Rng) (ws : List NoiseFor) : State :=
  (s.setConn p c).setRng { r with waiting := ws }

section
variable (c : Spdm) (r : Rng) (ws : List NoiseFor)

@[simp] theorem drawing_out : (drawing s p c r ws).out = s.out := setConn_out ..
@[simp] theorem drawing_conn : (drawing s p c r ws).conn p = c := by cases p <;> rfl
@[simp] theorem drawing_spdmFrom : spdmFrom (drawing s p c r ws) p = spdmFrom s p := by cases p <;> rfl
@[simp] theorem drawing_signingKey : signingKey (drawing s p c r ws) = signingKey s := by cases p <;> rfl
@[simp] theorem drawing_setConn (d : Spdm) : (drawing s p c r ws).setConn p d = drawing s p d r ws := by cases p <;> rfl

end

/-- The nonce comes from the DRBG, and the bits of the signature are asked for next (R264). -/
theorem serveWaiting_security (fuel : Nat) (c : Spdm) {r : Rng} {kv : Nat × Nat} {n : Nat} {g : List Nat × (Nat × Nat)}
    (hserves : r.serves = some (kv.1, kv.2, n)) (hg : drbgGenerate 32 kv = g) :
    serveWaiting (fuel + 1) (drawing s p c r [.security p]) =
      serveWaiting fuel (drawing s p { c with body := c.body ++ toBytes g.1 } (r.afterGenerate g.2 n) [.sign p]) := by
  have hanswer : ∀ u bs, answerNoise u (.security p) (stDone, bs) =
      (u.setConn p { u.conn p with body := (u.conn p).body ++ bs }).queueNoise (.sign p) := fun u bs => by
    rw [answerNoise, if_pos rfl]
  subst hg
  rw [serveWaiting_cons fuel (s := drawing s p c r [.security p]) rfl hserves, hanswer]
  cases p <;> rfl

/-- The bits of the signature come from the DRBG, and the response goes out (R264, R478). -/
theorem serveWaiting_sign (c : Spdm) {r : Rng} {kv : Nat × Nat} {n : Nat} {d : List Nat × (Nat × Nat)}
    (hserves : r.serves = some (kv.1, kv.2, n)) (hd : drbgGenerate 64 kv = d) :
    serveWaiting 1 (drawing s p c r [.sign p]) =
      (drawing s p (signedConn c c.busy) (r.afterGenerate d.2 n) []).emit
        (.spdm p (spdmFrom s p) (signedCode c.busy) (c.body ++ ecdsaSign (signingKey s)
          (spdmText c.busy (c.asked ++ spdmMsg 0x12 (signedCode c.busy) 0 0 c.body)) (toBytes d.1))) := by
  have hanswer : ∀ u bs, answerNoise u (.sign p) (stDone, bs) =
      (u.setConn p (signedConn (u.conn p) (u.conn p).busy)).emit (.spdm p (spdmFrom u p) (signedCode (u.conn p).busy)
        ((u.conn p).body ++ ecdsaSign (signingKey u) (spdmText (u.conn p).busy ((u.conn p).asked ++
          spdmMsg 0x12 (signedCode (u.conn p).busy) 0 0 (u.conn p).body)) bs)) := fun u bs => by
    rw [answerNoise, if_pos rfl]
    rfl
  have hdrawn : (drawing s p c r [.sign p]).setRng { r.afterGenerate d.2 n with waiting := [] } =
      drawing s p c (r.afterGenerate d.2 n) [] := rfl
  have hserved := serveWaiting_cons 0 (s := drawing s p c r [.sign p]) rfl hserves
  rw [show drbgGenerate (noiseBytes (.sign p)) (kv.1, kv.2) = d from hd] at hserved
  rw [hserved, serveWaiting]
  refine (congrArg (answerNoise · (.sign p) _) hdrawn).trans ?_
  rw [hanswer, drawing_setConn, drawing_conn, drawing_spdmFrom, drawing_signingKey]

/-- From a DRBG that serves, a signed response takes 32 bytes for its nonce and then 64 for its signature (R264). -/
theorem spdmSign_answered {key v n : Nat} {g d : List Nat × (Nat × Nat)} (hst : s.rng.st = 2)
    (hre : s.rng.reseeding = false) (hdrbg : s.rng.drbg = some (key, v, n)) (hn : n < 65535) (hwait : s.rng.waiting = [])
    (hg : drbgGenerate 32 (key, v) = g) (hd : drbgGenerate 64 g.2 = d) :
    Answered s (spdmSign s p kind asked body) p (signedCode kind)
      (body ++ toBytes g.1 ++ ecdsaSign (signingKey s)
        (spdmText kind (asked ++ spdmMsg 0x12 (signedCode kind) 0 0 (body ++ toBytes g.1))) (toBytes d.1))
      (signedConn (s.conn p) kind) ∧
    (spdmSign s p kind asked body).rng.drbg = some (d.2.1, d.2.2, n + 2) := by
  have hasked : spdmSign s p kind asked body =
      serveWaiting 2 (drawing s p (askedConn (s.conn p) kind asked body) s.rng [.security p]) := by
    rw [spdmSign, requestNoise, if_neg (by simp [hst]), if_neg (by simp [hst]), setConn_rng, hwait]
    rfl
  have hserves : s.rng.serves = some (key, v, n) := (if_pos ⟨hst, hre⟩).trans hdrbg
  have hserves' : (s.rng.afterGenerate g.2 n).serves = some (g.2.1, g.2.2, n + 1) := if_pos ⟨hst, by
    simp only [Rng.afterGenerate, hre, Bool.false_or, decide_eq_false_iff_not]
    omega⟩
  rw [hasked, serveWaiting_security p 1 _ (kv := (key, v)) hserves hg, serveWaiting_sign p _ hserves' hd]
  exact ⟨answered_emit (drawing_out ..) (setConn_sameMemories ..) (drawing_conn ..), rfl⟩

/-- A request that asks for a signed response: it waits for its nonce, or is answered (R264, R476). -/
theorem signedResponse {i : Instr} (hexec : exec i s = .next (spdmSign s p kind asked body)) :
    (s.rng.st ≠ 0 → s.rng.st ≠ 2 → s.rng.st ≠ 5 → s.rng.waiting.length < 4096 →
      ∃ t, exec i s = .next t ∧ t.out = s.out ∧ t.rng.waiting = s.rng.waiting ++ [.security p] ∧
        t.conn p = askedConn (s.conn p) kind asked body) ∧
    (∀ key w n, s.rng.st = 2 → s.rng.reseeding = false → s.rng.drbg = some (key, w, n) → n < 65535 →
      s.rng.waiting = [] →
      let g := drbgGenerate 32 (key, w)
      let d := drbgGenerate 64 g.2
      let said := body ++ toBytes g.1
      let sig := ecdsaSign (signingKey s) (spdmText kind (asked ++ spdmMsg 0x12 (signedCode kind) 0 0 said)) (toBytes d.1)
      ∃ t, exec i s = .next t ∧ sig.length = 96 ∧ t.rng.drbg = some (d.2.1, d.2.2, n + 2) ∧
        (t.out = s.out ++ [.spdm p (spdmFrom s p) (signedCode kind) (said ++ sig)] ∧ SameMemories t s) ∧
        t.conn p = signedConn (s.conn p) kind) := by
  constructor
  · intro hon hready hfailed hroom
    refine ⟨_, hexec.trans (congrArg Host.Outcome.next (spdmSign_waits p kind asked body hon hready hfailed hroom)), ?_⟩
    exact ⟨setConn_out .., congrArg (Rng.waiting · ++ _) (setConn_rng ..), (setRng_conn ..).trans (setConn_conn ..)⟩
  · intro key w n hst hre hdrbg hn hwait g d said sig
    obtain ⟨hanswered, hdrawn⟩ := spdmSign_answered p kind asked body hst hre hdrbg hn hwait (g := g) (d := d) rfl rfl
    exact ⟨_, hexec, ecdsaSign_length .., hdrawn, hanswered.parts⟩

end

/-! ### The statement -/

section
variable {s : State} {p : SpdmPort} (hup : spdmUp s p = true) (hbusy : (s.conn p).busy = 0) (hstage : 3 ≤ (s.conn p).stage)
include hup hbusy hstage

theorem exec_challenge (nonce : List Byte) : exec (.challenge p 0 nonce) s =
    .next (spdmSign s p 1 (challengeText (s.conn p) nonce) (sha384 (chainBytes s))) :=
  congrArg Host.Outcome.next (spdmRequest_body hup hbusy hstage _)

theorem exec_getMeasurements {i : Nat} (hlo : 1 ≤ i) (hhi : i ≤ 8) (nonce : List Byte) :
    exec (.getMeasurements p i false nonce) s = .next (spdmMeas s p (measRequest i false []) (measBlock s i)) := by
  have hexec : exec (.getMeasurements p i false nonce) s = execGetMeasurements p i false nonce s := rfl
  have hbody : measBody s i = some (measBlock s i) := (if_neg (by omega)).trans (if_pos hhi)
  rw [hexec, execGetMeasurements, hbody]
  exact congrArg Host.Outcome.next (spdmRequest_body hup hbusy hstage _)

theorem exec_getMeasurements_all (nonce : List Byte) : exec (.getMeasurements p 0xFF true nonce) s =
    .next (spdmSign s p 2 (measText (s.conn p) 0xFF nonce) ((List.range 8).flatMap fun i => measBlock s (i + 1))) :=
  congrArg Host.Outcome.next (spdmRequest_body hup hbusy hstage _)

end

/-- Settles O54: a request that the connection is ready for is answered at once, but for a signed response, which draws
twice. -/
theorem spdmRequestsComplete : Obligations.SpdmRequestsComplete := by
  unfold Obligations.SpdmRequestsComplete
  intro s p hup k answers
  refine ⟨fun hbusy => ?_, ?_, fun hbusy hearly => ?_⟩
  · have hbody : ∀ {stage : Nat}, stage ≤ k.stage → ∀ body, spdmRequest s p stage body = body :=
      fun h body => spdmRequest_body hup hbusy h body
    refine ⟨?_, fun code hcode => ?_, fun rest hstage => ?_, fun rest hstage => ?_, fun hstage =>
      ⟨?_, fun off len hoff => ?_, fun slot off len nonce hslot i hi => ?_, fun i nonce hlo hhi => ?_,
        fun nonce i hi => ?_⟩⟩
    · exact ⟨_, congrArg Host.Outcome.next (hbody (Nat.zero_le _) _), (spdmSay_answered ..).parts⟩
    · exact ⟨_, congrArg Host.Outcome.next ((hbody (Nat.zero_le _) _).trans (if_neg hcode)), (spdmError_answered ..).parts⟩
    · exact ⟨_, congrArg Host.Outcome.next (hbody hstage _), (spdmSay_answered ..).parts⟩
    · exact ⟨_, congrArg Host.Outcome.next (hbody hstage _), (spdmSay_answered ..).parts⟩
    · exact ⟨_, congrArg Host.Outcome.next (hbody hstage _), (spdmSay_answered ..).parts⟩
    · exact ⟨_, congrArg Host.Outcome.next ((hbody hstage _).trans (if_neg (Nat.not_le.mpr hoff))),
        (spdmSay_answered ..).parts⟩
    · rcases hi with rfl | rfl
      · exact ⟨_, congrArg Host.Outcome.next ((hbody hstage _).trans (if_pos hslot)), (spdmError_answered ..).parts⟩
      · exact ⟨_, congrArg Host.Outcome.next ((hbody hstage _).trans (if_pos hslot)), (spdmError_answered ..).parts⟩
    · exact ⟨_, exec_getMeasurements hup hbusy hstage hlo hhi nonce, (spdmSay_answered ..).parts⟩
    · rcases hi with rfl | rfl
      · exact signedResponse p 1 _ _ (exec_challenge hup hbusy hstage nonce)
      · exact signedResponse p 2 _ _ (exec_getMeasurements_all hup hbusy hstage nonce)
  · intro hbusy i hi
    have hanswered := (spdmError_answered s p 0x03).parts.1
    rcases hi with rfl | rfl
    · exact ⟨_, congrArg Host.Outcome.next (spdmRequest_busy hup hbusy _), hanswered⟩
    · exact ⟨_, congrArg Host.Outcome.next (spdmRequest_busy hup hbusy _), hanswered⟩
  · exact ⟨_, congrArg Host.Outcome.next (spdmRequest_early hup hbusy hearly _), (spdmError_answered s p 0x04).parts.1⟩

end Sys2Proof.Laws
end

section
/-! What an uncorrectable error that no descriptor has met leaves of the plots and of CTX_UE (R413, R414). -/

namespace Sys2Proof.Laws

open Sys2Proof.Machine Sys2Proof.Safety

/-! ### Writes change memories alone -/

/-- All of the state beside its memories. -/
def besideMemories (s : State) : State := { s with near := [], far := [], host := [] }

theorem pieceWrite_besideMemories (c : Nat) (bs : List Byte) (va : Nat) (s : State) (p : Nat × Nat) :
    besideMemories (pieceWrite c bs va s p) = besideMemories s := by
  unfold pieceWrite
  split
  · next l _ _ => cases l <;> rfl
  · rfl

theorem vaWrite_besideMemories (s : State) (c va : Nat) (bs : List Byte) :
    besideMemories (vaWrite s c va bs) = besideMemories s :=
  foldl_part besideMemories (pieceWrite_besideMemories c bs va) _ s

/-! ### States that plots and contexts stand in alike -/

/-- The state of every plot, and all of every context. -/
def standing (s : State) := (fun p => (s.plotAt p).st, s.ctxs)

/-- The state of every plot, and CTX_UE of every context. -/
def plotsAndUes (s : State) := (fun p => (s.plotAt p).st, fun c => (s.ctxAt c).ue)

section
variable {s t : State}

theorem plotsAndUes_of_standing (h : standing t = standing s) : plotsAndUes t = plotsAndUes s :=
  congrArg (fun x : (Nat → Nat) × Tab Ctx => (x.1, fun c => (tabGet ({} : Ctx) x.2 c).ue)) h

/-- What changes neither the governor's parts nor the contexts, marks for one, leaves all plots and contexts standing. -/
theorem standing_of_pace (hp : paceParts t = paceParts s) (hc : t.ctxs = s.ctxs) : standing t = standing s := by
  simp only [paceParts, Prod.mk.injEq] at hp
  obtain ⟨-, -, -, -, -, hst⟩ := hp
  rw [standing, hst, hc]
  rfl

theorem plotsAndUes_updCtx (s : State) (c : Nat) {f : Ctx → Ctx} (hf : ∀ x, (f x).ue = x.ue) :
    plotsAndUes (s.updCtx c f) = plotsAndUes s := by
  refine congrArg (Prod.mk _) (funext fun d => ?_)
  by_cases hd : d = c
  · rw [hd, updCtx_ctxAt_same, hf]
  · rw [updCtx_ctxAt_other s f hd]

end

section
variable (s : State)

theorem raiseVector_standing (v : Nat) : standing (raiseVector s v) = standing s :=
  standing_of_pace (raiseVector_pace s v) (raiseVector_ctxs s v)

theorem timingBroken_standing (p c : Nat) : standing (timingBroken s p c) = standing s :=
  standing_of_pace (timingBroken_pace s p c) (timingBroken_ctxs s p c)

theorem markT_standing (c : Nat) : standing (markT s c) = standing s :=
  standing_of_pace (markT_pace s c) (markT_ctxs s c)

theorem markAccess_standing (c va n : Nat) : standing (markAccess s c va n) = standing s :=
  standing_of_pace (markAccess_pace s c va n) (by rw [markAccess_frame s c va n])

theorem vaWrite_standing (c va : Nat) (bs : List Byte) : standing (vaWrite s c va bs) = standing s := by
  have h := congrArg standing (vaWrite_besideMemories s c va bs)
  exact h

/-! ### The health log and retirement -/

theorem mapChanged_standing : standing (mapChanged s) = standing s := by
  refine foldl_part standing (fun t p => ?_) _ s
  split
  · exact timingBroken_standing ..
  · rfl

theorem logRetire_standing (type kind unit detail : Nat) :
    standing (logRetire s type kind unit detail) = standing s := by
  unfold logRetire
  split <;> rfl

theorem leaveService_standing (kind unit : Nat) : standing (leaveService s kind unit) = standing s := by
  unfold leaveService
  dsimp only
  split <;> split <;> rfl

theorem retireUnit_standing (kind unit detail : Nat) : standing (retireUnit s kind unit detail) = standing s := by
  have hlog (type : Nat) := logRetire_standing s type kind unit detail
  have hgone (type : Nat) := (mapChanged_standing _).trans ((leaveService_standing _ kind unit).trans (hlog type))
  unfold retireUnit
  split
  · rfl
  · dsimp only
    split
    · split
      · split <;> exact hlog _
      · exact hgone _
    · exact hgone _

theorem retireChannel_standing (chan detail : Nat) : standing (retireChannel s chan detail) = standing s := by
  unfold retireChannel
  split
  · rfl
  · exact (mapChanged_standing _).trans (logRetire_standing ..)

theorem noteUe_standing (l : Level) (line : Nat) : standing (noteUe s l line) = standing s := by
  cases l with
  | near =>
    simp only [noteUe]
    split
    · exact retireChannel_standing ..
    · rfl
  | far => rfl
  | coreStore => exact retireUnit_standing ..
  | host => rfl

/-! ### RUNs that end -/

theorem writeEach_plotsAndUes (c : Nat) (ws : List (Nat × List Byte)) :
    plotsAndUes (writeEach s c ws) = plotsAndUes s := by
  refine foldl_part plotsAndUes (fun t w => ?_) ws s
  split
  · exact plotsAndUes_of_standing ((vaWrite_standing ..).trans (markAccess_standing t c w.1 w.2.length))
  · rfl

theorem sendGroup_plotsAndUes (g : Nat) (chips : List Nat) (msg : FabMsg) :
    plotsAndUes (sendGroup s g chips msg) = plotsAndUes s := by
  unfold sendGroup chargeLink
  rw [plotsAndUes_updCtx]
  · rw [(sendFabs_sends s chips msg).frame]
    rfl
  · exact fun _ => rfl

theorem leaveGroup_plotsAndUes (r : Run) (st : Status) : plotsAndUes (leaveGroup s r st) = plotsAndUes s := by
  unfold leaveGroup
  split
  · rfl
  · split
    · rfl
    · dsimp only
      split_ifs
      · rfl
      · rfl
      · exact sendGroup_plotsAndUes ..

theorem dropRun_plotsAndUes (k : RunKey) (st : Status) (reset : Bool) :
    plotsAndUes (dropRun s k st reset) = plotsAndUes s := by
  unfold dropRun
  dsimp only
  rw [plotsAndUes_updCtx]
  · cases hrun : s.findRun k with
    | none => rfl
    | some r => exact (leaveGroup_plotsAndUes (endRecord s r st reset) r st).trans (writeEach_plotsAndUes ..)
  · exact fun _ => rfl

theorem stopRun_plotsAndUes (k : RunKey) (st : Status) : plotsAndUes (stopRun s k st) = plotsAndUes s :=
  dropRun_plotsAndUes ..

/-! ### A context that faults -/

theorem loseServices_plotsAndUes (c : Nat) : plotsAndUes (loseServices s c) = plotsAndUes s := rfl

end

section
variable {s : State} {c : Nat}

/-- An active context that faults is FAULTED; no plot changes its state, and no error is noted. -/
theorem faultCtx_faults (h : (s.ctxAt c).st = 1) (own : Option (Nat × Nat × Status)) :
    ((faultCtx s c own).ctxAt c).st = 3 ∧ plotsAndUes (faultCtx s c own) = plotsAndUes s := by
  unfold faultCtx
  dsimp only
  rw [if_neg (by simp [h])]
  constructor
  · simp [State.ctxAt, State.updCtx, State.setCtx, loseServices]
  · rw [plotsAndUes_of_standing (raiseVector_standing ..)]
    rw [loseServices_plotsAndUes, plotsAndUes_updCtx]
    · exact foldl_part plotsAndUes (fun t k => stopRun_plotsAndUes t k _) _ s
    · exact fun _ => rfl

/-- The state in which CTX_UE holds an error, and the repeated read is marked. -/
def ueSeen (s : State) (c : Nat) (l : Level) (line : Nat) : State :=
  (markT s c).updCtx c fun x => { x with ue := ueWord l line }

theorem noteUe_ctxAt (s : State) (c : Nat) (l : Level) (line : Nat) :
    (noteUe (ueSeen s c l line) l line).ctxAt c = { s.ctxAt c with ue := ueWord l line } := by
  have hnote : (noteUe (ueSeen s c l line) l line).ctxs = (ueSeen s c l line).ctxs :=
    congrArg Prod.snd (noteUe_standing ..)
  have hmark : (markT s c).ctxAt c = s.ctxAt c := by rw [State.ctxAt, markT_ctxs]; rfl
  rw [State.ctxAt, hnote, ← hmark]
  exact updCtx_ctxAt_same ..

/-- An active context whose device read meets an uncorrectable error is FAULTED, with the error in CTX_UE (R413, R414). -/
theorem deviceUe_faults (h : (s.ctxAt c).st = 1) (l : Level) (line : Nat) :
    ((deviceUe s c l line).ctxAt c).st = 3 ∧ ((deviceUe s c l line).ctxAt c).ue = ueWord l line ∧
      ∀ p, ((deviceUe s c l line).plotAt p).st = (s.plotAt p).st := by
  have hctx := noteUe_ctxAt s c l line
  obtain ⟨hst, hkept⟩ := faultCtx_faults (s := noteUe (ueSeen s c l line) l line) (by rw [hctx]; exact h) none
  have hnote := congrArg Prod.fst (noteUe_standing (ueSeen s c l line) l line)
  have hmark := congrArg Prod.fst (markT_standing s c)
  have hue := congrFun (congrArg Prod.snd hkept) c
  exact ⟨hst, hue.trans (congrArg Ctx.ue hctx), congrFun ((congrArg Prod.fst hkept).trans (hnote.trans hmark))⟩

end

end Sys2Proof.Laws
end

section
/-! The entries of plots: O35. -/

namespace Sys2Proof.Laws

open Sys2Proof.Machine Sys2Proof.Safety

/-! ### Cores and save areas -/

/-- All of the state beside its contexts. -/
def besideCtxs (s : State) : State := { s with ctxs := [] }

/-- All of the state beside its cores. -/
def besideCores (s : State) : State := { s with cores := [] }

theorem sameMemories_of_besideCtxs {s t : State} (h : besideCtxs t = besideCtxs s) : SameMemories t s := by
  have hmem : SameMemories (besideCtxs t) (besideCtxs s) := by rw [h]; exact sameMemories_refl _
  exact hmem

theorem sameMemories_of_besideCores {s t : State} (h : besideCores t = besideCores s) : SameMemories t s := by
  have hmem : SameMemories (besideCores t) (besideCores s) := by rw [h]; exact sameMemories_refl _
  exact hmem

theorem foldlM_part {α β : Type} {f : State → α → Option State} (part : State → β)
    (h : ∀ s a t, f s a = some t → part t = part s) (l : List α) {s t : State} (e : l.foldlM f s = some t) :
    part t = part s := by
  induction l generalizing s with
  | nil => cases e; rfl
  | cons a l ih =>
    rw [List.foldlM_cons] at e
    obtain ⟨u, hu, hl⟩ := Option.bind_eq_some_iff.1 e
    exact (ih hl).trans (h s a u hu)

theorem allotArea_besideCtxs (c : Nat) (s : State) (core : Nat) (t : State) (e : allotArea c s core = some t) :
    besideCtxs t = besideCtxs s := by
  obtain ⟨pl, -, rfl⟩ := Option.map_eq_some_iff.1 e
  rfl

/-- Save areas are allotted in the contexts (R391). -/
theorem allotAreas_besideCtxs (s : State) (cs cores : List Nat) :
    besideCtxs ((allotAreas s cs cores).getD s) = besideCtxs s := by
  cases e : allotAreas s cs cores with
  | none => rfl
  | some t => exact foldlM_part besideCtxs (fun _ _ _ => foldlM_part besideCtxs (allotArea_besideCtxs _) cores) cs e

/-- The same change of each of some cores, which a second time changes nothing. -/
theorem foldl_updCore_coreAt {f : Nat → Core → Core} {n : Nat} (hf : ∀ c, f n (f n c) = f n c) {l : List Nat}
    (s : State) (h : n ∈ l ∨ f n (s.coreAt n) = s.coreAt n) :
    (l.foldl (fun t m => t.updCore m (f m)) s).coreAt n = f n (s.coreAt n) := by
  induction l generalizing s with
  | nil => exact (h.resolve_left List.not_mem_nil).symm
  | cons m l ih =>
    by_cases e : n = m
    · subst e
      rw [List.foldl_cons, ih _ (.inr (by rw [updCore_coreAt_same, hf])), updCore_coreAt_same, hf]
    · have hm := updCore_coreAt_other s (f m) e
      rw [List.foldl_cons, ih _ (by rw [hm]; exact h.imp_left fun hn => (List.mem_cons.1 hn).resolve_left e), hm]

theorem foldl_updCore_besideCores (f : Nat → Core → Core) (l : List Nat) (s : State) :
    besideCores (l.foldl (fun t m => t.updCore m (f m)) s) = besideCores s :=
  foldl_part (f := fun t m => t.updCore m (f m)) besideCores (fun _ _ => rfl) l s

/-! ### Survey tests -/

theorem logicalOf_phys {s : State} {phys n : Nat} (h : logicalOf s phys = some n) : s.boot.enabled.getD n 144 = phys := by
  simpa using List.find?_some h

/-- Survey tests that are dropped change the survey, and the core that is tested next. -/
theorem dropTests_rest (s : State) (gone : Nat → Bool) :
    dropTests s gone = { s with power := (dropTests s gone).power, cores := (dropTests s gone).cores } := by
  unfold dropTests beginTest
  dsimp only
  split
  · rfl
  · split <;> rfl

/-- A core whose test is dropped is not tested next. -/
theorem dropTests_coreAt {s : State} {gone : Nat → Bool} {n : Nat} (h : gone (s.boot.enabled.getD n 144) = true) :
    (dropTests s gone).coreAt n = s.coreAt n := by
  unfold dropTests beginTest
  dsimp only
  split
  · rfl
  · split
    · rfl
    · next m hm =>
      obtain ⟨phys, hhead, hlog⟩ := Option.bind_eq_some_iff.1 hm
      have hstays := (List.mem_filter.1 (List.mem_of_mem_head? hhead)).2
      have hne : n ≠ m := by
        rintro rfl
        have hphys : s.boot.enabled.getD n 144 = phys := logicalOf_phys hlog
        rw [← hphys, h] at hstays
        exact absurd hstays (by decide)
      exact updCore_coreAt_other _ _ hne

/-! ### A plot that is formed -/

/-- A plot entry once its plot is formed with an admission (R389). -/
def formedPlot (q : Plot) (a : Admission) : Plot :=
  { q with
    st := if q.timed then 2 else 1, reason := stDone, holder := none, reservedMw := a.mw, wcet := a.wcet
    declared := a.decl, broken := [] }

theorem formedPlot_mask (q : Plot) (a : Admission) : (formedPlot q a).mask = q.mask := rfl

/-- The state in which the save areas of a plot's contexts are allotted (R391). -/
def plotAreas (s : State) (p : Nat) : State :=
  (allotAreas s (attachedTo s p) (maskCores (s.plotAt p).mask)).getD s

/-- A core that a plot names, once it belongs to the plot (R389, R460). -/
def plotCore (s : State) (p n : Nat) (c : Core) : Core := { c with plot := some p, power := plotPower s n }

/-- The state in which the cores that a plot names belong to it. -/
def plotCores (s : State) (p : Nat) : State :=
  (maskCores (s.plotAt p).mask).foldl (fun t n => t.updCore n (plotCore s p n)) (plotAreas s p)

/-- The physical cores that a plot names. -/
def plotNames (s : State) (p phys : Nat) : Bool :=
  (maskCores (s.plotAt p).mask).any fun n => decide (s.boot.enabled.getD n 144 = phys)

section
variable {s : State} {p : Nat} (a : Admission)

theorem formPlot_eq : formPlot s p a =
    (dropTests (plotCores s p) (plotNames s p)).setPlot p (formedPlot (s.plotAt p) a) := rfl

theorem formPlot_plotAt : (formPlot s p a).plotAt p = formedPlot (s.plotAt p) a := by
  rw [formPlot_eq, setPlot_plotAt_same]

/-- The cores and save areas of a plot leave all else alone. -/
theorem plotCores_beside (s : State) (p : Nat) :
    besideCtxs (besideCores (plotCores s p)) = besideCtxs (besideCores s) :=
  (congrArg besideCtxs (foldl_updCore_besideCores (plotCore s p) _ (plotAreas s p))).trans
    (congrArg besideCores (allotAreas_besideCtxs ..))

theorem plotAreas_coreAt (s : State) (p n : Nat) : (plotAreas s p).coreAt n = s.coreAt n := by
  have h := congrArg State.cores (allotAreas_besideCtxs s (attachedTo s p) (maskCores (s.plotAt p).mask))
  exact coreAt_of_cores h n

theorem plotCores_coreAt {n : Nat} (hn : n ∈ maskCores (s.plotAt p).mask) :
    (plotCores s p).coreAt n = plotCore s p n (s.coreAt n) := by
  rw [plotCores, foldl_updCore_coreAt (fun _ => rfl) _ (.inl hn), plotAreas_coreAt]

theorem plotCores_names {n : Nat} (hn : n ∈ maskCores (s.plotAt p).mask) :
    plotNames s p ((plotCores s p).boot.enabled.getD n 144) = true := by
  have hboot := congrArg State.boot (plotCores_beside s p)
  exact List.any_eq_true.2 ⟨n, hn, decide_eq_true (congrArg (fun b => b.enabled.getD n 144) hboot.symm)⟩

theorem formPlot_sameMemories : SameMemories (formPlot s p a) s := by
  have hcores := sameMemories_of_besideCtxs (plotCores_beside s p)
  rw [formPlot_eq, dropTests_rest]
  exact hcores

/-- A core that a plot names belongs to it, in the power state of R460; its survey test is abandoned (R449). -/
theorem formPlot_coreAt {n : Nat} (hn : n ∈ maskCores (s.plotAt p).mask) :
    (formPlot s p a).coreAt n = plotCore s p n (s.coreAt n) := by
  rw [formPlot_eq, setPlot_coreAt, dropTests_coreAt (plotCores_names hn), plotCores_coreAt hn]

end

theorem plotPower_on (s : State) (n : Nat) : plotPower s n ≠ 2 := by
  have hon (w : Nat) : (if w = 2 then 0 else w) ≠ 2 := by
    split
    · decide
    · assumption
  exact hon _

theorem plotPower_untested {s : State} {n : Nat} (h : underTest s n = false) :
    plotPower s n = if (s.coreAt n).power = 2 then 0 else (s.coreAt n).power := by
  simp [plotPower, h]

/-- What CONFIGURE makes of the entry and the cores of a plot that is formed (R389, R449, R460). -/
structure Formed (s t : State) (p : Nat) (a : Admission) : Prop where
  plot : t.plotAt p = formedPlot (s.plotAt p) a
  core : ∀ n, n ∈ maskCores (s.plotAt p).mask → t.coreAt n = plotCore s p n (s.coreAt n)

theorem formPlot_formed (s : State) (p : Nat) (a : Admission) : Formed s (formPlot s p a) p a :=
  ⟨formPlot_plotAt a, fun _ hn => formPlot_coreAt a hn⟩

/-! ### Leaf entries that are locked -/

/-- The pages of the first 4,096 valid leaf entries of a context (R393). -/
def lockedPages (s : State) (c : Nat) : List Nat :=
  ((validLeaves s c).take 4096).flatMap fun e => (List.range e.2).map (· + e.1)

section
variable {s : State} {c : Nat} (h : tablesUe s c = none)
include h

/-- Tables without an uncorrectable error: their leaves are cached and locked. -/
theorem lockLeaves_eq : lockLeaves s c =
    ((lockedPages s c).foldl (fun t p => cachePages t c (p * 65536) 1) s).updCtx c
      fun x => { x with locked := lockedPages s c } := by
  unfold lockLeaves
  rw [h]
  rfl

theorem lockLeaves_locked : ((lockLeaves s c).ctxAt c).locked = lockedPages s c := by
  rw [lockLeaves_eq h, updCtx_ctxAt_same]

theorem lockLeaves_besideCtxs : besideCtxs (lockLeaves s c) = besideCtxs s := by
  rw [lockLeaves_eq h]
  exact foldl_part (f := fun t p => cachePages t c (p * 65536) 1) besideCtxs (fun _ _ => rfl) (lockedPages s c) s

end

/-! ### CONFIGURE -/

@[simp] theorem plotReason_plotAt (s : State) (p : Nat) (st : Status) :
    (plotReason s p st).plotAt p = { s.plotAt p with reason := st } :=
  updPlot_plotAt_same ..

/-- What the host does to a plot entry of an active chip takes effect. -/
theorem hostPlot_acts {s : State} {p : Nat} (hhost : hostUp s = true) (hchip : s.power.chip = 0) (hp : p < 64)
    (f : State → Nat → State) : (if hostPlot s p then f (wakeChip s) p else s) = f s p := by
  rw [if_pos (by simp [hostPlot, hhost, hp]), wakeChip_of_active hchip]

theorem writeAdmission_besideMemories (s : State) (c va : Nat) (a : Admission) :
    besideMemories (writeAdmission s c va a) = besideMemories s := by
  unfold writeAdmission
  split
  · rfl
  · exact vaWrite_besideMemories ..

/-- The one context of a timed plot (R389). -/
def timedCtx (s : State) (p : Nat) : Nat := (attachedTo s p).headD 0

/-- The admission of a timed plot, on its cores (R295, R389). -/
def plotAdmission (s : State) (p : Nat) : Admission :=
  admission s (timedCtx s p) (s.plotAt p).admitVa 0 (maskCores (s.plotAt p).mask) (2 ^ 64)

/-- The state in which a timed plot's admission stands in its block. -/
def plotWeighed (s : State) (p : Nat) : State :=
  writeAdmission s (timedCtx s p) (s.plotAt p).admitVa (plotAdmission s p)

section
variable (s : State) (p : Nat)

theorem plotWeighed_plotAt (m : Nat) : (plotWeighed s p).plotAt m = s.plotAt m := by
  have h := congrArg (fun t => t.plotAt m)
    (writeAdmission_besideMemories s (timedCtx s p) (s.plotAt p).admitVa (plotAdmission s p))
  exact h

theorem plotWeighed_cores : (plotWeighed s p).cores = s.cores := by
  have h := congrArg State.cores
    (writeAdmission_besideMemories s (timedCtx s p) (s.plotAt p).admitVa (plotAdmission s p))
  exact h

theorem plotWeighed_ctxAt (c : Nat) : (plotWeighed s p).ctxAt c = s.ctxAt c := by
  have h := congrArg (fun t => t.ctxAt c)
    (writeAdmission_besideMemories s (timedCtx s p) (s.plotAt p).admitVa (plotAdmission s p))
  exact h

end

section
variable {s : State} {p : Nat} (hfree : (s.plotAt p).st = 0)
include hfree

theorem configurePlot_unfit {st : Status} (hstatus : configureStatus s p = some st) :
    configurePlot s p = plotReason s p st := by
  unfold configurePlot
  simp only [hfree, ne_eq, not_true_eq_false, if_false, hstatus]

variable (hstatus : configureStatus s p = none)
include hstatus

theorem configurePlot_untimed (htimed : (s.plotAt p).timed = false) :
    configurePlot s p = formPlot s p (refusal stDone) := by
  unfold configurePlot
  simp only [hfree, ne_eq, not_true_eq_false, if_false, hstatus, htimed, if_true]

variable (htimed : (s.plotAt p).timed = true)
include htimed

theorem configurePlot_admitted (hgiven : (plotAdmission s p).status = stDone) :
    configurePlot s p = lockLeaves (formPlot (plotWeighed s p) p (plotAdmission s p)) (timedCtx s p) := by
  unfold configurePlot
  simp only [hfree, ne_eq, not_true_eq_false, if_false, hstatus, htimed, Bool.true_eq_false]
  exact if_pos hgiven

theorem configurePlot_refused (hrefused : (plotAdmission s p).status ≠ stDone) : configurePlot s p =
    plotReason (ueOf (plotWeighed s p) (timedCtx s p) (plotAdmission s p).ue) p (plotAdmission s p).status := by
  unfold configurePlot
  simp only [hfree, ne_eq, not_true_eq_false, if_false, hstatus, htimed, Bool.true_eq_false]
  exact if_neg hrefused

end

/-! ### RELEASE -/

/-- The state in which every context of a plot is detached, and its services have lost it (R392, R432). -/
def contextsDetached (s : State) (cs : List Nat) : State := cs.foldl (fun t c => detach (loseServices t c) c) s

theorem detach_sameMemories (s : State) (c : Nat) : SameMemories (detach s c) s := by
  unfold detach
  dsimp only
  split <;> exact ⟨rfl, rfl, rfl⟩

theorem detach_plotValid {s : State} {c d : Nat} (h : d = c ∨ (s.ctxAt d).plotValid = false) :
    ((detach s c).ctxAt d).plotValid = false := by
  unfold detach
  dsimp only
  split
  · by_cases hd : d = c
    · rw [hd, updCtx_ctxAt_same]
    · rw [updCtx_ctxAt_other _ _ hd]
      exact h.resolve_left hd
  · next hvalid =>
    rcases h with rfl | h
    · exact Bool.eq_false_iff.2 hvalid
    · exact h

theorem contextsDetached_sameMemories (s : State) (cs : List Nat) : SameMemories (contextsDetached s cs) s :=
  sameMemories_foldl (f := fun t c => detach (loseServices t c) c) (fun t c => detach_sameMemories (loseServices t c) c) s cs

theorem contextsDetached_plotValid {s : State} {cs : List Nat} {d : Nat}
    (h : d ∈ cs ∨ (s.ctxAt d).plotValid = false) : ((contextsDetached s cs).ctxAt d).plotValid = false := by
  induction cs generalizing s with
  | nil => exact h.resolve_left List.not_mem_nil
  | cons c cs ih =>
    rcases h with h | h
    · rcases List.mem_cons.1 h with rfl | h
      · exact ih (.inr (detach_plotValid (.inl rfl)))
      · exact ih (.inl h)
    · exact ih (.inr (detach_plotValid (s := loseServices s c) (.inr h)))

/-- A plot entry that is released (R392). -/
def releasedPlot (q : Plot) : Plot :=
  { q with st := 0, reason := stDone, holder := none, reservedMw := 0, wcet := 0, declared := [], broken := [] }

/-- The state in which a plot is released: its contexts detached, its entry FREE, its cores in no plot (R392). -/
def plotReleased (s : State) (p : Nat) : State :=
  (maskCores (s.plotAt p).mask).foldl (fun t n => t.updCore n fun c => { c with plot := none })
    ((contextsDetached s (attachedTo s p)).setPlot p (releasedPlot (s.plotAt p)))

section
variable {s : State} {p : Nat}

theorem releasePlot_idle (hst : (s.plotAt p).st ≠ 0) (hbusy : plotBusy s p = false)
    (hpend : plotPending s (maskCores (s.plotAt p).mask) = []) : releasePlot s p = plotReleased s p := by
  unfold releasePlot
  simp only [hst, if_false, hbusy, Bool.false_eq_true, hpend, if_true]
  rfl

theorem plotReleased_besideCores (s : State) (p : Nat) : besideCores (plotReleased s p) =
    besideCores ((contextsDetached s (attachedTo s p)).setPlot p (releasedPlot (s.plotAt p))) :=
  foldl_updCore_besideCores (fun _ c => { c with plot := none }) ..

theorem plotReleased_plotAt (s : State) (p : Nat) : (plotReleased s p).plotAt p = releasedPlot (s.plotAt p) := by
  have h := congrArg (fun t => t.plotAt p) (plotReleased_besideCores s p)
  exact h.trans (setPlot_plotAt_same ..)

theorem plotReleased_sameMemories (s : State) (p : Nat) : SameMemories (plotReleased s p) s := by
  have h := sameMemories_of_besideCores (plotReleased_besideCores s p)
  exact sameMemories_trans h (contextsDetached_sameMemories s (attachedTo s p))

theorem plotReleased_plotValid {c : Nat} (hc : c ∈ attachedTo s p) : ((plotReleased s p).ctxAt c).plotValid = false := by
  have h := congrArg (fun t => t.ctxAt c) (plotReleased_besideCores s p)
  exact (congrArg Ctx.plotValid h).trans (contextsDetached_plotValid (.inl hc))

theorem plotReleased_coreAt {n : Nat} (hn : n ∈ maskCores (s.plotAt p).mask) :
    ((plotReleased s p).coreAt n).plot = none := by
  rw [plotReleased, foldl_updCore_coreAt (f := fun _ c => { c with plot := none }) (fun _ => rfl) _ (.inl hn)]

end

/-! ### RECONFIGURE -/

theorem MarkFrame.foldl {α : Type} {f : State → α → State} (hf : ∀ t a, MarkFrame t (f t a)) (s : State) (l : List α) :
    MarkFrame s (l.foldl f s) := by
  induction l generalizing s with
  | nil => exact .refl s
  | cons a l ih => exact (hf s a).trans (ih _)

/-- A change of the runtime map marks timed plots, and does nothing else (R286). -/
theorem mapChanged_frame (s : State) : MarkFrame s (mapChanged s) := by
  refine MarkFrame.foldl (fun t p => ?_) s _
  split
  · exact timingBroken_frame ..
  · exact .refl t

/-- The runtime map once a spare has taken the place of a logical core (R451). -/
def spareBoot (b : Boot) (n phys x : Nat) : Boot :=
  { b with
    enabled := listUpd b.enabled n fun _ => x
    spares := b.spares.filter fun y => decide (y ≠ x)
    outCores := b.outCores ++ [phys]
    pending := b.pending.filter fun q => decide (q ≠ (1, phys)) }

section
variable {s : State} {p n phys x : Nat}

theorem replaceCore_spare (hphys : s.boot.enabled.getD n 144 = phys) (hspare : spareFor s phys = some x) :
    replaceCore p s n =
      (dropTests { s with boot := spareBoot s.boot n phys x, badLines := withoutStore n s.badLines }
        (fun y => decide (y = x))).setCore n { phys := x, plot := some p, bankGood := banksOf s x } := by
  subst hphys
  unfold replaceCore
  simp only [hspare]
  rfl

theorem replaceCore_boot (hphys : s.boot.enabled.getD n 144 = phys) (hspare : spareFor s phys = some x) :
    (replaceCore p s n).boot = spareBoot s.boot n phys x := by
  rw [replaceCore_spare hphys hspare, dropTests_rest]
  rfl

theorem replaceCore_coreAt (hphys : s.boot.enabled.getD n 144 = phys) (hspare : spareFor s phys = some x) :
    (replaceCore p s n).coreAt n = { phys := x, plot := some p, bankGood := banksOf s x } := by
  rw [replaceCore_spare hphys hspare, setCore_coreAt_same]

theorem replaceCore_sameMemories (hphys : s.boot.enabled.getD n 144 = phys) (hspare : spareFor s phys = some x) :
    SameMemories (replaceCore p s n) s := by
  rw [replaceCore_spare hphys hspare, dropTests_rest]
  exact ⟨rfl, rfl, rfl⟩

theorem mapChanged_replaceCore_boot (hphys : s.boot.enabled.getD n 144 = phys) (hspare : spareFor s phys = some x) :
    (mapChanged (replaceCore p s n)).boot = spareBoot s.boot n phys x :=
  (congrArg State.boot (mapChanged_frame (replaceCore p s n))).trans (replaceCore_boot hphys hspare)

theorem mapChanged_replaceCore_coreAt (hphys : s.boot.enabled.getD n 144 = phys) (hspare : spareFor s phys = some x) :
    (mapChanged (replaceCore p s n)).coreAt n = { phys := x, plot := some p, bankGood := banksOf s x } :=
  (coreAt_of_cores (congrArg State.cores (mapChanged_frame (replaceCore p s n))) n).trans
    (replaceCore_coreAt hphys hspare)

/-- One core of a plot is to be retired, and nothing else: it is replaced (R392, R451). -/
theorem reconfigurePlot_one (hst : (s.plotAt p).st ≠ 0) (hbusy : plotBusy s p = false)
    (hpend : plotPending s (maskCores (s.plotAt p).mask) = [(1, phys)])
    (hdead : (maskCores (s.plotAt p).mask).filter (fun m => decide (s.boot.enabled.getD m 144 = phys)) = [n]) :
    reconfigurePlot s p = plotReason (mapChanged (replaceCore p s n)) p stDone := by
  have hdead' : (maskCores (s.plotAt p).mask).filter
      (fun m => decide ((1, s.boot.enabled.getD m 144) ∈ [(1, phys)])) = [n] := by
    rw [← hdead]
    simp
  unfold reconfigurePlot
  simp only [hst, if_false, hbusy, Bool.false_eq_true, hpend, hdead']
  rfl

end

/-! ### The statement -/

section
variable {s : State} {p : Nat} (hhost : hostUp s = true) (hchip : s.power.chip = 0) (hp : p < 64)
include hhost hchip hp

theorem exec_configure : exec (.configure p) s = .next (configurePlot s p) :=
  congrArg Host.Outcome.next (hostPlot_acts hhost hchip hp configurePlot)

theorem exec_release : exec (.release p) s = .next (releasePlot s p) :=
  congrArg Host.Outcome.next (hostPlot_acts hhost hchip hp releasePlot)

theorem exec_reconfigure : exec (.reconfigure p) s = .next (reconfigurePlot s p) :=
  congrArg Host.Outcome.next (hostPlot_acts hhost hchip hp reconfigurePlot)

end

/-- A plot that is formed for a timed entry, its leaf entries locked, has its entry and its cores. -/
theorem lockLeaves_formed {s : State} {p : Nat} {a : Admission} {c : Nat}
    (htables : tablesUe (formPlot s p a) c = none) : Formed s (lockLeaves (formPlot s p a) c) p a := by
  have hbeside := lockLeaves_besideCtxs htables
  have hplots := congrArg (fun t => t.plotAt p) hbeside
  have hcores := congrArg State.cores hbeside
  obtain ⟨hplot, hcore⟩ := formPlot_formed s p a
  exact ⟨hplots.trans hplot, fun n hn => (coreAt_of_cores hcores n).trans (hcore n hn)⟩

/-- Settles O35: the host's command acts on the entry at once; of a plot that is formed the entry and the cores are what
`Formed` says, and a context whose admission meets an uncorrectable error faults. -/
theorem plotsComplete : Obligations.PlotsComplete := by
  unfold Obligations.PlotsComplete
  intro s p hhost hchip hp
  have hconf := exec_configure hhost hchip hp
  refine ⟨fun hfree htimed hstatus => ?_, fun hfree htimed hstatus => ⟨fun hgiven htables => ?_,
    fun hrefused hue => ?_, fun l n hrefused hue hactive => ?_⟩, fun st hfree hstatus => ?_,
    fun hst hbusy hpend => ?_, fun n phys x hst hbusy hpend hdead hn hspare => ?_⟩
  · rw [configurePlot_untimed hfree hstatus htimed] at hconf
    obtain ⟨hplot, hcore⟩ := formPlot_formed s p (refusal stDone)
    refine ⟨_, hconf, formPlot_sameMemories _, (congrArg Plot.st hplot).trans (if_neg (by simp [htimed])),
      congrArg Plot.reason hplot, (congrArg Plot.mask hplot).trans (formedPlot_mask ..), congrArg Plot.holder hplot,
      fun n hn => ?_⟩
    rw [hcore n hn]
    exact ⟨rfl, plotPower_on s n, plotPower_untested⟩
  · have htables : tablesUe (formPlot (plotWeighed s p) p (plotAdmission s p)) (timedCtx s p) = none := htables
    rw [configurePlot_admitted hfree hstatus htimed hgiven] at hconf
    obtain ⟨hplot, hcore⟩ := lockLeaves_formed htables
    rw [plotWeighed_plotAt] at hplot hcore
    refine ⟨_, hconf, sameMemories_trans (sameMemories_of_besideCtxs (lockLeaves_besideCtxs htables))
      (formPlot_sameMemories _), (congrArg Plot.st hplot).trans (if_pos htimed), congrArg Plot.reason hplot,
      (congrArg Plot.mask hplot).trans (formedPlot_mask ..), congrArg Plot.holder hplot, congrArg Plot.reservedMw hplot,
      congrArg Plot.wcet hplot, congrArg Plot.declared hplot, congrArg Plot.broken hplot, lockLeaves_locked htables,
      fun n hn => ?_⟩
    rw [hcore n hn]
    exact ⟨rfl, plotPower_on _ n⟩
  · have hue : (plotAdmission s p).ue = none := hue
    rw [configurePlot_refused hfree hstatus htimed hrefused, hue] at hconf
    refine ⟨_, hconf, sameMemories_refl (plotWeighed s p), ?_, plotWeighed_cores s p⟩
    rw [plotReason_plotAt, ueOf, plotWeighed_plotAt]
    rfl
  · have hue : (plotAdmission s p).ue = some (l, n) := hue
    rw [configurePlot_refused hfree hstatus htimed hrefused, hue] at hconf
    have hactive : ((plotWeighed s p).ctxAt (timedCtx s p)).st = 1 :=
      (congrArg Ctx.st (plotWeighed_ctxAt ..)).trans hactive
    obtain ⟨hst, hnoted, hplots⟩ := deviceUe_faults hactive l n
    have hplot := plotReason_plotAt (deviceUe (plotWeighed s p) (timedCtx s p) l n) p (plotAdmission s p).status
    refine ⟨_, hconf, ?_, congrArg Plot.reason hplot, hst, hnoted⟩
    exact (congrArg Plot.st hplot).trans ((hplots p).trans ((congrArg Plot.st (plotWeighed_plotAt s p p)).trans hfree))
  · rw [configurePlot_unfit hfree hstatus] at hconf
    exact ⟨_, hconf, ⟨rfl, rfl, rfl⟩, plotReason_plotAt .., rfl⟩
  · have hrel := exec_release hhost hchip hp
    rw [releasePlot_idle hst hbusy hpend] at hrel
    have hplot := plotReleased_plotAt s p
    exact ⟨_, hrel, plotReleased_sameMemories s p, congrArg Plot.st hplot, congrArg Plot.holder hplot,
      congrArg Plot.reservedMw hplot, fun c => plotReleased_plotValid, fun n => plotReleased_coreAt⟩
  · have hrec := exec_reconfigure hhost hchip hp
    rw [reconfigurePlot_one hst hbusy hpend hdead] at hrec
    have hdeadCore := List.mem_filter.1 (hdead ▸ List.mem_singleton_self n)
    have hphys : s.boot.enabled.getD n 144 = phys := of_decide_eq_true hdeadCore.2
    have hmarks := mapChanged_frame (replaceCore p s n)
    have hboot := mapChanged_replaceCore_boot (p := p) hphys hspare
    have hcore := mapChanged_replaceCore_coreAt (p := p) hphys hspare
    refine ⟨_, hrec, sameMemories_trans hmarks.twin.sameMemories (replaceCore_sameMemories hphys hspare),
      congrArg Plot.reason (plotReason_plotAt ..), ?_, ?_, ?_, congrArg Core.phys hcore, congrArg Core.plot hcore⟩
    · exact (congrArg (fun b => b.enabled.getD n 144) hboot).trans (listUpd_getD_same _ _ _ _ hn)
    · exact (congrArg Boot.outCores hboot) ▸ List.mem_append_right _ (List.mem_singleton_self phys)
    · exact (congrArg Boot.spares hboot) ▸ fun hx => absurd rfl (of_decide_eq_true (List.mem_filter.1 hx).2)

end Sys2Proof.Laws
end

section
/-! What every instruction of a control core does before its own work, and where it traps: O6, O7, O8. -/

namespace Sys2Proof.Laws

open Sys2Proof.Machine Sys2Proof.Safety

/-! ### One step per instruction -/

/-- The value that a load of a shape brings. -/
def loadValue (i : Instr) (x : Nat) : Word :=
  match i with
  | .ldws .. => (BitVec.ofNat 32 x).signExtend 64
  | _ => BitVec.ofNat 64 x

/-- A load is its step. -/
theorem exec_load {i : Instr} {h : Hart} {rd rs1 : BitVec 5} {imm : BitVec 16} {n : Nat} {P : Prop} {x : Nat} {v : Word}
    (e : loadShape i x v = some (h, rd, rs1, imm, n, P)) (s : State) :
    exec i s = .next (loadStep s h rd rs1 imm n (loadValue i)) := by
  unfold loadShape at e
  split at e <;> cases e <;> rfl

/-- An access of the data area is a step of its control core. -/
theorem areaStep_hartStep (s : State) (h : Hart) (addr : CCore → Word) (n : Nat) (reads : Bool) (work : CCore → Nat → State) :
    ∃ body, areaStep s h addr n reads work = hartStep s h body := ⟨_, rfl⟩

/-- An instruction of a control core is one step of that control core. -/
theorem exec_of_hartOf {i : Instr} {h : Hart} (e : hartOf i = some h) (s : State) :
    ∃ body, exec i s = .next (hartStep s h body) := by
  cases i <;> cases e
  case ldb | ldh | ldw | ldws | ldd =>
    exact (areaStep_hartStep s h _ _ true _).imp fun _ hb => congrArg _ hb
  case stb | sth | stw | std =>
    exact (areaStep_hartStep s h _ _ _ _).imp fun _ hb => congrArg _ hb
  all_goals exact ⟨_, rfl⟩

/-- Settles O8: without a RUN to work for, the step of a control core is no step. -/
theorem onlyReadyControlCoresExecute : Obligations.OnlyReadyControlCoresExecute := by
  unfold Obligations.OnlyReadyControlCoresExecute
  intro s i h hi hr
  obtain ⟨body, hb⟩ := exec_of_hartOf hi s
  rw [hb, hartStep_idle hr]

/-- An instruction of a control core that executes is its body. -/
theorem exec_of_body {s t : State} {i : Instr} {h : Hart} {r : Run} (hx : Executes s h r) {body : Run → CCore → State}
    (hi : exec i s = .next (hartStep s h body)) (hb : body r (s.hart h) = t) : exec i s = .next t := by
  rw [hi, hartStep_executes hx, hb]

/-! ### Traps of the instruction's own -/

/-- An instruction whose body traps its control core ends its RUN. -/
theorem trapped_of_body {s : State} {i : Instr} {h : Hart} {r : Run} (hx : Executes s h r) {cause code : Nat} {st : Status}
    {body : Run → CCore → State} (hi : exec i s = .next (hartStep s h body))
    (hb : body r (s.hart h) = trapHart s h r cause st code) :
    ∃ t, exec i s = .next t ∧ Trapped s t h r cause st code :=
  ⟨_, exec_of_body hx hi hb, trapHart_trapped hx.1 cause st code⟩

/-- Settles O6: TRAP and an undefined word are traps of their control core. -/
theorem trapsEndTheirRun : Obligations.TrapsEndTheirRun := by
  unfold Obligations.TrapsEndTheirRun
  refine ⟨fun s h rs1 arg r hx => trapped_of_body hx rfl rfl, fun s h r hx hw => trapped_of_body hx rfl ?_⟩
  exact if_neg (by simp [hw])

/-! ### Accesses of the data area that trap -/

/-- A misaligned access of the data area traps before anything else is looked at (R330). -/
theorem areaStep_misaligned {s : State} {h : Hart} {r : Run} (hx : Executes s h r) {addr : CCore → Word} {n : Nat}
    (ha : (addr (s.hart h)).toNat % n ≠ 0) (reads : Bool) (body : CCore → Nat → State) :
    areaStep s h addr n reads body = trapHart s h r 3 stBadField 0 :=
  (hartStep_executes hx _).trans (if_pos ha)

/-- An aligned access beyond the data area traps with AREA (R330). -/
theorem areaStep_beyond {s : State} {h : Hart} {r : Run} (hx : Executes s h r) {addr : CCore → Word} {n : Nat}
    (ha : (addr (s.hart h)).toNat % n = 0) (hb : r.hdr.dataBytes < (addr (s.hart h)).toNat + n) (reads : Bool)
    (body : CCore → Nat → State) : areaStep s h addr n reads body = trapHart s h r 4 stPermFault 0 := by
  have hout : inArea r (addr (s.hart h)).toNat n = false := decide_eq_false (Nat.not_le.mpr hb)
  simp [areaStep, hartStep_executes hx, ha, hout]

/-- An instruction that accesses `n` bytes of the data area at `a` traps where they are misaligned, else where they leave
the area. -/
theorem access_traps {s : State} {i : Instr} {h : Hart} {r : Run} (hx : Executes s h r) {addr : CCore → Word} {n a : Nat}
    {reads : Bool} {body : CCore → Nat → State} (hi : exec i s = .next (areaStep s h addr n reads body))
    (ha : (addr (s.hart h)).toNat = a) :
    (a % n ≠ 0 → ∃ t, exec i s = .next t ∧ Trapped s t h r 3 stBadField 0) ∧
    (a % n = 0 → r.hdr.dataBytes < a + n → ∃ t, exec i s = .next t ∧ Trapped s t h r 4 stPermFault 0) := by
  subst ha
  refine ⟨fun hm => ⟨_, ?_, trapHart_trapped hx.1 3 stBadField 0⟩, fun hm hb => ⟨_, ?_, trapHart_trapped hx.1 4 stPermFault 0⟩⟩
  · rw [hi, areaStep_misaligned hx hm]
  · rw [hi, areaStep_beyond hx hm hb]

/-- Settles O7: where an instruction traps before its own work. -/
theorem badAccessesTrap : Obligations.BadAccessesTrap := by
  unfold Obligations.BadAccessesTrap
  refine ⟨fun s i h rd rs1 imm n r hs hx => ?_, fun s h rd rs1 rs2 r hx => access_traps hx rfl rfl,
    fun s h rd rs1 imm r hx hm => trapped_of_body hx rfl ?_, fun s i h r hi hr hp => ?_⟩
  · rcases hs with ⟨P, hl⟩ | hs
    · exact access_traps hx (exec_load hl s) (dataAddr_eq s h rs1 imm)
    · exact access_traps hx (exec_store hs s).1 (dataAddr_eq s h rs1 imm)
  · exact if_pos (by rwa [dataAddr_eq])
  · obtain ⟨body, hb⟩ := exec_of_hartOf hi s
    exact ⟨_, by rw [hb, hartStep_pcRange hr hp], trapHart_trapped hr 2 stBadOpcode 0⟩

end Sys2Proof.Laws
end

section
/-! Loads, branches and jumps of the control cores: O3, O5. -/

namespace Sys2Proof.Laws

open Sys2Proof.Machine Sys2Proof.Safety

/-! ### Loads -/

/-- The value of a load is what its shape asks of it, zero- or sign-extended. -/
theorem loadShape_loadValue {i : Instr} {h : Hart} {rd rs1 : BitVec 5} {imm : BitVec 16} {n x : Nat}
    (e : ∃ P, loadShape i 0 0 = some (h, rd, rs1, imm, n, P)) (hx : x < 256 ^ n) :
    ∃ P, loadShape i x (loadValue i x) = some (h, rd, rs1, imm, n, P) ∧ P := by
  obtain ⟨P, e⟩ := e
  unfold loadShape at e
  split at e <;> cases e
  case h_4 =>
    refine ⟨_, rfl, ?_⟩
    rw [loadValue, BitVec.toInt_signExtend_of_le (by omega), BitVec.toInt_ofNat', Int.bmod_def]
    omega
  all_goals exact ⟨_, rfl, by rw [loadValue, BitVec.toNat_ofNat, Nat.mod_eq_of_lt (by omega)]; nofun⟩

/-- A load from an allowed offset retires with its value. -/
theorem exec_load_ok {s : State} {i : Instr} {h : Hart} {rd rs1 : BitVec 5} {imm : BitVec 16} {n : Nat} {r : Run}
    (e : ∃ P, loadShape i 0 0 = some (h, rd, rs1, imm, n, P)) (hx : Executes s h r)
    (ha : AreaOk s h r (dataAddr s h rs1 imm) n) :
    exec i s = .next (retireReg s h rd (loadValue i (storeNat s h.core (dataAddr s h rs1 imm) n))) := by
  obtain ⟨P, e⟩ := e
  obtain ⟨hal, hin, hbad⟩ := ha
  rw [exec_load e s]
  exact congrArg _ (areaStep_ok hx _ n _ true (dataAddr_eq s h rs1 imm) hal hin (fun _ => hbad) _)

/-- Settles O3: a load is a write of one register. -/
theorem loadsComplete : Obligations.LoadsComplete := by
  unfold Obligations.LoadsComplete
  intro s i h rd rs1 imm n r e hx ha
  obtain ⟨hgo, hrd⟩ := retireReg_wentOn s h rd (loadValue i (storeNat s h.core (dataAddr s h rs1 imm) n))
  exact ⟨_, _, exec_load_ok e hx ha, loadShape_loadValue e (storeNat_lt ..), hrd, hgo, retireWith_onlyHart ..⟩

/-! ### Branches -/

/-- An address plus four times a sign-extended offset (R309). -/
theorem add_four_signExtend {w : Nat} (hw : w ≤ 64) (pc : Word) (off : BitVec w) :
    pc + (off.signExtend 64 <<< 2) = BitVec.ofInt 64 (pc.toInt + 4 * off.toInt) := by
  have h4 : off.signExtend 64 <<< 2 = BitVec.ofInt 64 (4 * off.toInt) := by
    rw [BitVec.shiftLeft_eq_mul_twoPow, mul_comm]
    apply BitVec.eq_of_toInt_eq
    rw [BitVec.toInt_mul, BitVec.toInt_ofInt, BitVec.toInt_signExtend_of_le hw]
    rfl
  rw [h4, BitVec.ofInt_add, BitVec.ofInt_toInt]

/-- Whether a branch is taken. -/
def takes (i : Instr) (c : CCore) : Bool :=
  match i with
  | .beq _ a b _ => decide (regGet c a = regGet c b)
  | .bne _ a b _ => decide (regGet c a ≠ regGet c b)
  | .blt _ a b _ => (regGet c a).slt (regGet c b)
  | .bge _ a b _ => !(regGet c a).slt (regGet c b)
  | .bltu _ a b _ => (regGet c a).ult (regGet c b)
  | .bgeu _ a b _ => !(regGet c a).ult (regGet c b)
  | _ => false

/-- A branch is its step, taken under the table's condition. -/
theorem exec_branch {s : State} {i : Instr} {h : Hart} {off : BitVec 16} {P : Prop} (e : branchShape s i = some (h, off, P)) :
    exec i s = .next (branchStep s h off (takes i)) ∧ (takes i (s.hart h) = true ↔ P) := by
  unfold branchShape at e
  split at e <;> cases e <;>
    exact ⟨rfl, by simp [takes, reg, BitVec.slt_eq_decide, BitVec.ult_eq_decide]⟩

/-- A control core that retires at another PC goes on there, its registers as they were. -/
theorem retireWith_id_wentOn (s : State) (h : Hart) (pc : Word) : WentOn s (retireWith s h pc id) h 0 pc := by
  refine ⟨fun k _ => ?_, ?_⟩
  · rw [reg, retireWith_hart]; rfl
  · rw [retireWith_hart]; rfl

/-- A branch goes to its target or to the next instruction. -/
theorem branch_completes {s : State} {i : Instr} {h : Hart} {off : BitVec 16} {P : Prop} {r : Run}
    (e : branchShape s i = some (h, off, P)) (hx : Executes s h r) :
    ∃ t, exec i s = .next t ∧ OnlyHart s t h ∧
      (P → WentOn s t h 0 (BitVec.ofInt 64 ((s.hart h).pc.toInt + 4 * off.toInt))) ∧
      (¬ P → WentOn s t h 0 ((s.hart h).pc + 4)) := by
  obtain ⟨he, hp⟩ := exec_branch e
  rw [branchStep, hartStep_executes hx] at he
  refine ⟨_, he, retireWith_onlyHart .., fun h1 => ?_, fun h0 => ?_⟩
  · rw [if_pos (hp.2 h1), branchTo, sext16, add_four_signExtend (by omega)]
    exact retireWith_id_wentOn ..
  · rw [if_neg (mt hp.1 h0)]
    exact retireWith_id_wentOn ..

/-! ### Jumps -/

/-- A jump that links goes on at its target, with the link in rd. -/
theorem link_completes (s : State) (h : Hart) (rd : BitVec 5) (pc v : Word) :
    OnlyHart s (retireWith s h pc (fun x => regSet x rd v)) h ∧
    reg (retireWith s h pc (fun x => regSet x rd v)) h rd = (if rd = 0 then 0 else v) ∧
    WentOn s (retireWith s h pc (fun x => regSet x rd v)) h rd pc := by
  refine ⟨retireWith_onlyHart .., ?_, fun k hk => ?_, ?_⟩
  · rw [reg, retireWith_hart, regGet_regSet, if_pos rfl]
  · rw [reg, retireWith_hart, regGet_regSet]
    split
    · next e =>
      obtain rfl : k = 0 := hk.resolve_left (absurd e)
      rw [if_pos e.symm]; rfl
    · rfl
  · rw [retireWith_hart, regSet_fields]

/-- Settles O5: branches and jumps retire at their target. -/
theorem branchesAndJumpsComplete : Obligations.BranchesAndJumpsComplete := by
  unfold Obligations.BranchesAndJumpsComplete
  refine ⟨fun s i h off P r e hx => branch_completes e hx, fun s h rd off r hx => ?_, fun s h rd rs1 imm r hx ha => ?_⟩
  · refine ⟨_, exec_of_body hx rfl rfl, ?_⟩
    rw [jumpTo, sext21, add_four_signExtend (by omega)]
    exact link_completes ..
  · refine ⟨_, exec_of_body hx rfl (if_neg (by simpa [dataAddr_eq] using ha)), ?_⟩
    rw [← dataAddr_eq, BitVec.ofNat_toNat, BitVec.setWidth_eq]
    exact link_completes ..

end Sys2Proof.Laws
end

section
/-! Arithmetic of the control cores: O2. -/

namespace Sys2Proof.Laws

open Sys2Proof.Machine Sys2Proof.Safety

/-- An instruction of a result table writes one register with a value that meets the table. -/
def Computes (result : State → Instr → Word → Option (Hart × BitVec 5 × Prop)) : Prop :=
  ∀ (s : State) (i : Instr) (h : Hart) (rd : BitVec 5), (∃ P, result s i 0 = some (h, rd, P)) →
    ∃ f, exec i s = .next (aluStep s h rd f) ∧ ∃ P, result s i (f (s.hart h)) = some (h, rd, P) ∧ P

theorem resultStatement_of_computes {result : State → Instr → Word → Option (Hart × BitVec 5 × Prop)}
    (hc : Computes result) : ResultStatement result := by
  intro s i h rd r e hx
  obtain ⟨f, hf, hp⟩ := hc s i h rd e
  rw [aluStep, hartStep_executes hx] at hf
  obtain ⟨hgo, hrd⟩ := retireReg_wentOn s h rd (f (s.hart h))
  exact ⟨_, _, hf, hp, hrd, hgo, retireWith_onlyHart ..⟩

/-! ### Values -/

theorem add_signExtend (x : Word) (imm : BitVec 16) : x + sext16 imm = BitVec.ofInt 64 (x.toInt + imm.toInt) := by
  rw [BitVec.ofInt_add, BitVec.ofInt_toInt]
  rfl

theorem sext16_toInt (imm : BitVec 16) : (sext16 imm).toInt = imm.toInt :=
  BitVec.toInt_signExtend_of_le (by omega)

theorem sext16_toNat (imm : BitVec 16) : (sext16 imm).toNat = (imm.toInt % 2 ^ 64).toNat :=
  BitVec.toNat_ofInt ..

theorem zext16_toNat (imm : BitVec 16) : (zext16 imm).toNat = imm.toNat := by
  rw [zext16, BitVec.toNat_setWidth, Nat.mod_eq_of_lt (by omega)]

theorem sub_add_toNat (x y : Word) : ((x - y).toNat + y.toNat) % 2 ^ 64 = x.toNat := by
  rw [← BitVec.toNat_add, BitVec.sub_add_cancel]

/-- A shift left by 16 leaves room for a constant of 16 bits. -/
theorem append_toNat (x : Word) (imm : BitVec 16) :
    (x <<< 16 ||| zext16 imm).toNat = (x.toNat * 2 ^ 16 + imm.toNat) % 2 ^ 64 := by
  have hm : x.toNat <<< 16 % 2 ^ 64 = (x.toNat % 2 ^ 48) <<< 16 := by
    simp only [Nat.shiftLeft_eq]
    omega
  rw [BitVec.toNat_or, zext16_toNat, BitVec.toNat_shiftLeft, hm, ← Nat.shiftLeft_add_eq_or_of_lt imm.isLt, Nat.shiftLeft_eq]
  omega

theorem shl_toNat (x : Word) (n : Nat) : (x <<< n).toNat = x.toNat * 2 ^ n % 2 ^ 64 := by
  rw [BitVec.toNat_shiftLeft, Nat.shiftLeft_eq]

theorem shr_toNat (x : Word) (n : Nat) : (x >>> n).toNat = x.toNat / 2 ^ n := by
  rw [BitVec.toNat_ushiftRight, Nat.shiftRight_eq_div_pow]

theorem sar_toInt (x : Word) (n : Nat) : (x.sshiftRight n).toInt = x.toInt / 2 ^ n := by
  rw [BitVec.toInt_sshiftRight, Int.shiftRight_eq_div_pow]
  norm_cast

theorem boolWord_slt (x y : Word) : boolWord (x.slt y) = if x.toInt < y.toInt then 1 else 0 := by
  simp [boolWord, BitVec.slt_eq_decide]

theorem boolWord_ult (x y : Word) : boolWord (x.ult y) = if x.toNat < y.toNat then 1 else 0 := by
  simp [boolWord, BitVec.ult_eq_decide]

theorem minu_toNat (x y : Word) : (if x.ult y then x else y).toNat = min x.toNat y.toNat := by
  simp only [BitVec.ult_eq_decide, decide_eq_true_eq]
  split <;> omega

theorem maxu_toNat (x y : Word) : (if x.ult y then y else x).toNat = max x.toNat y.toNat := by
  simp only [BitVec.ult_eq_decide, decide_eq_true_eq]
  split <;> omega

/-- The high word of a signed product is no more than a word. -/
theorem mulh_toInt (x y : Word) : (BitVec.ofInt 64 (x.toInt * y.toInt / 2 ^ 64)).toInt = x.toInt * y.toInt / 2 ^ 64 := by
  have hx : |x.toInt| ≤ 2 ^ 63 := abs_le.mpr ⟨BitVec.le_toInt x, (BitVec.toInt_lt (x := x)).le⟩
  have hy : |y.toInt| ≤ 2 ^ 63 := abs_le.mpr ⟨BitVec.le_toInt y, (BitVec.toInt_lt (x := y)).le⟩
  have hxy : |x.toInt * y.toInt| ≤ 2 ^ 63 * 2 ^ 63 := by
    rw [abs_mul]
    exact mul_le_mul hx hy (abs_nonneg _) (by norm_num)
  obtain ⟨hl, hu⟩ := abs_le.mp hxy
  exact BitVec.toInt_ofInt_eq_self (by norm_num) (by omega) (by omega)

theorem mulhu_toNat (x y : Word) : (BitVec.ofNat 64 (x.toNat * y.toNat / 2 ^ 64)).toNat = x.toNat * y.toNat / 2 ^ 64 := by
  have h : x.toNat * y.toNat < 2 ^ 64 * 2 ^ 64 := Nat.mul_lt_mul'' x.isLt y.isLt
  exact BitVec.toNat_ofNat .. |>.trans (Nat.mod_eq_of_lt (by omega))

theorem popc_toNat (x : Word) :
    (BitVec.ofNat 64 ((List.range 64).filter (fun i => x.toNat.testBit i)).length).toNat = ones x := by
  have h : ones x ≤ 64 := List.countP_le_length.trans_eq List.length_range
  rw [← List.countP_eq_length_filter]
  exact BitVec.toNat_ofNat .. |>.trans (Nat.mod_eq_of_lt (h.trans_lt (by norm_num)))

/-- The leading zeros of a word stand above its highest one. -/
theorem leadingZeros_log2 (x : Word) : LeadingZeros x (BitVec.ofNat 64 (if x.toNat = 0 then 64 else 63 - x.toNat.log2)) := by
  by_cases hz : x.toNat = 0
  · have hx : x = 0#64 := BitVec.eq_of_toNat_eq hz
    simp [LeadingZeros, hx]
  · have hl : x.toNat.log2 < 64 := (Nat.log2_lt hz).2 x.isLt
    have hv : (BitVec.ofNat 64 (63 - x.toNat.log2)).toNat = 63 - x.toNat.log2 :=
      BitVec.toNat_ofNat .. |>.trans (Nat.mod_eq_of_lt (by omega))
    simp only [LeadingZeros, if_neg hz, hv]
    refine ⟨by omega, fun i hi => ?_, fun _ => ?_⟩
    · exact Nat.testBit_lt_two_pow ((Nat.log2_lt hz).1 (by omega))
    · have h63 : 63 - (63 - x.toNat.log2) = x.toNat.log2 := by omega
      rw [h63]
      exact Nat.testBit_log2 hz

/-! ### The tables -/

theorem basicResult_computes : Computes basicResult := by
  rintro s i h rd ⟨P, e⟩
  cases i <;> cases e <;> refine ⟨_, rfl, _, rfl, ?_⟩
  case add => exact BitVec.toNat_add ..
  case sub => exact sub_add_toNat ..
  case and => exact fun _ => BitVec.getLsbD_and
  case or => exact fun _ => BitVec.getLsbD_or
  case xor => exact fun _ => BitVec.getLsbD_xor
  case addi => exact add_signExtend ..
  case andi imm => exact (BitVec.toNat_and ..).trans (congrArg _ (zext16_toNat imm))
  case ori imm => exact (BitVec.toNat_or ..).trans (congrArg _ (zext16_toNat imm))
  case xori imm => exact (BitVec.toNat_xor ..).trans (congrArg _ (zext16_toNat imm))
  case ldk => exact BitVec.toInt_signExtend_of_le (by omega)
  case apk => exact append_toNat ..

theorem compareResult_computes : Computes compareResult := by
  rintro s i h rd ⟨P, e⟩
  cases i <;> cases e <;> refine ⟨_, rfl, _, rfl, ?_⟩
  case shl | shli => exact shl_toNat ..
  case shr | shri => exact shr_toNat ..
  case sar | sari => exact sar_toInt ..
  case slt => exact boolWord_slt ..
  case sltu => exact boolWord_ult ..
  case minu => exact minu_toNat ..
  case maxu => exact maxu_toNat ..
  case slti imm => rw [← sext16_toInt imm]; exact boolWord_slt ..
  case sltiu imm => rw [← sext16_toNat imm]; exact boolWord_ult ..

theorem productResult_computes : Computes productResult := by
  rintro s i h rd ⟨P, e⟩
  cases i <;> cases e <;> refine ⟨_, rfl, _, rfl, ?_⟩
  case mul => exact BitVec.toNat_mul ..
  case mulh => exact mulh_toInt ..
  case mulhu => exact mulhu_toNat ..
  case divu rs1 rs2 =>
    by_cases hz : reg s h rs2 = 0
    · exact (if_pos hz).mpr (if_pos hz)
    · exact (if_neg hz).mpr ((congrArg _ (if_neg hz)).trans (BitVec.toNat_udiv ..))
  case remu rs1 rs2 =>
    by_cases hz : reg s h rs2 = 0
    · exact (if_pos hz).mpr (if_pos hz)
    · exact (if_neg hz).mpr ((congrArg _ (if_neg hz)).trans (BitVec.toNat_umod ..))
  case popc => exact popc_toNat ..
  case clz => exact leadingZeros_log2 ..

/-- Settles O2: each instruction of the three tables writes one register with the table's value. -/
theorem arithmeticCompletes : Obligations.ArithmeticCompletes :=
  ⟨resultStatement_of_computes basicResult_computes, resultStatement_of_computes compareResult_computes,
    resultStatement_of_computes productResult_computes⟩

end Sys2Proof.Laws
end

section
/-! Instructions that retire beside another effect, the tickets, seeds, identities and time: O9, O10, O15. -/

namespace Sys2Proof.Laws

open Sys2Proof.Machine Sys2Proof.Safety

/-! ### Retiring with a result -/

/-- An instruction has put `v` into rd and gone on to the next one. -/
def Returned (s t : State) (h : Hart) (rd : BitVec 5) (v : Word) : Prop :=
  reg t h rd = (if rd = 0 then 0 else v) ∧ WentOn s t h rd ((s.hart h).pc + 4)

/-- An instruction whose own effects leave its control core alone returns its value. -/
theorem retireReg_returned {s u : State} {h : Hart} (e : u.hart h = s.hart h) (rd : BitVec 5) (v : Word) :
    Returned s (retireReg u h rd v) h rd v := by
  obtain ⟨hgo, hrd⟩ := retireReg_wentOn u h rd v
  rw [e] at hgo
  exact ⟨hrd, wentOn_of_hart e hgo⟩

/-- What comes after an instruction and leaves its control core alone leaves its result. -/
theorem Returned.of_hart {s t t' : State} {h : Hart} {rd : BitVec 5} {v : Word} (w : Returned s t h rd v)
    (e : t'.hart h = t.hart h) : Returned s t' h rd v := by
  simpa only [Returned, WentOn, reg, e] using w

theorem Returned.zero {s t : State} {h : Hart} {rd : BitVec 5} (w : Returned s t h rd 0) : reg t h rd = 0 :=
  w.1.trans (ite_self 0)

theorem hart_of_cores {s t : State} (e : t.cores = s.cores) (h : Hart) : t.hart h = s.hart h := by
  rw [State.hart, State.workAt, coreAt_of_cores e]
  rfl

theorem workAt_of_cores {s t : State} (e : t.cores = s.cores) (n : Nat) : t.workAt n = s.workAt n := by
  rw [State.workAt, coreAt_of_cores e]
  rfl

/-- A change of a core's work beside a control core leaves that control core alone. -/
theorem updWork_hart_of {s : State} {h : Hart} {f : Work → Work}
    (hf : (f (s.workAt h.core)).cc h.cc = (s.workAt h.core).cc h.cc) : (s.updWork h.core f).hart h = s.hart h := by
  rw [State.hart, updWork_workAt_same, hf]
  rfl

theorem retireWith_workAt (s : State) (h : Hart) (pc : Word) (f : CCore → CCore) :
    (retireWith s h pc f).workAt h.core =
      (s.workAt h.core).setCc h.cc (f { s.hart h with pc := pc, mode := .running, wait := .none }) := by
  rw [State.workAt, retireWith_coreAt]

@[simp] theorem setCc_since (w : Work) (b : Bool) (c : CCore) : (w.setCc b c).since = w.since := by cases b <;> rfl
@[simp] theorem setCc_seeds (w : Work) (b : Bool) (c : CCore) : (w.setCc b c).seeds = w.seeds := by cases b <;> rfl
@[simp] theorem setCc_benches (w : Work) (b : Bool) (c : CCore) : (w.setCc b c).benches = w.benches := by cases b <;> rfl
@[simp] theorem setCc_wqs (w : Work) (b : Bool) (c : CCore) : (w.setCc b c).wqs = w.wqs := by cases b <;> rfl
@[simp] theorem setCc_rbars (w : Work) (b : Bool) (c : CCore) : (w.setCc b c).rbars = w.rbars := by cases b <;> rfl

@[simp] theorem setUnitQ_cc (w : Work) (u : EngineUnit) (q : UnitQ) (b : Bool) : (w.setUnitQ u q).cc b = w.cc b := by
  cases u <;> rfl
@[simp] theorem setUnitQ_store (w : Work) (u : EngineUnit) (q : UnitQ) : (w.setUnitQ u q).store = w.store := by
  cases u <;> rfl

/-- Retiring leaves the memories alone. -/
theorem retireWith_sameMemories (s : State) (h : Hart) (pc : Word) (f : CCore → CCore) :
    SameMemories (retireWith s h pc f) s := ⟨rfl, rfl, rfl⟩

/-! ### Issue -/

/-- The state after a command has been copied into its unit's queue (R313, R314). -/
def queued (s : State) (core : Nat) (u : EngineUnit) (bytes : List Byte) : State :=
  let n := ((s.workAt core).unitQ u).issued + 1
  s.updWork core (fun w =>
    { (w.setUnitQ u { (s.workAt core).unitQ u with issued := n, queue := ((s.workAt core).unitQ u).queue ++ [⟨n, bytes⟩] }) with
      since := w.since ++ [(u, n, none)], issuedAny := true })

theorem queued_hart (s : State) (h : Hart) (u : EngineUnit) (bytes : List Byte) :
    (queued s h.core u bytes).hart h = s.hart h :=
  updWork_hart_of (setUnitQ_cc ..)

theorem queued_unitQ_same (s : State) (core : Nat) (u : EngineUnit) (bytes : List Byte) :
    ((queued s core u bytes).workAt core).unitQ u =
      { (s.workAt core).unitQ u with
        issued := ((s.workAt core).unitQ u).issued + 1
        queue := ((s.workAt core).unitQ u).queue ++ [⟨((s.workAt core).unitQ u).issued + 1, bytes⟩] } := by
  rw [queued, updWork_workAt_same]
  exact setUnitQ_unitQ_same ..

theorem queued_unitQ_other (s : State) (core : Nat) {u w : EngineUnit} (bytes : List Byte) (hw : w ≠ u) :
    ((queued s core u bytes).workAt core).unitQ w = (s.workAt core).unitQ w := by
  rw [queued, updWork_workAt_same]
  exact setUnitQ_unitQ_other _ _ hw

theorem queued_store (s : State) (core : Nat) (u : EngineUnit) (bytes : List Byte) :
    ((queued s core u bytes).workAt core).store = (s.workAt core).store := by
  rw [queued, updWork_workAt_same]
  exact setUnitQ_store ..

/-- A command for a queue with room, of bytes without an error, is queued and its ticket returned; beside that the
declarations of a timed plot are looked at, and the RUN notes the command (R286). -/
theorem issueTo_ok {s : State} {h : Hart} {rd : BitVec 5} {r : Run} {a : Nat} {u : EngineUnit}
    (hroom : ((s.workAt h.core).unitQ u).queue.length < 16) (hbad : storeBad s h.core a 64 = none) :
    let t := retireReg (queued s h.core u (memReadN (s.workAt h.core).store a 64)) h rd
      (ticketOf u (((s.workAt h.core).unitQ u).issued + 1))
    (issueTo s h rd r a u).cores = t.cores ∧ SameMemories (issueTo s h rd r a u) t := by
  unfold issueTo
  simp only [Nat.not_le.mpr hroom, if_false, hbad]
  split
  · exact ⟨timingBroken_cores .., timingBroken_near .., timingBroken_far .., timingBroken_host ..⟩
  · exact ⟨rfl, rfl, rfl, rfl⟩

/-- What O9 says of a command that goes into its unit's queue. -/
theorem issueTo_complete {s : State} {h : Hart} {rd : BitVec 5} {r : Run} {a : Nat} {u : EngineUnit}
    (hroom : ((s.workAt h.core).unitQ u).queue.length < 16) (hbad : storeBad s h.core a 64 = none) :
    let t := issueTo s h rd r a u
    let n := ((s.workAt h.core).unitQ u).issued + 1
    ((t.workAt h.core).unitQ u).issued = n ∧
      ((t.workAt h.core).unitQ u).queue = ((s.workAt h.core).unitQ u).queue ++ [⟨n, memReadN (s.workAt h.core).store a 64⟩] ∧
      (∀ w, w ≠ u → (t.workAt h.core).unitQ w = (s.workAt h.core).unitQ w) ∧
      (t.workAt h.core).store = (s.workAt h.core).store ∧
      reg t h rd = (if rd = 0 then 0 else BitVec.ofNat 64 (unitNum u * 2 ^ 60 + n)) ∧
      WentOn s t h rd ((s.hart h).pc + 4) ∧ SameMemories t s := by
  intro t n
  obtain ⟨hcores, hmem⟩ := issueTo_ok (rd := rd) (r := r) hroom hbad
  have hwork := workAt_of_cores hcores h.core
  obtain ⟨hrd, hgo⟩ := (retireReg_returned (queued_hart s h u (memReadN (s.workAt h.core).store a 64)) rd
    (ticketOf u n)).of_hart (hart_of_cores hcores h)
  rw [retireReg, retireWith_workAt] at hwork
  refine ⟨?_, ?_, fun w hw => ?_, ?_, hrd, hgo, sameMemories_trans hmem ⟨rfl, rfl, rfl⟩⟩ <;> rw [hwork]
  · rw [setCc_unitQ, queued_unitQ_same]
  · rw [setCc_unitQ, queued_unitQ_same]
  · rw [setCc_unitQ, queued_unitQ_other _ _ _ hw]
  · rw [setCc_store, queued_store]

/-- The bytes of a range without an error hold none either. -/
theorem storeBad_part {s : State} {core a m n : Nat} (hmn : m ≤ n) (hb : storeBad s core a n = none) :
    storeBad s core a m = none := by
  simp only [storeBad, Option.map_eq_none_iff, List.find?_eq_none, decide_eq_true_eq] at hb ⊢
  intro p hp hbad
  exact hb p hp ⟨hbad.1, hbad.2.1, by omega, by omega⟩

theorem storeNat_one (s : State) (core a : Nat) : storeNat s core a 1 = (memRead (s.workAt core).store a).toNat := by
  simp [storeNat, memReadN, leNat]

/-- ISSUE of an opcode of a unit, and DMA, go to that unit's queue. -/
theorem exec_issue {s : State} {h : Hart} {rd rs1 : BitVec 5} {r : Run} {u : EngineUnit} {i : Instr}
    (hi : i = .issue h rd rs1 ∧ unitOf (storeNat s h.core (reg s h rs1).toNat 1) = some u ∨ i = .dma h rd rs1 ∧ u = .dma)
    (hx : Executes s h r) (ha : AreaOk s h r (reg s h rs1).toNat 64) :
    exec i s = .next (issueTo s h rd r (reg s h rs1).toNat u) := by
  obtain ⟨hal, hin, hbad⟩ := ha
  have hin64 : inArea r (reg s h rs1).toNat 64 = true := decide_eq_true hin
  rcases hi with ⟨rfl, hop⟩ | ⟨rfl, rfl⟩
  · refine exec_of_body hx rfl ?_
    rw [storeNat_one] at hop
    rw [reg] at hal hin64 hbad hop
    simp [storeGuard, storeBad_part (m := if inArea r (regGet (s.hart h) rs1).toNat 1 then 1 else 0)
      (by split <;> omega) hbad, hop, hal, hin64, reg]
  · refine exec_of_body hx rfl ?_
    rw [reg] at hal hin64
    simp [hal, hin64, reg]

/-- Settles O9: the command goes to the end of its unit's queue, and the instruction retires with its ticket. -/
theorem issueAndDmaComplete : Obligations.IssueAndDmaComplete := by
  unfold Obligations.IssueAndDmaComplete
  intro s h rd rs1 r u i hi hx ha hroom
  exact ⟨_, exec_issue hi hx ha, issueTo_complete hroom ha.2.2⟩

/-! ### Waiting for commands -/

/-- A core whose queues are empty has no command to wait for (R319). -/
theorem drained_of_empty {w : Work} (hq : ∀ u, (w.unitQ u).queue = []) : drained w = true := by
  have hd := hq .dma
  have hs := hq .spin
  have hn := hq .dense
  have hv := hq .vector
  simp only [Work.unitQ] at hd hs hn hv
  simp [drained, hd, hs, hn, hv]

theorem drainStep_of_empty {s : State} {h : Hart} (hq : ∀ u, ((s.workAt h.core).unitQ u).queue = []) (r : Run) (body : State) :
    drainStep s h r body = body :=
  if_pos (drained_of_empty hq)

/-- An instruction that only returns a value changes its control core alone. -/
theorem returns_of_body {s : State} {i : Instr} {h : Hart} {r : Run} {rd : BitVec 5} {v : Word} (hx : Executes s h r)
    {body : Run → CCore → State} (hi : exec i s = .next (hartStep s h body)) (hb : body r (s.hart h) = retireReg s h rd v) :
    ∃ t, exec i s = .next t ∧ reg t h rd = (if rd = 0 then 0 else v) ∧ WentOn s t h rd ((s.hart h).pc + 4) ∧ OnlyHart s t h := by
  obtain ⟨hrd, hgo⟩ := retireReg_returned (u := s) (h := h) rfl rd v
  exact ⟨_, exec_of_body hx hi hb, hrd, hgo, retireWith_onlyHart ..⟩

/-- EDRAIN of a core without commands returns the earliest status that is not DONE, and forgets them (R310). -/
theorem edrain_complete {s : State} {h : Hart} {r : Run} (rd : BitVec 5) (hx : Executes s h r)
    (hq : ∀ u, ((s.workAt h.core).unitQ u).queue = []) :
    ∃ t, exec (.edrain h rd) s = .next t ∧ (t.workAt h.core).since = [] ∧
      reg t h rd = (if rd = 0 then 0 else (earliestBad (s.workAt h.core)).zeroExtend 64) ∧
      WentOn s t h rd ((s.hart h).pc + 4) := by
  have hu : (s.updWork h.core (fun w => { w with since := [] })).hart h = s.hart h := updWork_hart_of rfl
  refine ⟨_, exec_of_body hx rfl (drainStep_of_empty hq r _), ?_, retireReg_returned hu rd _⟩
  rw [retireReg, retireWith_workAt, setCc_since, updWork_workAt_same]

/-- Settles O10: each of them returns what the tickets say and retires. -/
theorem ticketWaitsComplete : Obligations.TicketWaitsComplete := by
  unfold Obligations.TicketWaitsComplete
  refine ⟨fun s h rd rs1 r st hx ht => returns_of_body hx rfl ?_, fun s h rd rs1 r x hx ht => ?_,
    fun s h rd r hx hq => ⟨edrain_complete rd hx hq, ?_⟩⟩
  · rw [reg] at ht
    simp only [ht]
    rfl
  · rw [reg] at ht
    cases x with
    | none => exact returns_of_body hx rfl (by simp only [ht])
    | some st => exact returns_of_body hx rfl (by simp only [ht]; rfl)
  · exact ⟨_, exec_of_body hx rfl (drainStep_of_empty hq r _), retire_wentOn s h, retireWith_onlyHart ..⟩

/-! ### Seeds, benchmarks, identities and time -/

/-- SEED with its seed drawn takes it (R328). -/
theorem seed_complete {s : State} {h : Hart} {rd : BitVec 5} {r : Run} {v : Word} (hx : Executes s h r) (hcc : h.cc = false)
    (hany : (s.workAt h.core).issuedAny = false) (hv : r.seeds[(s.workAt h.core).seeds]? = some v) :
    ∃ t, exec (.seed h rd) s = .next t ∧ reg t h rd = (if rd = 0 then 0 else v) ∧
      (t.workAt h.core).seeds = (s.workAt h.core).seeds + 1 ∧ WentOn s t h rd ((s.hart h).pc + 4) ∧ SameMemories t s := by
  have hu : (s.updWork h.core (fun w => { w with seeds := w.seeds + 1 })).hart h = s.hart h := updWork_hart_of rfl
  obtain ⟨hrd, hgo⟩ := retireReg_returned hu rd v
  refine ⟨_, exec_of_body hx rfl (by simp only [hcc, hany, hv]; rfl), hrd, ?_, hgo, ⟨rfl, rfl, rfl⟩⟩
  rw [retireReg, retireWith_workAt, setCc_seeds, updWork_workAt_same]

/-- BENCHMARK whose benchmark has been taken returns its status (R329). -/
theorem benchmark_complete {s : State} {h : Hart} {rd rs1 : BitVec 5} {arg : BitVec 8} {r : Run} {st : Status}
    (hx : Executes s h r) (hcc : h.cc = false) (harg : arg.toNat ≤ 1) (hal : (reg s h rs1).toNat % 16 = 0)
    (hin : (reg s h rs1).toNat + 16 ≤ r.hdr.dataBytes) (hf : s.findRun r.key = some r)
    (hst : r.benches[(s.workAt h.core).benches]? = some st) :
    ∃ t, exec (.benchmark h rd rs1 arg) s = .next t ∧ reg t h rd = (if rd = 0 then 0 else st.zeroExtend 64) ∧
      (t.workAt h.core).benches = (s.workAt h.core).benches + 1 ∧ WentOn s t h rd ((s.hart h).pc + 4) ∧ SameMemories t s := by
  have hu : (s.updWork h.core (fun w => { w with benches := w.benches + 1 })).hart h = s.hart h := updWork_hart_of rfl
  obtain ⟨hrd, hgo⟩ := retireReg_returned hu rd (statusWord st)
  obtain ⟨hlt, -⟩ := List.getElem?_eq_some_iff.mp hst
  have htake : takeBench s h rd r.key =
      retireReg (s.updWork h.core (fun w => { w with benches := w.benches + 1 })) h rd (statusWord st) := by
    simp only [takeBench, hf, hst]
  rw [reg] at hal hin
  refine ⟨_, exec_of_body hx rfl ?_, hrd, ?_, hgo, ⟨rfl, rfl, rfl⟩⟩
  · simp only [← htake, Nat.not_lt.mpr harg, hal, inArea, hin, hcc, hlt]
    rfl
  · rw [retireReg, retireWith_workAt, setCc_benches, updWork_workAt_same]

/-- The identity that a selector of RDID names (R310). -/
def identity (s : State) (h : Hart) (r : Run) (sel : Nat) : Option Nat :=
  [rankIn r.cores h.core, r.cores.length, bitNat h.cc, r.key.ctx, s.fab.chip, h.core, r.hdr.dataBytes, s.boot.fw.arithRev][sel]?

/-- RDID of a selector of the table returns the identity. -/
theorem exec_rdid {s : State} {h : Hart} {rd : BitVec 5} {arg : BitVec 8} {r : Run} {n : Nat} (hx : Executes s h r)
    (hn : identity s h r arg.toNat = some n) :
    exec (.rdid h rd arg) s = .next (retireReg s h rd (BitVec.ofNat 64 n)) := by
  refine exec_of_body hx rfl ?_
  have harg : arg.toNat < 8 := (List.getElem?_eq_some_iff.mp hn).1
  generalize arg.toNat = k at hn harg ⊢
  interval_cases k <;> cases hn <;> rfl

/-- What O15 says of RDID. -/
theorem rdid_complete {s : State} {h : Hart} {rd : BitVec 5} {arg : BitVec 8} {r : Run} (hx : Executes s h r)
    (harg : arg.toNat ≤ 7) (hrd : rd ≠ 0) :
    ∃ t, exec (.rdid h rd arg) s = .next t ∧ OnlyHart s t h ∧ WentOn s t h rd ((s.hart h).pc + 4) ∧
      some (reg t h rd) = (identity s h r arg.toNat).map (BitVec.ofNat 64) := by
  obtain ⟨n, hn⟩ : ∃ n, identity s h r arg.toNat = some n := ⟨_, List.getElem?_eq_getElem (Nat.lt_succ_of_le harg)⟩
  obtain ⟨hv, hgo⟩ := retireReg_returned (u := s) (h := h) rfl rd (BitVec.ofNat 64 n)
  refine ⟨_, exec_rdid hx hn, retireWith_onlyHart .., hgo, ?_⟩
  rw [hv, if_neg hrd, hn]
  rfl

/-- READ_TIME retires with a value, and all ones for a port without time; an open value is drawn beside it. -/
theorem exec_readTime {s : State} {h : Hart} (rd : BitVec 5) {arg : BitVec 8} {r : Run} (hx : Executes s h r)
    (harg : arg.toNat ≤ 2) :
    ∃ t v, exec (.readTime h rd arg) s = .next t ∧ t.cores = (retireReg s h rd v).cores ∧
      SameMemories t (retireReg s h rd v) ∧
      (1 ≤ arg.toNat → (s.portAt (arg.toNat - 1)).time = 0 → v = BitVec.allOnes 64) := by
  by_cases h0 : arg.toNat = 0
  · exact ⟨_, _, exec_of_body hx rfl (if_pos h0), rfl, sameMemories_refl _, fun h1 => by omega⟩
  · by_cases ht : (s.portAt (arg.toNat - 1)).time = 0
    · exact ⟨_, _, exec_of_body hx rfl ((if_neg h0).trans ((if_pos harg).trans (if_pos ht))), rfl, sameMemories_refl _,
        fun _ _ => rfl⟩
    · exact ⟨_, _, exec_of_body hx rfl ((if_neg h0).trans ((if_pos harg).trans (if_neg ht))), rfl, sameMemories_refl _,
        fun _ hz => absurd hz ht⟩

/-- What O15 says of READ_TIME. -/
theorem readTime_complete {s : State} {h : Hart} (rd : BitVec 5) {arg : BitVec 8} {r : Run} (hx : Executes s h r)
    (harg : arg.toNat ≤ 2) :
    ∃ t, exec (.readTime h rd arg) s = .next t ∧ WentOn s t h rd ((s.hart h).pc + 4) ∧ SameMemories t s ∧
      (1 ≤ arg.toNat → (s.portAt (arg.toNat - 1)).time = 0 → rd ≠ 0 → reg t h rd = BitVec.allOnes 64) := by
  obtain ⟨t, v, ht, hcores, hmem, hv⟩ := exec_readTime rd hx harg
  obtain ⟨hrd, hgo⟩ := (retireReg_returned (u := s) (h := h) rfl rd v).of_hart (hart_of_cores hcores h)
  refine ⟨t, ht, hgo, sameMemories_trans hmem ⟨rfl, rfl, rfl⟩, fun h1 hz h0 => ?_⟩
  rw [hrd, if_neg h0, hv h1 hz]

/-- Settles O15: each of the four reads its value and retires with it. -/
theorem identitySeedAndTimeReadsComplete : Obligations.IdentitySeedAndTimeReadsComplete := by
  unfold Obligations.IdentitySeedAndTimeReadsComplete
  exact ⟨fun s h rd r v hx hcc hany hv => seed_complete hx hcc hany hv,
    fun s h rd rs1 arg r st hx hcc harg hal hin hf hst => benchmark_complete hx hcc harg hal hin hf hst,
    fun s h rd arg r hx harg hrd => rdid_complete hx harg hrd,
    fun s h rd arg r hx harg => readTime_complete rd hx harg⟩

end Sys2Proof.Laws
end

section
/-! When a control core executes, and folds of steps that let a waiting control core go on: what O11 and O12 rest on. -/

namespace Sys2Proof.Laws

open Sys2Proof.Machine Sys2Proof.Safety

/-! ### When a control core executes -/

/-- A core works for a RUN that is dispatched and goes on, of a context that is ACTIVE and holds the core's plot (R331, R361,
R404). -/
def RunsOn (s : State) (n : Nat) (r : Run) : Prop :=
  s.runOf n = some r ∧ chipRuns s = true ∧ (s.coreAt n).power = 0 ∧ (s.coreAt n).quiesce ≠ 1 ∧ r.phase = .dispatched ∧
  r.status = none ∧ r.timedOut = false ∧ (s.ctxAt r.key.ctx).st = 1 ∧
  (s.plotAt ((s.coreAt n).plot.getD 64)).holder = some r.key.ctx

/-- A control core has been started and has not ended. -/
def Live (c : CCore) : Prop := c.started = true ∧ (c.mode = .running ∨ c.mode = .waiting)

theorem hartReady_iff {s : State} {h : Hart} {r : Run} :
    hartReady s h = some r ↔ RunsOn s h.core r ∧ Live (s.hart h) := by
  unfold hartReady RunsOn
  cases hr : s.runOf h.core with
  | none => simp
  | some q =>
    simp only [Option.some.injEq]
    refine ⟨fun e => ?_, fun ⟨⟨hq, hrest⟩, hlive⟩ => ?_⟩
    · split at e
      · next hc =>
        obtain rfl := Option.some.inj e
        obtain ⟨h1, h2, h3, h4, h5, h6, h7, h8, h9⟩ := hc
        exact ⟨⟨rfl, h1, h2, h3, h4, h5, h6, h7, h8⟩, h9⟩
      · cases e
    · subst hq
      obtain ⟨h1, h2, h3, h4, h5, h6, h7, h8⟩ := hrest
      exact if_pos ⟨h1, h2, h3, h4, h5, h6, h7, h8, hlive⟩

theorem RunsOn.run {s : State} {n : Nat} {r : Run} (h : RunsOn s n r) :
    (s.workAt n).run = some r.key ∧ s.findRun r.key = some r := by
  obtain ⟨hr, -⟩ := h
  unfold State.runOf at hr
  split at hr
  · cases hr
  · next k hk =>
    obtain rfl : r.key = k := by simpa using List.find?_some hr
    exact ⟨hk, hr⟩

/-- The parts of the state, beside the control cores, that decide whether a control core executes. -/
def runParts (s : State) :=
  ((s.boot, s.power.chip, s.runs, s.plots), fun c => (s.ctxAt c).st,
    fun n => ((s.coreAt n).power, (s.coreAt n).quiesce, (s.coreAt n).plot, (s.workAt n).run))

section
variable {s t : State}

theorem RunsOn.congr (h : runParts t = runParts s) {n : Nat} {r : Run} (hr : RunsOn s n r) : RunsOn t n r := by
  simp only [runParts, Prod.mk.injEq] at h
  obtain ⟨⟨hboot, hchip, hruns, hplots⟩, hctx, hcore⟩ := h
  obtain ⟨hpower, hquiesce, hplot, hrun⟩ : _ ∧ _ ∧ _ ∧ _ := by simpa using congrFun hcore n
  have hst := congrFun hctx r.key.ctx
  have hfind : t.findRun = s.findRun := by unfold State.findRun; rw [hruns]
  simp only [RunsOn, State.runOf, chipRuns, State.plotAt, hboot, hchip, hplots, hpower, hquiesce, hplot, hrun, hst,
    hfind] at hr ⊢
  exact hr

theorem runParts_runs (h : runParts t = runParts s) : t.runs = s.runs := by
  simp only [runParts, Prod.mk.injEq] at h
  exact h.1.2.2.1

theorem runParts_run (h : runParts t = runParts s) (n : Nat) : (t.workAt n).run = (s.workAt n).run := by
  simp only [runParts, Prod.mk.injEq] at h
  have hn := congrFun h.2.2 n
  simp only [Prod.mk.injEq] at hn
  exact hn.2.2.2

end

section
variable (s : State)

theorem runParts_updCore (n : Nat) {f : Core → Core} (hp : (f (s.coreAt n)).power = (s.coreAt n).power := by rfl)
    (hq : (f (s.coreAt n)).quiesce = (s.coreAt n).quiesce := by rfl)
    (hl : (f (s.coreAt n)).plot = (s.coreAt n).plot := by rfl)
    (hr : (f (s.coreAt n)).work.run = (s.coreAt n).work.run := by rfl) :
    runParts (s.updCore n f) = runParts s := by
  refine congrArg (fun g => ((s.boot, s.power.chip, s.runs, s.plots), fun c => (s.ctxAt c).st, g)) (funext fun m => ?_)
  by_cases hm : m = n
  · rw [hm, State.workAt, updCore_coreAt_same, hp, hq, hl, hr]
    rfl
  · rw [State.workAt, updCore_coreAt_other s f hm]
    rfl

theorem runParts_retireWith (h : Hart) (pc : Word) (f : CCore → CCore) : runParts (retireWith s h pc f) = runParts s :=
  runParts_updCore s h.core rfl rfl rfl (setCc_run ..)

theorem runParts_updHart (h : Hart) (f : CCore → CCore) : runParts (s.updHart h f) = runParts s :=
  runParts_updCore s h.core rfl rfl rfl (setCc_run ..)

theorem runParts_updWork (n : Nat) {f : Work → Work} (hr : (f (s.workAt n)).run = (s.workAt n).run := by rfl) :
    runParts (s.updWork n f) = runParts s :=
  runParts_updCore s n rfl rfl rfl hr

theorem runParts_updCtx (c : Nat) {f : Ctx → Ctx} (hf : ∀ x, (f x).st = x.st) : runParts (s.updCtx c f) = runParts s := by
  suffices hst : (fun d => ((s.updCtx c f).ctxAt d).st) = fun d => (s.ctxAt d).st by
    exact congrArg (fun g => ((s.boot, s.power.chip, s.runs, s.plots), g,
      fun n => ((s.coreAt n).power, (s.coreAt n).quiesce, (s.coreAt n).plot, (s.workAt n).run))) hst
  funext d
  by_cases hd : d = c
  · rw [hd, updCtx_ctxAt_same, hf]
  · rw [updCtx_ctxAt_other s f hd]

/-! ### Other control cores -/

theorem setCc_cc_of_ne (w : Work) {h x : Hart} (c : CCore) (hx : x ≠ h) (hc : x.core = h.core) :
    (w.setCc h.cc c).cc x.cc = w.cc x.cc := by
  refine setCc_cc_other w c fun e => hx ?_
  cases x
  cases h
  simp_all

/-- A change of one control core leaves every other one alone. -/
theorem updCore_hart_other {h x : Hart} (hx : x ≠ h) {f : Core → Core} {c : CCore}
    (hf : (f (s.coreAt h.core)).work = (s.workAt h.core).setCc h.cc c) : (s.updCore h.core f).hart x = s.hart x := by
  unfold State.hart State.workAt
  by_cases hc : x.core = h.core
  · rw [hc, updCore_coreAt_same, hf]
    exact setCc_cc_of_ne _ c hx hc
  · rw [updCore_coreAt_other s f hc]

theorem retireWith_hart_other {h x : Hart} (hx : x ≠ h) (pc : Word) (f : CCore → CCore) :
    (retireWith s h pc f).hart x = s.hart x :=
  updCore_hart_other s hx rfl

theorem updHart_hart_other {h x : Hart} (hx : x ≠ h) (f : CCore → CCore) : (s.updHart h f).hart x = s.hart x :=
  updCore_hart_other s hx rfl

/-- A control core that has gone on behind its instruction. -/
def gone (c : CCore) : CCore := { c with pc := c.pc + 4, mode := .running, wait := .none }

theorem retire_hart (h : Hart) : (retire s h).hart h = gone (s.hart h) := retireWith_hart ..

end

/-! ### Steps that lead from one predicate to another -/

/-- A step keeps `P` until it has reached `Q`, and keeps `Q`. -/
def Leads (P Q : State → Prop) (g : State → State) : Prop := (∀ t, P t → P (g t) ∨ Q (g t)) ∧ ∀ t, Q t → Q (g t)

/-- A step reaches `Q` from `P`, and keeps `Q`. -/
def Fires (P Q : State → Prop) (g : State → State) : Prop := (∀ t, P t → Q (g t)) ∧ ∀ t, Q t → Q (g t)

section
variable {P Q : State → Prop} {α : Type} {f : State → α → State}

theorem Fires.leads {g : State → State} (h : Fires P Q g) : Leads P Q g := ⟨fun t ht => .inr (h.1 t ht), h.2⟩

theorem Leads.congr {g g' : State → State} (e : ∀ t, P t ∨ Q t → g t = g' t) (h : Leads P Q g') : Leads P Q g :=
  ⟨fun t ht => by rw [e t (.inl ht)]; exact h.1 t ht, fun t ht => by rw [e t (.inr ht)]; exact h.2 t ht⟩

theorem Fires.congr {g g' : State → State} (e : ∀ t, P t ∨ Q t → g t = g' t) (h : Fires P Q g') : Fires P Q g :=
  ⟨fun t ht => by rw [e t (.inl ht)]; exact h.1 t ht, fun t ht => by rw [e t (.inr ht)]; exact h.2 t ht⟩

theorem Leads.foldl {l : List α} (h : ∀ a ∈ l, Leads P Q (fun t => f t a)) : Leads P Q (fun t => l.foldl f t) := by
  induction l with
  | nil => exact ⟨fun _ ht => .inl ht, fun _ ht => ht⟩
  | cons a l ih =>
    obtain ⟨hP, hQ⟩ := h a List.mem_cons_self
    obtain ⟨iP, iQ⟩ := ih fun b hb => h b (List.mem_cons_of_mem _ hb)
    exact ⟨fun t ht => (hP t ht).elim (iP _) fun hq => .inr (iQ _ hq), fun t ht => iQ _ (hQ t ht)⟩

/-- One step of a fold that reaches `Q` is enough. -/
theorem Fires.foldl {l : List α} (h : ∀ a ∈ l, Leads P Q (fun t => f t a)) {a : α} (ha : a ∈ l)
    (hf : Fires P Q (fun t => f t a)) : Fires P Q (fun t => l.foldl f t) := by
  induction l with
  | nil => cases ha
  | cons b l ih =>
    have hl : ∀ c ∈ l, Leads P Q (fun t => f t c) := fun c hc => h c (List.mem_cons_of_mem _ hc)
    obtain ⟨-, iQ⟩ := Leads.foldl hl
    obtain ⟨hP, hQ⟩ := h b List.mem_cons_self
    refine ⟨fun t ht => ?_, fun t ht => iQ _ (hQ t ht)⟩
    rcases List.mem_cons.mp ha with rfl | ha
    · exact iQ _ (hf.1 t ht)
    · exact (hP t ht).elim ((ih hl ha).1 _) (iQ _)

end

end Sys2Proof.Laws
end

section
/-! Memory conditions, signals, rings and stake queues of the control cores: O11, O13, O14. -/

namespace Sys2Proof.Laws

open Sys2Proof.Machine Sys2Proof.Safety

/-! ### Accesses of control cores -/

theorem pieces_sum_le (k va n : Nat) : ((pieces k va n).map Prod.snd).sum ≤ n := by
  induction k generalizing va n with
  | zero => simp [pieces]
  | succ k ih =>
    unfold pieces
    split
    · simp
    · have := ih (va + min n (4096 - va % 4096)) (n - min n (4096 - va % 4096))
      simp only [List.map_cons, List.sum_cons]
      omega

theorem vaRead_length_le (s : State) (c va n : Nat) : (vaRead s c va n).length ≤ n := by
  have hlen : (vaRead s c va n).length = ((rangePieces va n).map Prod.snd).sum := by
    rw [vaRead, List.length_flatMap]
    congr 1
    refine List.map_congr_left fun p _ => ?_
    split
    · exact memReadN_length ..
    · exact List.length_replicate ..
  exact hlen.trans_le (pieces_sum_le ..)

/-- A number of `n` bytes at a virtual address fits them. -/
theorem vaLoad_lt (s : State) (c va n : Nat) : vaLoad s c va n < 256 ^ n :=
  (leNat_lt _).trans_le (Nat.pow_le_pow_right (by norm_num) (vaRead_length_le ..))

/-- An access that nothing stops does its work, and a timed plot sees it. -/
theorem hartAccess_reaches {s : State} {h : Hart} {r : Run} {va n : Nat} {write : Bool} (hr : Reaches s r va n write)
    (body : State) : hartAccess s h r va n write body = markAccess body r.key.ctx va n := by
  unfold hartAccess
  rw [hr]

/-- A timed plot sees nothing of a quiet access, also of a state that differs in cores alone. -/
theorem markAccess_quiet {s t : State} {r : Run} {va n : Nat} (hq : Quiet s r va n) (ht : t = { s with cores := t.cores }) :
    markAccess t r.key.ctx va n = t := by
  have hhost : rangeHost t r.key.ctx va n = rangeHost s r.key.ctx va n :=
    Twin.rangeHost (.frame (by rw [ht]; rfl) (by rw [ht])) ..
  have hplot : t.plotAt (t.ctxAt r.key.ctx).plot = s.plotAt (s.ctxAt r.key.ctx).plot := by rw [ht]; rfl
  have hlocked : (t.ctxAt r.key.ctx).locked = (s.ctxAt r.key.ctx).locked := by rw [ht]; rfl
  have hun : markUnlocked t r.key.ctx va n = t := by
    refine markUnlocked_quiet t _ va n ?_
    rw [hplot, hlocked]
    exact hq.imp id fun hq => hq.2
  simp only [markAccess, hun, hhost]
  rcases hq with hq | ⟨hno, -⟩
  · rw [markT_untimed t _ (by rw [hplot]; exact hq), ite_self]
  · rw [hno]
    rfl

/-- A write of virtual memory changes the memories alone. -/
theorem vaWrite_eq (s : State) (c va : Nat) (bs : List Byte) : vaWrite s c va bs =
    { s with near := (vaWrite s c va bs).near, far := (vaWrite s c va bs).far, host := (vaWrite s c va bs).host } :=
  congrArg (fun x : State =>
    { x with near := (vaWrite s c va bs).near, far := (vaWrite s c va bs).far, host := (vaWrite s c va bs).host })
    (vaWrite_besideMemories s c va bs)

theorem vaWrite_hart (s : State) (c va : Nat) (bs : List Byte) (h : Hart) : (vaWrite s c va bs).hart h = s.hart h :=
  hart_of_cores (vaWrite_cores ..) h

/-! ### WAIT_VALUE and SIGNAL -/

/-- What the tests of WAIT_VALUE ask of a number in memory (R310). -/
theorem meets_ofNat {v : Nat} (hv : v < 2 ^ 64) (threshold mask : Word) :
    (meets .ge (BitVec.ofNat 64 v) threshold mask = true ↔ threshold.toNat ≤ v) ∧
    (meets .eq (BitVec.ofNat 64 v) threshold mask = true ↔ v = threshold.toNat) ∧
    (meets .masked (BitVec.ofNat 64 v) threshold mask = true ↔ v &&& mask.toNat = threshold.toNat &&& mask.toNat) := by
  simp only [meets, decide_eq_true_eq, ← BitVec.toNat_inj, BitVec.toNat_and, BitVec.toNat_ofNat, Nat.mod_eq_of_lt hv, and_self]

/-- WAIT_VALUE whose condition holds only retires. -/
theorem exec_waitValue {s : State} {h : Hart} {rd rs1 rs2 : BitVec 5} {test : WaitTest} {r : Run} (hx : Executes s h r)
    (hal : (reg s h rs1).toNat % 8 = 0) (hr : Reaches s r (reg s h rs1).toNat 8 false) (hq : Quiet s r (reg s h rs1).toNat 8)
    (hm : meets test (BitVec.ofNat 64 (vaLoad s r.key.ctx (reg s h rs1).toNat 8)) (reg s h rs2) (reg s h rd) = true) :
    exec (.waitValue h rd rs1 rs2 test) s = .next (retire s h) := by
  refine exec_of_body hx rfl ((if_neg (not_not.mpr hal)).trans ((hartAccess_reaches hr _).trans ?_))
  exact (congrArg (fun b => markAccess b r.key.ctx (reg s h rs1).toNat 8) (if_pos hm)).trans (markAccess_quiet hq rfl)

/-- What SIGNAL writes. -/
theorem signalled_toNat (add : Bool) {old : Nat} (hold : old < 2 ^ 64) (x : Word) :
    (if add then BitVec.ofNat 64 old + x else x).toNat = if add then (old + x.toNat) % 2 ^ 64 else x.toNat := by
  cases add
  · rfl
  · simp only [if_true, BitVec.toNat_add, BitVec.toNat_ofNat, Nat.mod_eq_of_lt hold]

/-- SIGNAL writes its 8 bytes and retires with the old value; then what waits on memory is evaluated. -/
theorem exec_signal {s : State} {h : Hart} {rd rs1 rs2 : BitVec 5} {add : Bool} {r : Run} (hx : Executes s h r)
    (hal : (reg s h rs1).toNat % 8 = 0) (hq : ∀ u, ((s.workAt h.core).unitQ u).queue = [])
    (hr : Reaches s r (reg s h rs1).toNat 8 false) (hw : Reaches s r (reg s h rs1).toNat 8 true) :
    let a := (reg s h rs1).toNat
    let old := vaLoad s r.key.ctx a 8
    exec (.signal h rd rs1 rs2 add) s = .next (afterAccesses (retireReg (vaWrite s r.key.ctx a
      (natLe 8 (if add then (old + (reg s h rs2).toNat) % 2 ^ 64 else (reg s h rs2).toNat))) h rd (BitVec.ofNat 64 old))
      r.key.ctx [(a, 8), (a, 8)]) := by
  simp only [reg, afterAccesses, List.foldr_cons, List.foldr_nil] at hal hr hw ⊢
  refine exec_of_body hx rfl ?_
  simp only [hal, ne_eq, not_true_eq_false, if_false, drainStep_of_empty hq, hartAccess_reaches hr, hartAccess_reaches hw]
  rw [signalled_toNat add (vaLoad_lt s r.key.ctx (regGet (s.hart h) rs1).toNat 8)]

/-- The own effect of SIGNAL: its bytes and its core. -/
theorem signal_complete {s : State} {h : Hart} {rd rs1 rs2 : BitVec 5} {add : Bool} {r : Run} (hx : Executes s h r)
    (hal : (reg s h rs1).toNat % 8 = 0) (hq : ∀ u, ((s.workAt h.core).unitQ u).queue = [])
    (hr : Reaches s r (reg s h rs1).toNat 8 false) (hw : Reaches s r (reg s h rs1).toNat 8 true) :
    let a := (reg s h rs1).toNat
    let old := vaLoad s r.key.ctx a 8
    ∃ u, exec (.signal h rd rs1 rs2 add) s = .next (afterAccesses u r.key.ctx [(a, 8), (a, 8)]) ∧
      SameMemories u (vaWrite s r.key.ctx a
        (natLe 8 (if add then (old + (reg s h rs2).toNat) % 2 ^ 64 else (reg s h rs2).toNat))) ∧
      reg u h rd = (if rd = 0 then 0 else BitVec.ofNat 64 old) ∧ WentOn s u h rd ((s.hart h).pc + 4) ∧
      u = { s with cores := u.cores, near := u.near, far := u.far, host := u.host } := by
  intro a old
  refine ⟨_, exec_signal hx hal hq hr hw, retireWith_sameMemories .., ?_⟩
  generalize natLe 8 (if add then (old + (reg s h rs2).toNat) % 2 ^ 64 else (reg s h rs2).toNat) = bs
  obtain ⟨hrd, hgo⟩ := retireReg_returned (vaWrite_hart s r.key.ctx a bs h) rd (BitVec.ofNat 64 old)
  refine ⟨hrd, hgo, ?_⟩
  exact congrArg (fun x : State => { x with
    cores := (retireReg (vaWrite s r.key.ctx a bs) h rd (BitVec.ofNat 64 old)).cores }) (vaWrite_eq s r.key.ctx a bs)

/-! ### A poll -/

/-- The state at a poll, before or after a control core has gone on, which stands at `c`. -/
def PollAt (s : State) (h : Hart) (c : CCore) (t : State) : Prop :=
  Steady 0 s t ∧ runParts t = runParts s ∧ t.hart h = c

section
variable {s t : State} {h : Hart} {r : Run} {c : CCore}

theorem pollHart_runParts (q : Run) (n : Nat) (t : State) (cc : Bool) : runParts (pollHart q n t cc) = runParts t := by
  unfold pollHart
  dsimp only
  split
  · rfl
  · split
    · exact runParts_retireWith t ..
    · exact runParts_updHart t ..

theorem pollHart_other (q : Run) (n : Nat) (t : State) {cc : Bool} (hne : h ≠ ⟨n, cc⟩) :
    (pollHart q n t cc).hart h = t.hart h := by
  unfold pollHart
  dsimp only
  split
  · rfl
  · split
    · exact retireWith_hart_other t hne ..
    · exact updHart_hart_other t hne _

/-- A poll of another control core. -/
theorem PollAt.other (hp : PollAt s h c t) (q : Run) (n : Nat) {cc : Bool} (hne : h ≠ ⟨n, cc⟩) :
    PollAt s h c (pollHart q n t cc) := by
  obtain ⟨hs, hr, hc⟩ := hp
  exact ⟨hs.trans (pollHart_steady ..), (pollHart_runParts ..).trans hr, (pollHart_other q n t hne).trans hc⟩

/-- A control core that does not wait is not polled. -/
theorem PollAt.running (hp : PollAt s h c t) (hm : c.mode = .running) (q : Run) : PollAt s h c (pollHart q h.core t h.cc) := by
  obtain ⟨-, -, hc⟩ := id hp
  rw [← hc] at hm
  have hno : pollHolds t q (t.workAt h.core) (t.hart h) = false := by
    unfold pollHolds
    rw [hm]
  have hsame : pollHart q h.core t h.cc = t := if_pos hno
  rwa [hsame]

/-- A poll of a WAIT_VALUE whose condition holds lets its control core go on. -/
theorem PollAt.met (hp : PollAt s h (s.hart h) t) (hready : hartReady s h = some r) (hmet : valueMet s r (s.hart h) = true) :
    PollAt s h (gone (s.hart h)) (pollHart r h.core t h.cc) := by
  obtain ⟨hs, hr, hc⟩ := hp
  obtain ⟨hon, hlive⟩ := hartReady_iff.mp hready
  have hready' : hartReady t h = some r := hartReady_iff.mpr ⟨hon.congr hr, by rwa [hc]⟩
  have hmet' : valueMet t r (t.hart h) = true := by
    rw [hc]
    unfold valueMet vaLoad at hmet ⊢
    simpa only [hs.alike.twin.rangeStop, hs.alike.twin.vaRead] using hmet
  have hholds : pollHolds t r (t.workAt h.core) (t.hart h) = true := by
    have hm := hmet'
    unfold valueMet at hm
    unfold pollHolds
    split at hm
    · next he hw => simp only [he, hw, hmet', Bool.or_true]
    · cases hm
  have hgo : pollHart r h.core t h.cc = retire t h := by
    have hif : ¬ (pollHolds t r (t.workAt h.core) (t.hart h) = false) := by rw [hholds]; simp
    exact (if_neg hif).trans (if_pos ⟨hmet', by rw [hready']; rfl⟩)
  refine ⟨hs.trans (pollHart_steady ..), (pollHart_runParts ..).trans hr, ?_⟩
  rw [hgo, retire_hart, hc]

/-- What the poll of a part of the state does for a control core whose WAIT_VALUE is met. -/
abbrev PollLeads (s : State) (h : Hart) (g : State → State) : Prop :=
  Leads (PollAt s h (s.hart h)) (PollAt s h (gone (s.hart h))) g

abbrev PollFires (s : State) (h : Hart) (g : State → State) : Prop :=
  Fires (PollAt s h (s.hart h)) (PollAt s h (gone (s.hart h))) g

theorem PollAt.stage {c c' : CCore} (h' : PollAt s h c t ∨ PollAt s h c' t) : runParts t = runParts s :=
  h'.elim (fun hp => hp.2.1) fun hp => hp.2.1

/-- A step that keeps every stage of the poll. -/
theorem pollLeads_of_keeps {g : State → State} (hg : ∀ c t, PollAt s h c t → PollAt s h c (g t)) : PollLeads s h g :=
  ⟨fun t ht => .inl (hg _ t ht), fun t ht => hg _ t ht⟩

theorem pollHart_fires (hready : hartReady s h = some r) (hmet : valueMet s r (s.hart h) = true) : PollFires s h (fun t => pollHart r h.core t h.cc) :=
  ⟨fun _ ht => ht.met hready hmet, fun _ ht => ht.running rfl r⟩

theorem pollHart_leads (hready : hartReady s h = some r) (hmet : valueMet s r (s.hart h) = true)
    (n : Nat) (cc : Bool) : PollLeads s h (fun t => pollHart r n t cc) := by
  by_cases hne : h = ⟨n, cc⟩
  · have hf := (pollHart_fires hready hmet).leads
    rwa [hne] at hf ⊢
  · exact pollLeads_of_keeps fun c t ht => ht.other r n hne

/-- A poll of a core for which another RUN's work stands there, or of a save area. -/
theorem pollCore_away {q : Run} {n : Nat} (hp : PollAt s h c t) (haway : n = h.core → (s.workAt n).run ≠ some q.key) :
    PollAt s h c (pollCore q t n) := by
  obtain ⟨hs, hr, hc⟩ := id hp
  unfold pollCore
  split
  · next hrun =>
    rw [runParts_run hr] at hrun
    have hne : ∀ cc, h ≠ ⟨n, cc⟩ := fun cc e => haway (by rw [e]) hrun
    exact (hp.other q n (hne false)).other q n (hne true)
  · split
    · exact ⟨hs.trans (updSaves_steady t _ (fun x => tabSet x.saves n (pollWork t q (tabGet {} x.saves n)))),
        (runParts_updCtx t (f := fun x => { x with saves := tabSet x.saves n (pollWork t q (tabGet {} x.saves n)) }) q.key.ctx
          fun _ => rfl).trans hr, hc⟩
    · exact hp

theorem pollCore_leads (hready : hartReady s h = some r) (hmet : valueMet s r (s.hart h) = true)
    (n : Nat) : PollLeads s h (fun t => pollCore r t n) := by
  have hcc : PollLeads s h (fun t => [false, true].foldl (pollHart r n) t) :=
    Leads.foldl fun cc _ => pollHart_leads hready hmet n cc
  by_cases hrun : (s.workAt n).run = some r.key
  · exact hcc.congr fun t ht => if_pos ((runParts_run (PollAt.stage ht) n).trans hrun)
  · exact pollLeads_of_keeps fun c t ht => pollCore_away ht fun _ => hrun

theorem pollCore_fires (hready : hartReady s h = some r) (hmet : valueMet s r (s.hart h) = true) : PollFires s h (fun t => pollCore r t h.core) := by
  have hrun := (hartReady_iff.mp hready).1.run.1
  have hfold : PollFires s h (fun t => [false, true].foldl (pollHart r h.core) t) :=
    Fires.foldl (fun cc _ => pollHart_leads hready hmet h.core cc) (a := h.cc) (by cases h.cc <;> simp)
      (pollHart_fires hready hmet)
  exact hfold.congr fun t ht => if_pos ((runParts_run (PollAt.stage ht) h.core).trans hrun)

theorem pollRun_of_find {k : RunKey} {q : Run} (hp : runParts t = runParts s) (hk : s.findRun k = some q) :
    pollRun t k = if (t.ctxAt k.ctx).st = 1 ∧ q.status = none then q.cores.foldl (pollCore q) t else t := by
  have hfind : t.findRun k = some q := by
    rw [State.findRun, runParts_runs hp]
    exact hk
  unfold pollRun
  rw [hfind]

/-- A poll of another RUN leaves the control core alone. -/
theorem pollRun_away {k : RunKey} (hp : PollAt s h c t) (hrun : (s.workAt h.core).run = some r.key) (hk : k ≠ r.key) :
    PollAt s h c (pollRun t k) := by
  cases hfind : s.findRun k with
  | none =>
    have hsame : pollRun t k = t := by
      unfold pollRun
      rw [State.findRun, runParts_runs hp.2.1, ← State.findRun, hfind]
    rwa [hsame]
  | some q =>
    obtain rfl : q.key = k := by simpa using List.find?_some hfind
    rw [pollRun_of_find hp.2.1 hfind]
    split
    · refine List.foldlRecOn _ _ hp fun u hu n _ => pollCore_away hu ?_
      rintro rfl e
      exact hk (Option.some.inj (e.symm.trans hrun))
    · exact hp

theorem pollRun_fires (hready : hartReady s h = some r) (hin : h.core ∈ r.cores) (hmet : valueMet s r (s.hart h) = true) : PollFires s h (fun t => pollRun t r.key) := by
  obtain ⟨hon, -⟩ := hartReady_iff.mp hready
  have hfold : PollFires s h (fun t => r.cores.foldl (pollCore r) t) :=
    Fires.foldl (fun n _ => pollCore_leads hready hmet n) hin (pollCore_fires hready hmet)
  refine hfold.congr fun t ht => ?_
  have hparts := PollAt.stage ht
  obtain ⟨-, -, -, -, -, hstatus, -, hst, -⟩ := hon.congr hparts
  exact (pollRun_of_find hparts hon.run.2).trans (if_pos ⟨hst, hstatus⟩)

theorem pollRun_leads (hready : hartReady s h = some r) (hin : h.core ∈ r.cores) (hmet : valueMet s r (s.hart h) = true)
    (k : RunKey) : PollLeads s h (fun t => pollRun t k) := by
  by_cases hk : k = r.key
  · rw [hk]
    exact (pollRun_fires hready hin hmet).leads
  · exact pollLeads_of_keeps fun c t ht => pollRun_away ht (hartReady_iff.mp hready).1.run.1 hk

/-- A poll with no WAIT descriptor to evaluate lets a control core go on whose WAIT_VALUE is met. -/
theorem wakeWaits_pollAt (hready : hartReady s h = some r) (hin : h.core ∈ r.cores) (hmet : valueMet s r (s.hart h) = true)
    (hw : NoWait s) :
    PollAt s h (gone (s.hart h)) (wakeWaits s) := by
  obtain ⟨hon, -⟩ := hartReady_iff.mp hready
  obtain ⟨-, hchip, -⟩ := id hon
  have hkey : r.key ∈ s.runs.map Run.key := List.mem_map_of_mem (List.mem_of_find?_eq_some hon.run.2)
  have hfold : PollFires s h (fun t => (s.runs.map Run.key).foldl pollRun t) :=
    Fires.foldl (fun k _ => pollRun_leads hready hin hmet k) hkey (pollRun_fires hready hin hmet)
  rw [wakeWaits_eq hw, if_pos hchip]
  exact hfold.1 s ⟨.refl 0 s, rfl, rfl⟩

/-- Equal queue parts are equal rings. -/
theorem ringAt_of_queueParts (hq : queueParts t = queueParts s) (c n : Nat) : t.ringAt c n = s.ringAt c n := by
  simp only [queueParts, Prod.mk.injEq] at hq
  obtain ⟨-, -, -, hctx⟩ := hq
  obtain ⟨hrings, -⟩ := Prod.mk.inj (congrFun hctx c)
  unfold State.ringAt Ctx.ringAt
  rw [hrings]

end

/-- Settles O11: a WAIT_VALUE retires, a SIGNAL writes and then wakes, a poll reaches the control core that waits. -/
theorem waitValueAndSignalComplete : Obligations.WaitValueAndSignalComplete := by
  unfold Obligations.WaitValueAndSignalComplete
  refine ⟨⟨fun s h rd rs1 rs2 test r hx hal hr hq hc => ?_, fun s h rd rs1 rs2 add r hx hal hq hr hw =>
    signal_complete hx hal hq hr hw⟩, fun s h r va threshold mask test hready hin hmode hwait hr hm hw => ?_⟩
  · refine ⟨_, exec_waitValue hx hal hr hq ?_, retire_wentOn s h, retireWith_onlyHart ..⟩
    obtain ⟨hge, heq, hmasked⟩ := meets_ofNat (vaLoad_lt s r.key.ctx (reg s h rs1).toNat 8) (reg s h rs2) (reg s h rd)
    cases test with
    | ge => exact hge.mpr hc
    | eq => exact heq.mpr hc
    | masked => exact hmasked.mpr hc
  · have hmet : valueMet s r (s.hart h) = true := by
      simp only [valueMet, hmode, hwait, hm, Bool.and_true]
      exact Option.isNone_iff_eq_none.mpr hr
    obtain ⟨hs, -, hpast⟩ := wakeWaits_pollAt hready hin hmet hw
    exact ⟨_, rfl, hpast, hs.alike.twin.sameMemories, wakeWaits_runs hw, ringAt_of_queueParts hs.queues⟩

end Sys2Proof.Laws
end

section
/-! ENQUEUE and the stake queues: O13, O14. -/

namespace Sys2Proof.Laws

open Sys2Proof.Machine Sys2Proof.Safety

theorem vaWrite_ctxs (s : State) (c va : Nat) (bs : List Byte) : (vaWrite s c va bs).ctxs = s.ctxs := by
  have hrest := congrArg State.ctxs (vaWrite_besideMemories s c va bs)
  exact hrest

theorem vaWrite_ringAt (s : State) (c va : Nat) (bs : List Byte) (x n : Nat) : (vaWrite s c va bs).ringAt x n = s.ringAt x n := by
  rw [State.ringAt, State.ctxAt, vaWrite_ctxs]
  rfl

/-- Bytes of the core store without an error can be read. -/
theorem storeGuard_ok {s : State} {h : Hart} {a n : Nat} (hb : storeBad s h.core a n = none) (r : Run) (body : State) :
    storeGuard s h r a n body = body := by
  unfold storeGuard
  rw [hb]

/-! ### ENQUEUE -/

/-- What ENQUEUE does that finds room: the descriptor stands in the slot of the tail, the tail has advanced. -/
def enqueued (s : State) (c n a core : Nat) : State :=
  let q := s.ringAt c n
  (vaWrite s c (slotVa q q.tail) (memReadN (s.workAt core).store a 64)).updRing c n
    (fun q => { q with tail := (q.tail + 1) % 2 ^ 32, dbPending := true })

theorem retireReg_ringAt (s : State) (h : Hart) (rd : BitVec 5) (v : Word) (c n : Nat) :
    (retireReg s h rd v).ringAt c n = s.ringAt c n := rfl

theorem enqueued_hart (s : State) (c n a core : Nat) (h : Hart) : (enqueued s c n a core).hart h = s.hart h := by
  unfold enqueued
  rw [updRing_hart, vaWrite_hart]

theorem enqueued_ringAt (s : State) (c n a core : Nat) : (enqueued s c n a core).ringAt c n =
    { s.ringAt c n with tail := ((s.ringAt c n).tail + 1) % 2 ^ 32, dbPending := true } := by
  rw [enqueued, updRing_ringAt_same, vaWrite_ringAt]

theorem enqueued_sameMemories (s : State) (c n a core : Nat) : SameMemories (enqueued s c n a core)
    (vaWrite s c (slotVa (s.ringAt c n) (s.ringAt c n).tail) (memReadN (s.workAt core).store a 64)) := by
  unfold enqueued
  exact ⟨updRing_near .., updRing_far .., updRing_host ..⟩

theorem afterAccesses_cons (u : State) (c va n : Nat) (l : List (Nat × Nat)) :
    afterAccesses u c ((va, n) :: l) = markAccess (afterAccesses u c l) c va n := rfl

/-- ENQUEUE of allowed bytes, once the commands of its core have completed. -/
theorem exec_enqueue {s : State} {h : Hart} {rd rs1 : BitVec 5} {imm : BitVec 16} {r : Run} (hx : Executes s h r)
    (hn : imm.toNat < 4) (ha : AreaOk s h r (reg s h rs1).toNat 64) (hq : ∀ u, ((s.workAt h.core).unitQ u).queue = []) :
    exec (.enqueue h rd rs1 imm) s = .next
      (if (s.ringAt r.key.ctx imm.toNat).configured = false then retireReg s h rd 2
       else if ringCount (s.ringAt r.key.ctx imm.toNat) = 2 ^ ringLog (s.ringAt r.key.ctx imm.toNat) then retireReg s h rd 1
       else hartAccess s h r (slotVa (s.ringAt r.key.ctx imm.toNat) (s.ringAt r.key.ctx imm.toNat).tail) 64 true
         (afterAccesses (retireReg (enqueued s r.key.ctx imm.toNat (reg s h rs1).toNat h.core) h rd 0) r.key.ctx [])) := by
  obtain ⟨hal, hin, hbad⟩ := ha
  refine exec_of_body hx rfl ?_
  simp only [reg] at hal hin hbad ⊢
  simp only [Nat.not_lt.mpr (Nat.le_of_lt_succ hn), hal, inArea, hin, if_false, ne_eq, not_true_eq_false, decide_true,
    Bool.not_true, Bool.false_eq_true, drainStep_of_empty hq, storeGuard_ok hbad]
  rfl

/-- Settles O13: the descriptor is written before the tail advances, and nothing of it where there is no room. -/
theorem enqueueCompletes : Obligations.EnqueueCompletes := by
  unfold Obligations.EnqueueCompletes
  intro s h rd rs1 imm r hx hn ha hq
  have he := exec_enqueue (rd := rd) hx hn ha hq
  refine ⟨fun hc hroom hr => ?_, fun hc hfull => ?_, fun hc => ?_⟩
  · rw [if_neg (by simp [hc]), if_neg hroom, hartAccess_reaches hr, ← afterAccesses_cons] at he
    have hret := retireReg_returned (enqueued_hart s r.key.ctx imm.toNat (reg s h rs1).toNat h.core h) rd 0
    exact ⟨_, he, sameMemories_trans (retireWith_sameMemories ..) (enqueued_sameMemories ..),
      (retireReg_ringAt ..).trans (enqueued_ringAt ..), hret.zero, hret.2⟩
  · rw [if_neg (by simp [hc]), if_pos hfull] at he
    exact ⟨_, he, (retireReg_returned rfl rd 1).1, retireWith_onlyHart ..⟩
  · rw [if_pos hc] at he
    exact ⟨_, he, (retireReg_returned rfl rd 2).1, retireWith_onlyHart ..⟩

/-! ### Stake queues -/

theorem markAccess_sameMemories (s : State) (c va n : Nat) : SameMemories (markAccess s c va n) s := by
  have hm := markAccess_frame s c va n
  unfold MarkFrame at hm
  rw [hm]
  exact sameMemories_refl s

/-- A stake queue whose SIZE_LOG2 is at most 12 is none that traps. -/
theorem queueLogBad_of_le {s : State} {r : Run} {va : Nat} (h : vaLoad s r.key.ctx (va + 16) 1 ≤ 12) :
    queueLogBad s r va = false := by
  rw [queueLogBad, decide_eq_false (Nat.not_lt.mpr h), Bool.and_false]

/-- The state after WAIT_QUEUE has taken an entry without parameters out of memory and into the core store (R325). -/
def takenEntry (s : State) (r : Run) (core va off : Nat) (entry : List Byte) (cons : Nat) : State :=
  let s1 := (vaWrite s r.key.ctx (va + 8) (natLe 8 (cons + 1))).updRun r.key (fun q => { q with taken := q.taken ++ [(va, entry)] })
  let s2 := (storeWrite s1 core off entry).updWork core (fun w => { w with wqs := tabSet w.wqs va (tabGet 0 w.wqs va + 1) })
  s2.updRun r.key (fun q => { q with issuedOps := q.issuedOps.filter (fun e => decide (e.1 ≠ core)) })

theorem takenEntry_work (s : State) (r : Run) (core va off : Nat) (entry : List Byte) (cons : Nat) :
    (takenEntry s r core va off entry cons).workAt core = { s.workAt core with
      store := memWriteN (s.workAt core).store off entry
      wqs := tabSet (s.workAt core).wqs va (tabGet 0 (s.workAt core).wqs va + 1) } := by
  simp only [takenEntry, updRun_workAt, updWork_workAt_same, storeWrite_workAt, workAt_of_cores (vaWrite_cores ..)]

theorem takenEntry_hart (s : State) (r : Run) (h : Hart) (va off : Nat) (entry : List Byte) (cons : Nat) :
    (takenEntry s r h.core va off entry cons).hart h = s.hart h := by
  rw [State.hart, takenEntry_work]
  rfl

theorem takenEntry_sameMemories (s : State) (r : Run) (core va off : Nat) (entry : List Byte) (cons : Nat) :
    SameMemories (takenEntry s r core va off entry cons) (vaWrite s r.key.ctx (va + 8) (natLe 8 (cons + 1))) := by
  unfold takenEntry
  generalize vaWrite s r.key.ctx (va + 8) (natLe 8 (cons + 1)) = m
  exact ⟨rfl, rfl, rfl⟩

/-- An entry without a PARAM goes to the core store alone. -/
theorem returnEntry_noParam {s take : State} {h : Hart} {rd : BitVec 5} {r : Run} {va off : Nat} {entry : List Byte}
    (hp : fieldOf entry 0 8 = 0) : returnEntry s take h rd r va off entry =
      retireReg (((storeWrite take h.core off entry).updWork h.core
        (fun w => { w with wqs := tabSet w.wqs va (tabGet 0 w.wqs va + 1) })).updRun r.key
        (fun q => { q with issuedOps := q.issuedOps.filter (fun e => decide (e.1 ≠ h.core)) })) h rd 0 := by
  unfold returnEntry
  simp only [hp, ne_eq, not_true_eq_false, if_false]
  rfl

/-- WAIT_QUEUE that takes the first entry of a queue. -/
theorem exec_waitQueue {s : State} {h : Hart} {rd rs1 rs2 : BitVec 5} {r : Run} (hx : Executes s h r) (hcc : h.cc = false)
    (hal : (reg s h rs1).toNat % 64 = 0) (hal' : (reg s h rs2).toNat % 16 = 0)
    (hin : (reg s h rs2).toNat + 16 ≤ r.hdr.dataBytes) (htaken : r.taken = [])
    (hr : Reaches s r (reg s h rs1).toNat 64 false) (hw : Reaches s r ((reg s h rs1).toNat + 8) 8 true)
    (hlog : vaLoad s r.key.ctx ((reg s h rs1).toNat + 16) 1 ≤ 12)
    (hne : vaLoad s r.key.ctx (reg s h rs1).toNat 8 ≠ vaLoad s r.key.ctx ((reg s h rs1).toNat + 8) 8)
    (hslot : Reaches s r (queueEntry (reg s h rs1).toNat (vaLoad s r.key.ctx ((reg s h rs1).toNat + 16) 1)
      (vaLoad s r.key.ctx ((reg s h rs1).toNat + 8) 8)) 16 false)
    (hparam : fieldOf (vaRead s r.key.ctx (queueEntry (reg s h rs1).toNat (vaLoad s r.key.ctx ((reg s h rs1).toNat + 16) 1)
      (vaLoad s r.key.ctx ((reg s h rs1).toNat + 8) 8)) 16) 0 8 = 0) :
    let q := (reg s h rs1).toNat
    let cons := vaLoad s r.key.ctx (q + 8) 8
    let slot := queueEntry q (vaLoad s r.key.ctx (q + 16) 1) cons
    exec (.waitQueue h rd rs1 rs2) s = .next (markAccess (markAccess (markAccess (retireReg
      (takenEntry s r h.core q (reg s h rs2).toNat (vaRead s r.key.ctx slot 16) cons) h rd 0)
      r.key.ctx slot 16) r.key.ctx (q + 8) 8) r.key.ctx q 64) := by
  simp only [reg] at hal hal' hin hr hw hlog hne hslot hparam ⊢
  refine exec_of_body hx rfl ?_
  simp only [hal, hal', queueLogBad_of_le hlog, inArea, hin, hcc, htaken, hne, ne_eq, not_true_eq_false, Bool.false_eq_true,
    or_self, if_false, decide_true, Bool.not_true, List.filter_nil, List.map_nil, List.getElem?_nil,
    hartAccess_reaches hr, hartAccess_reaches hw, hartAccess_reaches hslot, returnEntry_noParam hparam]
  rfl

/-- What O14 says of WAIT_QUEUE. -/
theorem waitQueue_complete {s : State} {h : Hart} {rd rs1 rs2 : BitVec 5} {r : Run} {q slot cons : Nat}
    (htaken : tabGet 0 (s.workAt h.core).wqs q = 0)
    (he : exec (.waitQueue h rd rs1 rs2) s = .next (markAccess (markAccess (markAccess (retireReg
      (takenEntry s r h.core q (reg s h rs2).toNat (vaRead s r.key.ctx slot 16) cons) h rd 0)
      r.key.ctx slot 16) r.key.ctx (q + 8) 8) r.key.ctx q 64)) :
    ∃ t, exec (.waitQueue h rd rs1 rs2) s = .next t ∧
      SameMemories t (vaWrite s r.key.ctx (q + 8) (natLe 8 (cons + 1))) ∧
      (t.workAt h.core).store =
        memWriteN (s.workAt h.core).store (reg s h rs2).toNat (vaRead s r.key.ctx slot 16) ∧
      tabGet 0 (t.workAt h.core).wqs q = 1 ∧ reg t h rd = 0 ∧ WentOn s t h rd ((s.hart h).pc + 4) := by
  refine ⟨_, he, ?_⟩
  generalize hu : retireReg (takenEntry s r h.core q (reg s h rs2).toNat (vaRead s r.key.ctx slot 16) cons) h rd 0 = u
  generalize ht : markAccess (markAccess (markAccess u r.key.ctx slot 16) r.key.ctx (q + 8) 8) r.key.ctx q 64 = t
  have hcores : t.cores = u.cores := by rw [← ht, markAccess_cores, markAccess_cores, markAccess_cores]
  have hmem : SameMemories t u := by
    rw [← ht]
    exact sameMemories_trans (markAccess_sameMemories ..)
      (sameMemories_trans (markAccess_sameMemories ..) (markAccess_sameMemories ..))
  have hwork : t.workAt h.core = (takenEntry s r h.core q (reg s h rs2).toNat (vaRead s r.key.ctx slot 16) cons
      |>.workAt h.core).setCc h.cc (u.hart h) := by
    rw [workAt_of_cores hcores, ← hu, retireReg, retireWith_workAt, retireWith_hart]
  have hret := (retireReg_returned (takenEntry_hart s r h q (reg s h rs2).toNat (vaRead s r.key.ctx slot 16) cons) rd 0).of_hart
    (hart_of_cores (hcores.trans (congrArg State.cores hu.symm)) h)
  have hmem' : SameMemories u (vaWrite s r.key.ctx (q + 8) (natLe 8 (cons + 1))) := by
    rw [← hu]
    exact sameMemories_trans (retireWith_sameMemories ..) (takenEntry_sameMemories ..)
  refine ⟨sameMemories_trans hmem hmem', ?_, ?_, hret.zero, hret.2⟩
  · rw [hwork, setCc_store, takenEntry_work]
  · rw [hwork, setCc_wqs, takenEntry_work, tabGet_tabSet_same, htaken]

/-- QPOST into a queue with room writes the entry, then the producer count, and returns 0. -/
theorem exec_qpost {s : State} {h : Hart} {rd rs1 rs2 : BitVec 5} {r : Run} (hx : Executes s h r)
    (hal : (reg s h rs1).toNat % 64 = 0) (ha : AreaOk s h r (reg s h rs2).toNat 16)
    (hr : Reaches s r (reg s h rs1).toNat 64 false) (hw : Reaches s r (reg s h rs1).toNat 8 true)
    (hlog : vaLoad s r.key.ctx ((reg s h rs1).toNat + 16) 1 ≤ 12)
    (hroom : (vaLoad s r.key.ctx (reg s h rs1).toNat 8 + 2 ^ 64 - vaLoad s r.key.ctx ((reg s h rs1).toNat + 8) 8) % 2 ^ 64 ≠
      2 ^ vaLoad s r.key.ctx ((reg s h rs1).toNat + 16) 1)
    (hslot : Reaches s r (queueEntry (reg s h rs1).toNat (vaLoad s r.key.ctx ((reg s h rs1).toNat + 16) 1)
      (vaLoad s r.key.ctx (reg s h rs1).toNat 8)) 16 true) :
    let q := (reg s h rs1).toNat
    let prod := vaLoad s r.key.ctx q 8
    let slot := queueEntry q (vaLoad s r.key.ctx (q + 16) 1) prod
    exec (.qpost h rd rs1 rs2) s = .next (afterAccesses (retireReg (vaWrite (vaWrite s r.key.ctx slot
      (memReadN (s.workAt h.core).store (reg s h rs2).toNat 16)) r.key.ctx q (natLe 8 (prod + 1))) h rd 0)
      r.key.ctx [(q, 64), (q, 8), (slot, 16)]) := by
  obtain ⟨hal', hin, hbad⟩ := ha
  simp only [reg, afterAccesses, List.foldr_cons, List.foldr_nil] at hal hal' hin hbad hr hw hlog hroom hslot ⊢
  refine exec_of_body hx rfl ?_
  simp only [hal, hal', queueLogBad_of_le hlog, inArea, hin, hroom, ne_eq, not_true_eq_false, Bool.false_eq_true, or_self,
    if_false, decide_true, Bool.not_true, storeGuard_ok hbad, hartAccess_reaches hr, hartAccess_reaches hw,
    hartAccess_reaches hslot]
  rfl

/-- Settles O14: an entry is taken, or posted, by writes of memory and of the core store before the instruction retires. -/
theorem stakeQueuesComplete : Obligations.StakeQueuesComplete := by
  unfold Obligations.StakeQueuesComplete
  refine ⟨fun s h rd rs1 rs2 r hx hcc hal hal' hin htaken hmine hr hw hlog hne hslot hparam => ?_,
    fun s h rd rs1 rs2 r hx hal ha hr hw hlog hroom hslot => ?_⟩
  · exact waitQueue_complete hmine (exec_waitQueue hx hcc hal hal' hin htaken hr hw hlog hne hslot hparam)
  · refine ⟨_, exec_qpost hx hal ha hr hw hlog hroom hslot, retireWith_sameMemories .., ?_⟩
    have hcores := (vaWrite_cores (vaWrite s r.key.ctx (queueEntry (reg s h rs1).toNat
      (vaLoad s r.key.ctx ((reg s h rs1).toNat + 16) 1) (vaLoad s r.key.ctx (reg s h rs1).toNat 8))
      (memReadN (s.workAt h.core).store (reg s h rs2).toNat 16)) r.key.ctx (reg s h rs1).toNat
      (natLe 8 (vaLoad s r.key.ctx (reg s h rs1).toNat 8 + 1))).trans (vaWrite_cores ..)
    have hret := retireReg_returned (hart_of_cores hcores h) rd 0
    refine ⟨hret.zero, hret.2, ?_⟩
    rw [retireReg, retireWith_workAt, setCc_store, workAt_of_cores hcores]

end Sys2Proof.Laws
end

section
/-! END of a control core whose context names another plot than its core: O16. -/

namespace Sys2Proof.Laws

open Sys2Proof.Machine Sys2Proof.Safety

/-! ### A block with a stray context

Context 0 holds plot 0, in which core 0 lies, while PLOT of the context names plot 1, which has no holder and names core 0 too.
The one control core of its RUN waits in WAIT_QUEUE and has yielded, so that the context is not runnable until the control core
ends. -/

def strayHart : Hart := ⟨0, false⟩

def strayRun : Run :=
  { key := ⟨0, 0, 5⟩, persist := false, cores := [0], program := 0, param := 0
    hdr := { flags := 0, codeBytes := 64, crc := 0, entry0 := 0, entry1 := 0, dataBytes := 0, paramOff := 0, paramBytes := 0 }
    phase := .dispatched, status := none, detail := 0, timedOut := false, taken := [], seeds := [], seedWait := false
    spin := none, benches := [], issuedOps := [], benchWait := none, block := none, ended := none }

def strayWork : Work :=
  { run := some ⟨0, 0, 5⟩, cc0 := { started := true, mode := .waiting, wait := .queue 0, yielded := true } }

def strayState : State :=
  { boot := { aonRst := true, clocks := true, bootDone := true }
    ctxs := [(0, { plotValid := true, plot := 1, st := 1 })]
    plots := [(0, { mask := 1, st := 1, holder := some 0 }), (1, { mask := 1, st := 1 })]
    cores := [(0, { plot := some 0, work := strayWork })]
    runs := [strayRun] }

theorem strayState_executes : Executes strayState strayHart strayRun := ⟨by decide, by decide⟩

theorem strayState_drained (n : Nat) (u : EngineUnit) : ((strayState.workAt n).unitQ u).queue = [] := by
  simp only [State.workAt, State.coreAt, strayState, tabGet]
  split <;> cases u <;> rfl

/-- The block after the control core's END itself. -/
def strayEnded : State :=
  retireWith strayState strayHart 4 (fun c => { c with mode := .ended, endStatus := reportStatus 0 })

/-- END makes the context runnable again, and its slice over: plot 1 passes to it. -/
theorem strayState_end : exec (.endProgram strayHart 1) strayState = .next (switchPlot strayEnded 1 0) :=
  exec_of_body strayState_executes rfl ((drainStep_of_empty (strayState_drained 0) strayRun _).trans rfl)

/-- The plot's core passes with it: the work that the context has saved for it is none. -/
theorem strayEnded_switched : ((switchPlot strayEnded 1 0).hart strayHart).pc = 0 := by decide +kernel

/-- Refutes O16: END need not leave its control core as R332 says where the context's plot is not the plot of its core; with
plot 1 the core passes to the context anew, and its control core is one that was never started, its PC at 0. -/
theorem not_endAndYieldComplete : ¬ Obligations.EndAndYieldComplete := by
  unfold Obligations.EndAndYieldComplete
  rintro ⟨hend, -⟩
  obtain ⟨t, ht, hh, -⟩ := hend strayState strayHart 1 strayRun strayState_executes rfl strayState_drained (by decide)
  obtain rfl : switchPlot strayEnded 1 0 = t := Host.Outcome.next.inj (strayState_end.symm.trans ht)
  have hpc : ((switchPlot strayEnded 1 0).hart strayHart).pc = (strayState.hart strayHart).pc + 4 := by rw [hh]
  rw [strayEnded_switched] at hpc
  exact absurd hpc (by decide)

end Sys2Proof.Laws
end

section
/-! The barriers of the control cores: O12. -/

namespace Sys2Proof.Laws

open Sys2Proof.Machine Sys2Proof.Safety

/-! ### What the release of barriers may do -/

/-- From `s` to `t` control cores that waited have gone on behind their instruction, and nothing else that barriers look at has
changed. -/
structure Released (s t : State) : Prop where
  parts : runParts t = runParts s
  memories : SameMemories t s
  ctxs : t.ctxs = s.ctxs
  rbars : ∀ n, (t.workAt n).rbars = (s.workAt n).rbars
  harts : ∀ x, t.hart x = s.hart x ∨
    ((s.hart x).mode = .waiting ∧ (s.hart x).started = true) ∧ t.hart x = gone (s.hart x)

section
variable {s t : State} {r : Run} {x : Hart}

theorem Released.refl (s : State) : Released s s := ⟨rfl, sameMemories_refl s, rfl, fun _ => rfl, fun _ => .inl rfl⟩

theorem Released.cbars (h : Released s t) (x : Hart) : (t.hart x).cbars = (s.hart x).cbars := by
  rcases h.harts x with e | ⟨-, e⟩ <;> rw [e]
  rfl

/-- A control core that does not wait is left alone. -/
theorem Released.hart_of_mode (h : Released s t) (hm : (s.hart x).mode ≠ .waiting) : t.hart x = s.hart x :=
  (h.harts x).resolve_right fun hw => hm hw.1.1

/-- A work without started control cores that go on keeps none. -/
theorem Released.workEnded (h : Released s t) {n : Nat} (he : workEnded (s.workAt n) = true) : workEnded (t.workAt n) = true := by
  have hcc (b : Bool) (hb : ((s.hart ⟨n, b⟩).started = false ∨ (s.hart ⟨n, b⟩).mode = .ended)) :
      (t.hart ⟨n, b⟩).started = false ∨ (t.hart ⟨n, b⟩).mode = .ended := by
    rcases h.harts ⟨n, b⟩ with e | ⟨⟨hm, hs⟩, -⟩
    · rwa [e]
    · rcases hb with hb | hb
      · rw [hs] at hb
        cases hb
      · rw [hm] at hb
        cases hb
  simp only [Machine.workEnded, Bool.and_eq_true, Bool.or_eq_true, Bool.not_eq_true', decide_eq_true_eq] at he ⊢
  exact ⟨hcc false he.1, hcc true he.2⟩

/-- The work of a RUN's core after the release has reached as many RBARRIERs, and has ended where it had. -/
theorem Released.runWork (h : Released s t) (r : Run) (n : Nat) :
    (runWork t r n).rbars = (runWork s r n).rbars ∧
    (Machine.workEnded (runWork s r n) = true → Machine.workEnded (runWork t r n) = true) := by
  unfold Machine.runWork
  rw [runParts_run h.parts, State.ctxAt, h.ctxs]
  split
  · exact ⟨h.rbars n, h.workEnded⟩
  · exact ⟨rfl, id⟩

/-- A step of the release. -/
theorem Released.step (h : Released s t) (r : Run) (x : Hart) : Released s (releaseBarrier r t x) := by
  unfold releaseBarrier
  dsimp only
  split
  · next hc =>
    obtain ⟨hm, hready, -⟩ := hc
    obtain ⟨q, hq⟩ := Option.isSome_iff_exists.mp hready
    obtain ⟨-, hstarted, -⟩ := hartReady_iff.mp hq
    refine ⟨(runParts_retireWith ..).trans h.parts, sameMemories_trans (retireWith_sameMemories ..) h.memories, h.ctxs,
      fun n => ?_, fun y => ?_⟩
    · rw [← h.rbars n]
      by_cases hn : n = x.core
      · rw [hn, retire, retireWith_workAt, setCc_rbars]
      · rw [State.workAt, retire, retireWith_other _ _ _ _ hn]
        rfl
    · by_cases hy : y = x
      · subst hy
        have hsame : t.hart y = s.hart y := (h.harts y).resolve_right fun ⟨_, e⟩ => by
          rw [e] at hm
          cases hm
        rw [retire_hart, hsame]
        rw [hsame] at hm hstarted
        exact .inr ⟨⟨hm, hstarted⟩, rfl⟩
      · rw [retire, retireWith_hart_other t hy]
        exact h.harts y
  · exact h

theorem releaseBarriers_released (s : State) (r : Run) : Released s (releaseBarriers s r) :=
  List.foldlRecOn _ _ (.refl s) fun _ h x _ => h.step r x

/-- The barrier at which a control core waits is complete. -/
def BarrierDone (r : Run) (t : State) (x : Hart) : Prop :=
  (t.hart x).wait = .cbarrier ∧ cbarDone t x = true ∨ (t.hart x).wait = .rbarrier ∧ rbarDone t r x.core = true

/-- The release of a control core's own barrier, which is complete whatever else has been released. -/
theorem releaseBarrier_fires (hready : hartReady s x = some r) (hm : (s.hart x).mode = .waiting)
    (hdone : ∀ t, Released s t → t.hart x = s.hart x → BarrierDone r t x) :
    Fires (Released s) (fun t => Released s t ∧ t.hart x = gone (s.hart x)) (fun t => releaseBarrier r t x) := by
  obtain ⟨hon, hlive⟩ := hartReady_iff.mp hready
  have hgo (t : State) (ht : Released s t) (e : t.hart x = s.hart x) : (releaseBarrier r t x).hart x = gone (s.hart x) := by
    have hready' : hartReady t x = some r := hartReady_iff.mpr ⟨hon.congr ht.parts, by rwa [e]⟩
    have hrel : releaseBarrier r t x = retire t x :=
      if_pos ⟨by rw [e]; exact hm, by rw [hready']; rfl, hdone t ht e⟩
    rw [hrel, retire_hart, e]
  have hstay (t : State) (e : t.hart x = gone (s.hart x)) : releaseBarrier r t x = t := by
    have hrun : ¬ (t.hart x).mode = .waiting := by
      rw [e]
      nofun
    exact if_neg fun hc => hrun hc.1
  refine ⟨fun t ht => ⟨ht.step r x, ?_⟩, fun t ht => ?_⟩
  · beta_reduce
    rcases ht.harts x with e | ⟨-, e⟩
    · exact hgo t ht e
    · rw [hstay t e, e]
  · beta_reduce
    rw [hstay t ht.2]
    exact ht

/-- With its barrier complete, a control core of the RUN that waits goes on. -/
theorem releaseBarriers_goes (hready : hartReady s x = some r) (hin : x.core ∈ r.cores) (hm : (s.hart x).mode = .waiting)
    (hdone : ∀ t, Released s t → t.hart x = s.hart x → BarrierDone r t x) :
    (releaseBarriers s r).hart x = gone (s.hart x) := by
  have hmem : x ∈ r.cores.flatMap (fun n => [Hart.mk n false, Hart.mk n true]) := by
    refine List.mem_flatMap.mpr ⟨x.core, hin, ?_⟩
    obtain ⟨n, b⟩ := x
    cases b <;> simp
  refine ((Fires.foldl (fun y _ => ⟨fun t ht => .inl (ht.step r y), fun t ht => ?_⟩) hmem
    (releaseBarrier_fires hready hm hdone)).1 s (.refl s)).2
  have hstep := ht.1.step r y
  refine ⟨hstep, ?_⟩
  by_cases hy : x = y
  · subst hy
    exact ((releaseBarrier_fires hready hm hdone).2 t ht).2
  · have hsame : (releaseBarrier r t y).hart x = t.hart x := by
      unfold releaseBarrier
      dsimp only
      split
      · exact retireWith_hart_other t hy ..
      · rfl
    rw [hsame]
    exact ht.2

end

/-! ### CBARRIER -/

/-- The state after a control core has arrived at a CBARRIER that is complete, before those that wait are released. -/
def cbarPassed (s : State) (h : Hart) : State :=
  retire (s.updHart h (fun x => { x with cbars := (s.hart h).cbars + 1 })) h

section
variable {s : State} {h : Hart} {r : Run}

theorem cbarPassed_hart (s : State) (h : Hart) : (cbarPassed s h).hart h = gone { s.hart h with cbars := (s.hart h).cbars + 1 } := by
  rw [cbarPassed, retire_hart, updHart_hart_same]

theorem cbarPassed_hart_other {x : Hart} (hx : x ≠ h) : (cbarPassed s h).hart x = s.hart x := by
  rw [cbarPassed, retire, retireWith_hart_other _ hx, updHart_hart_other s hx]

theorem cbarPassed_parts (s : State) (h : Hart) : runParts (cbarPassed s h) = runParts s :=
  (runParts_retireWith ..).trans (runParts_updHart ..)

/-- CBARRIER with the other control core at the barrier, or without it. -/
theorem exec_cbarrier (hx : Executes s h r) (hm : (s.hart h).mode = .running)
    (hdone : (s.hart h).cbars + 1 ≤ (s.hart ⟨h.core, !h.cc⟩).cbars ∨ (s.hart ⟨h.core, !h.cc⟩).started = false ∨
      (s.hart ⟨h.core, !h.cc⟩).mode = .ended) :
    exec (.cbarrier h) s = .next (releaseBarriers (cbarPassed s h) r) := by
  have hne : (⟨h.core, !h.cc⟩ : Hart) ≠ h := fun e => by
    have := congrArg Hart.cc e
    simp at this
  have hbar : cbarDone (s.updHart h (fun x => { x with cbars := (s.hart h).cbars + 1 })) h = true := by
    rw [cbarDone, updHart_hart_same, updHart_hart_other s hne]
    exact decide_eq_true hdone
  have hn : (if (s.hart h).mode = .waiting ∧ (s.hart h).wait = .cbarrier then (s.hart h).cbars else (s.hart h).cbars + 1) =
      (s.hart h).cbars + 1 := if_neg fun hc => by
    rw [hm] at hc
    cases hc.1
  refine exec_of_body hx rfl ?_
  simp only [hn, hbar, if_true]
  rfl

/-- What O12 says of CBARRIER. -/
theorem cbarrier_complete (hx : Executes s h r) (hm : (s.hart h).mode = .running)
    (hdone : (s.hart h).cbars + 1 ≤ (s.hart ⟨h.core, !h.cc⟩).cbars ∨ (s.hart ⟨h.core, !h.cc⟩).started = false ∨
      (s.hart ⟨h.core, !h.cc⟩).mode = .ended) :
    ∃ t, exec (.cbarrier h) s = .next t ∧ (t.hart h).cbars = (s.hart h).cbars + 1 ∧
      (t.hart h).pc = (s.hart h).pc + 4 ∧ (t.hart h).regs = (s.hart h).regs ∧ SameMemories t s ∧
      (h.core ∈ r.cores → hartReady s ⟨h.core, !h.cc⟩ = some r → (s.hart ⟨h.core, !h.cc⟩).mode = .waiting →
        (s.hart ⟨h.core, !h.cc⟩).wait = .cbarrier → (s.hart ⟨h.core, !h.cc⟩).cbars = (s.hart h).cbars + 1 →
        WentPast s t ⟨h.core, !h.cc⟩) := by
  have hrel := releaseBarriers_released (cbarPassed s h) r
  have hself : (releaseBarriers (cbarPassed s h) r).hart h = gone { s.hart h with cbars := (s.hart h).cbars + 1 } := by
    rw [hrel.hart_of_mode (by rw [cbarPassed_hart]; nofun), cbarPassed_hart]
  refine ⟨_, exec_cbarrier hx hm hdone, by rw [hself]; rfl, by rw [hself]; rfl, by rw [hself]; rfl,
    sameMemories_trans hrel.memories ⟨rfl, rfl, rfl⟩, fun hin hready hmo hwo hco => ?_⟩
  have hne : (⟨h.core, !h.cc⟩ : Hart) ≠ h := fun e => by
    have := congrArg Hart.cc e
    simp at this
  have ho := cbarPassed_hart_other (s := s) hne
  obtain ⟨hon, hlive⟩ := hartReady_iff.mp hready
  have hready' : hartReady (cbarPassed s h) ⟨h.core, !h.cc⟩ = some r :=
    hartReady_iff.mpr ⟨hon.congr (cbarPassed_parts s h), by rwa [ho]⟩
  refine (releaseBarriers_goes hready' hin (by rw [ho]; exact hmo) fun t ht e => .inl ⟨by rw [e, ho]; exact hwo, ?_⟩).trans
    (by rw [ho]; rfl)
  refine decide_eq_true (.inl ?_)
  simp only [Bool.not_not]
  rw [e, ho, ht.cbars h, cbarPassed_hart, hco]
  exact le_refl _

end

/-! ### RBARRIER -/

/-- The state after a core has arrived at an RBARRIER that is complete, before those that wait are released. -/
def rbarPassed (s : State) (h : Hart) : State :=
  retire (s.updWork h.core (fun x => { x with rbars := (s.workAt h.core).rbars + 1 })) h

section
variable {s : State} {h : Hart} {r : Run}

theorem rbarArrived_hart (s : State) (core n : Nat) (x : Hart) :
    (s.updWork core (fun w => { w with rbars := n })).hart x = s.hart x := by
  by_cases hx : x.core = core
  · subst hx
    exact updWork_hart_of rfl
  · rw [State.hart, State.workAt, updWork_coreAt_other s _ hx]
    rfl

theorem rbarPassed_hart (s : State) (h : Hart) : (rbarPassed s h).hart h = gone (s.hart h) := by
  rw [rbarPassed, retire_hart, rbarArrived_hart]

theorem rbarPassed_hart_other {x : Hart} (hx : x ≠ h) : (rbarPassed s h).hart x = s.hart x := by
  rw [rbarPassed, retire, retireWith_hart_other _ hx, rbarArrived_hart]

theorem rbarPassed_parts (s : State) (h : Hart) : runParts (rbarPassed s h) = runParts s :=
  (runParts_retireWith ..).trans (runParts_updWork ..)

theorem rbarPassed_rbars (s : State) (h : Hart) :
    ((rbarPassed s h).workAt h.core).rbars = (s.workAt h.core).rbars + 1 := by
  rw [rbarPassed, retire, retireWith_workAt, setCc_rbars, updWork_workAt_same]

theorem rbarPassed_workAt_other {n : Nat} (hn : n ≠ h.core) : (rbarPassed s h).workAt n = s.workAt n := by
  rw [State.workAt, rbarPassed, retire, retireWith_other _ _ _ _ hn, updWork_coreAt_other s _ hn]
  rfl

/-- The work of another core of the RUN. -/
theorem rbarPassed_runWork_other (r : Run) {n : Nat} (hn : n ≠ h.core) : runWork (rbarPassed s h) r n = runWork s r n := by
  unfold runWork
  rw [rbarPassed_workAt_other hn]
  rfl

theorem rbarPassed_runWork_same (hrun : (s.workAt h.core).run = some r.key) :
    (runWork (rbarPassed s h) r h.core).rbars = (s.workAt h.core).rbars + 1 := by
  rw [runWork, if_pos ((runParts_run (rbarPassed_parts s h) h.core).trans hrun), rbarPassed_rbars]

/-- Every core of the RUN has reached as many RBARRIERs as the one that arrives, or has ended. -/
def AllArrived (s : State) (h : Hart) (r : Run) : Prop :=
  ∀ k, k ∈ r.cores → k ≠ h.core → (s.workAt h.core).rbars + 1 ≤ (runWork s r k).rbars ∨ workEnded (runWork s r k) = true

/-- With all arrived, the barrier is complete for every core that has reached it, whatever has been released. -/
theorem rbarDone_of_arrived (hrun : (s.workAt h.core).run = some r.key) (ha : AllArrived s h r) {t : State}
    (ht : Released (rbarPassed s h) t) {k : Nat} (hk : (t.workAt k).rbars = (s.workAt h.core).rbars + 1) :
    rbarDone t r k = true := by
  refine List.all_eq_true.mpr fun n hn => ?_
  rw [hk, Bool.or_eq_true, decide_eq_true_eq]
  obtain ⟨hbars, hended⟩ := ht.runWork r n
  rw [hbars]
  by_cases hnh : n = h.core
  · rw [hnh, rbarPassed_runWork_same hrun]
    exact .inl (le_refl _)
  · rw [rbarPassed_runWork_other r hnh] at hended ⊢
    exact (ha n hn hnh).imp id hended

/-- RBARRIER of the core that arrives last. -/
theorem exec_rbarrier (hx : Executes s h r) (hcc : h.cc = false) (hm : (s.hart h).mode = .running) (ha : AllArrived s h r) :
    exec (.rbarrier h) s = .next (releaseBarriers (rbarPassed s h) r) := by
  have hrun := (hartReady_iff.mp hx.1).1.run.1
  have hbar : rbarDone (s.updWork h.core (fun x => { x with rbars := (s.workAt h.core).rbars + 1 })) r h.core = true := by
    refine List.all_eq_true.mpr fun n hn => ?_
    rw [updWork_workAt_same, Bool.or_eq_true, decide_eq_true_eq]
    unfold runWork
    by_cases hnh : n = h.core
    · subst hnh
      rw [updWork_workAt_same, if_pos hrun]
      exact .inl (le_refl _)
    · have hother : (s.updWork h.core (fun x => { x with rbars := (s.workAt h.core).rbars + 1 })).workAt n = s.workAt n :=
        congrArg Core.work (updWork_coreAt_other s _ hnh)
      rw [hother]
      exact ha n hn hnh
  have hn : (if (s.hart h).mode = .waiting ∧ (s.hart h).wait = .rbarrier then (s.workAt h.core).rbars
      else (s.workAt h.core).rbars + 1) = (s.workAt h.core).rbars + 1 := if_neg fun hc => by
    rw [hm] at hc
    cases hc.1
  refine exec_of_body hx rfl ?_
  simp only [hcc, Bool.false_eq_true, if_false, hn, hbar, if_true]
  rfl

/-- What O12 says of RBARRIER. -/
theorem rbarrier_complete (hx : Executes s h r) (hcc : h.cc = false) (hm : (s.hart h).mode = .running)
    (ha : AllArrived s h r) :
    ∃ t, exec (.rbarrier h) s = .next t ∧ (t.workAt h.core).rbars = (s.workAt h.core).rbars + 1 ∧
      (t.hart h).pc = (s.hart h).pc + 4 ∧ (t.hart h).regs = (s.hart h).regs ∧ SameMemories t s ∧
      ∀ k, k ∈ r.cores → hartReady s ⟨k, false⟩ = some r → (s.hart ⟨k, false⟩).mode = .waiting →
        (s.hart ⟨k, false⟩).wait = .rbarrier → (s.workAt k).rbars = (s.workAt h.core).rbars + 1 →
        WentPast s t ⟨k, false⟩ := by
  have hrun := (hartReady_iff.mp hx.1).1.run.1
  have hrel := releaseBarriers_released (rbarPassed s h) r
  have hself : (releaseBarriers (rbarPassed s h) r).hart h = gone (s.hart h) := by
    rw [hrel.hart_of_mode (by rw [rbarPassed_hart]; nofun), rbarPassed_hart]
  refine ⟨_, exec_rbarrier hx hcc hm ha, (hrel.rbars _).trans (rbarPassed_rbars s h), by rw [hself]; rfl,
    by rw [hself]; rfl, sameMemories_trans hrel.memories ⟨rfl, rfl, rfl⟩, fun k hin hready hmk hwk hk => ?_⟩
  have hne : (⟨k, false⟩ : Hart) ≠ h := by
    rintro rfl
    rw [hm] at hmk
    cases hmk
  have hkc : k ≠ h.core := by
    rintro rfl
    exact hne (by cases h; cases hcc; rfl)
  have ho := rbarPassed_hart_other (s := s) hne
  obtain ⟨hon, hlive⟩ := hartReady_iff.mp hready
  have hready' : hartReady (rbarPassed s h) ⟨k, false⟩ = some r :=
    hartReady_iff.mpr ⟨hon.congr (rbarPassed_parts s h), by rwa [ho]⟩
  refine (releaseBarriers_goes hready' hin (by rw [ho]; exact hmk) fun t ht e => .inr ⟨by rw [e, ho]; exact hwk, ?_⟩).trans
    (by rw [ho]; rfl)
  refine rbarDone_of_arrived hrun ha ht ?_
  rw [ht.rbars k, rbarPassed_workAt_other hkc, hk]

end

/-- Settles O12: the last arrival retires, and the release lets the others go on. -/
theorem barriersComplete : Obligations.BarriersComplete := by
  unfold Obligations.BarriersComplete
  exact ⟨fun s h r hx hm hdone => cbarrier_complete hx hm hdone,
    fun s h r hx hcc hm _ ha => rbarrier_complete hx hcc hm ha⟩

end Sys2Proof.Laws
end

section
/-! DMA commands of one row: O24. -/

namespace Sys2Proof.Laws

open Sys2Proof.Machine Sys2Proof.Safety

/-! ### Writes of one page -/

theorem rangePieces_one {va n : Nat} (h : va % 4096 + n ≤ 4096) : rangePieces va n = if n = 0 then [] else [(va, n)] := by
  have hmin : min n (4096 - va % 4096) = n := by omega
  by_cases hn : n = 0 <;> simp [rangePieces, pieces, hn, hmin]

/-- Where two states translate alike and have the same memories, a write within one page leaves the same memories. -/
theorem vaWrite_sameMemories {s t : State} {c va : Nat} {bs : List Byte} (hpage : va % 4096 + bs.length ≤ 4096)
    (hx : xlate t c va true = xlate s c va true) (hm : SameMemories t s) :
    SameMemories (vaWrite t c va bs) (vaWrite s c va bs) := by
  obtain ⟨hnear, hfar, hhost⟩ := hm
  unfold vaWrite
  rw [rangePieces_one hpage]
  split
  · exact ⟨hnear, hfar, hhost⟩
  · simp only [List.foldl_cons, List.foldl_nil, pieceWrite, hx]
    split
    · next l off _ => cases l <;> simp [SameMemories, setLevel, levelMem, hnear, hfar, hhost]
    · exact ⟨hnear, hfar, hhost⟩

/-! ### The move of one row -/

/-- The near bytes of a DMA command of one row. -/
def dmaNear (s : State) (c : Nat) (bs : List Byte) : Nat :=
  let f := fieldOf bs
  (if f 1 1 = 0 ∨ f 1 1 = 3 then nearBytes s c (f 16 8) (f 8 8) else 0) +
    (if f 1 1 = 1 ∨ f 1 1 = 3 then nearBytes s c (f 24 8) (f 8 8) else 0)

/-- What a DMA command of one row reads. -/
def dmaData (s : State) (c core : Nat) (bs : List Byte) : List Byte :=
  let f := fieldOf bs
  if f 1 1 = 0 ∨ f 1 1 = 3 then vaRead s c (f 16 8) (f 8 8) else storeRead s core (f 16 8) (f 8 8)

/-- The state `p`, in which the row has been paid for, after its source has been read. -/
def dmaRead (p : State) (c : Nat) (bs : List Byte) : State :=
  let f := fieldOf bs
  if f 1 1 = 0 ∨ f 1 1 = 3 then touch p c (f 16 8) (f 8 8) else p

/-- The state after the row has been written (R317). -/
def dmaMoved (s p : State) (c core peer : Nat) (bs : List Byte) : State :=
  let f := fieldOf bs
  if f 1 1 = 1 ∨ f 1 1 = 3 then
    vaWrite (touch (dmaRead p c bs) c (f 24 8) (f 8 8)) c (f 24 8) (dmaData s c core bs)
  else storeWrite (dmaRead p c bs) (if f 1 1 = 2 then peer else core) (f 24 8) (dmaData s c core bs)

/-- A DMA command of one row, its sides within one page each, whose accesses nothing stops. -/
structure DmaRow (s : State) (r : Run) (core : Nat) (bs : List Byte) : Prop where
  rows : fieldOf bs 4 4 ≤ 1
  length : fieldOf bs 8 8 ≠ 0
  source : fieldOf bs 16 8 % 4096 + fieldOf bs 8 8 ≤ 4096
  target : fieldOf bs 24 8 % 4096 + fieldOf bs 8 8 ≤ 4096
  reads : if fieldOf bs 1 1 = 0 ∨ fieldOf bs 1 1 = 3 then Reaches s r (fieldOf bs 16 8) (fieldOf bs 8 8) false
    else storeBad s core (fieldOf bs 16 8) (fieldOf bs 8 8) = none
  writes : fieldOf bs 1 1 = 1 ∨ fieldOf bs 1 1 = 3 → Reaches s r (fieldOf bs 24 8) (fieldOf bs 8 8) true

section
variable {s : State} {r : Run} {core : Nat} {bs : List Byte}

theorem DmaRow.dmaRows (h : DmaRow s r core bs) : dmaRows bs = 1 := by
  have := h.rows
  unfold Machine.dmaRows
  split <;> omega

/-- A row that is paid for is moved at once, and one that is not waits. -/
theorem DmaRow.loop (h : DmaRow s r core bs) (k peer : Nat) :
    dmaLoop (k + 2) s r.key.ctx core peer bs 0 false =
      if (payUnits s core .dma (nearCharge (dmaNear s r.key.ctx bs))).2 = true then
        (dmaMoved s (payUnits s core .dma (nearCharge (dmaNear s r.key.ctx bs))).1 r.key.ctx core peer bs, fieldOf bs 8 8, none)
      else ((payUnits s core .dma (nearCharge (dmaNear s r.key.ctx bs))).1, 0, none) := by
  have hsrc := h.source
  have hdst := h.target
  have hm : min (fieldOf bs 8 8) (min (4096 - fieldOf bs 16 8 % 4096) (4096 - fieldOf bs 24 8 % 4096)) = fieldOf bs 8 8 := by
    omega
  have hread : (if fieldOf bs 1 1 = 0 ∨ fieldOf bs 1 1 = 3 then rangeStop s r.key.ctx (fieldOf bs 16 8) (fieldOf bs 8 8) false
      else (storeBad s core (fieldOf bs 16 8) (fieldOf bs 8 8)).map (fun l => Stop.ue .coreStore l)) = none := by
    have hr := h.reads
    split at hr
    · next e => rw [if_pos e]; exact hr
    · next e => rw [if_neg e, hr]; rfl
  have hwrite : (if fieldOf bs 1 1 = 1 ∨ fieldOf bs 1 1 = 3 then
      rangeStop s r.key.ctx (fieldOf bs 24 8) (fieldOf bs 8 8) true else none) = none := by
    split
    · next e => exact h.writes e
    · rfl
  rw [dmaLoop]
  simp only [h.dmaRows, one_mul, Nat.le_zero, h.length, if_false, dmaVirtual, decide_eq_true_eq, Nat.zero_div, Nat.zero_mod,
    zero_mul, add_zero, Nat.sub_zero, hm, hread, hwrite, Bool.false_eq_true]
  rw [← dmaNear]
  generalize payUnits s core .dma (nearCharge (dmaNear s r.key.ctx bs)) = p
  cases hp : p.2
  · simp
  · simp only [Bool.true_eq_false, if_false, if_true, zero_add]
    rw [dmaLoop]
    simp only [h.dmaRows, one_mul, le_refl, if_true]
    rfl

end

/-- The state after a DMA unit has moved `m` bytes in all. -/
def dmaCounted (t : State) (core m : Nat) : State :=
  (t.updWork core (fun w => { w with dmaU := { w.dmaU with running := true, moved := m } })).tick

section
variable {s : State} {core : Nat} {r : Run} {q : Cmd}

/-- A DMA command of one row, at its start. -/
theorem exec_dmaCommand (hready : unitReady s core .dma = some (r, q)) (hst : dmaStatus r q.bytes = none)
    (hmoved : (s.workAt core).dmaU.moved = 0) (hover : dmaOverlap q.bytes = false) (h : DmaRow s r core q.bytes) :
    let paid := payUnits s core .dma (nearCharge (dmaNear s r.key.ctx q.bytes))
    exec (.dmaCommand core) s = .next (if paid.2 = true then
      setResult .dma stDone (dmaCounted (dmaMoved s paid.1 r.key.ctx core (r.cores.getD (fieldOf q.bytes 48 4) core) q.bytes) core
        (fieldOf q.bytes 8 8)) core
      else dmaCounted paid.1 core 0) := by
  have hfuel : fieldOf q.bytes 8 8 / 2048 + 4 + 1 = fieldOf q.bytes 8 8 / 2048 + 3 + 2 := rfl
  have hloop := h.loop (fieldOf q.bytes 8 8 / 2048 + 3) (r.cores.getD (fieldOf q.bytes 48 4) core)
  rw [← hfuel] at hloop
  have hexec : exec (.dmaCommand core) s = execDmaCommand core s := rfl
  rw [hexec, execDmaCommand]
  generalize payUnits s core .dma (nearCharge (dmaNear s r.key.ctx q.bytes)) = paid at hloop ⊢
  simp only [hready, hst, hmoved, hover, h.dmaRows, one_mul, hloop]
  obtain ⟨t, b⟩ := paid
  cases b with
  | true =>
    simp only [if_true, le_refl]
    rfl
  | false =>
    simp only [Bool.false_eq_true, if_false, Nat.le_zero, h.length]
    rfl

end

/-! ### What the move leaves -/

section
variable {s p : State} {c core peer : Nat} {bs : List Byte}

theorem touch_credits (t : State) (c va n : Nat) : (touch t c va n).power.credits = t.power.credits := by
  have hmark := paceParts_credits (markAccess_pace t c va n)
  exact hmark

theorem dmaRead_cores (p : State) (c : Nat) (bs : List Byte) : (dmaRead p c bs).cores = p.cores := by
  unfold dmaRead
  dsimp only
  split
  · exact touch_cores ..
  · rfl

theorem dmaRead_credits (p : State) (c : Nat) (bs : List Byte) : (dmaRead p c bs).power.credits = p.power.credits := by
  unfold dmaRead
  dsimp only
  split
  · exact touch_credits ..
  · rfl

theorem dmaRead_ways (p : State) (c : Nat) (bs : List Byte) : SameWays p (dmaRead p c bs) := by
  unfold dmaRead
  dsimp only
  split
  · exact touch_ways ..
  · exact .refl p

theorem SameWays.memories {s t : State} (h : SameWays s t) : SameMemories t s := by
  rw [h.rest]
  exact sameMemories_refl s

theorem vaWrite_power (s : State) (c va : Nat) (bs : List Byte) : (vaWrite s c va bs).power = s.power := by
  have hrest := congrArg State.power (vaWrite_besideMemories s c va bs)
  exact hrest

theorem dmaMoved_credits : (dmaMoved s p c core peer bs).power.credits = p.power.credits := by
  unfold dmaMoved
  dsimp only
  split
  · rw [vaWrite_power, touch_credits, dmaRead_credits]
  · exact dmaRead_credits ..

/-- A write of a core's store leaves the queues alone. -/
theorem storeWrite_unitQ (s : State) (core a : Nat) (bs : List Byte) (n : Nat) (u : EngineUnit) :
    ((storeWrite s core a bs).workAt n).unitQ u = (s.workAt n).unitQ u := by
  by_cases hn : n = core
  · rw [hn, storeWrite_workAt]
    cases u <;> rfl
  · rw [storeWrite_workAt_other s hn]

theorem dmaMoved_unitQ (n : Nat) (u : EngineUnit) :
    ((dmaMoved s p c core peer bs).workAt n).unitQ u = (p.workAt n).unitQ u := by
  unfold dmaMoved
  dsimp only
  split
  · rw [workAt_of_cores ((vaWrite_cores ..).trans ((touch_cores ..).trans (dmaRead_cores ..)))]
  · rw [storeWrite_unitQ, workAt_of_cores (dmaRead_cores ..)]

/-- A move into a core's store. -/
theorem dmaMoved_toStore (hk : ¬ (fieldOf bs 1 1 = 1 ∨ fieldOf bs 1 1 = 3)) :
    SameMemories (dmaMoved s p c core peer bs) p ∧
    ((dmaMoved s p c core peer bs).workAt (if fieldOf bs 1 1 = 2 then peer else core)).store =
      memWriteN (p.workAt (if fieldOf bs 1 1 = 2 then peer else core)).store (fieldOf bs 24 8) (dmaData s c core bs) := by
  have hmoved : dmaMoved s p c core peer bs = storeWrite (dmaRead p c bs) (if fieldOf bs 1 1 = 2 then peer else core)
      (fieldOf bs 24 8) (dmaData s c core bs) := if_neg hk
  rw [hmoved]
  refine ⟨sameMemories_trans ⟨rfl, rfl, rfl⟩ (dmaRead_ways p c bs).memories, ?_⟩
  rw [storeWrite_workAt, workAt_of_cores (dmaRead_cores ..)]

/-- A move into memory. -/
theorem dmaMoved_toMemory (hp : Twin s p) (hk : fieldOf bs 1 1 = 1 ∨ fieldOf bs 1 1 = 3)
    (hpage : fieldOf bs 24 8 % 4096 + fieldOf bs 8 8 ≤ 4096) :
    SameMemories (dmaMoved s p c core peer bs) (vaWrite s c (fieldOf bs 24 8) (dmaData s c core bs)) := by
  have hmoved : dmaMoved s p c core peer bs =
      vaWrite (touch (dmaRead p c bs) c (fieldOf bs 24 8) (fieldOf bs 8 8)) c (fieldOf bs 24 8) (dmaData s c core bs) := if_pos hk
  have hways : SameWays p (touch (dmaRead p c bs) c (fieldOf bs 24 8) (fieldOf bs 8 8)) :=
    (dmaRead_ways p c bs).trans (touch_ways ..)
  have hlen : (dmaData s c core bs).length ≤ fieldOf bs 8 8 := by
    unfold dmaData storeRead
    dsimp only
    split
    · exact vaRead_length_le ..
    · exact (memReadN_length ..).le
  rw [hmoved]
  exact vaWrite_sameMemories (by omega) ((hways.xlate ..).trans (hp.xlate ..)) (sameMemories_trans hways.memories hp.sameMemories)

end

/-- A change of a core's work that leaves its store leaves every store. -/
theorem updWork_store (s : State) (core : Nat) {f : Work → Work} (hf : ∀ w, (f w).store = w.store) (n : Nat) :
    ((s.updWork core f).workAt n).store = (s.workAt n).store := by
  by_cases hn : n = core
  · rw [hn, updWork_workAt_same, hf]
  · exact congrArg (fun x : Core => x.work.store) (updWork_coreAt_other s f hn)

theorem dmaCounted_store (t : State) (core m n : Nat) : ((dmaCounted t core m).workAt n).store = (t.workAt n).store := by
  rw [dmaCounted, tick_workAt, updWork_store]
  exact fun _ => rfl

/-- The DMA unit's result at the end of its command leaves every store. -/
theorem dmaResult_store (t : State) (core m n : Nat) :
    ((setResult .dma stDone (dmaCounted t core m) core).workAt n).store = (t.workAt n).store := by
  rw [setResult, updWork_store _ _ fun w => setUnitQ_store w _ _, dmaCounted_store]

theorem Paid.store {u : EngineUnit} {s t : State} (h : Paid u s t) (n : Nat) : (t.workAt n).store = (s.workAt n).store := by
  obtain ⟨p, hp⟩ := h.core n
  rw [State.workAt, hp, setUnitQ_store]

/-! ### The command -/

section
variable {s : State} {core : Nat} {r : Run} {q : Cmd}

/-- A PEER that names no core of the RUN ends the command under every KIND (R317). -/
theorem dmaCommand_badPeer (hready : unitReady s core .dma = some (r, q)) (hop : fieldOf q.bytes 0 1 = 1)
    (hpeer : r.cores.length ≤ fieldOf q.bytes 48 4) :
    ∃ t, exec (.dmaCommand core) s = .next t ∧ EndsUnit s t core .dma stBadField ∧ SameMemories t s := by
  have hst : dmaStatus r q.bytes = some stBadField := by
    simp [dmaStatus, hop, hpeer]
  refine ⟨setResult .dma stBadField s core, ?_, setResult_endsUnit .., ⟨rfl, rfl, rfl⟩⟩
  have hexec : exec (.dmaCommand core) s = execDmaCommand core s := rfl
  simp only [hexec, execDmaCommand, hready, hst]

/-- A row that is not paid for moves nothing. -/
theorem dmaCommand_unpaid {paid : State} (hpaid : Paid .dma s paid) (hmoved : (s.workAt core).dmaU.moved = 0) :
    SameMemories (dmaCounted paid core 0) s ∧ (dmaCounted paid core 0).power.credits = paid.power.credits ∧
      ((dmaCounted paid core 0).workAt core).dmaU = { (paid.workAt core).dmaU with running := true } ∧
      ((dmaCounted paid core 0).workAt core).store = (s.workAt core).store := by
  have hzero : (paid.workAt core).dmaU.moved = 0 := (congrArg UnitQ.moved (hpaid.unitQ_same core)).trans hmoved
  refine ⟨sameMemories_trans ⟨rfl, rfl, rfl⟩ hpaid.memories, rfl, ?_,
    (dmaCounted_store ..).trans (hpaid.store core)⟩
  rw [dmaCounted, tick_workAt, updWork_workAt_same, ← hzero]

/-- A row that is paid for is moved by its KIND. -/
theorem dmaCommand_paid {paid : State} {peer : Nat} {bs : List Byte} (hpaid : Paid .dma s paid) (h : DmaRow s r core bs) :
    let t := setResult .dma stDone (dmaCounted (dmaMoved s paid r.key.ctx core peer bs) core (fieldOf bs 8 8)) core
    t.power.credits = paid.power.credits ∧
      (t.workAt core).dmaU =
        { (paid.workAt core).dmaU with running := true, moved := fieldOf bs 8 8, result := some stDone } ∧
      (fieldOf bs 1 1 = 0 → SameMemories t s ∧ (t.workAt core).store =
        memWriteN (s.workAt core).store (fieldOf bs 24 8) (vaRead s r.key.ctx (fieldOf bs 16 8) (fieldOf bs 8 8))) ∧
      (fieldOf bs 1 1 = 1 → SameMemories t (vaWrite s r.key.ctx (fieldOf bs 24 8)
        (memReadN (s.workAt core).store (fieldOf bs 16 8) (fieldOf bs 8 8)))) ∧
      (fieldOf bs 1 1 = 2 → SameMemories t s ∧ (t.workAt peer).store =
        memWriteN (s.workAt peer).store (fieldOf bs 24 8)
          (memReadN (s.workAt core).store (fieldOf bs 16 8) (fieldOf bs 8 8))) ∧
      (fieldOf bs 1 1 = 3 → SameMemories t (vaWrite s r.key.ctx (fieldOf bs 24 8)
        (vaRead s r.key.ctx (fieldOf bs 16 8) (fieldOf bs 8 8)))) := by
  intro t
  have hmem : SameMemories t (dmaMoved s paid r.key.ctx core peer bs) := ⟨rfl, rfl, rfl⟩
  have hdata0 : fieldOf bs 1 1 = 0 ∨ fieldOf bs 1 1 = 3 →
      dmaData s r.key.ctx core bs = vaRead s r.key.ctx (fieldOf bs 16 8) (fieldOf bs 8 8) := fun hk => if_pos hk
  have hdata1 : ¬ (fieldOf bs 1 1 = 0 ∨ fieldOf bs 1 1 = 3) →
      dmaData s r.key.ctx core bs = memReadN (s.workAt core).store (fieldOf bs 16 8) (fieldOf bs 8 8) := fun hk => if_neg hk
  refine ⟨dmaMoved_credits (s := s) (c := r.key.ctx) (core := core) (peer := peer) (bs := bs), ?_, fun hk => ?_, fun hk => ?_,
    fun hk => ?_, fun hk => ?_⟩
  · have hunit : ((dmaMoved s paid r.key.ctx core peer bs).workAt core).dmaU = (paid.workAt core).dmaU := dmaMoved_unitQ core .dma
    simp only [t, setResult_workAt, dmaCounted, tick_workAt, updWork_workAt_same, Work.setUnitQ, Work.unitQ]
    rw [hunit]
  · obtain ⟨hm, hs⟩ := dmaMoved_toStore (s := s) (p := paid) (c := r.key.ctx) (core := core) (peer := peer) (bs := bs) (by omega)
    rw [if_neg (by omega), hdata0 (.inl hk), hpaid.store] at hs
    exact ⟨sameMemories_trans hmem (sameMemories_trans hm hpaid.memories), (dmaResult_store ..).trans hs⟩
  · have hm := dmaMoved_toMemory (c := r.key.ctx) (core := core) (peer := peer) hpaid.twin (.inl hk) h.target
    rw [hdata1 (by omega)] at hm
    exact sameMemories_trans hmem hm
  · obtain ⟨hm, hs⟩ := dmaMoved_toStore (s := s) (p := paid) (c := r.key.ctx) (core := core) (peer := peer) (bs := bs) (by omega)
    rw [if_pos hk, hdata1 (by omega), hpaid.store] at hs
    exact ⟨sameMemories_trans hmem (sameMemories_trans hm hpaid.memories), (dmaResult_store ..).trans hs⟩
  · have hm := dmaMoved_toMemory (c := r.key.ctx) (core := core) (peer := peer) hpaid.twin (.inr hk) h.target
    rw [hdata0 (.inr hk)] at hm
    exact sameMemories_trans hmem hm

end

/-- Settles O24: a row is one piece of the loop, moved when it is paid for. -/
theorem dmaCommandsComplete : Obligations.DmaCommandsComplete := by
  unfold Obligations.DmaCommandsComplete
  intro s core r q f c n peer near paid hready
  refine ⟨fun hop hpeer => dmaCommand_badPeer hready hop hpeer, fun hst hn hrows hmoved hsrc hdst hover hread hwrite => ?_⟩
  have hrow : DmaRow s r core q.bytes := ⟨hrows, hn, hsrc, hdst, hread, hwrite⟩
  have hpaid : Paid .dma s paid.1 := payUnits_paid s core .dma _
  have he := exec_dmaCommand hready hst hmoved hover hrow
  refine ⟨fun hp => ⟨_, he.trans (congrArg _ (if_neg ?_)), dmaCommand_unpaid hpaid hmoved⟩,
    fun hp => ⟨_, he.trans (congrArg _ (if_pos hp)), dmaCommand_paid hpaid hrow⟩⟩
  rw [Bool.not_eq_true]
  exact hp

end Sys2Proof.Laws
end

section
/-! The dispatch of a RUN: O30. -/

namespace Sys2Proof.Laws

open Sys2Proof.Machine Sys2Proof.Safety

/-! ### Before GO -/

theorem MarkFrame.ways {s t : State} (h : MarkFrame s t) : SameWays s t := by
  refine ⟨fun c p => h.twin.leafOf c p, ?_⟩
  unfold MarkFrame at h
  rw [h]

theorem MarkFrame.ctxAt {s t : State} (h : MarkFrame s t) (c : Nat) : t.ctxAt c = s.ctxAt c := by
  unfold MarkFrame at h
  rw [h]
  rfl

theorem freshTiming_frame (s : State) (plot : Nat) : MarkFrame s (freshTiming s plot) := by
  have hplot : MarkFrame s (s.updPlot plot (fun q => { q with broken := [] })) := rfl
  unfold freshTiming
  dsimp only
  split
  · exact hplot.trans (timingBroken_frame ..)
  · exact hplot

/-- The state after a read of the sequencers: its leaves are cached, and a timed plot sees it (R393, R401). -/
def seqRead (s : State) (c va n : Nat) : State := markAccess (cachePages s c va n) c va n

theorem seqRead_ways (s : State) (c va n : Nat) : SameWays s (seqRead s c va n) :=
  (cachePages_ways ..).trans (markAccess_ways ..)

theorem SameWays.runs {s t : State} (h : SameWays s t) : t.runs = s.runs := by rw [h.rest]

theorem SameWays.coreAt {s t : State} (h : SameWays s t) (n : Nat) : t.coreAt n = s.coreAt n := by
  rw [h.rest]
  rfl

theorem SameWays.findRun {s t : State} (h : SameWays s t) (k : RunKey) : t.findRun k = s.findRun k := by
  rw [State.findRun, h.runs]
  rfl

/-! ### GO -/

/-- A core at GO (R307, R358). -/
def goneCore (r : Run) (p : ProgHdr) (params : List Byte) (n : Nat) (c : Core) : Core :=
  { c with
    power := 0
    work :=
      { run := some r.key
        store := memWriteN c.work.store p.paramOff params
        cc0 := startCc p.entry0 r.param (rankIn r.cores n) r.cores.length 0
        cc1 := if p.flags % 2 = 1 then startCc p.entry1 r.param (rankIn r.cores n) r.cores.length 1 else {} } }

section
variable (r : Run) (p : ProgHdr) (params : List Byte)

theorem goCore_coreAt_same (s : State) (n : Nat) :
    (goCore r p params s n).coreAt n = goneCore r p params n (s.coreAt n) :=
  updCore_coreAt_same ..

theorem goCore_coreAt_other (s : State) {n m : Nat} (h : m ≠ n) : (goCore r p params s n).coreAt m = s.coreAt m :=
  updCore_coreAt_other _ _ h

theorem foldl_goCore_coreAt_other {l : List Nat} {n : Nat} (hn : n ∉ l) (s : State) :
    (l.foldl (goCore r p params) s).coreAt n = s.coreAt n := by
  induction l generalizing s with
  | nil => rfl
  | cons m l ih =>
    obtain ⟨hm, hl⟩ := not_or.mp (mt List.mem_cons.mpr hn)
    rw [List.foldl_cons, ih hl, goCore_coreAt_other r p params s hm]

/-- Every core of a list without repetition goes once. -/
theorem foldl_goCore_coreAt {l : List Nat} (hl : l.Nodup) {n : Nat} (hn : n ∈ l) (s : State) :
    (l.foldl (goCore r p params) s).coreAt n = goneCore r p params n (s.coreAt n) := by
  induction l generalizing s with
  | nil => cases hn
  | cons m l ih =>
    obtain ⟨hm, hl⟩ := List.nodup_cons.mp hl
    rw [List.foldl_cons]
    by_cases e : n = m
    · subst e
      rw [foldl_goCore_coreAt_other r p params hm, goCore_coreAt_same]
    · rw [ih hl ((List.mem_cons.mp hn).resolve_left e), goCore_coreAt_other r p params s e]

theorem foldl_goCore_runs (l : List Nat) (s : State) : (l.foldl (goCore r p params) s).runs = s.runs :=
  foldl_part (f := goCore r p params) State.runs (fun _ _ => rfl) l s

theorem foldl_goCore_sameMemories (l : List Nat) (s : State) : SameMemories (l.foldl (goCore r p params) s) s :=
  sameMemories_foldl (f := goCore r p params) (fun _ _ => ⟨rfl, rfl, rfl⟩) s l

end

/-- The registers of a control core at its entry (R307). -/
theorem regGet_startCc (entry param rank n cc : Nat) (g : BitVec 5) :
    regGet (startCc entry param rank n cc) g = if g = 1 then BitVec.ofNat 64 param else if g = 2 then BitVec.ofNat 64 rank
      else if g = 3 then BitVec.ofNat 64 n else if g = 4 then BitVec.ofNat 64 cc else 0 := by
  have hg (m : BitVec 5) : g = m ↔ m.toNat = g.toNat := by rw [eq_comm, ← BitVec.toNat_inj]
  unfold regGet startCc
  by_cases h0 : g = 0
  · subst h0
    rfl
  · rw [if_neg h0]
    simp only [tabGet, hg]
    rfl

/-- A core at GO, as O30 says. -/
theorem goneCore_complete (r : Run) (p : ProgHdr) (params : List Byte) {t : State} {n : Nat} {c : Core}
    (h : t.coreAt n = goneCore r p params n c) :
    (t.coreAt n).power = 0 ∧ (t.workAt n).run = some r.key ∧
      (t.workAt n).store = memWriteN c.work.store p.paramOff params ∧
      (∀ cc, (cc = false ∨ p.flags % 2 = 1) →
        (t.hart ⟨n, cc⟩).started = true ∧ (t.hart ⟨n, cc⟩).mode = .running ∧
        (t.hart ⟨n, cc⟩).pc = BitVec.ofNat 64 (if cc then p.entry1 else p.entry0) ∧
        (∀ g, reg t ⟨n, cc⟩ g = if g = 1 then BitVec.ofNat 64 r.param
          else if g = 2 then BitVec.ofNat 64 (r.cores.takeWhile (fun m => decide (m ≠ n))).length
          else if g = 3 then BitVec.ofNat 64 r.cores.length
          else if g = 4 ∧ cc = true then 1 else 0)) ∧
      (p.flags % 2 = 0 → (t.hart ⟨n, true⟩).started = false) := by
  have hw : t.workAt n = (goneCore r p params n c).work := congrArg Core.work h
  have hcc (cc : Bool) (hcc : cc = false ∨ p.flags % 2 = 1) : t.hart ⟨n, cc⟩ =
      startCc (if cc then p.entry1 else p.entry0) r.param (rankIn r.cores n) r.cores.length (if cc then 1 else 0) := by
    rw [State.hart, hw]
    cases cc with
    | false => rfl
    | true => exact if_pos (hcc.resolve_left (by simp))
  refine ⟨by rw [h]; rfl, by rw [hw]; rfl, by rw [hw]; rfl, fun cc hf => ?_, fun hf => ?_⟩
  · rw [hcc cc hf]
    refine ⟨rfl, rfl, rfl, fun g => ?_⟩
    rw [reg, hcc cc hf, regGet_startCc]
    cases cc <;> simp [rankIn]
  · have hnone : t.hart ⟨n, true⟩ = {} := by
      have hne : ¬ p.flags % 2 = 1 := by omega
      rw [State.hart, hw]
      exact if_neg hne
    rw [hnone]

/-! ### The dispatch -/

section
variable {s : State} {r : Run}

/-- The state in which the cores of a dispatched RUN go (R358). -/
def dispatched (s : State) (r : Run) (p : ProgHdr) : State :=
  seqRead (seqRead (freshTiming s (s.ctxAt r.key.ctx).plot) r.key.ctx r.program 64) r.key.ctx r.param p.paramBytes

theorem dispatched_ways (s : State) (r : Run) (p : ProgHdr) : SameWays s (dispatched s r p) :=
  ((freshTiming_frame ..).ways.trans (seqRead_ways ..)).trans (seqRead_ways ..)

theorem mayDispatch_active (h : mayDispatch s r = true) : (s.ctxAt r.key.ctx).st = 1 := by
  simp only [mayDispatch, Bool.and_eq_true, decide_eq_true_eq] at h
  exact h.1.1.2

theorem switchPlot_holder {p c : Nat} (h : (s.plotAt p).holder = some c) : switchPlot s p c = s := by
  unfold switchPlot
  exact if_pos h

/-- With the code on every named core, GO follows at once (R306). -/
theorem loadAndGo_ready {t : State} {p : ProgHdr} (himage : ∀ n, n ∈ r.cores → (t.coreAt n).image = some (imageKey r p)) :
    loadAndGo t r p = go t r p := by
  have hlack : coresLacking t r p = [] :=
    List.filter_eq_nil_iff.mpr fun n hn => by simp [himage n hn]
  unfold loadAndGo
  rw [hlack]

/-- GO with parameters that can be read. -/
theorem go_reaches {t : State} {p : ProgHdr} (h : rangeStop t r.key.ctx r.param p.paramBytes false = none) :
    go t r p = (r.cores.foldl (goCore r p (vaRead (seqRead t r.key.ctx r.param p.paramBytes) r.key.ctx r.param p.paramBytes))
      (seqRead t r.key.ctx r.param p.paramBytes)).updRun r.key (fun q => { q with phase := .dispatched, hdr := p }) := by
  unfold go
  rw [h]
  rfl

/-- A RUN of the context that holds its plot, whose header passes its checks and whose code is loaded, goes. -/
theorem exec_runDispatch (hf : s.findRun r.key = some r) (hmay : mayDispatch s r = true)
    (hquota : overQuota (s.ctxAt r.key.ctx) = false) (hholds : (s.plotAt (s.ctxAt r.key.ctx).plot).holder = some r.key.ctx)
    (hhdr : Reaches s r r.program 64 false) (hst : hdrStatus (vaRead s r.key.ctx r.program 64) r.program r.param = none)
    (himage : ∀ n, n ∈ r.cores →
      (s.coreAt n).image = some (imageKey r (parseHdr (vaRead s r.key.ctx r.program 64))))
    (hparam : Reaches s r r.param (parseHdr (vaRead s r.key.ctx r.program 64)).paramBytes false) :
    let p := parseHdr (vaRead s r.key.ctx r.program 64)
    exec (.runDispatch r.key) s = .next ((r.cores.foldl (goCore r p (vaRead s r.key.ctx r.param p.paramBytes))
      (dispatched s r p)).updRun r.key (fun q => { q with phase := .dispatched, hdr := p })) := by
  intro p
  have hfresh := (freshTiming_frame s (s.ctxAt r.key.ctx).plot).ways
  have hactive : ¬ ((freshTiming s (s.ctxAt r.key.ctx).plot).ctxAt r.key.ctx).st ≠ 1 := by
    rw [(freshTiming_frame ..).ctxAt]
    exact not_not.mpr (mayDispatch_active hmay)
  have hread := hfresh.trans (seqRead_ways (freshTiming s (s.ctxAt r.key.ctx).plot) r.key.ctx r.program 64)
  have hgo : loadAndGo (seqRead (freshTiming s (s.ctxAt r.key.ctx).plot) r.key.ctx r.program 64) r p =
      (r.cores.foldl (goCore r p (vaRead s r.key.ctx r.param p.paramBytes)) (dispatched s r p)).updRun r.key
        (fun q => { q with phase := .dispatched, hdr := p }) := by
    rw [loadAndGo_ready (fun n hn => by rw [hread.coreAt]; exact himage n hn),
      go_reaches ((hread.rangeStop ..).trans hparam), ← dispatched, (dispatched_ways s r p).vaRead]
  have hexec : exec (.runDispatch r.key) s = execRunDispatch r.key s := rfl
  rw [hexec, execRunDispatch]
  simp only [hf, hmay, hquota, switchPlot_holder hholds, if_neg hactive, (hfresh.rangeStop ..).trans hhdr, hfresh.vaRead, hst,
    Bool.true_eq_false, Bool.false_eq_true, if_false]
  exact congrArg _ hgo

end

/-- Settles O30: the dispatch comes to GO, which each core of the RUN does once. -/
theorem runDispatchCompletes : Obligations.RunDispatchCompletes := by
  unfold Obligations.RunDispatchCompletes
  intro s k r h p hf hmay hquota hholds hhdr hst himage hparam hnodup
  obtain rfl : r.key = k := findRun_key hf
  refine ⟨_, exec_runDispatch hf hmay hquota hholds hhdr hst himage hparam, ?_, ?_, fun n hn => ?_⟩
  · exact sameMemories_trans (foldl_goCore_sameMemories ..) (dispatched_ways s r p).memories
  · refine updRun_findRun ?_ fun _ => rfl
    rw [State.findRun, foldl_goCore_runs, ← State.findRun, (dispatched_ways s r p).findRun, hf]
  · have hcore : ((r.cores.foldl (goCore r p (vaRead s r.key.ctx r.param p.paramBytes)) (dispatched s r p)).updRun r.key
        (fun q => { q with phase := .dispatched, hdr := p })).coreAt n =
        goneCore r p (vaRead s r.key.ctx r.param p.paramBytes) n (s.coreAt n) := by
      rw [updRun_coreAt, foldl_goCore_coreAt r p _ hnodup hn, (dispatched_ways s r p).coreAt]
    exact goneCore_complete r p _ hcore

end Sys2Proof.Laws
end

section
/-! The ends of RUNs and of slices: O31. -/

namespace Sys2Proof.Laws

open Sys2Proof.Machine Sys2Proof.Safety

/-! ### What the end of a RUN leaves of cores and RUNs -/

/-- The cores and the list of RUNs. -/
def coresAndRuns (s : State) : Tab Core × List Run := (s.cores, s.runs)

section
variable (s : State)

theorem writeEach_coresAndRuns (c : Nat) (ws : List (Nat × List Byte)) :
    coresAndRuns (writeEach s c ws) = coresAndRuns s := by
  refine foldl_part coresAndRuns (fun t w => ?_) ws s
  split
  · rw [coresAndRuns, tick_cores, tick_runs, vaWrite_cores, vaWrite_runs, markAccess_cores, markAccess_runs]
    rfl
  · rfl

theorem leaveGroup_coresAndRuns (r : Run) (st : Status) : coresAndRuns (leaveGroup s r st) = coresAndRuns s := by
  have hsend (t : State) (g : Nat) (chips : List Nat) (m : FabMsg) : coresAndRuns (sendGroup t g chips m) = coresAndRuns t := by
    have hsent := congrArg coresAndRuns (sendFabs_sends t chips m).frame
    exact hsent
  unfold leaveGroup
  split
  · rfl
  · split
    · rfl
    · dsimp only
      split_ifs
      · rfl
      · rfl
      · exact hsend ..

/-- A RUN that is dropped leaves the list, and its cores are freed. -/
theorem dropRun_coresAndRuns (k : RunKey) (st : Status) (reset : Bool) :
    coresAndRuns (dropRun s k st reset) =
      (s.cores.map (fun p => (p.1, freeCore k p.2)), s.runs.filter (fun r => r.key ≠ k)) := by
  have hdrop (t : State) (h : coresAndRuns t = coresAndRuns s) :
      (t.cores.map (fun p => (p.1, freeCore k p.2)), t.runs.filter (fun r => r.key ≠ k)) =
        (s.cores.map (fun p => (p.1, freeCore k p.2)), s.runs.filter (fun r => r.key ≠ k)) := by
    obtain ⟨hcores, hruns⟩ := Prod.mk.inj h
    rw [hcores, hruns]
  unfold dropRun
  cases s.findRun k with
  | none => rfl
  | some r => exact hdrop _ ((leaveGroup_coresAndRuns ..).trans (writeEach_coresAndRuns ..))

/-- A table changed in every place, at a number whose default does not change. -/
theorem tabGet_map_of_default {α : Type} {d : α} {f : α → α} (hd : f d = d) (l : Tab α) (n : Nat) :
    tabGet d (l.map (fun p => (p.1, f p.2))) n = f (tabGet d l n) := by
  induction l with
  | nil => exact hd.symm
  | cons p l ih =>
    obtain ⟨j, v⟩ := p
    by_cases hj : j = n
    · simp [tabGet, hj]
    · simpa [tabGet, hj] using ih

theorem dropRun_coreAt (k : RunKey) (st : Status) (reset : Bool) (n : Nat) :
    (dropRun s k st reset).coreAt n = freeCore k (s.coreAt n) := by
  have hcores := congrArg Prod.fst (dropRun_coresAndRuns s k st reset)
  exact (congrArg (fun l => tabGet {} l n) hcores).trans (tabGet_map_of_default rfl ..)

theorem dropRun_runs (k : RunKey) (st : Status) (reset : Bool) :
    (dropRun s k st reset).runs = s.runs.filter (fun r => r.key ≠ k) :=
  congrArg Prod.snd (dropRun_coresAndRuns s k st reset)

/-- The state in which the units of a RUN's cores have the status that ends it. -/
def unitsEnded (k : RunKey) (st : Status) : State :=
  { s with cores := s.cores.map (fun p => (p.1, endUnits k st p.2)) }

theorem stopRun_eq (k : RunKey) (st : Status) : stopRun s k st = dropRun (unitsEnded s k st) k st false := rfl

theorem unitsEnded_coreAt (k : RunKey) (st : Status) (n : Nat) : (unitsEnded s k st).coreAt n = endUnits k st (s.coreAt n) :=
  tabGet_map_of_default (by simp [endUnits]) ..

theorem stopRun_coreAt (k : RunKey) (st : Status) (n : Nat) :
    (stopRun s k st).coreAt n = freeCore k (endUnits k st (s.coreAt n)) := by
  rw [stopRun_eq, dropRun_coreAt, unitsEnded_coreAt]

theorem stopRun_runs (k : RunKey) (st : Status) : (stopRun s k st).runs = s.runs.filter (fun r => r.key ≠ k) := by
  rw [stopRun_eq, dropRun_runs]
  rfl

theorem completeRun_coreAt (k : RunKey) (st : Status) (detail n : Nat) :
    (completeRun s k st detail).coreAt n = freeCore k (endUnits k st (s.coreAt n)) :=
  stopRun_coreAt ..

theorem completeRun_runs (k : RunKey) (st : Status) (detail : Nat) :
    (completeRun s k st detail).runs = s.runs.filter (fun r => r.key ≠ k) :=
  stopRun_runs ..

end

/-- The status registers of a core's units are beside its work and its ports. -/
theorem endUnits_work (k : RunKey) (st : Status) (c : Core) :
    (endUnits k st c).work = c.work ∧ (endUnits k st c).quiesce = c.quiesce := by
  have hlast (u : EngineUnit) (c : Core) : (lastStatus u st c).work = c.work ∧ (lastStatus u st c).quiesce = c.quiesce := by
    cases u <;> exact ⟨rfl, rfl⟩
  have hone (u : EngineUnit) (c : Core) :
      (if (c.work.unitQ u).queue.isEmpty then c else lastStatus u st c).work = c.work ∧
      (if (c.work.unitQ u).queue.isEmpty then c else lastStatus u st c).quiesce = c.quiesce := by
    split
    · exact ⟨rfl, rfl⟩
    · exact hlast u c
  unfold endUnits
  split
  · exact List.foldlRecOn (motive := fun d => d.work = c.work ∧ d.quiesce = c.quiesce) _ _ ⟨rfl, rfl⟩ fun d hd u _ =>
      ⟨(hone u d).1.trans hd.1, (hone u d).2.trans hd.2⟩
  · exact ⟨rfl, rfl⟩

/-- A freed core keeps its store and works for the RUN no more (R359). -/
theorem freeCore_work (k : RunKey) (c : Core) :
    (freeCore k c).work.store = c.work.store ∧ (freeCore k c).work.run ≠ some k ∧ (freeCore k c).quiesce = c.quiesce := by
  unfold freeCore
  split
  · exact ⟨rfl, nofun, rfl⟩
  · next h => exact ⟨rfl, h, rfl⟩

/-- No RUN of a key is found among those of other keys. -/
theorem findRun_dropped {s : State} {k : RunKey} {l : List Run} (h : s.runs = l.filter (fun r => r.key ≠ k)) :
    s.findRun k = none := by
  rw [State.findRun, h, List.find?_eq_none]
  intro r hr
  simpa using (List.mem_filter.mp hr).2

/-! ### The end of a RUN without spin commands -/

/-- Beside its cores, RUNs and waiting seeds, a RUN without spin commands leaves the state as it is but for its save area and
its snapshot. -/
theorem dropRun_quiet {s : State} {k : RunKey} {r : Run} (hf : s.findRun k = some r) (hspin : r.spin = none)
    (hblock : r.block = none) (st : Status) (reset : Bool) :
    SameMemories (dropRun s k st reset) s ∧ ∀ c n, (dropRun s k st reset).ringAt c n = s.ringAt c n := by
  have hrec : leaveGroup (endRecord s r st reset) r st = s := by
    simp only [leaveGroup, endRecord, startWrites, writeEach, hspin, hblock, Option.bind_none, List.foldl_nil]
  unfold dropRun
  simp only [hf, hrec]
  refine ⟨⟨rfl, rfl, rfl⟩, fun c n => ?_⟩
  unfold State.ringAt
  by_cases hc : c = k.ctx
  · rw [hc, updCtx_ctxAt_same]
    rfl
  · rw [updCtx_ctxAt_other _ _ hc]
    rfl

theorem stopRun_quiet {s : State} {k : RunKey} {r : Run} (hf : s.findRun k = some r) (hspin : r.spin = none)
    (hblock : r.block = none) (st : Status) :
    SameMemories (stopRun s k st) s ∧ ∀ c n, (stopRun s k st).ringAt c n = s.ringAt c n :=
  dropRun_quiet (s := unitsEnded s k st) hf hspin hblock st false

/-- A RUN that completes finishes its descriptor (R359, R366). -/
theorem completeRun_finished {s : State} {k : RunKey} {r : Run} (hf : s.findRun k = some r) (hspin : r.spin = none)
    (hblock : r.block = none) (st : Status) (detail : Nat) {d : Desc}
    (hd : (s.ringAt k.ctx k.ring).inflight.filter (fun e => e.slot = k.slot) = [d]) :
    ((completeRun s k st detail).ringAt k.ctx k.ring).finished = (s.ringAt k.ctx k.ring).finished ++ [⟨d, st, detail⟩] := by
  obtain ⟨-, hring⟩ := stopRun_quiet hf hspin hblock st
  rw [completeRun, finishDesc, updRing_ringAt_same, hring, Ring.finish, hd]
  rfl

theorem completeRun_sameMemories {s : State} {k : RunKey} {r : Run} (hf : s.findRun k = some r) (hspin : r.spin = none)
    (hblock : r.block = none) (st : Status) (detail : Nat) : SameMemories (completeRun s k st detail) s :=
  sameMemories_trans ⟨rfl, rfl, rfl⟩ (stopRun_quiet hf hspin hblock st).1

/-- A RUN that ends with a status, as O31 says. -/
theorem endRun_complete {s : State} {k : RunKey} {r : Run} (hf : s.findRun k = some r) (hspin : r.spin = none)
    (hblock : r.block = none) (st : Status) (detail : Nat) :
    SameMemories (endRun s k st detail) s ∧ (endRun s k st detail).findRun k = none ∧
      (∀ n, ((endRun s k st detail).workAt n).store = (s.workAt n).store ∧ ((endRun s k st detail).workAt n).run ≠ some k) ∧
      ((s.ctxAt k.ctx).st = 4 →
        ((endRun s k st detail).ringAt k.ctx k.ring).finished = (s.ringAt k.ctx k.ring).finished) ∧
      (∀ d : Desc, (s.ctxAt k.ctx).st ≠ 4 → (s.ringAt k.ctx k.ring).inflight.filter (fun e => e.slot = k.slot) = [d] →
        ((endRun s k st detail).ringAt k.ctx k.ring).finished = (s.ringAt k.ctx k.ring).finished ++ [⟨d, st, detail⟩]) := by
  by_cases h4 : (s.ctxAt k.ctx).st = 4
  · have hend : endRun s k st detail = dropRun s k stTimeoutKilled true := if_pos h4
    obtain ⟨hmem, hring⟩ := dropRun_quiet hf hspin hblock stTimeoutKilled true
    rw [hend]
    refine ⟨hmem, findRun_dropped (dropRun_runs ..), fun n => ?_, fun _ => by rw [hring], fun d hn => absurd h4 hn⟩
    obtain ⟨hstore, hrun, -⟩ := freeCore_work k (s.coreAt n)
    rw [State.workAt, dropRun_coreAt]
    exact ⟨hstore, hrun⟩
  · have hend : endRun s k st detail = completeRun s k st detail := if_neg h4
    rw [hend]
    refine ⟨completeRun_sameMemories hf hspin hblock .., findRun_dropped (completeRun_runs ..), fun n => ?_,
      fun h => absurd h h4, fun d _ hd => completeRun_finished hf hspin hblock st detail hd⟩
    obtain ⟨hstore, hrun, -⟩ := freeCore_work k (endUnits k st (s.coreAt n))
    rw [State.workAt, completeRun_coreAt]
    exact ⟨hstore.trans (congrArg Work.store (endUnits_work ..).1), hrun⟩

/-! ### A context that faults -/

/-- What the ends of RUNs leave of the ports of cores. -/
theorem foldl_stopRun (st : RunKey → Status) (l : List RunKey) (s : State) :
    (l.foldl (fun t k => stopRun t k (st k)) s).runs = s.runs.filter (fun r => r.key ∉ l) ∧
      ∀ n, ((l.foldl (fun t k => stopRun t k (st k)) s).coreAt n).quiesce = (s.coreAt n).quiesce := by
  induction l generalizing s with
  | nil => simp
  | cons k l ih =>
    obtain ⟨hruns, hquiesce⟩ := ih (stopRun s k (st k))
    refine ⟨?_, fun n => ?_⟩
    · rw [List.foldl_cons, hruns, stopRun_runs, List.filter_filter]
      simp only [List.mem_cons, not_or, Bool.decide_and, Bool.and_comm]
    · rw [List.foldl_cons, hquiesce, stopRun_coreAt, (freeCore_work ..).2.2, (endUnits_work ..).2]

/-- The status that a RUN of a context takes that becomes faulted: its own, or CTX_FAULTED (R364). -/
def faultedStatus (own : Option (Nat × Nat × Status)) (k : RunKey) : Status :=
  match own with
  | some (r, n, x) => if r = k.ring ∧ n = k.slot then x else stCtxFaulted
  | none => stCtxFaulted

/-- The state after every RUN of a context that becomes faulted has ended, the context FAULTED (R364). -/
def runsFaulted (s : State) (c : Nat) (own : Option (Nat × Nat × Status)) : State :=
  (((s.runs.filter (fun (r : Run) => r.key.ctx = c)).map Run.key).foldl (fun t k => stopRun t k (faultedStatus own k)) s).updCtx c
    (fun x => { x with st := 3, rings := x.rings.map (fun p => (p.1, faultRing p.1 own p.2)) })

theorem faultCtx_eq {s : State} {c : Nat} (h : (s.ctxAt c).st = 1 ∨ (s.ctxAt c).st = 2) (own : Option (Nat × Nat × Status)) :
    faultCtx s c own =
      raiseVector (loseServices (runsFaulted s c own) c) ((runsFaulted s c own).ctxAt c).errVector := by
  have hgo : ¬ ((s.ctxAt c).st ≠ 1 ∧ (s.ctxAt c).st ≠ 2) := fun hn => h.elim hn.1 hn.2
  exact if_neg hgo

/-- A context that becomes faulted has no RUN left, and its cores keep their ports (R364). -/
theorem faultCtx_complete {s : State} {c : Nat} (h : (s.ctxAt c).st = 1 ∨ (s.ctxAt c).st = 2)
    (own : Option (Nat × Nat × Status)) :
    ((faultCtx s c own).ctxAt c).st = 3 ∧ (∀ x, x ∈ (faultCtx s c own).runs → x.key.ctx ≠ c) ∧
      ∀ n, ((faultCtx s c own).coreAt n).quiesce = (s.coreAt n).quiesce := by
  obtain ⟨hruns, hquiesce⟩ :=
    foldl_stopRun (faultedStatus own) ((s.runs.filter (fun (r : Run) => r.key.ctx = c)).map Run.key) s
  have hctxs : (faultCtx s c own).ctxs = (runsFaulted s c own).ctxs := by
    rw [faultCtx_eq h, raiseVector_ctxs]
    rfl
  have hlist : (faultCtx s c own).runs =
      s.runs.filter (fun r => r.key ∉ (s.runs.filter (fun (r : Run) => r.key.ctx = c)).map Run.key) := by
    rw [faultCtx_eq h, raiseVector_runs]
    exact hruns
  have hcores : (faultCtx s c own).cores = (runsFaulted s c own).cores := by
    rw [faultCtx_eq h, raiseVector_cores]
    rfl
  refine ⟨?_, fun x hx hc => ?_, fun n => ?_⟩
  · rw [State.ctxAt, hctxs]
    exact congrArg Ctx.st (updCtx_ctxAt_same ..)
  · rw [hlist] at hx
    obtain ⟨hxs, hkey⟩ := List.mem_filter.mp hx
    exact of_decide_eq_true hkey (List.mem_map_of_mem (List.mem_filter.mpr ⟨hxs, decide_eq_true hc⟩))
  · rw [coreAt_of_cores hcores]
    exact hquiesce n

/-! ### The drain window -/

theorem startUnitReset_quiesce (st : Status) (s : State) (n : Nat) (u : EngineUnit) :
    ((startUnitReset st s (n, u)).coreAt n).quiesce ≠ 0 := by
  have hne (q : Nat) : (if q = 1 then 1 else 2) ≠ 0 := by split <;> decide
  rw [startUnitReset, updCore_coreAt_same]
  exact hne _

/-- A unit that has not stopped at the end of the drain window is reset, and the RUN ends with it (R364). -/
theorem drainStuck_complete {s : State} {k : RunKey} {r : Run} {n : Nat} (u : EngineUnit) (hf : s.findRun k = some r)
    (hd3 : s.boot.d3hot = false) (hto : r.timedOut = true) (hn : n ∈ r.cores) :
    ∃ t, exec (.drainWindowExpiry k [(n, u)]) s = .next t ∧ t.findRun k = none ∧ (t.coreAt n).quiesce ≠ 0 ∧
      ((s.ctxAt k.ctx).st = 1 ∨ (s.ctxAt k.ctx).st = 2 →
        (t.ctxAt k.ctx).st = 3 ∧ ∀ x, x ∈ t.runs → x.key.ctx ≠ k.ctx) := by
  have hq := startUnitReset_quiesce stTimeoutKilled s n u
  have he : exec (.drainWindowExpiry k [(n, u)]) s = .next
      (if (s.ctxAt k.ctx).st = 4 then dropRun (startUnitReset stTimeoutKilled s (n, u)) k stTimeoutKilled true
       else if (s.ctxAt k.ctx).st ≠ 1 ∧ (s.ctxAt k.ctx).st ≠ 2 then
         endRun (startUnitReset stTimeoutKilled s (n, u)) k stTimeoutKilled 0
       else faultCtx (startUnitReset stTimeoutKilled s (n, u)) k.ctx (some (k.ring, k.slot, stTimeoutKilled))) := by
    have hexec : exec (.drainWindowExpiry k [(n, u)]) s = execDrainWindowExpiry k [(n, u)] s := rfl
    rw [hexec, execDrainWindowExpiry]
    simp [hf, hto, hd3, hn]
  refine ⟨_, he, ?_⟩
  by_cases h4 : (s.ctxAt k.ctx).st = 4
  · rw [if_pos h4]
    refine ⟨findRun_dropped (dropRun_runs ..), ?_, fun h => by omega⟩
    rw [dropRun_coreAt, (freeCore_work ..).2.2]
    exact hq
  · rw [if_neg h4]
    by_cases h12 : (s.ctxAt k.ctx).st ≠ 1 ∧ (s.ctxAt k.ctx).st ≠ 2
    · have hend : endRun (startUnitReset stTimeoutKilled s (n, u)) k stTimeoutKilled 0 =
          completeRun (startUnitReset stTimeoutKilled s (n, u)) k stTimeoutKilled 0 := if_neg h4
      rw [if_pos h12, hend]
      refine ⟨findRun_dropped (completeRun_runs ..), ?_, fun h => by omega⟩
      rw [completeRun_coreAt, (freeCore_work ..).2.2, (endUnits_work ..).2]
      exact hq
    · rw [if_neg h12]
      obtain ⟨hst, hruns, hquiesce⟩ := faultCtx_complete (s := startUnitReset stTimeoutKilled s (n, u)) (c := k.ctx)
        (show (s.ctxAt k.ctx).st = 1 ∨ (s.ctxAt k.ctx).st = 2 by omega) (some (k.ring, k.slot, stTimeoutKilled))
      refine ⟨?_, by rw [hquiesce]; exact hq, fun _ => ⟨hst, hruns⟩⟩
      rw [State.findRun, List.find?_eq_none]
      intro x hx hk
      exact hruns x hx (by rw [show x.key = k by simpa using hk])

/-! ### The end of a slice -/

section
variable {s : State} {p c : Nat}

theorem switchCore_beside (old : Option Nat) (new : Nat) (s : State) (core : Nat) :
    SameMemories (switchCore old new s core) s ∧ (switchCore old new s core).runs = s.runs ∧
      (switchCore old new s core).plots = s.plots := by
  unfold switchCore
  dsimp only
  split <;> exact ⟨⟨rfl, rfl, rfl⟩, rfl, rfl⟩

/-- A plot whose cores have passed to a context (R361, R391). -/
def coresPassed (s : State) (p c : Nat) : State :=
  (maskCores (s.plotAt p).mask).foldl (switchCore (s.plotAt p).holder c) s

theorem coresPassed_beside (s : State) (p c : Nat) :
    SameMemories (coresPassed s p c) s ∧ (coresPassed s p c).runs = s.runs :=
  ⟨sameMemories_foldl (fun t n => (switchCore_beside _ c t n).1) s _,
    foldl_part State.runs (fun t n => (switchCore_beside _ c t n).2.1) _ s⟩

/-- The state after a plot has passed to a context, before code is reloaded. -/
def plotPassed (s : State) (p c : Nat) : State :=
  State.updPlot { coresPassed s p c with runs := (coresPassed s p c).runs.map (switchPhase (s.plotAt p).holder c) } p
    (fun x => { x with holder := some c })

/-- RUNs that are not dispatched need no code reloaded (R333). -/
theorem reloadRuns_idle {t : State} (h : ∀ x, x ∈ t.runs → x.key.ctx = c → x.phase ≠ .dispatched) : reloadRuns t c = t := by
  have hone (k : RunKey) (hk : k ∈ (t.runs.filter (fun (r : Run) => decide (r.key.ctx = c))).map Run.key) :
      reloadRun t k = t := by
    obtain ⟨x, hx, rfl⟩ := List.mem_map.mp hk
    have hc : x.key.ctx = c := of_decide_eq_true (List.mem_filter.mp hx).2
    unfold reloadRun
    split
    · rfl
    · next r hr =>
      exact if_pos (h r (List.mem_of_find?_eq_some hr) (by rw [findRun_key hr]; exact hc))
  exact List.foldlRecOn (motive := fun u => u = t) _ _ rfl fun u hu k hk => by rw [hu, hone k hk]

theorem switchPhase_waiting {old : Option Nat} {x : Run} (h : x.phase = .waiting) : switchPhase old c x = x := by
  simp [switchPhase, h]

theorem switchPhase_other {old : Option Nat} {x : Run} (hc : x.key.ctx ≠ c) (ho : some x.key.ctx ≠ old) :
    switchPhase old c x = x := by
  simp [switchPhase, hc, ho]

theorem switchPhase_key (old : Option Nat) (x : Run) : (switchPhase old c x).key = x.key := by
  unfold switchPhase
  split
  · rfl
  · split <;> rfl

/-- A switch whose saves and restores meet no error, to a context whose RUNs wait for dispatch. -/
theorem switchPlot_passes (hne : (s.plotAt p).holder ≠ some c) (hwait : ∀ x, x ∈ s.runs → x.key.ctx = c → x.phase = .waiting)
    (hsave : ∀ n o, (s.plotAt p).holder = some o → saveUe s o n = none) (hrestore : ∀ n, restoreUe s c n = none) :
    switchPlot s p c = plotPassed s p c := by
  have hs : (s.plotAt p).holder.bind (fun o => (maskCores (s.plotAt p).mask).findSome? (saveUe s o)) = none := by
    cases ho : (s.plotAt p).holder with
    | none => rfl
    | some o => exact List.findSome?_eq_none_iff.mpr fun n _ => hsave n o ho
  have hr : (maskCores (s.plotAt p).mask).findSome? (restoreUe s c) = none :=
    List.findSome?_eq_none_iff.mpr fun n _ => hrestore n
  unfold switchPlot
  rw [if_neg hne]
  simp only [hs, passUe, hr]
  refine reloadRuns_idle fun y hy hc => ?_
  obtain ⟨x, hx, rfl⟩ := List.mem_map.mp hy
  change x ∈ (coresPassed s p c).runs at hx
  rw [(coresPassed_beside s p c).2] at hx
  rw [switchPhase_key] at hc
  rw [switchPhase_waiting (hwait x hx hc), hwait x hx hc]
  nofun

/-- What O31 says of the end of a slice. -/
theorem timeSliceEnd_complete (hchip : chipRuns s = true) (hst : (s.plotAt p).st ≠ 0) (hnext : nextHolder s p = some c)
    (hne : (s.plotAt p).holder ≠ some c) (hwait : ∀ x, x ∈ s.runs → x.key.ctx = c → x.phase = .waiting)
    (hsave : ∀ n o, (s.plotAt p).holder = some o → saveUe s o n = none) (hrestore : ∀ n, restoreUe s c n = none) :
    ∃ t, exec (.timeSliceEnd p) s = .next t ∧ SameMemories t s ∧ (t.plotAt p).holder = some c ∧
      (∀ x, x ∈ s.runs → x.key.ctx ≠ c → some x.key.ctx ≠ (s.plotAt p).holder → x ∈ t.runs) := by
  obtain ⟨hmem, hruns⟩ := coresPassed_beside s p c
  have he : exec (.timeSliceEnd p) s = .next (plotPassed s p c) := by
    have hexec : exec (.timeSliceEnd p) s = execTimeSliceEnd p s := rfl
    rw [hexec, execTimeSliceEnd, hnext]
    exact congrArg _ ((if_pos ⟨hchip, hst⟩).trans (switchPlot_passes hne hwait hsave hrestore))
  refine ⟨_, he, sameMemories_trans ⟨rfl, rfl, rfl⟩ hmem, ?_, fun x hx hc ho => ?_⟩
  · rw [plotPassed, updPlot_plotAt_same]
  · refine List.mem_map.mpr ⟨x, ?_, switchPhase_other hc ho⟩
    rw [hruns]
    exact hx

end

/-- Settles O31: a RUN that ends leaves the list and frees its cores, and a plot passes with its cores. -/
theorem runsAndSlicesEnd : Obligations.RunsAndSlicesEnd := by
  unfold Obligations.RunsAndSlicesEnd
  refine ⟨fun s k r hf => ⟨fun st hend hspin hblock => ?_, fun hd3 hphase hstatus hholds hst hcounts => ?_,
    fun stuck d hd3 hto hspin hblock hst hd hstuck => ?_, fun n u hd3 hto hn => drainStuck_complete u hf hd3 hto hn⟩,
    fun s p c hchip hst hnext hne hwait hsave hrestore => timeSliceEnd_complete hchip hst hnext hne hwait hsave hrestore⟩
  · refine ⟨_, ?_, endRun_complete hf hspin hblock st r.detail⟩
    have hexec : exec (.runComplete k) s = execRunComplete k s := rfl
    simp only [hexec, execRunComplete, hf, hend]
  · refine ⟨s.updRun k (fun q => { q with timedOut := true, phase := .stopping }), ?_, ⟨rfl, rfl, rfl⟩, rfl,
      updRun_findRun hf fun _ => rfl⟩
    have hexec : exec (.runTimeout k) s = execRunTimeout k s := rfl
    simp only [hexec, execRunTimeout, hf]
    exact congrArg _ (if_pos ⟨hd3, hphase, hstatus, hholds, hst, hcounts⟩)
  · obtain ⟨hmem, hfind, -, -, hfin⟩ := endRun_complete hf hspin hblock stTimeoutDrained 0
    refine ⟨_, ?_, hmem, hfind, hfin d hst hd⟩
    have hnone : stuck.filter (fun p => decide (p.1 ∈ r.cores)) = [] :=
      List.filter_eq_nil_iff.mpr fun p hp => by simpa using hstuck p hp
    have hexec : exec (.drainWindowExpiry k stuck) s = execDrainWindowExpiry k stuck s := rfl
    simp [hexec, execDrainWindowExpiry, hf, hto, hd3, hnone]

end Sys2Proof.Laws
end

section
/-! What the operations of the rings leave: the memories and one ring, each operation's effect said once; doorbells, HEAD, START
and STOP: O26. -/

namespace Sys2Proof.Laws

open Sys2Proof.Machine Sys2Proof.Safety

/-! ### The memories and one ring -/

/-- What the statements about rings say of a state `t`: its memories are those of `m`, and a ring reads `q`. -/
structure RingLeft (m : State) (c n : Nat) (t : State) (q : Ring) : Prop where
  memories : SameMemories t m
  ring : t.ringAt c n = q

theorem ringAt_of_ctxs {s t : State} (h : t.ctxs = s.ctxs) (c n : Nat) : t.ringAt c n = s.ringAt c n := by
  rw [State.ringAt, State.ctxAt, h]
  rfl

/-- A change of a context that leaves its rings alone leaves every ring. -/
theorem updCtx_ringAt (s : State) (d c n : Nat) {f : Ctx → Ctx} (hf : ∀ x, (f x).rings = x.rings := by exact fun _ => rfl) :
    (s.updCtx d f).ringAt c n = s.ringAt c n := by
  unfold State.ringAt Ctx.ringAt
  by_cases hd : c = d
  · rw [hd, updCtx_ctxAt_same, hf]
  · rw [updCtx_ctxAt_other s f hd]

/-- A change of a ring is what it makes of the ring as it is. -/
theorem updRing_congr {s : State} {c n : Nat} {f g : Ring → Ring} (h : f (s.ringAt c n) = g (s.ringAt c n)) :
    s.updRing c n f = s.updRing c n g := congrArg (fun q => s.updCtx c (fun x => x.setRing n q)) h

theorem updRing_twin (s : State) (c n : Nat) (f : Ring → Ring) : Twin s (s.updRing c n f) := .updCtx c

theorem raiseErr_twin (s : State) (c : Nat) : Twin s (raiseErr s c) := (raiseVector_frame ..).twin

section
variable {m t : State} {c n : Nat} {q : Ring}

theorem RingLeft.refl (s : State) (c n : Nat) : RingLeft s c n s (s.ringAt c n) := ⟨sameMemories_refl s, rfl⟩

theorem RingLeft.updRing (h : RingLeft m c n t q) (f : Ring → Ring) : RingLeft m c n (t.updRing c n f) (f q) := by
  obtain ⟨hmem, hring⟩ := h
  exact ⟨hmem, by rw [updRing_ringAt_same, hring]⟩

theorem RingLeft.tick (h : RingLeft m c n t q) : RingLeft m c n t.tick q := ⟨h.memories, h.ring⟩

theorem RingLeft.raiseVector (h : RingLeft m c n t q) (v : Nat) : RingLeft m c n (raiseVector t v) q :=
  ⟨sameMemories_trans (raiseVector_frame t v).twin.sameMemories h.memories,
    (ringAt_of_ctxs (raiseVector_ctxs t v) c n).trans h.ring⟩

theorem RingLeft.raiseErr (h : RingLeft m c n t q) (d : Nat) : RingLeft m c n (raiseErr t d) q := h.raiseVector _

/-- A ring goes on where held records and descriptors in flight fall short of 64, and else enters HELD_FULL (R370). -/
theorem RingLeft.checkFull (h : RingLeft m c n t q) (hconf : q.configured = true) :
    RingLeft m c n (checkFull t c n) { q with full := q.full || decide (64 ≤ q.held.length + q.inflight.length) } := by
  have hcheck : Machine.checkFull t c n =
      if q.full = false ∧ q.configured ∧ 64 ≤ q.held.length + q.inflight.length
      then Machine.raiseErr (t.updRing c n fun q => { q with full := true }) c else t := by
    rw [← h.ring]
    rfl
  rw [hcheck]
  split
  · next hfull =>
    rw [decide_eq_true hfull.2.2, Bool.or_true]
    exact (h.updRing _).raiseErr c
  · next hfull =>
    have hsame : (q.full || decide (64 ≤ q.held.length + q.inflight.length)) = q.full := by
      cases hq : q.full
      · simpa [hq, hconf] using hfull
      · rfl
    rw [hsame]
    exact h

/-- Where no record is held, the ring is no longer full (R370). -/
theorem RingLeft.deliverHeld_nil (h : RingLeft m c n t q) (hheld : q.held = []) (k : Nat) (retry : Bool) :
    RingLeft m c n (deliverHeld (k + 1) retry t c n) { q with full := false } := by
  have hstep : deliverHeld (k + 1) retry t c n = t.updRing c n (fun q => { q with full := false }) := by
    simp only [deliverHeld, h.ring, hheld]
  rw [hstep]
  exact h.updRing _

/-- Without a STOP that waits nothing stops (R374). -/
theorem RingLeft.stopCheck_running (h : RingLeft m c n t q) (hstop : q.stopping = false) :
    RingLeft m c n (stopCheck t c n) q := by
  unfold stopCheck
  simpa [h.ring, hstop] using h

/-- A STOP takes effect once nothing is in flight and no record is due (R374). -/
theorem RingLeft.stopCheck_stops (h : RingLeft m c n t q) (hstop : q.stopping = true) (hflight : q.inflight = [])
    (hdue : q.finished = []) :
    RingLeft m c n (stopCheck t c n)
      { q with configured := false, stopping := false, stopCause := 1, keepsTail := true, full := false } := by
  unfold stopCheck
  simpa [h.ring, hstop, hflight, hdue] using h.updRing fun q =>
    { q with configured := false, stopping := false, stopCause := 1, keepsTail := true, full := false }

end

/-! ### Doorbells and HEAD -/

section
variable {s : State} {c n : Nat}

/-- A tail that adds from the tail's count up to the ring's size is accepted (R342). -/
theorem tailWrite_accepted (a : Nat) (hconf : (s.ringAt c n).configured = true)
    (hlow : ringCount (s.ringAt c n) ≤ (a + 2 ^ 32 - (s.ringAt c n).head) % 2 ^ 32)
    (hhigh : (a + 2 ^ 32 - (s.ringAt c n).head) % 2 ^ 32 ≤ 2 ^ ringLog (s.ringAt c n)) :
    RingLeft s c n (tailWrite s c n a) { s.ringAt c n with tail := a, dbPending := true } := by
  have hacc : tailWrite s c n a = s.updRing c n (fun q => { q with tail := a, dbPending := true }) :=
    if_pos ⟨hconf, hlow, hhigh⟩
  rw [hacc]
  exact (RingLeft.refl s c n).updRing _

/-- Any other tail is ignored and sets DB_BAD (R342). -/
theorem tailWrite_ignored (a : Nat) (h : (s.ringAt c n).configured = false ∨
      (a + 2 ^ 32 - (s.ringAt c n).head) % 2 ^ 32 < ringCount (s.ringAt c n) ∨
      2 ^ ringLog (s.ringAt c n) < (a + 2 ^ 32 - (s.ringAt c n).head) % 2 ^ 32) :
    RingLeft s c n (tailWrite s c n a) { s.ringAt c n with dbBad := true } := by
  have hign : tailWrite s c n a = raiseErr (s.updRing c n (fun q => { q with dbBad := true })) c := by
    refine if_neg ?_
    rintro ⟨hconf, hlow, hhigh⟩
    rcases h with h | h | h
    · exact absurd (hconf.symm.trans h) (by decide)
    · exact absurd hlow (Nat.not_le_of_lt h)
    · exact absurd hhigh (Nat.not_le_of_lt h)
  rw [hign]
  exact ((RingLeft.refl s c n).updRing _).raiseErr c

theorem cqHeadWrite_unheld (a : Nat) (hheld : (s.ringAt c n).held = []) :
    RingLeft s c n (cqHeadWrite s c n a) { s.ringAt c n with cqHead := a, full := false } :=
  ((RingLeft.refl s c n).updRing fun q => { q with cqHead := a }).deliverHeld_nil hheld 64 false

theorem ringHead_stopped (a : Nat) (hconf : (s.ringAt c n).configured = false) :
    RingLeft s c n (ringHead s c n a) { s.ringAt c n with head := a, fetched := [], kept := 0 } := by
  have hset : ringHead s c n a = s.updRing c n (fun q => { q with head := a, fetched := [], kept := 0 }) :=
    if_neg (by simp [hconf])
  rw [hset]
  exact (RingLeft.refl s c n).updRing _

/-! ### START and STOP -/

/-- A ring that a START has configured anew, with its held area given: its completion queue is empty, and it keeps a tail that a
STOP has kept where it still lies within the ring (R374). -/
def restartedRing (area : Option Place) (q : Ring) : Ring :=
  { q with
    configured := true, stopCause := 0, cqTail := 0, full := false, keepsTail := false, area := area
    kept := q.fetched.length
    tail := if q.keepsTail = true ∧ ringCount q ≤ 2 ^ ringLog q then q.tail else q.head }

theorem logOk_iff (k : Nat) : logOk k = true ↔ 6 ≤ k ∧ k ≤ 16 := decide_eq_true_iff

/-- START of a STOPPED ring without held records, with both sizes in their range and room for its held area (R374, R402). -/
theorem ringStart_starts {pl : Place} (hconf : (s.ringAt c n).configured = false) (hst : (s.ctxAt c).st ≠ 3)
    (hheld : (s.ringAt c n).held = []) (hflight : (s.ringAt c n).inflight.length < 64)
    (hlog : logOk (ringLog (s.ringAt c n)) = true) (hcq : logOk (cqLog (s.ringAt c n)) = true)
    (hroom : heldPlace s = some pl) : RingLeft s c n (ringStart s c n) (restartedRing (some pl) (s.ringAt c n)) := by
  have hstep : ringStart s c n =
      checkFull (deliverHeld 65 true (s.updRing c n (restartedRing (some pl))) c n) c n := by
    unfold ringStart
    rw [if_neg (by simp [hconf, hst]), if_pos (by simp [hlog, hcq, hroom])]
    refine congrArg (fun t => checkFull (deliverHeld 65 true t c n) c n) (updRing_congr ?_)
    simp only [restartedRing, hheld, hroom, if_true]
    rfl
  rw [hstep]
  have hleft := (((RingLeft.refl s c n).updRing (restartedRing (some pl))).deliverHeld_nil hheld 64 true).checkFull rfl
  simpa [restartedRing, hheld, Nat.not_le.2 hflight] using hleft

/-- START with a size out of its range, or without room for a held area, leaves the ring STOPPED (R374, R402). -/
theorem ringStart_refused (hconf : (s.ringAt c n).configured = false) (hst : (s.ctxAt c).st ≠ 3)
    (h : ¬ (logOk (ringLog (s.ringAt c n)) ∧ logOk (cqLog (s.ringAt c n)) ∧
      ((s.ringAt c n).held ≠ [] ∨ (heldPlace s).isSome))) :
    RingLeft s c n (ringStart s c n) { s.ringAt c n with stopCause := 2 } := by
  unfold ringStart
  rw [if_neg (by simp [hconf, hst]), if_neg h]
  exact ((RingLeft.refl s c n).updRing _).raiseErr c

theorem ringStop_idle (hconf : (s.ringAt c n).configured = true) (hflight : (s.ringAt c n).inflight = [])
    (hdue : (s.ringAt c n).finished = []) :
    RingLeft s c n (ringStop s c n) { s.ringAt c n with
      configured := false, stopping := false, stopCause := 1, keepsTail := true, full := false } := by
  have hset : ringStop s c n = stopCheck (s.updRing c n fun q => { q with stopping := true }) c n := if_pos hconf
  rw [hset]
  exact ((RingLeft.refl s c n).updRing _).stopCheck_stops rfl hflight hdue

/-! ### The host's writes reach a ring of an active chip -/

section
variable (hhost : hostUp s = true) (hchip : s.power.chip = 0) (hc : c < 4096) (hn : n < 4)
include hhost hchip hc hn

theorem hostRing_acts (f : State → State) : (if hostUp s ∧ c < 4096 ∧ n < 4 then f (wakeChip s) else s) = f s := by
  rw [if_pos ⟨hhost, hc, hn⟩, wakeChip_of_active hchip]

theorem exec_tailDoorbell (v : Word) : exec (.tailDoorbell c n v) s = .next (tailWrite s c n (v.toNat % 2 ^ 32)) :=
  congrArg Host.Outcome.next (hostRing_acts hhost hchip hc hn fun t => tailWrite t c n (v.toNat % 2 ^ 32))

theorem exec_cqHeadDoorbell (v : Word) : exec (.cqHeadDoorbell c n v) s = .next (cqHeadWrite s c n (v.toNat % 2 ^ 32)) :=
  congrArg Host.Outcome.next (hostRing_acts hhost hchip hc hn fun t => cqHeadWrite t c n (v.toNat % 2 ^ 32))

theorem exec_ringHeadWrite (a : BitVec 32) : exec (.ringHeadWrite c n a) s = .next (ringHead s c n a.toNat) :=
  congrArg Host.Outcome.next (hostRing_acts hhost hchip hc hn fun t => ringHead t c n a.toNat)

theorem exec_start : exec (.start c n) s = .next (ringStart s c n) :=
  congrArg Host.Outcome.next (hostRing_acts hhost hchip hc hn fun t => ringStart t c n)

theorem exec_stop : exec (.stop c n) s = .next (ringStop s c n) :=
  congrArg Host.Outcome.next (hostRing_acts hhost hchip hc hn fun t => ringStop t c n)

theorem exec_retryCompletions : exec (.retryCompletions c n) s = .next (ringRetry s c n) :=
  congrArg Host.Outcome.next (hostRing_acts hhost hchip hc hn fun t => ringRetry t c n)

end

end

/-- A command that leaves the memories and one ring as given, in the words of the statements. -/
theorem RingLeft.next {m t : State} {c n : Nat} {q : Ring} (h : RingLeft m c n t q) {i : Instr} {s : State}
    (he : exec i s = .next t) : ∃ t, exec i s = .next t ∧ SameMemories t m ∧ t.ringAt c n = q :=
  ⟨t, he, h.memories, h.ring⟩

/-- Settles O26: a tail within the ring is accepted and any other ignored; CQ head, HEAD, START and STOP. -/
theorem doorbellsAndRingControlComplete : Obligations.DoorbellsAndRingControlComplete := by
  unfold Obligations.DoorbellsAndRingControlComplete
  refine ⟨fun s c n v a hhost hchip hc hn =>
      ⟨fun hconf hlow hhigh => ?_, fun hbad => ?_, fun hheld => ?_, fun hconf => ?_⟩,
    fun s c n hhost hchip hc hn =>
      ⟨fun pl hconf hst hheld hflight hsizes hroom => ?_, fun hconf hst hheld hroom => ?_, fun hconf hst hsizes => ?_,
        fun hconf hflight hdue => ?_⟩⟩
  · exact (tailWrite_accepted _ hconf hlow hhigh).next (exec_tailDoorbell hhost hchip hc hn v)
  · exact (tailWrite_ignored _ hbad).next (exec_tailDoorbell hhost hchip hc hn v)
  · exact (cqHeadWrite_unheld _ hheld).next (exec_cqHeadDoorbell hhost hchip hc hn v)
  · exact (ringHead_stopped _ hconf).next (exec_ringHeadWrite hhost hchip hc hn a)
  · obtain ⟨hlow, hhigh, hcqlow, hcqhigh⟩ := hsizes
    have hleft := ringStart_starts hconf hst hheld hflight ((logOk_iff _).2 ⟨hlow, hhigh⟩)
      ((logOk_iff _).2 ⟨hcqlow, hcqhigh⟩) hroom
    exact hleft.next (exec_start hhost hchip hc hn)
  · have hleft := ringStart_refused hconf hst (by simp [hheld, hroom])
    exact hleft.next (exec_start hhost hchip hc hn)
  · refine (ringStart_refused hconf hst ?_).next (exec_start hhost hchip hc hn)
    rw [logOk_iff, logOk_iff]
    omega
  · exact (ringStop_idle hconf hflight hdue).next (exec_stop hhost hchip hc hn)

end Sys2Proof.Laws
end

section
/-! Fetches of descriptors and the start of a RUN: O27. -/

namespace Sys2Proof.Laws

open Sys2Proof.Machine Sys2Proof.Safety

/-! ### Whose turn it is -/

theorem mem_of_nextInCycle {k a : Nat} {l : List Nat} (h : nextInCycle k l = some a) : a ∈ l := by
  rcases Option.or_eq_some_iff.1 h with h | ⟨-, h⟩
  · exact List.mem_of_find?_eq_some h
  · exact List.mem_of_mem_head? h

/-- The ring that the round robin serves next has a descriptor that it may fetch (R356). -/
theorem fetchReady_of_nextFetch {s : State} {c n : Nat} (h : nextFetch s = some (c, n)) :
    fetchReady s c (s.ringAt c n) = true := by
  obtain ⟨d, -, hd⟩ := Option.bind_eq_some_iff.1 h
  obtain ⟨r, hr, he⟩ := Option.map_eq_some_iff.1 hd
  obtain ⟨rfl, rfl⟩ := Prod.mk.inj he
  exact (List.mem_filter.1 (mem_of_nextInCycle hr)).2

theorem head_ne_tail_of_fetchReady {s : State} {c : Nat} {q : Ring} (h : fetchReady s c q = true) : q.head ≠ q.tail := by
  rw [fetchReady, Bool.and_eq_true, decide_eq_true_iff] at h
  exact h.2

/-! ### A fetch -/

/-- The state in which a ring fetches: the fetchers have come to it (R356). -/
def turned (s : State) (c n : Nat) : State := { s with lastCtx := c }.updCtx c (fun x => { x with lastRing := n })

section
variable (s : State) (c n : Nat)

theorem turned_twin : Twin s (turned s c n) := Twin.trans (t := { s with lastCtx := c }) .frame (.updCtx c)

theorem turned_ringAt : (turned s c n).ringAt c n = s.ringAt c n := updCtx_ringAt _ c c n

theorem turned_left : RingLeft s c n (turned s c n) (s.ringAt c n) := ⟨⟨rfl, rfl, rfl⟩, turned_ringAt s c n⟩

theorem turned_ctxAt : (turned s c n).ctxAt c = { s.ctxAt c with lastRing := n } := updCtx_ctxAt_same ..

theorem turned_checkDesc (bs : List Byte) : checkDesc (turned s c n) c bs = checkDesc s c bs := by
  have hcores : runCores (turned s c n) c bs = runCores s c bs := by
    unfold runCores
    rw [turned_ctxAt]
    rfl
  have hrun : checkRun (turned s c n) c bs = checkRun s c bs := by
    unfold checkRun
    rw [turned_ctxAt, hcores]
    rfl
  have hwait : checkWait (turned s c n) c bs = checkWait s c bs := by
    have hpage : pageHost (turned s c n) c = pageHost s c := funext fun va => (turned_twin s c n).rangeHost c va 1
    rw [checkWait, hpage]
    rfl
  unfold checkDesc
  rw [hrun, hwait]

end

/-- A change of a ring leaves the rest of its context. -/
theorem updRing_ctxAt_same (s : State) (c n : Nat) (f : Ring → Ring) :
    (s.updRing c n f).ctxAt c = { s.ctxAt c with rings := tabSet (s.ctxAt c).rings n (f (s.ringAt c n)) } :=
  updCtx_ctxAt_same ..

/-- A ring that has read a descriptor: head moves on, and the descriptor waits to start, or one that fails a check is finished
with its status (R340, R346). -/
def fetchedRing (q : Ring) (d : Desc) (check : Option Status) : Ring :=
  match check with
  | some st => { q with head := (q.head + 1) % 2 ^ 32, finished := q.finished ++ [⟨d, st, 0⟩] }
  | none => { q with head := (q.head + 1) % 2 ^ 32, fetched := q.fetched ++ [d] }

/-- A fetch that nothing stops reads the head's slot. -/
theorem fetchStep_reads {s : State} {c n : Nat}
    (h : rangeStop s c (slotVa (s.ringAt c n) (s.ringAt c n).head) 64 false = none) :
    let q := s.ringAt c n
    let d : Desc := { slot := q.head, bytes := vaRead s c (slotVa q q.head) 64 }
    fetchStep s c n = s.updRing c n (fun q => fetchedRing q d (checkDesc s c d.bytes)) := by
  unfold fetchStep
  simp only [h]
  split <;> next hcheck => simp only [hcheck, fetchedRing]

/-! ### The start of a RUN -/

/-- What a ring has whose next descriptor is `d` (R354). -/
theorem nextOf_some {s : State} {c n ty : Nat} {l : List Nat} {d : Desc} (h : nextOf s c n ty l = some d) :
    (s.ringAt c n).configured = true ∧ ∃ rest, (s.ringAt c n).fetched = d :: rest := by
  unfold nextOf at h
  dsimp only at h
  split at h
  · next hmay =>
    refine ⟨hmay.2.1, ?_⟩
    split at h
    · next e rest hfetched =>
      split at h
      · cases h
        exact ⟨rest, hfetched⟩
      · cases h
    · cases h
  · cases h

/-- The next descriptor of a ring has gone in flight (R354, R370). -/
theorem startNext_left {s : State} {c n : Nat} {d : Desc} (hconf : (s.ringAt c n).configured = true) :
    RingLeft s c n (startNext s c n d) { startedRing (s.ringAt c n) with inflight := (s.ringAt c n).inflight ++ [d] } := by
  have hleft := ((RingLeft.refl s c n).updRing fun q => { q.pop with inflight := q.inflight ++ [d] }).checkFull hconf
  unfold startNext
  simpa [Ring.pop, startedRing, Nat.add_assoc] using hleft

theorem startNext_runs (s : State) (c n : Nat) (d : Desc) : (startNext s c n d).runs = s.runs := by
  unfold startNext checkFull
  dsimp only
  split
  · exact raiseVector_runs ..
  · rfl

theorem exec_run {s : State} {c n : Nat} {d : Desc} (hnext : nextOf s c n 1 [1] = some d)
    (hcheck : checkRun s c d.bytes = none) :
    exec (.run c n) s = .next { startNext s c n d with
      runs := s.runs ++ [newRun ⟨c, n, d.slot⟩ d.bytes (runCores s c d.bytes)] } := by
  have hexec : exec (.run c n) s = execRun c n s := rfl
  rw [hexec, execRun]
  simp only [hnext, hcheck, startNext_runs]

/-! ### Fetches and starts -/

theorem exec_descriptorFetch_empty {s : State} {c n : Nat} (hmay : mayFetch s c (s.ringAt c n) = true)
    (hempty : (s.ringAt c n).head = (s.ringAt c n).tail) :
    exec (.descriptorFetch c n) s = .next (s.updRing c n (fun q => { q with dbPending := false })) :=
  congrArg Host.Outcome.next (if_pos ⟨hmay, hempty⟩)

theorem exec_descriptorFetch_turn {s : State} {c n : Nat} (hturn : nextFetch s = some (c, n)) :
    exec (.descriptorFetch c n) s = .next (fetchStep (turned s c n) c n) := by
  have hne := head_ne_tail_of_fetchReady (fetchReady_of_nextFetch hturn)
  exact congrArg Host.Outcome.next ((if_neg fun h => hne h.2).trans (if_pos hturn))

theorem exec_descriptorFetch_other {s : State} {c n : Nat} (hturn : nextFetch s ≠ some (c, n))
    (hne : (s.ringAt c n).head ≠ (s.ringAt c n).tail) : exec (.descriptorFetch c n) s = .next s :=
  congrArg Host.Outcome.next ((if_neg fun h => hne h.2).trans (if_neg hturn))

/-- The ring whose turn it is reads the descriptor of its head's slot. -/
theorem descriptorFetch_reads {s : State} {c n : Nat} (hturn : nextFetch s = some (c, n))
    (hstop : rangeStop s c (slotVa (s.ringAt c n) (s.ringAt c n).head) 64 false = none) :
    let q := s.ringAt c n
    let d : Desc := { slot := q.head, bytes := vaRead s c (slotVa q q.head) 64 }
    ∃ t, exec (.descriptorFetch c n) s = .next t ∧ SameMemories t s ∧ t.lastCtx = c ∧ (t.ctxAt c).lastRing = n ∧
      t.ringAt c n = fetchedRing q d (checkDesc s c d.bytes) := by
  intro q d
  refine ⟨_, exec_descriptorFetch_turn hturn, ?_⟩
  rw [fetchStep_reads (by rw [(turned_twin s c n).rangeStop, turned_ringAt]; exact hstop)]
  simp only [turned_ringAt, (turned_twin s c n).vaRead, turned_checkDesc]
  have hleft := (turned_left s c n).updRing fun q => fetchedRing q d (checkDesc s c d.bytes)
  exact ⟨hleft.memories, rfl, by rw [updRing_ctxAt_same, turned_ctxAt], hleft.ring⟩

/-- Settles O27: fetches in the order of the round robin, and the start of a RUN. -/
theorem fetchAndRunStartComplete : Obligations.FetchAndRunStartComplete := by
  unfold Obligations.FetchAndRunStartComplete
  intro s c n q d
  refine ⟨fun hmay hempty => ?_, fun hturn hstop => ?_, fun hturn hne => exec_descriptorFetch_other hturn hne,
    fun e hnext hcheck => ?_⟩
  · have hleft := (RingLeft.refl s c n).updRing fun q => { q with dbPending := false }
    exact ⟨_, exec_descriptorFetch_empty hmay hempty, hleft.ring, hleft.memories⟩
  · obtain ⟨t, he, hmem, hctx, hlast, hring⟩ := descriptorFetch_reads hturn hstop
    exact ⟨t, he, hmem, hctx, hlast, hring⟩
  · obtain ⟨hconf, -⟩ := nextOf_some hnext
    have hleft := startNext_left (s := s) (d := e) hconf
    exact ⟨_, exec_run hnext hcheck, hleft.memories, hleft.ring, rfl⟩

end Sys2Proof.Laws
end

section
/-! Descriptors that the front end carries out itself: NOP, FENCE, WAIT, SIGNAL and COPY: O28. -/

namespace Sys2Proof.Laws

open Sys2Proof.Machine Sys2Proof.Safety

/-! ### Descriptors that finish -/

/-- A ring whose next descriptor has finished DONE without going in flight. -/
def nextDone (q : Ring) (d : Desc) : Ring :=
  { q with fetched := q.fetched.drop 1, kept := q.kept - 1, waitOn := false, finished := q.finished ++ [⟨d, stDone, 0⟩] }

theorem finishNext_left {s : State} {c n ty : Nat} {l : List Nat} {d : Desc} (h : nextOf s c n ty l = some d) :
    RingLeft s c n (finishNext s c n stDone) (nextDone (s.ringAt c n) d) := by
  obtain ⟨-, rest, hfetched⟩ := nextOf_some h
  have hleft := (RingLeft.refl s c n).updRing fun q =>
    match q.fetched with
    | d :: _ => { q.pop with finished := q.finished ++ [⟨d, stDone, 0⟩] }
    | [] => q
  simp only [hfetched] at hleft
  exact hleft

/-- A ring whose descriptor in flight has finished DONE, of a slot that no other descriptor in flight has. -/
theorem finish_started {q : Ring} {d : Desc} (hslots : ∀ e, e ∈ q.inflight → e.slot ≠ d.slot) :
    ({ startedRing q with inflight := q.inflight ++ [d] } : Ring).finish d.slot stDone 0 =
      { startedRing q with finished := q.finished ++ [⟨d, stDone, 0⟩] } := by
  have hothers : (q.inflight ++ [d]).filter (fun e => decide (e.slot ≠ d.slot)) = q.inflight := by
    rw [List.filter_append, List.filter_eq_self.2 fun e he => by simpa using hslots e he]
    simp
  have hown : (q.inflight ++ [d]).filter (fun e => decide (e.slot = d.slot)) = [d] := by
    rw [List.filter_append, List.filter_eq_nil_iff.2 fun e he => by simpa using hslots e he]
    simp
  simp only [Ring.finish, hothers, hown]
  rfl

theorem RingLeft.finishDesc {m t : State} {c n : Nat} {q : Ring} (h : RingLeft m c n t q) (slot : Nat) (st : Status)
    (detail : Nat) : RingLeft m c n (finishDesc t c n slot st detail) (q.finish slot st detail) := h.updRing _

/-! ### WAIT -/

theorem fieldOf_eight_lt (bs : List Byte) (off : Nat) : fieldOf bs off 8 < 2 ^ 64 :=
  (leNat_lt _).trans_le (by
    calc 256 ^ ((bs.drop off).take 8).length ≤ 256 ^ 8 := Nat.pow_le_pow_right (by norm_num) (List.length_take_le ..)
      _ = 2 ^ 64 := by norm_num)

theorem fieldOf_eight_toNat (bs : List Byte) (off : Nat) : (BitVec.ofNat 64 (fieldOf bs off 8)).toNat = fieldOf bs off 8 := by
  rw [BitVec.toNat_ofNat, Nat.mod_eq_of_lt (fieldOf_eight_lt bs off)]

/-- The condition of a WAIT, of a number in memory (R349). -/
theorem waitTest_ofNat {v : Nat} (hv : v < 2 ^ 64) (bs : List Byte) : waitTest bs (BitVec.ofNat 64 v) = true ↔
    if fieldOf bs 4 1 = 0 then fieldOf bs 16 8 ≤ v
    else if fieldOf bs 4 1 = 1 then v = fieldOf bs 16 8
    else v &&& fieldOf bs 24 8 = fieldOf bs 16 8 &&& fieldOf bs 24 8 := by
  obtain ⟨hge, heq, hmasked⟩ := meets_ofNat hv (BitVec.ofNat 64 (fieldOf bs 16 8)) (BitVec.ofNat 64 (fieldOf bs 24 8))
  simp only [fieldOf_eight_toNat] at hge heq hmasked
  unfold waitTest
  split
  · exact hge
  · split
    · exact heq
    · exact hmasked

/-- A WAIT may be evaluated where its context is ACTIVE, or it has started, and nothing of the context holds a faulted access
(R404, R406). -/
theorem waitMay_true {s : State} {c n : Nat} (h : (s.ctxAt c).st = 1 ∨ (s.ringAt c n).waitOn = true)
    (hholders : (s.ctxAt c).holders = []) (d : Desc) : waitMay s c n d = true := by
  simpa [waitMay, hholders] using h

/-- A WAIT whose condition holds finishes (R350). -/
theorem waitStep_holds {s : State} {c n : Nat} {d : Desc} (hnext : nextOf s c n 2 [1, 2] = some d)
    (hmay : waitMay s c n d = true) (hstop : rangeStop s c (fieldOf d.bytes 8 8) 8 false = none)
    (htest : waitTest d.bytes (BitVec.ofNat 64 (vaLoad s c (fieldOf d.bytes 8 8) 8)) = true) :
    waitStep s c n = finishNext s c n stDone := by
  simp [waitStep, hnext, hmay, hstop, htest]

/-! ### What a write leaves of a ring -/

/-- By a write that two states tell alike, a ring is as it was. -/
theorem vaWrite_left {s t : State} {c n : Nat} {q : Ring} (ht : Twin s t) (hring : t.ringAt c n = q) (d va : Nat)
    (bs : List Byte) : RingLeft (vaWrite s d va bs) c n (vaWrite t d va bs) q :=
  ⟨(ht.vaWrite d va bs).sameMemories, (vaWrite_ringAt ..).trans hring⟩

theorem markAccess_ringAt (s : State) (d va k c n : Nat) : (markAccess s d va k).ringAt c n = s.ringAt c n :=
  ringAt_of_ctxs (by rw [markAccess_frame s d va k]) c n

theorem startNext_twin (s : State) (c n : Nat) (d : Desc) : Twin s (startNext s c n d) := by
  unfold startNext checkFull
  dsimp only
  split
  · exact ((updRing_twin ..).trans (updRing_twin ..)).trans (raiseErr_twin ..)
  · exact updRing_twin ..

/-! ### SIGNAL -/

/-- The bytes that spell a number depend on what they hold of it alone. -/
theorem natLe_mod (k v : Nat) : natLe k (v % 256 ^ k) = natLe k v := by
  induction k generalizing v with
  | zero => rfl
  | succ k ih =>
    have hlow : v % 256 ^ (k + 1) % 256 = v % 256 := Nat.mod_mod_of_dvd _ (Dvd.intro_left _ rfl)
    have hhigh : v % 256 ^ (k + 1) / 256 = v / 256 % 256 ^ k := by
      rw [Nat.pow_succ, Nat.mul_comm, Nat.mod_mul_right_div_self]
    rw [natLe, natLe, hhigh, ih]
    congr 1
    exact BitVec.eq_of_toNat_eq hlow

/-- What a SIGNAL writes (R351). -/
def signalBytes (s : State) (c : Nat) (bs : List Byte) : List Byte :=
  natLe 8 (if fieldOf bs 4 1 = 1 then (vaLoad s c (fieldOf bs 8 8) 8 + fieldOf bs 16 8) % 2 ^ 64 else fieldOf bs 16 8)

theorem Twin.signalBytes {s t : State} (h : Twin s t) (c : Nat) (bs : List Byte) :
    Laws.signalBytes t c bs = Laws.signalBytes s c bs := by
  unfold Laws.signalBytes vaLoad
  rw [h.vaRead]

/-- A SIGNAL in flight that nothing stops writes and finishes; then what waits on memory is evaluated (R318, R351). -/
theorem signalStep_done {s : State} {c n : Nat} {d : Desc}
    (hread : fieldOf d.bytes 4 1 = 1 → rangeStop s c (fieldOf d.bytes 8 8) 8 false = none)
    (hwrite : rangeStop s c (fieldOf d.bytes 8 8) 8 true = none) :
    signalStep s c n d = wakeWaits (finishDesc (vaWrite (markAccess s c (fieldOf d.bytes 8 8) 8) c (fieldOf d.bytes 8 8)
      (signalBytes s c d.bytes)) c n d.slot stDone 0) := by
  have hmod (v : Nat) : natLe 8 (v % 2 ^ 64) = natLe 8 v := natLe_mod 8 v
  unfold signalStep signalBytes
  by_cases hadd : fieldOf d.bytes 4 1 = 1
  · simp only [hadd, decide_true, if_true, hread hadd, hwrite, hmod]
  · simp only [hadd, decide_false, if_false, hwrite, Bool.false_eq_true]

/-- No SIGNAL is in flight where only stakes are. -/
theorem onlyStakes_no_signal {q : Ring} (h : onlyStakes q = true) :
    q.inflight.find? (fun d => decide (descType d = 3)) = none := by
  refine List.find?_eq_none.2 fun e he => ?_
  have hstake := List.all_eq_true.1 h e he
  rw [Bool.and_eq_true, decide_eq_true_iff] at hstake
  simp [hstake.1]

theorem exec_signalDescriptor {s : State} {c n : Nat} {d : Desc} (hnext : nextOf s c n 3 [1] = some d)
    (hstakes : onlyStakes (s.ringAt c n) = true) :
    exec (.signalDescriptor c n) s = .next (signalStep (startNext s c n d) c n d) := by
  have hexec : exec (.signalDescriptor c n) s = execSignalDescriptor c n s := rfl
  rw [hexec, execSignalDescriptor]
  simp only [onlyStakes_no_signal hstakes, hnext, hstakes, if_true]

theorem signalDescriptor_done {s : State} {c n : Nat} {d : Desc}
    (hslots : ∀ e, e ∈ (s.ringAt c n).inflight → e.slot ≠ d.slot) (hnext : nextOf s c n 3 [1] = some d)
    (hstakes : onlyStakes (s.ringAt c n) = true)
    (hread : fieldOf d.bytes 4 1 = 1 → rangeStop s c (fieldOf d.bytes 8 8) 8 false = none)
    (hwrite : rangeStop s c (fieldOf d.bytes 8 8) 8 true = none) :
    ∃ u, exec (.signalDescriptor c n) s = .next (wakeWaits u) ∧
      RingLeft (vaWrite s c (fieldOf d.bytes 8 8) (signalBytes s c d.bytes)) c n
        u { startedRing (s.ringAt c n) with finished := (s.ringAt c n).finished ++ [⟨d, stDone, 0⟩] } := by
  have htwin := startNext_twin s c n d
  obtain ⟨hconf, -⟩ := nextOf_some hnext
  have hring := (startNext_left (s := s) (d := d) hconf).ring
  have hstep := signalStep_done (n := n) (d := d) (s := startNext s c n d)
    (fun h => (htwin.rangeStop ..).trans (hread h)) ((htwin.rangeStop ..).trans hwrite)
  refine ⟨_, (exec_signalDescriptor hnext hstakes).trans (congrArg _ hstep), ?_⟩
  rw [htwin.signalBytes, ← finish_started hslots]
  exact (vaWrite_left (htwin.trans (markAccess_frame ..).twin) ((markAccess_ringAt ..).trans hring) ..).finishDesc ..

/-! ### COPY -/

/-- A range of bytes within one 4 KiB page. -/
abbrev OnePage (va k : Nat) : Prop := va % 4096 + k ≤ 4096

/-- Bytes that lie in one page of each side are copied in one piece (R317, R352). -/
theorem copyLoop_once {s : State} {c src dst k : Nat} (fuel : Nat) (hk : k ≠ 0) (hsrc : OnePage src k) (hdst : OnePage dst k)
    (hread : rangeStop s c src k false = none) (hwrite : rangeStop s c dst k true = none) :
    copyLoop (fuel + 2) s c src dst k 0 false = (vaWrite s c dst (vaRead s c src k), k, none) := by
  have hpiece : min (k - 0) (min (4096 - (src + 0) % 4096) (4096 - (dst + 0) % 4096)) = k := by
    rw [Nat.add_zero, Nat.add_zero]
    omega
  rw [copyLoop, if_neg (by omega)]
  simp only [hpiece]
  simp only [Nat.add_zero, Nat.zero_add, hread, hwrite, Bool.false_eq_true, if_false]
  rw [copyLoop, if_pos (le_refl k)]

theorem overlaps_apart {a b k : Nat} (h : a + k ≤ b ∨ b + k ≤ a) : overlaps a b k = false := by
  simp only [overlaps, decide_eq_false_iff_not]
  omega

/-- The state from which a COPY moves bytes: its leaves are cached, and a timed plot has seen its accesses. -/
def copyStart (s : State) (c src dst k : Nat) : State :=
  markAccess (markAccess (cachePages (cachePages s c src k) c dst k) c src k) c dst k

section
variable (s : State) (c src dst k : Nat)

theorem copyStart_ways : SameWays s (copyStart s c src dst k) :=
  (((cachePages_ways s c src k).trans (cachePages_ways _ c dst k)).trans (markAccess_ways _ c src k)).trans
    (markAccess_ways _ c dst k)

theorem copyStart_ringAt (n : Nat) : (copyStart s c src dst k).ringAt c n = s.ringAt c n := by
  unfold copyStart cachePages
  rw [markAccess_ringAt, markAccess_ringAt, updCtx_ringAt, updCtx_ringAt]

end

/-- A COPY from its first byte that moves bytes of one page to one page, which do not overlap, and that nothing stops. -/
structure CopyOnce (s : State) (c : Nat) (d : Desc) : Prop where
  moved : d.moved = 0
  nonempty : fieldOf d.bytes 24 8 ≠ 0
  source : OnePage (fieldOf d.bytes 8 8) (fieldOf d.bytes 24 8)
  target : OnePage (fieldOf d.bytes 16 8) (fieldOf d.bytes 24 8)
  apart : fieldOf d.bytes 8 8 + fieldOf d.bytes 24 8 ≤ fieldOf d.bytes 16 8 ∨
    fieldOf d.bytes 16 8 + fieldOf d.bytes 24 8 ≤ fieldOf d.bytes 8 8
  read : rangeStop s c (fieldOf d.bytes 8 8) (fieldOf d.bytes 24 8) false = none
  write : rangeStop s c (fieldOf d.bytes 16 8) (fieldOf d.bytes 24 8) true = none

/-- The state in which a COPY has moved its bytes, which ACCT_MEM counts twice (R385). -/
def copied (s : State) (c : Nat) (d : Desc) : State :=
  let f := fieldOf d.bytes
  chargeMem (vaWrite (copyStart s c (f 8 8) (f 16 8) (f 24 8)) c (f 16 8) (vaRead s c (f 8 8) (f 24 8))) c (2 * f 24 8)

section
variable {s t : State} {c : Nat} {d : Desc}

theorem CopyOnce.twin (h : CopyOnce s c d) (k : Twin s t) : CopyOnce t c d :=
  ⟨h.moved, h.nonempty, h.source, h.target, h.apart, (k.rangeStop ..).trans h.read, (k.rangeStop ..).trans h.write⟩

/-- The move of bytes leaves the memories as their write alone does. -/
theorem CopyOnce.copied_sameMemories (h : CopyOnce s c d) (k : Twin s t) : SameMemories (copied t c d)
    (vaWrite s c (fieldOf d.bytes 16 8) (vaRead s c (fieldOf d.bytes 8 8) (fieldOf d.bytes 24 8))) := by
  have hways := copyStart_ways t c (fieldOf d.bytes 8 8) (fieldOf d.bytes 16 8) (fieldOf d.bytes 24 8)
  have hlen := vaRead_length_le s c (fieldOf d.bytes 8 8) (fieldOf d.bytes 24 8)
  have hpage : OnePage (fieldOf d.bytes 16 8) (vaRead s c (fieldOf d.bytes 8 8) (fieldOf d.bytes 24 8)).length :=
    (Nat.add_le_add_left hlen _).trans h.target
  rw [copied, k.vaRead]
  exact sameMemories_trans (chargeMem_alike ..).twin.sameMemories (vaWrite_sameMemories hpage
    ((hways.xlate ..).trans (k.xlate ..)) (sameMemories_trans hways.memories k.sameMemories))

theorem copied_ringAt (s : State) (c n : Nat) (d : Desc) : (copied s c d).ringAt c n = s.ringAt c n := by
  rw [copied, chargeMem, updCtx_ringAt, vaWrite_ringAt, copyStart_ringAt]

/-- Such a COPY copies its bytes and finishes; then what waits on memory is evaluated (R318, R352). -/
theorem CopyOnce.copyStep (h : CopyOnce s c d) (n : Nat) :
    Machine.copyStep s c n d = wakeWaits (finishDesc (copied s c d).tick c n d.slot stDone 0) := by
  have hways := copyStart_ways s c (fieldOf d.bytes 8 8) (fieldOf d.bytes 16 8) (fieldOf d.bytes 24 8)
  have hloop := copyLoop_once (fieldOf d.bytes 24 8 / 2048 + 2) h.nonempty h.source h.target ((hways.rangeStop ..).trans h.read)
    ((hways.rangeStop ..).trans h.write)
  rw [hways.vaRead] at hloop
  unfold Machine.copyStep copied
  unfold copyStart at hloop ⊢
  simp only [overlaps_apart h.apart, h.moved, hloop, Nat.sub_zero]

end

theorem exec_copy {s : State} {c n : Nat} {d : Desc} (hnext : nextOf s c n 4 [1] = some d)
    (hquota : overQuota (s.ctxAt c) = false) :
    exec (.copy c n) s = .next (copyStep (startNext (s.updCtx c markQuota) c n d) c n d) := by
  have hexec : exec (.copy c n) s = execCopy c n s := rfl
  rw [hexec, execCopy]
  simp only [hnext, hquota, Bool.false_eq_true, if_false]

theorem copy_done {s : State} {c n : Nat} {d : Desc}
    (hslots : ∀ e, e ∈ (s.ringAt c n).inflight → e.slot ≠ d.slot) (hnext : nextOf s c n 4 [1] = some d)
    (hquota : overQuota (s.ctxAt c) = false) (honce : CopyOnce s c d) :
    ∃ u, exec (.copy c n) s = .next (wakeWaits u) ∧
      RingLeft (vaWrite s c (fieldOf d.bytes 16 8) (vaRead s c (fieldOf d.bytes 8 8) (fieldOf d.bytes 24 8))) c n u
        { startedRing (s.ringAt c n) with finished := (s.ringAt c n).finished ++ [⟨d, stDone, 0⟩] } := by
  have hmarked : (s.updCtx c markQuota).ringAt c n = s.ringAt c n := updCtx_ringAt s c c n
  have htwin : Twin s (startNext (s.updCtx c markQuota) c n d) := (Twin.updCtx c).trans (startNext_twin ..)
  obtain ⟨hconf, -⟩ := nextOf_some hnext
  have hring := (startNext_left (s := s.updCtx c markQuota) (d := d) (by rw [hmarked]; exact hconf)).ring
  rw [hmarked] at hring
  refine ⟨_, (exec_copy hnext hquota).trans (congrArg _ ((honce.twin htwin).copyStep n)), ?_⟩
  rw [← finish_started hslots]
  have hleft : RingLeft _ c n _ _ := ⟨honce.copied_sameMemories htwin, (copied_ringAt ..).trans hring⟩
  exact hleft.tick.finishDesc ..

/-- Settles O28: NOP, FENCE, WAIT, SIGNAL and COPY finish DONE, and only SIGNAL and COPY write. -/
theorem queueDescriptorsComplete : Obligations.QueueDescriptorsComplete := by
  unfold Obligations.QueueDescriptorsComplete
  intro s c n d q f fin done
  refine ⟨fun hnext => ?_, fun hnext hstakes => ?_, fun hnext hst hholders hstop htest => ?_,
    fun hslots => ⟨fun hnext hstakes hread hwrite => ?_,
      fun hnext hmoved hquota hk hsrc hdst hapart hread hwrite => ?_⟩⟩
  · have hleft := finishNext_left hnext
    have he : exec (.nop c n) s = execNop c n s := rfl
    exact ⟨_, he.trans (by simp only [execNop, hnext]), hleft.ring, hleft.memories⟩
  · have hleft := finishNext_left hnext
    have he : exec (.fenceDescriptor c n) s = execFenceDescriptor c n s := rfl
    exact ⟨_, he.trans (by simp only [execFenceDescriptor, hnext]; rw [if_pos hstakes]), hleft.ring, hleft.memories⟩
  · have hleft := finishNext_left hnext
    have hstep := waitStep_holds hnext (waitMay_true hst hholders d) hstop ((waitTest_ofNat (vaLoad_lt s c _ 8) _).2 htest)
    exact ⟨_, congrArg Host.Outcome.next hstep, hleft.ring, hleft.memories⟩
  · obtain ⟨u, he, hleft⟩ := signalDescriptor_done hslots hnext hstakes hread hwrite
    exact ⟨u, he, hleft.ring, hleft.memories⟩
  · obtain ⟨u, he, hleft⟩ := copy_done hslots hnext hquota ⟨hmoved, hk, hsrc, hdst, hapart, hread, hwrite⟩
    exact ⟨u, he, hleft.ring, hleft.memories⟩

end Sys2Proof.Laws
end

section
/-! Completion records and page requests: O29. -/

namespace Sys2Proof.Laws

open Sys2Proof.Machine Sys2Proof.Safety

/-! ### The writing of a record -/

/-- The state whose host memory holds the next record of a ring that reads `q` (R365 to R367). -/
def recorded (s : State) (c n : Nat) (q : Ring) (f : Finished) (ns : Nat) : State :=
  { s with host := memWriteN s.host (hostKey c (recordVa q)) (recordBytes c n q f ns) }

section
variable {m t : State} {c n : Nat} {q : Ring}

/-- A record depends on where the completion queue stands alone. -/
theorem recorded_congr {q' : Ring} (hbase : q'.cqBase = q.cqBase) (hcfg : q'.cqCfg = q.cqCfg) (htail : q'.cqTail = q.cqTail)
    (s : State) (c n : Nat) (f : Finished) (ns : Nat) : recorded s c n q' f ns = recorded s c n q f ns := by
  unfold recorded recordVa recordBytes cqLog
  rw [hbase, hcfg, htail]

theorem recorded_sameMemories (h : SameMemories t m) (c n : Nat) (q : Ring) (f : Finished) (ns : Nat) :
    SameMemories (recorded t c n q f ns) (recorded m c n q f ns) := by
  obtain ⟨hnear, hfar, hhost⟩ := h
  simp only [SameMemories, recorded, hnear, hfar, hhost, and_self]

/-- What the memories of `recorded` are. -/
theorem sameMemories_recorded {s : State} {f : Finished} {ns : Nat} (h : SameMemories t (recorded s c n q f ns)) :
    t.near = s.near ∧ t.far = s.far ∧
      t.host = memWriteN s.host (hostKey c (recordVa q)) (recordBytes c n q f ns) := by
  simpa only [SameMemories, recorded] using h

/-- A record that is written stands at the next place, and CQ_TAIL moves on (R366). -/
theorem RingLeft.writeRecord (h : RingLeft m c n t q) (f : Finished) (ns : Nat) :
    RingLeft (recorded m c n q f ns) c n (writeRecord t c n f ns) { q with cqTail := (q.cqTail + 1) % 2 ^ 32 } := by
  obtain ⟨hmem, hring⟩ := h
  have hleft : RingLeft (recorded m c n q f ns) c n (recorded t c n q f ns) q :=
    ⟨recorded_sameMemories hmem .., (ringAt_of_ctxs rfl c n).trans hring⟩
  have hmoved := hleft.updRing fun q => { q with cqTail := (q.cqTail + 1) % 2 ^ 32 }
  unfold Machine.writeRecord
  simp only [hring]
  split
  · exact hmoved.raiseVector _
  · exact hmoved

end

section
variable {s : State} {c n : Nat} {f : Finished} {rest : List Finished}

/-- A descriptor that asks for no record leaves its ring without one (R366). -/
theorem deliverFinished_unrecorded (hdue : (s.ringAt c n).finished = f :: rest) (hstop : (s.ringAt c n).stopping = false)
    (hwants : wantsRecord f = false) (again : Bool) :
    RingLeft s c n (deliverFinished s c n again) { s.ringAt c n with finished := rest } := by
  unfold deliverFinished
  simp only [hdue, hwants, if_true]
  exact ((RingLeft.refl s c n).updRing fun q => { q with finished := rest }).stopCheck_running hstop

/-- The record of the oldest finished descriptor is written where nothing is held before it, its queue has room and its page
is present (R366 to R369). -/
theorem deliverFinished_recorded (hdue : (s.ringAt c n).finished = f :: rest) (hstop : (s.ringAt c n).stopping = false)
    (hheld : (s.ringAt c n).held = []) (hwants : wantsRecord f = true) (hroom : cqFull (s.ringAt c n) = false)
    (hpri : recordWaits s c n = false) (hpage : recordPage s c n = .present) (again : Bool) :
    RingLeft (recorded s c n (s.ringAt c n) f (Config.timeNs s.fresh).toNat) c n
      (deliverFinished s c n again) { s.ringAt c n with finished := rest, cqTail := ((s.ringAt c n).cqTail + 1) % 2 ^ 32 } := by
  have hlen : ¬ 64 ≤ 0 := by decide
  have hstep : deliverFinished s c n again = stopCheck
      (writeRecord (s.updRing c n (fun q => { q with finished := rest })).tick c n f (Config.timeNs s.fresh).toNat) c n := by
    unfold deliverFinished
    simp only [hdue, hheld, hwants, hroom, hpri, hpage, List.length_nil, hlen, Bool.true_eq_false, Bool.false_eq_true, if_false,
      ne_eq, not_true_eq_false]
  rw [hstep, ← recorded_congr (q := s.ringAt c n) (q' := { s.ringAt c n with finished := rest }) rfl rfl rfl]
  exact (((RingLeft.refl s c n).updRing fun q => { q with finished := rest }).tick.writeRecord f
    (Config.timeNs s.fresh).toNat).stopCheck_running hstop

theorem exec_descriptorComplete (hdue : (s.ringAt c n).finished = f :: rest) :
    exec (.descriptorComplete c n f.desc.slot) s = .next (deliverFinished s c n false) := by
  have hexec : exec (.descriptorComplete c n f.desc.slot) s = execDescriptorComplete c n f.desc.slot s := rfl
  rw [hexec, execDescriptorComplete]
  simp only [hdue, if_true]

/-- RETRY_COMPLETIONS writes a record that is held alone (R371). -/
theorem ringRetry_recorded {x : HeldRec} (hheld : (s.ringAt c n).held = [x]) (hroom : cqFull (s.ringAt c n) = false)
    (hpri : recordWaits s c n = false) (hpage : recordPage s c n = .present) :
    RingLeft (recorded s c n (s.ringAt c n) x.fin x.endNs) c n
      (ringRetry s c n) { s.ringAt c n with held := [], cqTail := ((s.ringAt c n).cqTail + 1) % 2 ^ 32, full := false } := by
  have hstep : ringRetry s c n = deliverHeld 64 true
      (writeRecord (s.updRing c n (fun q => { q with held := [] })) c n x.fin x.endNs) c n := by
    rw [ringRetry, if_neg (by simp [hheld]), deliverHeld]
    simp [hheld, hroom, hpri, hpage]
  rw [hstep, ← recorded_congr (q := s.ringAt c n) (q' := { s.ringAt c n with held := [] }) rfl rfl rfl]
  exact (((RingLeft.refl s c n).updRing fun q => { q with held := [] }).writeRecord x.fin x.endNs).deliverHeld_nil rfl 63 true

end

/-! ### Page requests -/

/-- The state in which a page request is no longer in progress. -/
def priDropped (s : State) (p : PriReq) : State := { s with pris := s.pris.filter (fun x => decide (x ≠ p)) }

theorem priDropped_pris (s : State) (p : PriReq) : p ∉ (priDropped s p).pris := by
  simp [priDropped]

/-- The state in which a page of a context's host addresses is as given. -/
def pageSet (s : State) (c page : Nat) (v : HostPage) : State :=
  { s with hostPages := tabSet s.hostPages (c * 2 ^ 52 + page) v }

theorem pageSet_get (s : State) (c page : Nat) (v : HostPage) :
    tabGet .present (pageSet s c page v).hostPages (c * 2 ^ 52 + page) = v := tabGet_tabSet_same ..

section
variable {s : State} {c page : Nat} {p : PriReq}

/-- The response to the request of an access makes a page present that was absent (R400). -/
theorem priEnd_granted (hfind : findPri s c page = some p) (hring : p.ring = none) :
    priEnd s c page true = if tabGet .present s.hostPages (c * 2 ^ 52 + page) = .absent
      then pageSet (priDropped s p) c page .present else priDropped s p := by
  simp only [priEnd, hfind, hring, if_true, true_and]
  rfl

/-- A timeout of the request of an access denies its page (R403). -/
theorem priEnd_denied (hfind : findPri s c page = some p) (hring : p.ring = none) :
    priEnd s c page false = pageSet (priDropped s p) c page .denied := by
  simp only [priEnd, hfind, hring, Bool.false_eq_true, if_false, false_and]
  rfl

theorem priResponse_complete (hfind : findPri s c page = some p) (hring : p.ring = none) :
    ∃ t, exec (.priResponse c page true) s = .next t ∧ p ∉ t.pris ∧
      tabGet .present t.hostPages (c * 2 ^ 52 + page) =
        (if tabGet .present s.hostPages (c * 2 ^ 52 + page) = .denied then .denied else .present) ∧ SameMemories t s := by
  refine ⟨_, congrArg Host.Outcome.next (priEnd_granted hfind hring), ?_⟩
  cases hpage : tabGet HostPage.present s.hostPages (c * 2 ^ 52 + page) with
  | absent =>
    rw [if_pos rfl]
    exact ⟨priDropped_pris s p, pageSet_get .., rfl, rfl, rfl⟩
  | present => exact ⟨priDropped_pris s p, hpage, rfl, rfl, rfl⟩
  | denied => exact ⟨priDropped_pris s p, hpage, rfl, rfl, rfl⟩

end

/-- Settles O29: completion records, RETRY_COMPLETIONS and the answers to page requests. -/
theorem recordsAndPagesComplete : Obligations.RecordsAndPagesComplete := by
  unfold Obligations.RecordsAndPagesComplete
  intro s c n q
  refine ⟨fun f rest hdue hstop hheld => ⟨fun hwants hroom hpri hpage => ?_, fun hwants => ?_⟩,
    fun x hhost hchip hc hn hheld hroom hpri hpage => ?_,
    fun page p hfind hring => ⟨priResponse_complete hfind hring, ?_⟩⟩
  · have hleft := deliverFinished_recorded hdue hstop hheld hwants hroom hpri hpage false
    obtain ⟨hnear, hfar, hmem⟩ := sameMemories_recorded hleft.memories
    exact ⟨_, exec_descriptorComplete hdue, hnear, hfar, hmem, hleft.ring⟩
  · exact (deliverFinished_unrecorded hdue hstop hwants false).next (exec_descriptorComplete hdue)
  · have hleft := ringRetry_recorded hheld hroom hpri hpage
    obtain ⟨hnear, hfar, hmem⟩ := sameMemories_recorded hleft.memories
    exact ⟨_, exec_retryCompletions hhost hchip hc hn, hnear, hfar, hmem, hleft.ring⟩
  · exact ⟨_, congrArg Host.Outcome.next (priEnd_denied hfind hring), priDropped_pris s p, pageSet_get .., rfl, rfl, rfl⟩

end Sys2Proof.Laws
end

section
/-! Writes of BAR0 registers and of the configuration registers that stand behind BAR0: O37. -/

namespace Sys2Proof.Laws

open Sys2Proof.Machine Sys2Proof.Safety

/-! ### Which register an offset names -/

section
variable (s : State) (v : Word) {off : Nat}

theorem writeReg_frontEnd {k : Nat} (hoff : off = 0x10000 + k) (hk : k < 0x2000) : writeReg s off v = writeFrontEnd s k v := by
  rw [writeReg, if_neg (by omega), if_pos (by omega), show off - 0x10000 = k by omega]

theorem writeReg_fabric {k : Nat} (hoff : off = 0x40000 + k) (hk : k < 0x10000) : writeReg s off v = writeFabric s k v := by
  rw [writeReg, if_neg (by omega), if_neg (by omega), if_neg (by omega), if_neg (by omega), if_pos (by omega),
    show off - 0x40000 = k by omega]

theorem writeReg_ports {k : Nat} (hoff : off = 0x50000 + k) (hk : k < 0x600) : writeReg s off v = writePorts s k v := by
  rw [writeReg, if_neg (by omega), if_neg (by omega), if_neg (by omega), if_neg (by omega), if_neg (by omega),
    if_pos (by omega), show off - 0x50000 = k by omega]

theorem writeReg_ctx {c k : Nat} (hoff : off = 0x1000000 + 0x1000 * c + k) (hc : c < 4096) (hk : k < 0x1000) :
    writeReg s off v = writeCtx s c k v := by
  rw [writeReg, if_neg (by omega), if_neg (by omega), if_neg (by omega), if_neg (by omega), if_neg (by omega),
    if_neg (by omega), if_neg (by omega), if_pos (by omega), show (off - 0x1000000) / 0x1000 = c by omega,
    show off % 0x1000 = k by omega]

end

section
variable (s : State) (v : Word)

theorem writeFrontEnd_plot {p : Nat} (hp : p < 64) : writeFrontEnd s (0x1000 + 0x40 * p) v = writePlotReg s p 0 v := by
  rw [writeFrontEnd, if_neg (by omega), if_neg (by omega), if_neg (by omega), if_neg (by omega), if_neg (by omega),
    if_pos (by omega), show (0x1000 + 0x40 * p - 0x1000) / 0x40 = p by omega, show (0x1000 + 0x40 * p) % 0x40 = 0 by omega]

theorem writeFabric_group {g : Nat} (hg : g < 16) : writeFabric s (0x400 + 0x40 * g) v = writeGroupReg s g 0 v := by
  rw [writeFabric, if_neg (by omega), if_neg (by omega), if_neg (by omega), if_pos (by omega),
    show (0x400 + 0x40 * g - 0x400) / 0x40 = g by omega, show (0x400 + 0x40 * g) % 0x40 = 0 by omega]

theorem writePorts_port {p : Nat} (hp : p < 2) : writePorts s (0x40 * p) v =
    s.updPort p (fun x => { x with fec := min 2 (wbits v 17 16), lldpMs := wbits v 13 0 }) := by
  rw [writePorts, if_pos (by omega), if_pos (by omega), show 0x40 * p / 0x40 = p by omega]

theorem writePorts_service {n : Nat} (hn : n < 8) : writePorts s (0x400 + 0x40 * n) v = writeSvcReg s n 0 v := by
  rw [writePorts, if_neg (by omega), if_pos (by omega), show (0x400 + 0x40 * n - 0x400) / 0x40 = n by omega,
    show (0x400 + 0x40 * n) % 0x40 = 0 by omega]

theorem writeCtx_ring (c : Nat) {n : Nat} (hn : n < 4) : writeCtx s c (0x100 + 0x40 * n) v = writeRing s c n 0 v := by
  unfold writeCtx
  rw [if_pos (by omega), show (0x100 + 0x40 * n - 0x100) / 0x40 = n by omega,
    show (0x100 + 0x40 * n) % 0x40 = 0 by omega]

theorem writeCtx_ptRoot (c : Nat) : writeCtx s c 0x10 v = s.updCtx c (fun x => { x with ptRoot := v &&& 0x0000FFFFFFFFF003 }) :=
  if_neg (by omega)

/-! ### Registers that take a write in some states only -/

/-- RING_BASE is taken in STOPPED (R376). -/
theorem writeRing_base (c n : Nat) : RingLeft s c n (writeRing s c n 0 v) (if (s.ringAt c n).configured
    then s.ringAt c n else { s.ringAt c n with base := v &&& 0x0000FFFFFFFFF000 }) := by
  have hset : writeRing s c n 0 v = if (s.ringAt c n).configured then s
      else s.updRing c n (fun q => { q with base := v &&& 0x0000FFFFFFFFF000 }) := rfl
  rw [hset]
  split
  · exact .refl s c n
  · exact (RingLeft.refl s c n).updRing _

/-- PLOT_MASK0 is taken in FREE (R388). -/
theorem writePlotReg_mask0 (p : Nat) : SameMemories (writePlotReg s p 0 v) s ∧ (writePlotReg s p 0 v).plotAt p =
    if (s.plotAt p).st = 0 then { s.plotAt p with mask := (s.plotAt p).mask / 2 ^ 64 * 2 ^ 64 + v.toNat } else s.plotAt p := by
  have hset : writePlotReg s p 0 v = if (s.plotAt p).st = 0
      then s.setPlot p { s.plotAt p with mask := (s.plotAt p).mask / 2 ^ 64 * 2 ^ 64 + v.toNat } else s := rfl
  rw [hset]
  split
  · exact ⟨⟨rfl, rfl, rfl⟩, setPlot_plotAt_same ..⟩
  · exact ⟨sameMemories_refl s, rfl⟩

/-- GRP_CTRL is taken in IDLE (R500). -/
theorem writeGroupReg_ctrl {g : Nat} (hg : g < s.fab.groups.length) : SameMemories (writeGroupReg s g 0 v) s ∧
    (writeGroupReg s g 0 v).groupAt g =
      if (s.groupAt g).st = 0 then { s.groupAt g with ctrl := v &&& 0xFFFFFFFFFFF0FFFF } else s.groupAt g := by
  have hset : writeGroupReg s g 0 v = if (s.groupAt g).st ≠ 0 then s
      else s.updGroup g (fun x => { x with ctrl := v &&& 0xFFFFFFFFFFF0FFFF }) := rfl
  by_cases hst : (s.groupAt g).st = 0
  · rw [hset, if_neg (not_not.2 hst), if_pos hst]
    exact ⟨⟨rfl, rfl, rfl⟩, updGroup_groupAt_same s _ hg⟩
  · rw [hset, if_pos hst, if_neg hst]
    exact ⟨sameMemories_refl s, rfl⟩

theorem updSvc_svcAt_same {n : Nat} (f : Service → Service) (hn : n < s.services.length) :
    (s.updSvc n f).svcAt n = f (s.svcAt n) := listUpd_getD_same _ _ _ f hn

theorem updPort_portAt_same {p : Nat} (f : Port → Port) (hp : p < s.ports.length) :
    (s.updPort p f).portAt p = f (s.portAt p) := listUpd_getD_same _ _ _ f hp

/-- SVC_BLOCK is taken in IDLE (R433). -/
theorem writeSvcReg_block {n : Nat} (hn : n < s.services.length) : SameMemories (writeSvcReg s n 0 v) s ∧
    (writeSvcReg s n 0 v).svcAt n =
      if (s.svcAt n).st = 0 then { s.svcAt n with ctx := bitsOf v.toNat 59 48, addr := bitsOf v.toNat 47 0 }
      else s.svcAt n := by
  have hset : writeSvcReg s n 0 v = if (s.svcAt n).st = 0
      then s.updSvc n (fun x => { x with ctx := bitsOf v.toNat 59 48, addr := bitsOf v.toNat 47 0 }) else s := rfl
  rw [hset]
  split
  · exact ⟨⟨rfl, rfl, rfl⟩, updSvc_svcAt_same s _ hn⟩
  · exact ⟨sameMemories_refl s, rfl⟩

/-- FE_BAR4_NEAR_BASE is taken always (R496). -/
theorem writeFrontEnd_bar4Near : writeFrontEnd s 0x50 v = { s with bar4Near := v.toNat % 2 ^ 32 } := by
  have hset : writeFrontEnd s 0x50 v = { s with bar4Near := wbits v 31 0 } := rfl
  rw [hset, wbits, bitsOf, Nat.pow_zero, Nat.div_one]

/-- BAR4 takes a size that it can have (R490). -/
theorem configWrite_bar4 :
    configWrite s (2 ^ 26) v = { s with bar4Log2 := if 30 ≤ v.toNat ∧ v.toNat ≤ 46 then v.toNat else s.bar4Log2 } := by
  rw [configWrite, if_pos rfl]
  split <;> rfl

end

/-! ### The host's writes reach the registers of an active chip -/

section
variable {s : State} (hrec : recUp s = true)
include hrec

theorem exec_registerWrite_config {off : Nat} (size : Nat) (v : Word) (hoff : 2 ^ 26 ≤ off) :
    exec (.registerWrite off size v) s = .next (configWrite s off v) := by
  have hexec : exec (.registerWrite off size v) s = execRegisterWrite off size v s := rfl
  rw [hexec, execRegisterWrite, if_neg (by simp [hrec]), if_neg (Nat.not_lt.2 hoff)]

variable (hchip : s.power.chip = 0)
include hchip

theorem exec_registerWrite_bar {off : Nat} (size : Nat) (v : Word) (hoff : off < 2 ^ 26) :
    exec (.registerWrite off size v) s = .next (barWrite s off size v) := by
  have hexec : exec (.registerWrite off size v) s = execRegisterWrite off size v s := rfl
  rw [hexec, execRegisterWrite, if_neg (by simp [hrec]), if_pos hoff, wakeChip_of_active hchip]

variable (hmode : s.boot.mode ≠ 2)
include hmode

/-- A write that is not 8 aligned bytes is dropped and recorded (R491). -/
theorem exec_registerWrite_malformed {off size : Nat} (v : Word) (hoff : off < 2 ^ 26) (hbad : size ≠ 8 ∨ off % 8 ≠ 0) :
    exec (.registerWrite off size v) s = .next { s with badAccess := true, badOffset := off } := by
  rw [exec_registerWrite_bar hrec hchip size v hoff, barWrite, if_neg fun h => hmode h.1, if_pos hbad]

theorem exec_registerWrite_whole {off : Nat} (v : Word) (hoff : off < 2 ^ 26) (hal : off % 8 = 0) :
    exec (.registerWrite off 8 v) s = .next (writeReg s off v) := by
  rw [exec_registerWrite_bar hrec hchip 8 v hoff, barWrite, if_neg fun h => hmode h.1, if_neg (by omega)]

/-! ### The registers of the statement -/

theorem exec_write_ringBase (v : Word) {c n : Nat} (hc : c < 4096) (hn : n < 4) :
    exec (.registerWrite (0x1000100 + 0x1000 * c + 0x40 * n) 8 v) s = .next (writeRing s c n 0 v) := by
  rw [exec_registerWrite_whole hrec hchip hmode v (by omega) (by omega),
    writeReg_ctx s v (k := 0x100 + 0x40 * n) (by omega) hc (by omega), writeCtx_ring s v c hn]

theorem exec_write_ptRoot (v : Word) {c : Nat} (hc : c < 4096) : exec (.registerWrite (0x1000010 + 0x1000 * c) 8 v) s =
    .next (s.updCtx c (fun x => { x with ptRoot := v &&& 0x0000FFFFFFFFF003 })) := by
  rw [exec_registerWrite_whole hrec hchip hmode v (by omega) (by omega),
    writeReg_ctx s v (k := 0x10) (by omega) hc (by omega), writeCtx_ptRoot]

theorem exec_write_plotMask0 (v : Word) {p : Nat} (hp : p < 64) :
    exec (.registerWrite (0x11000 + 0x40 * p) 8 v) s = .next (writePlotReg s p 0 v) := by
  rw [exec_registerWrite_whole hrec hchip hmode v (by omega) (by omega),
    writeReg_frontEnd s v (k := 0x1000 + 0x40 * p) (by omega) (by omega), writeFrontEnd_plot s v hp]

theorem exec_write_bar4Near (v : Word) :
    exec (.registerWrite 0x10050 8 v) s = .next { s with bar4Near := v.toNat % 2 ^ 32 } := by
  rw [exec_registerWrite_whole hrec hchip hmode v (by omega) (by omega),
    writeReg_frontEnd s v (k := 0x50) (by omega) (by omega), writeFrontEnd_bar4Near]

theorem exec_write_grpCtrl (v : Word) {g : Nat} (hg : g < 16) :
    exec (.registerWrite (0x40400 + 0x40 * g) 8 v) s = .next (writeGroupReg s g 0 v) := by
  rw [exec_registerWrite_whole hrec hchip hmode v (by omega) (by omega),
    writeReg_fabric s v (k := 0x400 + 0x40 * g) (by omega) (by omega), writeFabric_group s v hg]

theorem exec_write_svcBlock (v : Word) {n : Nat} (hn : n < 8) :
    exec (.registerWrite (0x50400 + 0x40 * n) 8 v) s = .next (writeSvcReg s n 0 v) := by
  rw [exec_registerWrite_whole hrec hchip hmode v (by omega) (by omega),
    writeReg_ports s v (k := 0x400 + 0x40 * n) (by omega) (by omega), writePorts_service s v hn]

theorem exec_write_port (v : Word) {p : Nat} (hp : p < 2) : exec (.registerWrite (0x50000 + 0x40 * p) 8 v) s =
    .next (s.updPort p (fun x => { x with fec := min 2 (bitsOf v.toNat 17 16), lldpMs := bitsOf v.toNat 13 0 })) := by
  rw [exec_registerWrite_whole hrec hchip hmode v (by omega) (by omega),
    writeReg_ports s v (k := 0x40 * p) (by omega) (by omega), writePorts_port s v hp]
  rfl

end

/-- Settles O37: which writes of BAR0 registers are taken. -/
theorem registerWritesComplete : Obligations.RegisterWritesComplete := by
  unfold Obligations.RegisterWritesComplete
  intro s v hrec hchip hmode
  refine ⟨fun off size hoff hbad => ⟨_, exec_registerWrite_malformed hrec hchip hmode v hoff hbad, rfl⟩,
    fun c n hc hn => (writeRing_base s v c n).next (exec_write_ringBase hrec hchip hmode v hc hn),
    fun c hc => ⟨_, exec_write_ptRoot hrec hchip hmode v hc, ⟨rfl, rfl, rfl⟩, updCtx_ctxAt_same ..⟩,
    fun p hp => ⟨_, exec_write_plotMask0 hrec hchip hmode v hp, writePlotReg_mask0 s v p⟩,
    fun g hg hlt => ⟨_, exec_write_grpCtrl hrec hchip hmode v hlt, writeGroupReg_ctrl s v hg⟩,
    fun n hn hlt => ⟨_, exec_write_svcBlock hrec hchip hmode v hlt, writeSvcReg_block s v hn⟩,
    ⟨_, exec_write_bar4Near hrec hchip hmode v, rfl⟩,
    fun p hp => ⟨_, exec_write_port hrec hchip hmode v hp, ⟨rfl, rfl, rfl⟩, updPort_portAt_same s _⟩,
    ⟨_, exec_registerWrite_config hrec 8 v (le_refl _), configWrite_bar4 s v⟩⟩

end Sys2Proof.Laws
end
